-- ==== Sys2Proof/Word.lean ====
section
/-!
DEFINITION. The word types of the Zherum architecture and the keyed tables that hold sparse data.
A register holds 64 bits (R28), a virtual address 56 bits (R25), an accumulator element 96 bits (R85).
-/

namespace Sys2Proof

/-- A scalar register's contents (R28). -/
abbrev Word := BitVec 64

/-- The smallest addressable unit. -/
abbrev Byte := BitVec 8

/-- A virtual address (R25, R108). -/
abbrev Addr := BitVec 56

/-- An accumulator element (R85). -/
abbrev Acc := BitVec 96

/-- Sparse data by key: the keys rise strictly, and an absent key reads as a default. -/
abbrev Tbl (α : Type) := List (Nat × α)

/-- What a table holds at a key, if it lists the key. -/
def Tbl.find? {α : Type} : Tbl α → Nat → Option α
  | [], _ => none
  | (k, v) :: t, i => if k = i then some v else Tbl.find? t i

/-- What a table holds at a key, an unlisted key reading as `dflt`. -/
def Tbl.get {α : Type} (dflt : α) (t : Tbl α) (i : Nat) : α := (Tbl.find? t i).getD dflt

/-- The table with `v` at key `i`, in rising key order. -/
def Tbl.put {α : Type} : Tbl α → Nat → α → Tbl α
  | [], i, v => [(i, v)]
  | (k, w) :: t, i, v =>
    if i < k then (i, v) :: (k, w) :: t
    else if i = k then (i, v) :: t
    else (k, w) :: Tbl.put t i v

/-- The table without key `i`. -/
def Tbl.del {α : Type} : Tbl α → Nat → Tbl α
  | [], _ => []
  | (k, w) :: t, i => if i = k then t else (k, w) :: Tbl.del t i

/-- Change what key `i` holds, an unlisted key starting from `dflt`. -/
def Tbl.upd {α : Type} (dflt : α) (t : Tbl α) (i : Nat) (f : α → α) : Tbl α :=
  Tbl.put t i (f (Tbl.get dflt t i))

/-- The keys rise strictly, each above `lo`. -/
def Tbl.risesFrom {α : Type} : Nat → Tbl α → Bool
  | _, [] => true
  | lo, (k, _) :: t => decide (lo ≤ k) && Tbl.risesFrom (k + 1) t

/-- The table's form: strictly rising keys. -/
def Tbl.rises {α : Type} (t : Tbl α) : Bool := Tbl.risesFrom 0 t

end Sys2Proof
end

