-- ==== Sys2Proof/Syntax.lean ====
section
/-!
DEFINITION. The instruction set and the part's events: one constructor of `Instr` per row of the opcode table.
The 189 encoded words of R39-R70 and the table's steps that have no
encoding (events of the engines, the fabric, the rims, the hosts and the management controller), each carrying
the keys of the unit it happens at. The events that the machine itself makes fall due stand right after the encoded words.
-/

namespace Sys2Proof

/-- A scalar register number. -/
abbrev Reg := BitVec 5

/-- A shape slot number k0-k15. -/
abbrev Slot := BitVec 4

/-- A tile number a0-a3. -/
abbrev Tile := BitVec 2

/-- A weight slot number w0-w3. -/
abbrev WSlot := BitVec 2

/-- The element types, in the order of their codes (R34). -/
inductive DType where
  | i8 | i16 | i32 | i64 | n8 | n16 | n32 | n64 | i4 | f32 | f16 | bf16 | e4m3 | e5m2 | cb4 | acc96
deriving DecidableEq, Repr

/-- The rounding codes (R35). -/
inductive Rnd where
  | rne | rz | ru | rd | rs
deriving DecidableEq, Repr

/-- The scopes, from narrowest to widest (R37). -/
inductive Scope where
  | cx | co | d | p | m | s
deriving DecidableEq, Repr

/-- The ordering field of the atomics (R38). -/
inductive Ord where
  | none | acq | rel | ar
deriving DecidableEq, Repr

/-- The access sizes of LD and LDP (R47). -/
inductive LdSize where
  | i8 | i16 | i32 | x64 | n8 | n16 | n32
deriving DecidableEq, Repr

/-- The access sizes of ST (R47). -/
inductive StSize where
  | b8 | b16 | b32 | b64
deriving DecidableEq, Repr

/-- The atomic operations (R50). -/
inductive AOp where
  | swap | add | and | or | xor | min | max | minu | maxu | fadd
deriving DecidableEq, Repr

/-- The widths of an atomic (R50). -/
inductive ASize where
  | w32 | w64
deriving DecidableEq, Repr

/-- The branch hint of a SCHED HINT (R68). -/
inductive BrHint where
  | none | taken | notTaken
deriving DecidableEq, Repr

/-- The two data planes of the fabric (R15). -/
inductive Plane where
  | request | reply
deriving DecidableEq, Repr

/-- Who asks for a register or memory access from outside: a host port or the management controller. -/
inductive Requester where
  | sclA | sclB | mgc
deriving DecidableEq, Repr

/-- The two causes of a fetch fault (R166). -/
inductive FetchCause where
  | xlate | prot
deriving DecidableEq, Repr

/-- What a firmware image is for (R567). -/
inductive ImageKind where
  | mgc | supervisor | scanPatterns | bringUpTests
deriving DecidableEq, Repr

/-- A firmware image offered for loading: its kind, version, digest and signature (R567). -/
structure FirmwareImage where
  kind : ImageKind
  version : BitVec 32
  digest : BitVec 512
  signature : List Byte
deriving DecidableEq, Repr

/-- The instruction set and the events of the part, one constructor per row of the opcode table. -/
inductive Instr where
  /-- R149: Writes x[a] + x[b], modulo 2^64, to x[d]. -/
  | add (d a b : Reg)
  /-- R149: Writes x[a] − x[b], modulo 2^64, to x[d]. -/
  | sub (d a b : Reg)
  /-- R149: Writes the bitwise and of x[a] and x[b] to x[d]. -/
  | and (d a b : Reg)
  /-- R149: Writes the bitwise or of x[a] and x[b] to x[d]. -/
  | or (d a b : Reg)
  /-- R149: Writes the bitwise xor of x[a] and x[b] to x[d]. -/
  | xor (d a b : Reg)
  /-- R149: Writes x[a] and not x[b] to x[d]. -/
  | andn (d a b : Reg)
  /-- R149: Shifts x[a] left by x[b][5:0]. -/
  | sll (d a b : Reg)
  /-- R149: Shifts x[a] right by x[b][5:0], shifting in zeros. -/
  | srl (d a b : Reg)
  /-- R149: Shifts x[a] right by x[b][5:0], shifting in copies of bit 63. -/
  | sra (d a b : Reg)
  /-- R149: Rotates x[a] right by x[b][5:0]. -/
  | ror (d a b : Reg)
  /-- R149: Writes 1 when x[a] < x[b] signed, else 0. -/
  | slt (d a b : Reg)
  /-- R149: Writes 1 when x[a] < x[b] unsigned, else 0. -/
  | sltu (d a b : Reg)
  /-- R149: Writes the signed smaller of x[a] and x[b]. -/
  | min (d a b : Reg)
  /-- R149: Writes the signed larger of x[a] and x[b]. -/
  | max (d a b : Reg)
  /-- R149: Writes the unsigned smaller of x[a] and x[b]. -/
  | minu (d a b : Reg)
  /-- R149: Writes the unsigned larger of x[a] and x[b]. -/
  | maxu (d a b : Reg)
  /-- R149: Writes bits [63:0] of x[a]·x[b]. -/
  | mul (d a b : Reg)
  /-- R149: Writes bits [127:64] of the signed product. -/
  | mulh (d a b : Reg)
  /-- R149: Writes bits [127:64] of the unsigned product. -/
  | mulhu (d a b : Reg)
  /-- R151: Writes the signed 128-bit product to the pair x[d], x[d+1]. -/
  | mulx (d a b : Reg)
  /-- R151: Writes the unsigned 128-bit product to the pair x[d], x[d+1]. -/
  | mulxu (d a b : Reg)
  /-- R150: Writes the Euclidean quotient of signed x[a] by x[b]. -/
  | div (d a b : Reg)
  /-- R150: Writes the unsigned quotient of x[a] by x[b]. -/
  | divu (d a b : Reg)
  /-- R150: Writes the Euclidean remainder of signed x[a] by x[b]. -/
  | rem (d a b : Reg)
  /-- R150: Writes the unsigned remainder of x[a] by x[b]. -/
  | remu (d a b : Reg)
  /-- R149: Writes the sign-extended 32-bit sum of the low words. -/
  | addw (d a b : Reg)
  /-- R149: Writes the sign-extended 32-bit difference of the low words. -/
  | subw (d a b : Reg)
  /-- R149: Writes the sign-extended 32-bit product of the low words. -/
  | mulw (d a b : Reg)
  /-- R149: Writes the count of leading zero bits of x[a]. -/
  | clz (d a : Reg)
  /-- R149: Writes the count of trailing zero bits of x[a]. -/
  | ctz (d a : Reg)
  /-- R149: Writes the count of one bits of x[a]. -/
  | popc (d a : Reg)
  /-- R149: Sign-extends x[a][7:0]. -/
  | sextb (d a : Reg)
  /-- R149: Sign-extends x[a][15:0]. -/
  | sexth (d a : Reg)
  /-- R149: Sign-extends x[a][31:0]. -/
  | sextw (d a : Reg)
  /-- R149: Zero-extends x[a][31:0]. -/
  | zextw (d a : Reg)
  /-- R152: Extracts a sign-extended bitfield of x[a] positioned by x[b]. -/
  | bext (d a b : Reg)
  /-- R152: Extracts a zero-extended bitfield of x[a] positioned by x[b]. -/
  | bextu (d a b : Reg)
  /-- R152: Inserts the low bits of x[a] into a field of x[d] positioned by x[b]. -/
  | bins (d a b : Reg)
  /-- R150: Writes the signed quotient truncated toward zero. -/
  | divt (d a b : Reg)
  /-- R150: Writes the remainder of truncating signed division. -/
  | remt (d a b : Reg)
  /-- R153: Writes x[a] plus the sign-extended immediate. -/
  | addi (d a : Reg) (imm : BitVec 16)
  /-- R153: Writes x[a] and the immediate. -/
  | andi (d a : Reg) (imm : BitVec 16)
  /-- R153: Writes x[a] or the immediate. -/
  | ori (d a : Reg) (imm : BitVec 16)
  /-- R153: Writes x[a] xor the immediate. -/
  | xori (d a : Reg) (imm : BitVec 16)
  /-- R153: Writes 1 when x[a] is below the immediate, signed. -/
  | slti (d a : Reg) (imm : BitVec 16)
  /-- R153: Writes the immediate shifted left by 16. -/
  | lui (d : Reg) (imm : BitVec 16)
  /-- R154: Shifts x[a] left by pos. -/
  | slli (d a : Reg) (pos : BitVec 6)
  /-- R154: Shifts x[a] right logically by pos. -/
  | srli (d a : Reg) (pos : BitVec 6)
  /-- R154: Shifts x[a] right arithmetically by pos. -/
  | srai (d a : Reg) (pos : BitVec 6)
  /-- R154: Rotates x[a] right by pos. -/
  | rori (d a : Reg) (pos : BitVec 6)
  /-- R154: Extracts a sign-extended bitfield at pos and len from the word. -/
  | bexti (d a : Reg) (pos len : BitVec 6)
  /-- R154: Extracts a zero-extended bitfield at pos and len from the word. -/
  | bextui (d a : Reg) (pos len : BitVec 6)
  /-- R154: Inserts a bitfield of x[a] into x[d] at pos and len from the word. -/
  | binsi (d a : Reg) (pos len : BitVec 6)
  /-- R156: Adds two FP32 values with one rounding. -/
  | fadd (d a b : Reg) (rnd : Rnd) (ftz : Bool)
  /-- R156: Subtracts two FP32 values with one rounding. -/
  | fsub (d a b : Reg) (rnd : Rnd) (ftz : Bool)
  /-- R156: Multiplies two FP32 values with one rounding. -/
  | fmul (d a b : Reg) (rnd : Rnd) (ftz : Bool)
  /-- R156: Divides two FP32 values with one rounding. -/
  | fdiv (d a b : Reg) (rnd : Rnd) (ftz : Bool)
  /-- R156: Takes the FP32 square root of x[a]. -/
  | fsqrt (d a : Reg) (rnd : Rnd) (ftz : Bool)
  /-- R156: Computes x[a]·x[b] + x[d] in FP32 with one rounding. -/
  | fma (d a b : Reg) (rnd : Rnd) (ftz : Bool)
  /-- R156: Computes x[a]·x[b] − x[d] in FP32 with one rounding. -/
  | fms (d a b : Reg) (rnd : Rnd) (ftz : Bool)
  /-- R157: Delivers the smaller FP32 operand. -/
  | fmin (d a b : Reg) (ftz : Bool)
  /-- R157: Delivers the larger FP32 operand. -/
  | fmax (d a b : Reg) (ftz : Bool)
  /-- R159: Delivers x[a] with sign 0. -/
  | fabs (d a : Reg)
  /-- R159: Delivers x[a] with its sign inverted. -/
  | fneg (d a : Reg)
  /-- R159: Delivers x[a] with the sign of x[b]. -/
  | fsgnj (d a b : Reg)
  /-- R158: Writes 1 when the FP32 operands are equal. -/
  | feq (d a b : Reg) (ftz : Bool)
  /-- R158: Writes 1 when x[a] < x[b] in FP32. -/
  | flt (d a b : Reg) (ftz : Bool)
  /-- R158: Writes 1 when x[a] ≤ x[b] in FP32. -/
  | fle (d a b : Reg) (ftz : Bool)
  /-- R160: Writes a classification word of the FP32 operand. -/
  | fclass (d a : Reg)
  /-- R162: Converts between f32 and another scalar type. -/
  | fcvt (d a : Reg) (dt st : DType) (rnd : Rnd) (sat ftz : Bool)
  /-- R163: Branches when x[a] equals x[b]. -/
  | beq (a b : Reg) (off : BitVec 16)
  /-- R163: Branches when x[a] differs from x[b]. -/
  | bne (a b : Reg) (off : BitVec 16)
  /-- R163: Branches when x[a] < x[b] signed. -/
  | blt (a b : Reg) (off : BitVec 16)
  /-- R163: Branches when x[a] ≥ x[b] signed. -/
  | bge (a b : Reg) (off : BitVec 16)
  /-- R163: Branches when x[a] < x[b] unsigned. -/
  | bltu (a b : Reg) (off : BitVec 16)
  /-- R163: Branches when x[a] ≥ x[b] unsigned. -/
  | bgeu (a b : Reg) (off : BitVec 16)
  /-- R164: Writes pc + 4 to x[d] and jumps by a word offset. -/
  | jal (d : Reg) (off : BitVec 21)
  /-- R165: Writes pc + 4 to x[d] and jumps to x[a] plus the immediate. -/
  | jalr (d a : Reg) (imm : BitVec 16)
  /-- R187: Loads and extends size bytes at x[a] + imm. -/
  | ld (d a : Reg) (sz : LdSize) (imm : BitVec 13)
  /-- R188: Stores the low size bytes of x[d] at x[a] + imm. -/
  | st (d a : Reg) (sz : StSize) (imm : BitVec 13)
  /-- R189: Loads from a parameter window at a displacement in access units. -/
  | ldp (d a : Reg) (sz : LdSize) (pw : BitVec 3) (disp : BitVec 10)
  /-- R194: Copies bytes from a remote source to local scratchpad with a tagged reply. -/
  | geta (tag : BitVec 5) (a b : Reg) (len : BitVec 5)
  /-- R195: Sends local bytes to a remote destination with a tagged reply. -/
  | puta (tag : BitVec 5) (a b : Reg) (len : BitVec 5)
  /-- R197: Applies deliveries and takes the oldest reply of a tag. -/
  | recv (d : Reg) (tag : BitVec 5)
  /-- R198: Binds a reply tag to a handler task record. -/
  | tbind (tag : BitVec 5) (a : Reg)
  /-- R200: Performs an indivisible read-modify-write at the address's home and returns the old value. -/
  | amo (d a b : Reg) (aop : AOp) (sz : ASize) (ord : Ord) (scope : Scope)
  /-- R200: Compares memory with x[d] and stores x[b] when equal, returning the old value. -/
  | cas (d a b : Reg) (sz : ASize) (ord : Ord) (scope : Scope)
  /-- R201: Performs an atomic update without a result, or a deterministic FP32 reduction. -/
  | red (a b : Reg) (aop : AOp) (sz : ASize) (ord : Ord) (scope : Scope)
  /-- R204: Acquires the synchronisation object at x[a]. -/
  | acq (a : Reg) (scope : Scope)
  /-- R204: Releases the synchronisation object at x[a] and adds 1 to it. -/
  | rel (a : Reg) (scope : Scope)
  /-- R206: Orders the context's earlier accesses at a scope before later ones. -/
  | fence (scope : Scope)
  /-- R207: Holds the context until outstanding counters fall to the given counts. -/
  | wait (ld st cp tl : BitVec 4)
  /-- R181: Declares or undeclares a buffer table entry. -/
  | bdecl (a b : Reg) (buf : BitVec 6)
  /-- R181: Moves a buffer from empty to filling, owned by the issuer. -/
  | bfill (buf : BitVec 6)
  /-- R181: Moves a buffer from filling to full once the owner's writes are written. -/
  | bfull (buf : BitVec 6)
  /-- R181: Moves a buffer from full to draining. -/
  | bdrain (buf : BitVec 6)
  /-- R181: Moves a buffer from draining to empty once engine reads finish. -/
  | bempty (buf : BitVec 6)
  /-- R176: Writes a buffer's state word to x[d]. -/
  | bstat (d : Reg) (buf : BitVec 6)
  /-- R236: Turns an idle continuation record into a live task. -/
  | spawn (d a b : Reg)
  /-- R240: Ends the running task and folds its status. -/
  | exit (a : Reg)
  /-- R237: Decrements a record's dependence counter, readying it at zero. -/
  | decr (a : Reg)
  /-- R238: Adds to a record's dependence counter. -/
  | depadd (a b : Reg)
  /-- R242: Writes the running task's record address to x[d]. -/
  | tself (d : Reg)
  /-- R433: Contributes x[a] to a collective group round. -/
  | ctb (a : Reg) (grp : BitVec 6) (acq rel : Bool)
  /-- R434: Reads the next word of a group's round result, narrowed. -/
  | crd (d : Reg) (grp : BitVec 6) (rnd : Rnd)
  /-- R435: Adds x[a] to the predecessor's partial sum of a chain group. -/
  | chain (d a : Reg) (grp : BitVec 6)
  /-- R436: Writes the status of a group's round. -/
  | gstat (d : Reg) (grp : BitVec 6)
  /-- R437: Configures a collective group from a record. -/
  | ccfg (a : Reg) (grp : BitVec 6)
  /-- R376: Starts a pattern copy on a channel and returns its transfer id. -/
  | copy (d a b : Reg) (ch : BitVec 3) (wm acq rel : Bool) (scope : Scope)
  /-- R377: Holds the context until a transfer id has passed in a channel. -/
  | cwait (a : Reg) (ch : BitVec 3)
  /-- R378: Returns a channel's done register. -/
  | cdone (d : Reg) (ch : BitVec 3)
  /-- R378: Returns a channel's watermark. -/
  | cwm (d : Reg) (ch : BitVec 3)
  /-- R378: Returns a channel's next transfer id. -/
  | cnext (d : Reg) (ch : BitVec 3)
  /-- R378: Returns a channel's status word. -/
  | chstat (d : Reg) (ch : BitVec 3)
  /-- R379: Aborts the channel's transfers and streams of the issuing vintage. -/
  | cabort (ch : BitVec 3)
  /-- R382: Binds a register to a read stream. -/
  | strm (d a : Reg) (ch : BitVec 3)
  /-- R382: Binds a register to a write stream. -/
  | strmw (d a : Reg) (ch : BitVec 3)
  /-- R385: Ends a register's stream mode. -/
  | strmend (d : Reg) (ch : BitVec 3)
  /-- R381: Gathers indexed table rows into a linear destination. -/
  | gather (d a b : Reg) (ch : BitVec 3) (oobf acq rel : Bool) (scope : Scope)
  /-- R381: Scatters a linear source into indexed table rows. -/
  | scatter (d a b : Reg) (ch : BitVec 3) (oobf acq rel : Bool) (scope : Scope)
  /-- R295: Adds shape operands element-wise. -/
  | vadd (dk ak bk : Slot) (ty : DType) (rnd : Rnd) (sat : Bool)
  /-- R295: Subtracts shape operands element-wise. -/
  | vsub (dk ak bk : Slot) (ty : DType) (rnd : Rnd) (sat : Bool)
  /-- R295: Multiplies shape operands element-wise. -/
  | vmul (dk ak bk : Slot) (ty : DType) (rnd : Rnd) (sat : Bool)
  /-- R295: Computes a·b + c element-wise with one rounding. -/
  | vfma (dk ak bk : Slot) (ty : DType) (rnd : Rnd) (sat : Bool)
  /-- R295: Computes a·b − c element-wise with one rounding. -/
  | vfms (dk ak bk : Slot) (ty : DType) (rnd : Rnd) (sat : Bool)
  /-- R295: Takes the element-wise minimum. -/
  | vmin (dk ak bk : Slot) (ty : DType)
  /-- R295: Takes the element-wise maximum. -/
  | vmax (dk ak bk : Slot) (ty : DType)
  /-- R295: Takes the element-wise absolute value. -/
  | vabs (dk ak : Slot) (ty : DType)
  /-- R295: Negates element-wise. -/
  | vneg (dk ak : Slot) (ty : DType)
  /-- R295: Takes the element-wise bitwise and. -/
  | vand (dk ak bk : Slot) (ty : DType)
  /-- R295: Takes the element-wise bitwise or. -/
  | vor (dk ak bk : Slot) (ty : DType)
  /-- R295: Takes the element-wise bitwise xor. -/
  | vxor (dk ak bk : Slot) (ty : DType)
  /-- R296: Shifts integer elements left, as a·2^n. -/
  | vshl (dk ak bk : Slot) (ty : DType) (sat : Bool)
  /-- R296: Shifts element patterns right, shifting in zeros. -/
  | vshr (dk ak bk : Slot) (ty : DType)
  /-- R296: Shifts element patterns right arithmetically. -/
  | vsra (dk ak bk : Slot) (ty : DType)
  /-- R297: Multiplies complex elements. -/
  | vcmul (dk ak bk : Slot) (ty : DType) (rnd : Rnd) (sat : Bool)
  /-- R297: Multiplies complex elements and adds the destination. -/
  | vcmac (dk ak bk : Slot) (ty : DType) (rnd : Rnd) (sat : Bool)
  /-- R295: Conjugates complex elements. -/
  | vconj (dk ak : Slot) (ty : DType)
  /-- R295: Copies element bits unchanged. -/
  | vmov (dk ak : Slot) (ty : DType)
  /-- R300: Computes 2^x element-wise by the fixed algorithm. -/
  | vexp2 (dk ak : Slot) (ty : DType) (rnd : Rnd) (sat : Bool)
  /-- R301: Computes log2 x element-wise by the fixed algorithm. -/
  | vlog2 (dk ak : Slot) (ty : DType) (rnd : Rnd) (sat : Bool)
  /-- R302: Computes 1/x element-wise by the fixed algorithm. -/
  | vrcp (dk ak : Slot) (ty : DType) (rnd : Rnd) (sat : Bool)
  /-- R303: Computes 1/sqrt(x) element-wise by the fixed algorithm. -/
  | vrsqrt (dk ak : Slot) (ty : DType) (rnd : Rnd) (sat : Bool)
  /-- R304: Converts elements to the type T. -/
  | vcvt (dk ak : Slot) (ty : DType) (rnd : Rnd) (sat : Bool)
  /-- R306: Sums along dimension 0 in a fixed order. -/
  | vrsum (dk ak : Slot) (ty : DType) (rnd : Rnd) (sat : Bool)
  /-- R305: Takes the maximum along dimension 0. -/
  | vrmax (dk ak : Slot) (ty : DType)
  /-- R305: Takes the minimum along dimension 0. -/
  | vrmin (dk ak : Slot) (ty : DType)
  /-- R305: Writes an all-ones mask where elements are equal. -/
  | vceq (dk ak bk : Slot) (ty : DType)
  /-- R305: Writes an all-ones mask where a < b. -/
  | vclt (dk ak bk : Slot) (ty : DType)
  /-- R305: Writes an all-ones mask where a ≤ b. -/
  | vcle (dk ak bk : Slot) (ty : DType)
  /-- R305: Selects a or b by the old destination mask. -/
  | vsel (dk ak bk : Slot) (ty : DType)
  /-- R305: Permutes elements of a along dimension 0 by the indices of b. -/
  | vperm (dk ak bk : Slot) (ty : DType)
  /-- R305: Broadcasts the first element of a. -/
  | vbcast (dk ak : Slot) (ty : DType)
  /-- R305: Interleaves the elements of a and b. -/
  | vzip (dk ak bk : Slot) (ty : DType)
  /-- R305: Takes every second element of a followed by b. -/
  | vunzip (dk ak bk : Slot) (ty : DType)
  /-- R305: Reverses the elements along dimension 0. -/
  | vrev (dk ak : Slot) (ty : DType)
  /-- R292: Repeats the last n queued vector instructions x[a] times. -/
  | vloop (a : Reg) (n : BitVec 5)
  /-- R277: Loads a shape slot from a 64-byte record. -/
  | shld (k : Slot) (a : Reg)
  /-- R273: Binds a shape slot to an object-table entry. -/
  | shobj (k : Slot) (a : Reg)
  /-- R278: Stores a shape slot's record to memory. -/
  | shst (k : Slot) (a : Reg)
  /-- R276: Writes one field of a shape slot. -/
  | shset (k : Slot) (a : Reg) (field : BitVec 8)
  /-- R276: Reads one field of a shape slot. -/
  | shget (k : Slot) (b : Reg) (field : BitVec 8)
  /-- R327: Accumulates A times a weight slot into a tile. -/
  | mma (acc : Tile) (ak : Slot) (w : WSlot) (ty : DType) (acq rel : Bool) (scope : Scope) (clr : Bool)
  /-- R320: Accumulates a complex matrix product into a tile. -/
  | mmcx (acc : Tile) (ak : Slot) (w : WSlot) (ty : DType) (acq rel : Bool) (scope : Scope) (clr : Bool)
  /-- R328: Accumulates a convolution with an implicit A into a tile. -/
  | mconv (acc : Tile) (ak : Slot) (w : WSlot) (ty : DType) (kk : Slot) (acq rel : Bool) (scope : Scope) (clr : Bool)
  /-- R329: Loads a weight image into a weight slot. -/
  | mwld (w : WSlot) (a : Reg) (ty : DType)
  /-- R330: Clears a tile to +0. -/
  | maclr (acc : Tile)
  /-- R333: Narrows a tile into a destination shape. -/
  | macrd (acc : Tile) (ks : Slot) (ty : DType) (rnd : Rnd) (sat : Bool)
  /-- R331: Writes a tile from a source shape. -/
  | macwr (acc : Tile) (ks : Slot) (ty : DType)
  /-- R334: Applies scale, bias and activation and writes a tile out. -/
  | mepi (acc : Tile) (ks : Slot) (a : Reg) (ty : DType) (rnd : Rnd) (sat : Bool)
  /-- R309: Acquires an accumulator tile for the context. -/
  | macq (acc : Tile)
  /-- R309: Releases an accumulator tile. -/
  | mrel (acc : Tile)
  /-- R248: Reads a system register. -/
  | sysrd (num : BitVec 8) (d : Reg)
  /-- R249: Writes a system register. -/
  | syswr (num : BitVec 8) (a : Reg)
  /-- R250: Enters the trap handler with cause TRAP. -/
  | trap (imm : BitVec 16)
  /-- R466: Returns the cask bytes in use by the vintage. -/
  | caskuse (d : Reg)
  /-- R502: Returns the core's scan pass number. -/
  | scanno (d : Reg)
  /-- R467: Returns 1 when the core holds provisional results. -/
  | provq (d : Reg)
  /-- R469: Returns the commit state of a vintage. -/
  | cmtq (d a : Reg)
  /-- R470: Ends the launch with the status in x[a]. -/
  | abort (a : Reg)
  /-- R68: Lends wide immediate bits to the next instruction of the word group. -/
  | hintImm (payload : BitVec 24)
  /-- R68: Lends branch and non-temporal hints to the next instruction. -/
  | hintSched (nt : Bool) (br : BrHint)
  /-- R69: Lends ftz or a spawn priority to the next instruction. -/
  | hintMod (pv : Bool) (prio : BitVec 7) (ftz : Bool)
  /-- R143: A pending scalar or local-port result is written, its scoreboard bit clears and its sticky bits are ORed at the fixed cycle after issue. -/
  | scalarResultReady (site ctx : Nat)
  /-- R166: A fetch of a word with no mapping or no execute right traps XLATE or PROT at that word, or ends the domain when the fetch is at sys.tvec. -/
  | instructionFetchFault (cause : FetchCause)
  /-- R122: A write-queue entry drains to its home. -/
  | writeQueueDrain (site ctx : Nat)
  /-- R181: The lead launch engine checks and records a buffer range reported by BDECL. -/
  | bdeclReport (site ctx : Nat)
  /-- R395: A router allocates an output to a flit in its input register. -/
  | flitRouting (plane : Plane) (site : Nat)
  /-- R400: An endpoint accepts, holds or drops an arriving flit by its sequence window. -/
  | flitArrival (plane : Plane) (part ep : Nat)
  /-- R443: A home applies a load request and replies with data. -/
  | loadRequest (part ep : Nat)
  /-- R441: A home applies a store request, entering the cask or delivering it. -/
  | storeRequest (part ep : Nat)
  /-- R132: A home performs an atomic, ACQ or REL request. -/
  | atomicRequest (part ep : Nat)
  /-- R356: A source home reads a copy request's bytes and sends the landing. -/
  | copyReadRequest (part ep : Nat)
  /-- R365: The owner takes or refuses the open of a remote copy destination. -/
  | remoteOpen (part ep : Nat)
  /-- R194: A home serves a GETA or PUTA request. -/
  | activeMessage (part ep : Nat)
  /-- R220: A carriage is offered to the core of a router it enters and accepted or moved on. -/
  | carriage (plane : Plane) (site : Nat)
  /-- R211: A record home performs a SPAWN, DECR, DEPADD, placement write or write-back. -/
  | recordOperation (part ep : Nat)
  /-- R373: A band supervisor walks the tables for a copy's translation fault. -/
  | faultMessage (part ep : Nat)
  /-- R373: A frozen transfer continues from its faulting request. -/
  | resumePacket (part ep : Nat)
  /-- R373: A frozen transfer is aborted. -/
  | abortPacket (part ep : Nat)
  /-- R481: A cellar host writes a kind-9 flit of lines or log into the cellar. -/
  | cellarTraffic (part ep : Nat)
  /-- R398: A data reply writes its register or reply queue. -/
  | dataReply (part ep : Nat)
  /-- R398: An acknowledgement or refusal completes the access it answers. -/
  | acknowledgement (part ep : Nat)
  /-- R363: A landing packet is written at the destination port. -/
  | landing (part ep : Nat)
  /-- R363: The issuing channel takes a landing acknowledgement and advances its watermark. -/
  | landingAck (part ep : Nat)
  /-- R571: An endpoint passes over a void flit's sequence number. -/
  | voidFlit (plane : Plane) (part ep : Nat)
  /-- R362: The copy engine sends the next request of a transfer within its landing window. -/
  | copyRequest (site ch : Nat)
  /-- R358: A transfer completes, adding its flag and advancing done. -/
  | transferComplete (site ch : Nat)
  /-- R384: A read stream refills its landing queue. -/
  | streamRefill (site ch : Nat)
  /-- R374: A destination port ends its comparisons for an aborted transfer. -/
  | closePacket (part ep : Nat)
  /-- R403: The rim appends a parked flit to its siding list. -/
  | sidingAppend (plane : Plane) (site : Nat)
  /-- R223: A carriage enters its district ready pool or the siding. -/
  | poolEntry (part dist : Nat)
  /-- R224: A district pool answers or records a core's pull. -/
  | poolPull (site : Nat)
  /-- R224: An unaccepted pool entry returns to its former place. -/
  | entryReturn (part dist : Nat)
  /-- R241: A district pool answers a YIELD query. -/
  | yieldQuery (site ctx : Nat)
  /-- R214: A context, its counters at zero, ends streams, releases tiles and writes back its task. -/
  | suspensionPoint (site ctx : Nat)
  /-- R258: A held image is restored into an idle context. -/
  | imageRestore (site slot : Nat)
  /-- R260: A chosen context writes its image and accepts the waiting entry. -/
  | preemption (site ctx : Nat)
  /-- R291: A vector instruction writes its last result and frees its entry. -/
  | vectorFinish (site : Nat)
  /-- R311: A queued tile command starts on its unit. -/
  | tileCommandStart (site k : Nat)
  /-- R338: A tile command finishes and leaves tl. -/
  | tileCommandFinish (site k : Nat)
  /-- R336: An epilogue write is acknowledged or refused, stopping the command on refusal. -/
  | tileWriteAck (site tile : Nat)
  /-- R418: A router takes a contribution or partial for a group round. -/
  | contribution (site grp : Nat)
  /-- R419: A router or port takes a round result and opens the next round. -/
  | result (site grp : Nat)
  /-- R425: A chain partial reaches the successor's port. -/
  | chainPartial (site grp : Nat)
  /-- R234: A done wave reaches a core, which answers its made, ended and status. -/
  | doneWave (site v : Nat)
  /-- R234: Done answers are summed up the completion tree and judged at the root. -/
  | doneAnswer (site v : Nat)
  /-- R452: A core answers a gating wave and asks for a closing scan. -/
  | gatingWave (site v : Nat)
  /-- R452: Gating answers are summed and step 7 ends when a wave returns 0. -/
  | gatingAnswer (site v : Nat)
  /-- R265: A core stops the vintage's contexts, tiles and images. -/
  | killMessage (site v : Nat)
  /-- R265: Kill acknowledgements climb the tree; the last starts channel aborts. -/
  | killAck (site v : Nat)
  /-- R265: A router, port or slot discards and voids the vintage's flits and resets its groups. -/
  | drainWave (site v : Nat)
  /-- R265: Drain acknowledgements climb the tree until no flit of the vintage remains. -/
  | drainAck (site v : Nat)
  /-- R448: A slot controller locks the granules of an admitted launch. -/
  | lock (part slot v : Nat)
  /-- R448: Lock acknowledgements reach the launch engine; the last is the admission instant. -/
  | lockAck (part slot v : Nat)
  /-- R448: A slot controller releases a launch's locks. -/
  | unlock (part slot v : Nat)
  /-- R448: Unlock acknowledgements return to the launch engine. -/
  | unlockAck (part slot v : Nat)
  /-- R455: A slot controller turns the vintage's open entries to committed. -/
  | commitBroadcast (part slot v : Nat)
  /-- R455: Commit acknowledgements reach the arbiter; the last is the commit instant. -/
  | commitAck (part slot v : Nat)
  /-- R455: The intent record is acknowledged and the commit broadcast starts. -/
  | commitIntentAck (part : Nat)
  /-- R518: The translation agent walks the page tables for a missed address. -/
  | translationMiss (site page : Nat)
  /-- R475: The core pauses, captures its snapshot and swaps its dirty set. -/
  | checkpointBoundary (site : Nat)
  /-- R572: A router takes a CCFG configuration message and writes or clears its entry. -/
  | groupConfiguration (site : Nat)
  /-- R572: A router combines configuration answers toward the issuing router. -/
  | groupConfigurationAnswer (site : Nat)
  /-- R239: Suspends the running task into its record. -/
  | suspend
  /-- R241: Gives up the context when the district pool holds eligible work of at least equal priority. -/
  | yield
  /-- R293: Holds the context until its earlier vector work has finished. -/
  | vsync
  /-- R251: Returns from a trap to sys.epc. -/
  | eret
  /-- R501: Makes the core take a checkpoint boundary. -/
  | ckpt
  /-- R468: Asks for the switch of the vintage to in-place writes and waits for it. -/
  | irrev
  /-- R403: Parked flits of a list are released into the grid. -/
  | sidingRelease (part list : Nat)
  /-- R224: A core withdraws its pull. -/
  | pullWithdraw (site : Nat)
  /-- R216: A stall reaching 4,096 cc turns its task into a continuation. -/
  | stallConversion (site ctx : Nat)
  /-- R259: A pool entry unserved for 1,024 cc makes the pool choose a victim context. -/
  | preemptionRequest (part dist : Nat)
  /-- R345: The domain limiter grants rises and falls at a 4 cc step boundary. -/
  | slewStepBoundary (dom : Nat)
  /-- R429: A spared core's contribution reaches its former router. -/
  | proxyContribution (site grp : Nat)
  /-- R429: A result reaches a spared core's port. -/
  | proxyResult (site grp : Nat)
  /-- R421: A group timer expires and the router sends its partial with a timeout report. -/
  | collectiveTimerExpiry (site grp : Nat)
  /-- R426: A CHAIN waiting for its predecessor traps COLL_TIMEOUT. -/
  | chainTimeout (site ctx : Nat)
  /-- R234: A new done wave starts 4,096 fc after the last while made differs from ended. -/
  | doneWaveTimer (part v : Nat)
  /-- R254: A core ends the tasks of a fault domain. -/
  | domainEnd (site v : Nat)
  /-- R254: Domain-end acknowledgements climb the completion tree. -/
  | domainEndAck (site v : Nat)
  /-- R265: The commit engine discards a killed vintage's cask or undoes its in-place writes. -/
  | caskDiscard (part v : Nat)
  /-- R265: Cores zero the vintage's lines, undeclare its buffers and free contexts. -/
  | killCleanup (part v : Nat)
  /-- R454: The arbiter picks the next ready launch in commit order and writes its intent record. -/
  | commitStart (part : Nat)
  /-- R531: An SCL completion message is sent after the record is written. -/
  | completionMessage (part : Nat)
  /-- R461: Once older vintages complete, the switch of a vintage to in-place writes is broadcast. -/
  | vintageSwitch (part v : Nat)
  /-- R461: A slot controller merges a vintage's open entries into home, saving undo entries. -/
  | switch (part slot v : Nat)
  /-- R461: Switch acknowledgements return; the held writes proceed. -/
  | switchAck (part slot v : Nat)
  /-- R466: A slot controller counts a vintage's open or undo entries. -/
  | caskuseQuery (part slot v : Nat)
  /-- R466: CASKUSE counts are summed back to the querying core. -/
  | caskuseAnswer (part slot v : Nat)
  /-- R444: A slot controller merges a committed entry into home and frees it. -/
  | caskMerge (part slot : Nat)
  /-- R445: The launch engine takes a queue's head command, reads its tables and assigns a vintage. -/
  | launchTake (part : Nat)
  /-- R447: A waiting launch is examined and admitted or made to pre-empt. -/
  | admission (part v : Nat)
  /-- R534: The lead PTP copy reaches a staged launch's start time. -/
  | startTimeReached (part v : Nat)
  /-- R534: A fire wave makes the staged seeds issue. -/
  | fireWave (band v : Nat)
  /-- R535: A launch's deadline instant passes before its commit broadcast and it is killed. -/
  | deadlineExpiry (part v : Nat)
  /-- R410: Ring beats copy shape and pattern records into each visited core's store. -/
  | recordStoreFill (site v : Nat)
  /-- R410: The lead supervisor sends a health sweep around the ring every 1 ms. -/
  | healthSweepStart (part : Nat)
  /-- R410: A visit adds its error count and pass number to a passing sweep. -/
  | healthSweep (site : Nat)
  /-- R410: A sweep not returned in time marks the ring broken and rebuilds it. -/
  | ringSweepTimeout (part : Nat)
  /-- R406: A router parks the rebinding entry of an LCN and busies the site's ports. -/
  | rebindFence (site ep : Nat)
  /-- R406: Fence acknowledgements return to the recovery engine. -/
  | rebindFenceAck (site ep : Nat)
  /-- R406: A router binds an LCN to its new site. -/
  | rebindBind (site ep : Nat)
  /-- R406: Bind acknowledgements return to the recovery engine. -/
  | rebindBindAck (site ep : Nat)
  /-- R406: The parked lists of an LCN are released. -/
  | rebindRelease (site ep : Nat)
  /-- R406: Release acknowledgements return to the recovery engine. -/
  | rebindReleaseAck (site ep : Nat)
  /-- R563: A wafer target performs a management read or write. -/
  | managementRequest (addr : Nat) (wdata : Option Word)
  /-- R563: The management controller takes a management response. -/
  | managementResponse
  /-- R533: A band launch engine corrects its PTP copy from the lead value. -/
  | timeDistribution (band : Nat)
  /-- R471: The interval timer reaches ivl and the core takes a boundary. -/
  | intervalTimer (site : Nat)
  /-- R478: Cellar use passes the high water, forcing a boundary and an expedited pass. -/
  | highWater (site : Nat)
  /-- R476: The core sends the snapshot and copy set to its cellar. -/
  | cellarCopy (site : Nat)
  /-- R477: An interval closes once all its records are acknowledged and its close line written. -/
  | intervalClose (site : Nat)
  /-- R488: Validated intervals are folded into the mirror slot and freed. -/
  | mirrorFold (site : Nat)
  /-- R489: A detector fires; the core stops and sparing begins with the FENCE broadcast. -/
  | detectedError (site : Nat)
  /-- R493: After fencing, the core is drained, a reserve is chosen and restored. -/
  | sparingRestore (band : Nat)
  /-- R493: After the restore, the LCN is bound to the reserve and the ring table rewritten. -/
  | sparingBind (band : Nat)
  /-- R493: After the BIND, the LCN's parked lists are released. -/
  | sparingRelease (band : Nat)
  /-- R486: The reserve replays the failed core's log in event order. -/
  | logReplay (site : Nat)
  /-- R486: The last record is replayed; the core runs live and the timers resume. -/
  | replayEnd (site : Nat)
  /-- R494: The failed site's diagnostic scan passes or fails. -/
  | diagnosticScanResult (site : Nat) (pass : Bool)
  /-- R482: A core whose cellar host is fenced gets a substitute host and a boundary. -/
  | cellarHostLoss (site : Nat)
  /-- R497: A district's rotation starts the next scan pass. -/
  | rotationPass (part dist : Nat)
  /-- R496: A drained core, its interval closed, runs the scan patterns. -/
  | scanPass (site : Nat)
  /-- R496: Scan signatures are compared; a pass raises the pass number and empties the list. -/
  | scanPassResult (site : Nat) (pass : Bool)
  /-- R491: A held context reaches 2^wdl cc and traps WATCHDOG. -/
  | contextWatchdog (site ctx : Nat)
  /-- R491: An engine makes no progress for 65,536 cc, a detected error. -/
  | coreWatchdog (site : Nat)
  /-- R507: After 2^20 write bursts the channel picks the code for new writes. -/
  | codeWindowEnd (chan : Nat)
  /-- R513: Writing rq requests a channel's retirement. -/
  | channelRetirementRequest (chan : Nat)
  /-- R515: A retiring slot copies one block to its spare block. -/
  | blockMove (chan : Nat)
  /-- R464: A host read over the rim path returns committed or in-place bytes. -/
  | hostMemoryRead (scl : Requester) (addr len : Nat)
  /-- R464: A host write is performed or refused as region in use. -/
  | hostMemoryWrite (scl : Requester) (addr : Nat) (data : List Byte)
  /-- R527: A 128-byte write appends a launch command to a queue. -/
  | submit (scl : Requester) (part q : Nat) (data : List Byte)
  /-- R536: Writing en sets a queue accepting or not. -/
  | qctlEnable (scl : Requester) (part q : Nat) (en : Bool)
  /-- R536: Writing fl completes a queue's unadmitted commands as flushed. -/
  | qctlFlush (scl : Requester) (part q : Nat)
  /-- R532: A write to KILL starts the kill of a running vintage. -/
  | killWrite (part v : Nat)
  /-- R526: PCTL 1 creates or reconfigures a partition. -/
  | pctlCreate (scl : Requester) (band : Nat)
  /-- R526: PCTL 2 dissolves a partition. -/
  | pctlDissolve (scl : Requester) (band : Nat)
  /-- R526: The supervisor finishes a configuration or dissolution and PCTL clears. -/
  | pctlOperationEnd (band : Nat)
  /-- R524: A read of SEM acquires the free semaphore. -/
  | semRead (scl : Requester)
  /-- R524: A write of SEM by its owner frees it. -/
  | semWrite (scl : Requester)
  /-- R533: A read of tsec latches tns for the same port. -/
  | tsecRead (scl : Requester)
  /-- R533: A write of tns sets the PTP time. -/
  | tnsWrite (scl : Requester) (ns : Nat)
  /-- R533: A write of step adds signed nanoseconds to the counter. -/
  | timeStep (scl : Requester) (ns : Int)
  /-- R523: A write to a register with no row of its own stores its fields. -/
  | registerWrite (scl : Requester) (addr : Nat) (data : List Byte)
  /-- R533: A 1PPS rising edge latches the counter into ppsec and ppns. -/
  | ppsEdge
  /-- R520: An SCL link goes down; outstanding requests are dropped and its semaphore freed. -/
  | sclLinkDown (scl : Requester)
  /-- R537: A module error or the MGC starts a warm reset. -/
  | warmReset
  /-- R569: The module runs cold bring-up after power return or on MGC request. -/
  | coldBringup
  /-- R563: The MGC frees SEM. -/
  | mgcSemFree
  /-- R542: A BHL receiver handles a data flit by its window. -/
  | linkDataFlit (port : Nat)
  /-- R542: A BHL idle flit carries the peer's ack and hold. -/
  | linkIdleFlit (port : Nat)
  /-- R543: A nak makes the sender resend from the acked number. -/
  | linkNakFlit (port : Nat)
  /-- R545: A retrain flit starts the retraining of a direction at a new width. -/
  | linkRetrainFlit (port : Nat)
  /-- R543: 4,096 fc without ack progress makes the sender resend. -/
  | linkReplayTimeout (port : Nat)
  /-- R545: A receive lane loses lock and the direction narrows. -/
  | laneLoss (port lane : Nat)
  /-- R545: A direction's 2.0 µs retrain ends and replay resumes. -/
  | retrainComplete (port : Nat) (tx : Bool)
  /-- R546: A port goes down and starts a full training; held requests fail over. -/
  | portDown (port : Nat)
  /-- R546: A full training ends, resetting sequence state. -/
  | fullTrainingComplete (port lanes pmod pport : Nat)
  /-- R548: Writing rt starts a full training of a port. -/
  | bhlRetrain (port : Nat)
  /-- R548: Writing en holds a port down or releases it. -/
  | bhlEnable (port : Nat) (en : Bool)
  /-- R553: A port engine holds a pull request and sends it over the link. -/
  | peerRequest (port : Nat)
  /-- R554: The exporting port engine checks a pull and reads committed data. -/
  | exportRequest (port : Nat)
  /-- R553: Returned pull data is sent to the destination as a landing. -/
  | peerDataReturn (port : Nat)
  /-- R555: No port of an entry is up within 2 ms and held requests are refused. -/
  | peerFailoverTimeout (part entry : Nat)
  /-- R558: Input below 40.5 V starts ride-through with cap 2. -/
  | inputUndervoltage
  /-- R558: Ride-through past 10 ms turns the wafer rails off. -/
  | rideThroughLimit
  /-- R558: Input above 40.5 V for 100 ms lifts the ride-through cap. -/
  | rideThroughEnd
  /-- R558: Input below 38 V or above 60 V removes wafer power. -/
  | inputPowerLoss
  /-- R558: Input between 57 V and 60 V is reported as over-voltage. -/
  | inputOvervoltage
  /-- R559: Every 100 µs the MGC measures power and adjusts partitions' caps. -/
  | powerMeasurement (watts : List Nat)
  /-- R560: A domain rail sag stretches the domain's cycles. -/
  | sagDetect (dom : Nat)
  /-- R560: The rail stays above threshold for 64 cc and stretching ends. -/
  | sagClear (dom : Nat)
  /-- R561: A sag lasting 20 µs lowers the domain cap to 2. -/
  | sagCapLower (dom : Nat)
  /-- R562: A domain temperature crosses a threshold of the cooling table. -/
  | overtemperature (dom temp : Nat)
  /-- R562: Each 1 ms above 95 °C lowers cap, each 10 ms below 90 °C raises it. -/
  | overtemperatureStep (dom : Nat)
  /-- R562: Coolant flow lost for 2 s turns the wafer rails off. -/
  | coolantFlowLoss
  /-- R565: A supervisor heartbeat missed for 10 ms spares it or warm-resets. -/
  | heartbeatMiss (band : Nat)
  /-- R565: A siding-full report lasting 100 ms makes the MGC warm-reset. -/
  | sidingFullTimeout (band : Nat)
  /-- R565: The MGC hardware watchdog expires and the MGC restarts. -/
  | mgcWatchdog
  /-- R566: The operator asks the MGC to kill a vintage. -/
  | operatorKill (part v : Nat)
  /-- R567: The MGC verifies and loads a signed firmware image. -/
  | firmwareUpdate (image : FirmwareImage)
  /-- R568: The MGC returns a signed attestation report. -/
  | attestationRequest (data : List Byte)
  /-- R74: A word group whose word R40–R70 assign to no instruction (reserved opcode, reserved function code, the all-zero word) traps ILLEGAL at decode. -/
  | illegalEncoding
  /-- R121: A core's line cache evicts a cached global line, so a later load misses and refreshes it. -/
  | lineEviction (site line : Nat)
  /-- R537: A warm reset finishes: uncommitted vintages complete with outcome 9, the preserved list is written, queues resume, SEM is freed and ports stop answering status 5. -/
  | warmResetEnd
  /-- R566: Warm resets that fail to complete lead the MGC to a cold bring-up. -/
  | warmResetFailure
  /-- R569: A cold bring-up reaches its end with SCL ports up and every band unassigned awaiting partition configuration. -/
  | coldBringupEnd
  /-- R533: Every 1 µs the lead PTP copy in band 0's rim sends its value on the management slots. -/
  | timeDistributionSend
deriving DecidableEq, Repr

end Sys2Proof
end

