-- ==== Sys2Proof/WellFormed.lean ====
section
/-!
DEFINITION. Which instructions are encodable: the register and value limits that R35-R65, R161, R276, R281, R295 and
R314 put on the fields of a word. A word whose fields break one is not an instruction and traps ILLEGAL (R71, R74).
-/

namespace Sys2Proof

/-- Class F of the vector types (R281). -/
def DType.isFloat : DType → Bool
  | .f32 | .f16 | .bf16 | .e4m3 | .e5m2 => true
  | .i8 | .i16 | .i32 | .i64 | .n8 | .n16 | .n32 | .n64 | .i4 | .cb4 | .acc96 => false

/-- Class I of the vector types (R281). -/
def DType.isInt : DType → Bool
  | .i8 | .i16 | .i32 | .i64 | .n8 | .n16 | .n32 | .n64 | .i4 => true
  | .f32 | .f16 | .bf16 | .e4m3 | .e5m2 | .cb4 | .acc96 => false

/-- A destination type of the vector forms, and of MACRD, MEPI and MACWR: any but cb4 and acc96 (R281, R331, R332). -/
def DType.isVector (t : DType) : Bool := t.isFloat || t.isInt

/-- A type a weight slot may hold (R314). -/
def DType.isWeight : DType → Bool
  | .bf16 | .f16 | .e4m3 | .e5m2 | .i8 | .i4 | .cb4 => true
  | .i16 | .i32 | .i64 | .n8 | .n16 | .n32 | .n64 | .f32 | .acc96 => false

/-- The even d that a pair form requires (R72). -/
def evenReg (d : Reg) : Bool := d.toNat % 2 == 0

/-- x16-x23, the registers that may be put in stream mode (R58). -/
def streamReg (d : Reg) : Bool := decide (16 ≤ d.toNat) && decide (d.toNat ≤ 23)

/-- The limits of a bitfield, 1 ≤ len ≤ 63 and pos + len ≤ 64 (R43). -/
def fieldFits (pos len : BitVec 6) : Bool := decide (1 ≤ len.toNat) && decide (pos.toNat + len.toNat ≤ 64)

/-- A form that neither acquires nor releases has scope 000 (R38). -/
def plainScope (neither : Bool) (scope : Scope) : Bool := !neither || scope == .cx

/-- FADD requires 32 bits (R50). -/
def atomicWidth (aop : AOp) (sz : ASize) : Bool := aop != .fadd || sz == .w32

/-- The floating types narrower than f32. -/
def DType.isNarrowFloat : DType → Bool
  | .f16 | .bf16 | .e4m3 | .e5m2 => true
  | .i8 | .i16 | .i32 | .i64 | .n8 | .n16 | .n32 | .n64 | .i4 | .f32 | .cb4 | .acc96 => false

/-- The integer types FCVT takes. -/
def DType.isScalarInt : DType → Bool
  | .i8 | .i16 | .i32 | .i64 | .n8 | .n16 | .n32 | .n64 => true
  | .i4 | .f32 | .f16 | .bf16 | .e4m3 | .e5m2 | .cb4 | .acc96 => false

/-- The integer types every value of which is an f32 (R100). -/
def DType.isExactInt : DType → Bool
  | .i8 | .n8 | .i16 | .n16 => true
  | .i32 | .i64 | .n32 | .n64 | .i4 | .f32 | .f16 | .bf16 | .e4m3 | .e5m2 | .cb4 | .acc96 => false

/-- The pairs and field limits of FCVT (R161). -/
def fcvtPair (dt sty : DType) (rnd : Rnd) (sat : Bool) : Bool :=
  if dt = .f32 then
    !sat && ((sty.isNarrowFloat && rnd == .rne) || (sty.isScalarInt && (!sty.isExactInt || rnd == .rne)))
  else sty == .f32 && (dt.isNarrowFloat || dt.isScalarInt)

/-- The fields of a shape slot that SHSET may write (R276). -/
def settableField (n : Nat) : Bool := decide (n ≤ 11) || (decide (16 ≤ n) && decide (n ≤ 27))

/-- The system registers that SYSWR may name: the writable ones and those marked sup (R30, R56). -/
def writableSys (n : Nat) : Bool :=
  decide (7 ≤ n && n ≤ 0xC) || n == 0xE || n == 0x13 || n == 0x14

/-- Whether the fields of an instruction are within the limits of its form. -/
def wellFormed : Instr → Bool
  | .mulx d _ _ => evenReg d
  | .mulxu d _ _ => evenReg d
  | .bexti _ _ pos len => fieldFits pos len
  | .bextui _ _ pos len => fieldFits pos len
  | .binsi _ _ pos len => fieldFits pos len
  | .fcvt _ _ dt sty rnd sat _ => fcvtPair dt sty rnd sat
  | .amo _ _ _ aop sz ord scope => atomicWidth aop sz && plainScope (ord == .none) scope
  | .cas _ _ _ _ ord scope => plainScope (ord == .none) scope
  | .red _ _ aop sz ord scope => aop != .swap && (ord == .none || ord == .rel) && atomicWidth aop sz && plainScope (ord == .none) scope
  | .copy _ _ _ _ _ acq rel scope => plainScope (!acq && !rel) scope
  | .strm d _ _ => streamReg d
  | .strmw d _ _ => streamReg d
  | .strmend d _ => streamReg d
  | .gather _ _ _ _ _ acq rel scope => plainScope (!acq && !rel) scope
  | .scatter _ _ _ _ _ acq rel scope => plainScope (!acq && !rel) scope
  | .vadd _ _ _ ty rnd _ => ty.isVector && (ty.isFloat || rnd == .rne)
  | .vsub _ _ _ ty rnd _ => ty.isVector && (ty.isFloat || rnd == .rne)
  | .vmul _ _ _ ty rnd _ => ty.isVector && (ty.isFloat || rnd == .rne)
  | .vfma _ _ _ ty rnd _ => ty.isVector && (ty.isFloat || rnd == .rne)
  | .vfms _ _ _ ty rnd _ => ty.isVector && (ty.isFloat || rnd == .rne)
  | .vmin _ _ _ ty => ty.isVector
  | .vmax _ _ _ ty => ty.isVector
  | .vabs _ _ ty => ty.isVector
  | .vneg _ _ ty => ty.isVector
  | .vand _ _ _ ty => ty.isInt
  | .vor _ _ _ ty => ty.isInt
  | .vxor _ _ _ ty => ty.isInt
  | .vshl _ _ _ ty _ => ty.isInt
  | .vshr _ _ _ ty => ty.isInt
  | .vsra _ _ _ ty => ty.isInt
  | .vcmul _ _ _ ty rnd _ => ty.isVector && (ty.isFloat || rnd == .rne)
  | .vcmac _ _ _ ty rnd _ => ty.isVector && (ty.isFloat || rnd == .rne)
  | .vconj _ _ ty => ty.isVector
  | .vmov _ _ ty => ty.isVector
  | .vexp2 _ _ ty _ _ => ty.isFloat
  | .vlog2 _ _ ty _ _ => ty.isFloat
  | .vrcp _ _ ty _ _ => ty.isFloat
  | .vrsqrt _ _ ty _ _ => ty.isFloat
  | .vcvt _ _ ty _ _ => ty.isVector
  | .vrsum _ _ ty rnd _ => ty.isVector && (ty.isFloat || rnd == .rne)
  | .vrmax _ _ ty => ty.isVector
  | .vrmin _ _ ty => ty.isVector
  | .vceq _ _ _ ty => ty.isInt
  | .vclt _ _ _ ty => ty.isInt
  | .vcle _ _ _ ty => ty.isInt
  | .vsel _ _ _ ty => ty.isVector
  | .vperm _ _ _ ty => ty.isVector
  | .vbcast _ _ ty => ty.isVector
  | .vzip _ _ _ ty => ty.isVector
  | .vunzip _ _ _ ty => ty.isVector
  | .vrev _ _ ty => ty.isVector
  | .vloop _ n => decide (1 ≤ n.toNat) && decide (n.toNat ≤ 16)
  | .shset _ _ f => settableField f.toNat
  | .shget _ _ f => decide (f.toNat ≤ 29)
  | .mma _ _ _ ty acq rel scope _ => ty.isWeight && plainScope (!acq && !rel) scope
  | .mmcx _ _ _ ty acq rel scope _ => ty.isWeight && plainScope (!acq && !rel) scope
  | .mconv _ _ _ ty _ acq rel scope _ => ty.isWeight && plainScope (!acq && !rel) scope
  | .mwld _ _ ty => ty.isWeight
  | .macrd _ _ ty _ _ => ty.isVector
  | .macwr _ _ ty => ty.isVector
  | .mepi _ _ _ ty _ _ => ty.isVector
  | .sysrd num _ => decide (num.toNat ≤ 0x14)
  | .syswr num _ => writableSys num.toNat
  | .add .. | .sub .. | .and .. | .or .. | .xor .. | .andn .. | .sll .. | .srl .. | .sra .. | .ror .. | .slt ..
  | .sltu .. | .min .. | .max .. | .minu .. | .maxu .. | .mul .. | .mulh .. | .mulhu .. | .div .. | .divu .. | .rem ..
  | .remu .. | .addw .. | .subw .. | .mulw .. | .clz .. | .ctz .. | .popc .. | .sextb .. | .sexth .. | .sextw ..
  | .zextw .. | .bext .. | .bextu .. | .bins .. | .divt .. | .remt .. | .addi .. | .andi .. | .ori .. | .xori ..
  | .slti .. | .lui .. | .slli .. | .srli .. | .srai .. | .rori .. | .fadd .. | .fsub .. | .fmul .. | .fdiv ..
  | .fsqrt .. | .fma .. | .fms .. | .fmin .. | .fmax .. | .fabs .. | .fneg .. | .fsgnj .. | .feq .. | .flt ..
  | .fle .. | .fclass .. | .beq .. | .bne .. | .blt .. | .bge .. | .bltu .. | .bgeu .. | .jal .. | .jalr .. | .ld ..
  | .st .. | .ldp .. | .geta .. | .puta .. | .recv .. | .tbind .. | .acq .. | .rel .. | .fence .. | .wait ..
  | .bdecl .. | .bfill .. | .bfull .. | .bdrain .. | .bempty .. | .bstat .. | .spawn .. | .suspend | .exit ..
  | .decr .. | .yield | .depadd .. | .tself .. | .ctb .. | .crd .. | .chain .. | .gstat .. | .ccfg .. | .cwait ..
  | .cdone .. | .cwm .. | .cnext .. | .chstat .. | .cabort .. | .vsync | .shld .. | .shobj .. | .shst .. | .maclr ..
  | .macq .. | .mrel .. | .trap .. | .eret | .ckpt | .caskuse .. | .scanno .. | .provq .. | .irrev | .cmtq ..
  | .abort .. | .hintImm .. | .hintSched .. | .hintMod .. | .writeQueueDrain .. | .bdeclReport .. | .flitRouting ..
  | .flitArrival .. | .loadRequest .. | .storeRequest .. | .atomicRequest .. | .copyReadRequest .. | .remoteOpen ..
  | .activeMessage .. | .carriage .. | .recordOperation .. | .faultMessage .. | .resumePacket .. | .abortPacket ..
  | .cellarTraffic .. | .dataReply .. | .acknowledgement .. | .landing .. | .landingAck .. | .voidFlit ..
  | .copyRequest .. | .transferComplete .. | .streamRefill .. | .closePacket .. | .sidingAppend .. | .sidingRelease ..
  | .poolEntry .. | .poolPull .. | .pullWithdraw .. | .entryReturn .. | .yieldQuery .. | .suspensionPoint ..
  | .stallConversion .. | .preemptionRequest .. | .preemption .. | .imageRestore .. | .vectorFinish ..
  | .tileCommandStart .. | .tileCommandFinish .. | .tileWriteAck .. | .slewStepBoundary .. | .contribution ..
  | .result .. | .chainPartial .. | .proxyContribution .. | .proxyResult .. | .groupConfiguration ..
  | .groupConfigurationAnswer .. | .collectiveTimerExpiry .. | .chainTimeout .. | .doneWave .. | .doneAnswer ..
  | .doneWaveTimer .. | .gatingWave .. | .gatingAnswer .. | .killMessage .. | .killAck .. | .domainEnd ..
  | .domainEndAck .. | .drainWave .. | .drainAck .. | .caskDiscard .. | .killCleanup .. | .lock .. | .lockAck ..
  | .unlock .. | .unlockAck .. | .commitStart .. | .commitIntentAck .. | .commitBroadcast .. | .commitAck ..
  | .completionMessage .. | .vintageSwitch .. | .switch .. | .switchAck .. | .caskuseQuery .. | .caskuseAnswer ..
  | .caskMerge .. | .launchTake .. | .admission .. | .startTimeReached .. | .fireWave .. | .deadlineExpiry ..
  | .recordStoreFill .. | .healthSweepStart .. | .healthSweep .. | .ringSweepTimeout .. | .rebindFence ..
  | .rebindFenceAck .. | .rebindBind .. | .rebindBindAck .. | .rebindRelease .. | .rebindReleaseAck ..
  | .managementRequest .. | .managementResponse | .timeDistribution .. | .translationMiss .. | .intervalTimer ..
  | .highWater .. | .checkpointBoundary .. | .cellarCopy .. | .intervalClose .. | .mirrorFold .. | .detectedError ..
  | .sparingRestore .. | .sparingBind .. | .sparingRelease .. | .logReplay .. | .replayEnd ..
  | .diagnosticScanResult .. | .cellarHostLoss .. | .rotationPass .. | .scanPass .. | .scanPassResult ..
  | .contextWatchdog .. | .coreWatchdog .. | .codeWindowEnd .. | .channelRetirementRequest .. | .blockMove ..
  | .hostMemoryRead .. | .hostMemoryWrite .. | .submit .. | .qctlEnable .. | .qctlFlush .. | .killWrite ..
  | .pctlCreate .. | .pctlDissolve .. | .pctlOperationEnd .. | .semRead .. | .semWrite .. | .tsecRead ..
  | .tnsWrite .. | .timeStep .. | .registerWrite .. | .ppsEdge | .sclLinkDown .. | .warmReset | .coldBringup
  | .mgcSemFree | .linkDataFlit .. | .linkIdleFlit .. | .linkNakFlit .. | .linkRetrainFlit .. | .linkReplayTimeout ..
  | .laneLoss .. | .retrainComplete .. | .portDown .. | .fullTrainingComplete .. | .bhlRetrain .. | .bhlEnable ..
  | .peerRequest .. | .exportRequest .. | .peerDataReturn .. | .peerFailoverTimeout .. | .inputUndervoltage
  | .rideThroughLimit | .rideThroughEnd | .inputPowerLoss | .inputOvervoltage | .powerMeasurement .. | .sagDetect ..
  | .sagClear .. | .sagCapLower .. | .overtemperature .. | .overtemperatureStep .. | .coolantFlowLoss
  | .heartbeatMiss .. | .sidingFullTimeout .. | .mgcWatchdog | .operatorKill .. | .firmwareUpdate ..
  | .attestationRequest .. | .illegalEncoding | .instructionFetchFault .. | .lineEviction .. | .scalarResultReady ..
  | .warmResetEnd | .warmResetFailure | .coldBringupEnd | .timeDistributionSend => true

end Sys2Proof
end

