-- ==== Sys2Proof/Decode.lean ====
section
/-!
DEFINITION. Decoding and encoding. `decodeWord` is total on every 32-bit value: it reads a word of the layouts of
R39-R70 into an instruction or names why the word is no instruction (it then traps ILLEGAL, R71, R74). Words are
little-endian (R25). The encoder is written from the same tables.
-/

namespace Sys2Proof

/-- Why a word is no instruction; each of them traps ILLEGAL (R71). -/
inductive Reject where
  /-- The major opcode is reserved (R40), the all-zero word among them. -/
  | opcode
  /-- The function, op or kind code is reserved. -/
  | function
  /-- A field that must be zero is not. -/
  | field
  /-- A type code is reserved (R34). -/
  | type
  /-- A rounding code is 101-111 (R35). -/
  | rounding
  /-- A scope code is 6 or 7 (R37). -/
  | scope
  /-- An access size code is reserved (R47, R50). -/
  | size
  /-- An atomic operation code is 10-15 (R50). -/
  | atomic
  /-- The branch hint code is 11 (R68). -/
  | branchHint
  /-- A field is outside the limits of `wellFormed`. -/
  | limit
  /-- Fewer than four bytes. -/
  | short
deriving DecidableEq, Repr

/-- Bits [lo + n - 1 : lo] of a word. -/
def bits (w lo n : Nat) : Nat := w / 2 ^ lo % 2 ^ n

/-- Bits [lo + n - 1 : lo] of a word, as a field of n bits. -/
def fld (w lo n : Nat) : BitVec n := BitVec.ofNat n (w / 2 ^ lo)

/-- Bit lo of a word. -/
def flag (w lo : Nat) : Bool := w / 2 ^ lo % 2 == 1

/-- The type codes (R34). -/
def dtypeOf : Nat → Except Reject DType
  | 0 => .ok .i8 | 1 => .ok .i16 | 2 => .ok .i32 | 3 => .ok .i64
  | 4 => .ok .n8 | 5 => .ok .n16 | 6 => .ok .n32 | 7 => .ok .n64
  | 8 => .ok .i4 | 9 => .ok .f32 | 10 => .ok .f16 | 11 => .ok .bf16
  | 12 => .ok .e4m3 | 13 => .ok .e5m2 | 14 => .ok .cb4 | 15 => .ok .acc96
  | _ => .error .type

/-- The code of a type (R34). -/
def DType.code : DType → Nat
  | .i8 => 0 | .i16 => 1 | .i32 => 2 | .i64 => 3 | .n8 => 4 | .n16 => 5 | .n32 => 6 | .n64 => 7
  | .i4 => 8 | .f32 => 9 | .f16 => 10 | .bf16 => 11 | .e4m3 => 12 | .e5m2 => 13 | .cb4 => 14 | .acc96 => 15

/-- The rounding codes (R35). -/
def rndOf : Nat → Except Reject Rnd
  | 0 => .ok .rne | 1 => .ok .rz | 2 => .ok .ru | 3 => .ok .rd | 4 => .ok .rs
  | _ => .error .rounding

/-- The code of a rounding (R35). -/
def Rnd.code : Rnd → Nat
  | .rne => 0 | .rz => 1 | .ru => 2 | .rd => 3 | .rs => 4

/-- The scope codes (R37). -/
def scopeOf : Nat → Except Reject Scope
  | 0 => .ok .cx | 1 => .ok .co | 2 => .ok .d | 3 => .ok .p | 4 => .ok .m | 5 => .ok .s
  | _ => .error .scope

/-- The code of a scope (R37). -/
def Scope.code : Scope → Nat
  | .cx => 0 | .co => 1 | .d => 2 | .p => 3 | .m => 4 | .s => 5

/-- The ordering codes, all four in use (R38). -/
def ordOf : Nat → Ord
  | 0 => .none | 1 => .acq | 2 => .rel | _ => .ar

/-- The code of an ordering (R38). -/
def Ord.code : Ord → Nat
  | .none => 0 | .acq => 1 | .rel => 2 | .ar => 3

/-- The size codes of LD and LDP (R47, R48). -/
def ldSizeOf : Nat → Except Reject LdSize
  | 0 => .ok .i8 | 1 => .ok .i16 | 2 => .ok .i32 | 3 => .ok .x64 | 4 => .ok .n8 | 5 => .ok .n16 | 6 => .ok .n32
  | _ => .error .size

/-- The code of a load size (R47). -/
def LdSize.code : LdSize → Nat
  | .i8 => 0 | .i16 => 1 | .i32 => 2 | .x64 => 3 | .n8 => 4 | .n16 => 5 | .n32 => 6

/-- The size codes of ST (R47). -/
def stSizeOf : Nat → Except Reject StSize
  | 0 => .ok .b8 | 1 => .ok .b16 | 2 => .ok .b32 | 3 => .ok .b64
  | _ => .error .size

/-- The code of a store size (R47). -/
def StSize.code : StSize → Nat
  | .b8 => 0 | .b16 => 1 | .b32 => 2 | .b64 => 3

/-- The atomic operation codes (R50). -/
def aopOf : Nat → Except Reject AOp
  | 0 => .ok .swap | 1 => .ok .add | 2 => .ok .and | 3 => .ok .or | 4 => .ok .xor
  | 5 => .ok .min | 6 => .ok .max | 7 => .ok .minu | 8 => .ok .maxu | 9 => .ok .fadd
  | _ => .error .atomic

/-- The code of an atomic operation (R50). -/
def AOp.code : AOp → Nat
  | .swap => 0 | .add => 1 | .and => 2 | .or => 3 | .xor => 4
  | .min => 5 | .max => 6 | .minu => 7 | .maxu => 8 | .fadd => 9

/-- The atomic width codes (R50). -/
def asizeOf : Nat → Except Reject ASize
  | 0 => .ok .w32 | 1 => .ok .w64
  | _ => .error .size

/-- The code of an atomic width (R50). -/
def ASize.code : ASize → Nat
  | .w32 => 0 | .w64 => 1

/-- The branch hint codes (R68). -/
def brHintOf : Nat → Except Reject BrHint
  | 0 => .ok .none | 1 => .ok .taken | 2 => .ok .notTaken
  | _ => .error .branchHint

/-- The code of a branch hint (R68). -/
def BrHint.code : BrHint → Nat
  | .none => 0 | .taken => 1 | .notTaken => 2

/-- The words of opcode 0x01 (R41). -/
def decodeIntegerRR (w : Nat) : Except Reject Instr :=
  match bits w 0 11 with
  | 0 => .ok (.add (fld w 21 5) (fld w 16 5) (fld w 11 5))
  | 1 => .ok (.sub (fld w 21 5) (fld w 16 5) (fld w 11 5))
  | 2 => .ok (.and (fld w 21 5) (fld w 16 5) (fld w 11 5))
  | 3 => .ok (.or (fld w 21 5) (fld w 16 5) (fld w 11 5))
  | 4 => .ok (.xor (fld w 21 5) (fld w 16 5) (fld w 11 5))
  | 5 => .ok (.andn (fld w 21 5) (fld w 16 5) (fld w 11 5))
  | 6 => .ok (.sll (fld w 21 5) (fld w 16 5) (fld w 11 5))
  | 7 => .ok (.srl (fld w 21 5) (fld w 16 5) (fld w 11 5))
  | 8 => .ok (.sra (fld w 21 5) (fld w 16 5) (fld w 11 5))
  | 9 => .ok (.ror (fld w 21 5) (fld w 16 5) (fld w 11 5))
  | 10 => .ok (.slt (fld w 21 5) (fld w 16 5) (fld w 11 5))
  | 11 => .ok (.sltu (fld w 21 5) (fld w 16 5) (fld w 11 5))
  | 12 => .ok (.min (fld w 21 5) (fld w 16 5) (fld w 11 5))
  | 13 => .ok (.max (fld w 21 5) (fld w 16 5) (fld w 11 5))
  | 14 => .ok (.minu (fld w 21 5) (fld w 16 5) (fld w 11 5))
  | 15 => .ok (.maxu (fld w 21 5) (fld w 16 5) (fld w 11 5))
  | 16 => .ok (.mul (fld w 21 5) (fld w 16 5) (fld w 11 5))
  | 17 => .ok (.mulh (fld w 21 5) (fld w 16 5) (fld w 11 5))
  | 18 => .ok (.mulhu (fld w 21 5) (fld w 16 5) (fld w 11 5))
  | 19 => .ok (.mulx (fld w 21 5) (fld w 16 5) (fld w 11 5))
  | 20 => .ok (.mulxu (fld w 21 5) (fld w 16 5) (fld w 11 5))
  | 21 => .ok (.div (fld w 21 5) (fld w 16 5) (fld w 11 5))
  | 22 => .ok (.divu (fld w 21 5) (fld w 16 5) (fld w 11 5))
  | 23 => .ok (.rem (fld w 21 5) (fld w 16 5) (fld w 11 5))
  | 24 => .ok (.remu (fld w 21 5) (fld w 16 5) (fld w 11 5))
  | 25 => .ok (.addw (fld w 21 5) (fld w 16 5) (fld w 11 5))
  | 26 => .ok (.subw (fld w 21 5) (fld w 16 5) (fld w 11 5))
  | 27 => .ok (.mulw (fld w 21 5) (fld w 16 5) (fld w 11 5))
  | 28 => if bits w 11 5 = 0 then .ok (.clz (fld w 21 5) (fld w 16 5)) else .error .field
  | 29 => if bits w 11 5 = 0 then .ok (.ctz (fld w 21 5) (fld w 16 5)) else .error .field
  | 30 => if bits w 11 5 = 0 then .ok (.popc (fld w 21 5) (fld w 16 5)) else .error .field
  | 31 => if bits w 11 5 = 0 then .ok (.sextb (fld w 21 5) (fld w 16 5)) else .error .field
  | 32 => if bits w 11 5 = 0 then .ok (.sexth (fld w 21 5) (fld w 16 5)) else .error .field
  | 33 => if bits w 11 5 = 0 then .ok (.sextw (fld w 21 5) (fld w 16 5)) else .error .field
  | 34 => if bits w 11 5 = 0 then .ok (.zextw (fld w 21 5) (fld w 16 5)) else .error .field
  | 35 => .ok (.bext (fld w 21 5) (fld w 16 5) (fld w 11 5))
  | 36 => .ok (.bextu (fld w 21 5) (fld w 16 5) (fld w 11 5))
  | 37 => .ok (.bins (fld w 21 5) (fld w 16 5) (fld w 11 5))
  | 38 => .ok (.divt (fld w 21 5) (fld w 16 5) (fld w 11 5))
  | 39 => .ok (.remt (fld w 21 5) (fld w 16 5) (fld w 11 5))
  | _ => .error .function

/-- The words of opcode 0x08 (R43). -/
def decodeImmediateShift (w : Nat) : Except Reject Instr :=
  match bits w 12 4 with
  | 0 => if bits w 0 6 = 0 then .ok (.slli (fld w 21 5) (fld w 16 5) (fld w 6 6)) else .error .field
  | 1 => if bits w 0 6 = 0 then .ok (.srli (fld w 21 5) (fld w 16 5) (fld w 6 6)) else .error .field
  | 2 => if bits w 0 6 = 0 then .ok (.srai (fld w 21 5) (fld w 16 5) (fld w 6 6)) else .error .field
  | 3 => if bits w 0 6 = 0 then .ok (.rori (fld w 21 5) (fld w 16 5) (fld w 6 6)) else .error .field
  | 4 => .ok (.bexti (fld w 21 5) (fld w 16 5) (fld w 6 6) (fld w 0 6))
  | 5 => .ok (.bextui (fld w 21 5) (fld w 16 5) (fld w 6 6) (fld w 0 6))
  | 6 => .ok (.binsi (fld w 21 5) (fld w 16 5) (fld w 6 6) (fld w 0 6))
  | _ => .error .function

/-- The words of opcode 0x0A (R44). -/
def decodeScalarFp (w : Nat) : Except Reject Instr :=
  match bits w 0 6 with
  | 0 => if bits w 6 1 = 0 then rndOf (bits w 8 3) >>= fun rnd => .ok (.fadd (fld w 21 5) (fld w 16 5) (fld w 11 5) rnd (flag w 7)) else .error .field
  | 1 => if bits w 6 1 = 0 then rndOf (bits w 8 3) >>= fun rnd => .ok (.fsub (fld w 21 5) (fld w 16 5) (fld w 11 5) rnd (flag w 7)) else .error .field
  | 2 => if bits w 6 1 = 0 then rndOf (bits w 8 3) >>= fun rnd => .ok (.fmul (fld w 21 5) (fld w 16 5) (fld w 11 5) rnd (flag w 7)) else .error .field
  | 3 => if bits w 6 1 = 0 then rndOf (bits w 8 3) >>= fun rnd => .ok (.fdiv (fld w 21 5) (fld w 16 5) (fld w 11 5) rnd (flag w 7)) else .error .field
  | 4 => if bits w 6 1 = 0 ∧ bits w 11 5 = 0 then rndOf (bits w 8 3) >>= fun rnd => .ok (.fsqrt (fld w 21 5) (fld w 16 5) rnd (flag w 7)) else .error .field
  | 5 => if bits w 6 1 = 0 then rndOf (bits w 8 3) >>= fun rnd => .ok (.fma (fld w 21 5) (fld w 16 5) (fld w 11 5) rnd (flag w 7)) else .error .field
  | 6 => if bits w 6 1 = 0 then rndOf (bits w 8 3) >>= fun rnd => .ok (.fms (fld w 21 5) (fld w 16 5) (fld w 11 5) rnd (flag w 7)) else .error .field
  | 7 => if bits w 6 1 = 0 ∧ bits w 8 3 = 0 then .ok (.fmin (fld w 21 5) (fld w 16 5) (fld w 11 5) (flag w 7)) else .error .field
  | 8 => if bits w 6 1 = 0 ∧ bits w 8 3 = 0 then .ok (.fmax (fld w 21 5) (fld w 16 5) (fld w 11 5) (flag w 7)) else .error .field
  | 9 => if bits w 6 10 = 0 then .ok (.fabs (fld w 21 5) (fld w 16 5)) else .error .field
  | 10 => if bits w 6 10 = 0 then .ok (.fneg (fld w 21 5) (fld w 16 5)) else .error .field
  | 11 => if bits w 6 5 = 0 then .ok (.fsgnj (fld w 21 5) (fld w 16 5) (fld w 11 5)) else .error .field
  | 12 => if bits w 6 1 = 0 ∧ bits w 8 3 = 0 then .ok (.feq (fld w 21 5) (fld w 16 5) (fld w 11 5) (flag w 7)) else .error .field
  | 13 => if bits w 6 1 = 0 ∧ bits w 8 3 = 0 then .ok (.flt (fld w 21 5) (fld w 16 5) (fld w 11 5) (flag w 7)) else .error .field
  | 14 => if bits w 6 1 = 0 ∧ bits w 8 3 = 0 then .ok (.fle (fld w 21 5) (fld w 16 5) (fld w 11 5) (flag w 7)) else .error .field
  | 15 => if bits w 6 10 = 0 then .ok (.fclass (fld w 21 5) (fld w 16 5)) else .error .field
  | _ => .error .function

/-- The words of opcode 0x17 (R49). -/
def decodeMessage (w : Nat) : Except Reject Instr :=
  match bits w 8 3 with
  | 0 => if bits w 5 3 = 0 then .ok (.geta (fld w 21 5) (fld w 16 5) (fld w 11 5) (fld w 0 5)) else .error .field
  | 1 => if bits w 5 3 = 0 then .ok (.puta (fld w 21 5) (fld w 16 5) (fld w 11 5) (fld w 0 5)) else .error .field
  | 2 => if bits w 0 8 = 0 ∧ bits w 11 5 = 0 then .ok (.recv (fld w 21 5) (fld w 16 5)) else .error .field
  | 3 => if bits w 0 8 = 0 ∧ bits w 11 5 = 0 then .ok (.tbind (fld w 21 5) (fld w 16 5)) else .error .field
  | _ => .error .function

/-- The words of opcode 0x1B (R51). -/
def decodeSync (w : Nat) : Except Reject Instr :=
  match bits w 8 3 with
  | 0 => if bits w 3 5 = 0 ∧ bits w 11 5 = 0 ∧ bits w 21 5 = 0 then scopeOf (bits w 0 3) >>= fun scope => .ok (.acq (fld w 16 5) scope) else .error .field
  | 1 => if bits w 3 5 = 0 ∧ bits w 11 5 = 0 ∧ bits w 21 5 = 0 then scopeOf (bits w 0 3) >>= fun scope => .ok (.rel (fld w 16 5) scope) else .error .field
  | 2 => if bits w 3 5 = 0 ∧ bits w 11 15 = 0 then scopeOf (bits w 0 3) >>= fun scope => .ok (.fence scope) else .error .field
  | _ => .error .function

/-- The words of opcode 0x1D (R53). -/
def decodeBuffer (w : Nat) : Except Reject Instr :=
  match bits w 0 5 with
  | 0 => if bits w 21 5 = 0 then .ok (.bdecl (fld w 16 5) (fld w 11 5) (fld w 5 6)) else .error .field
  | 1 => if bits w 11 15 = 0 then .ok (.bfill (fld w 5 6)) else .error .field
  | 2 => if bits w 11 15 = 0 then .ok (.bfull (fld w 5 6)) else .error .field
  | 3 => if bits w 11 15 = 0 then .ok (.bdrain (fld w 5 6)) else .error .field
  | 4 => if bits w 11 15 = 0 then .ok (.bempty (fld w 5 6)) else .error .field
  | 5 => if bits w 11 10 = 0 then .ok (.bstat (fld w 21 5) (fld w 5 6)) else .error .field
  | _ => .error .function

/-- The words of opcode 0x1E (R54). -/
def decodeTask (w : Nat) : Except Reject Instr :=
  match bits w 0 11 with
  | 0 => .ok (.spawn (fld w 21 5) (fld w 16 5) (fld w 11 5))
  | 1 => if bits w 11 15 = 0 then .ok (.suspend) else .error .field
  | 2 => if bits w 11 5 = 0 ∧ bits w 21 5 = 0 then .ok (.exit (fld w 16 5)) else .error .field
  | 3 => if bits w 11 5 = 0 ∧ bits w 21 5 = 0 then .ok (.decr (fld w 16 5)) else .error .field
  | 4 => if bits w 11 15 = 0 then .ok (.yield) else .error .field
  | 5 => if bits w 21 5 = 0 then .ok (.depadd (fld w 16 5) (fld w 11 5)) else .error .field
  | 6 => if bits w 11 10 = 0 then .ok (.tself (fld w 21 5)) else .error .field
  | _ => .error .function

/-- The words of opcode 0x1F (R55). -/
def decodeCollective (w : Nat) : Except Reject Instr :=
  match bits w 2 3 with
  | 0 => if bits w 0 2 = 0 ∧ bits w 7 3 = 0 ∧ bits w 21 5 = 0 then .ok (.ctb (fld w 16 5) (fld w 10 6) (flag w 6) (flag w 5)) else .error .field
  | 1 => if bits w 0 2 = 0 ∧ bits w 5 2 = 0 ∧ bits w 16 5 = 0 then rndOf (bits w 7 3) >>= fun rnd => .ok (.crd (fld w 21 5) (fld w 10 6) rnd) else .error .field
  | 2 => if bits w 0 2 = 0 ∧ bits w 5 5 = 0 then .ok (.chain (fld w 21 5) (fld w 16 5) (fld w 10 6)) else .error .field
  | 3 => if bits w 0 2 = 0 ∧ bits w 5 5 = 0 ∧ bits w 16 5 = 0 then .ok (.gstat (fld w 21 5) (fld w 10 6)) else .error .field
  | 4 => if bits w 0 2 = 0 ∧ bits w 5 5 = 0 ∧ bits w 21 5 = 0 then .ok (.ccfg (fld w 16 5) (fld w 10 6)) else .error .field
  | _ => .error .function

/-- The words of opcode 0x20 (R57). -/
def decodeCopy (w : Nat) : Except Reject Instr :=
  match bits w 0 2 with
  | 0 => scopeOf (bits w 2 3) >>= fun scope => .ok (.copy (fld w 21 5) (fld w 16 5) (fld w 11 5) (fld w 8 3) (flag w 7) (flag w 6) (flag w 5) scope)
  | 1 => if bits w 2 6 = 0 ∧ bits w 11 5 = 0 ∧ bits w 21 5 = 0 then .ok (.cwait (fld w 16 5) (fld w 8 3)) else .error .field
  | 3 => if bits w 2 6 = 0 ∧ bits w 11 15 = 0 then .ok (.cabort (fld w 8 3)) else .error .field
  | _ =>
    match bits w 2 3 with
    | 0 => if bits w 5 3 = 0 ∧ bits w 11 10 = 0 then .ok (.cdone (fld w 21 5) (fld w 8 3)) else .error .field
    | 1 => if bits w 5 3 = 0 ∧ bits w 11 10 = 0 then .ok (.cwm (fld w 21 5) (fld w 8 3)) else .error .field
    | 2 => if bits w 5 3 = 0 ∧ bits w 11 10 = 0 then .ok (.cnext (fld w 21 5) (fld w 8 3)) else .error .field
    | 3 => if bits w 5 3 = 0 ∧ bits w 11 10 = 0 then .ok (.chstat (fld w 21 5) (fld w 8 3)) else .error .field
    | _ => .error .function

/-- The words of opcode 0x21 (R58). -/
def decodeStream (w : Nat) : Except Reject Instr :=
  match bits w 5 3 with
  | 0 => if bits w 0 5 = 0 ∧ bits w 11 5 = 0 then .ok (.strm (fld w 21 5) (fld w 16 5) (fld w 8 3)) else .error .field
  | 1 => if bits w 0 5 = 0 ∧ bits w 11 5 = 0 then .ok (.strmw (fld w 21 5) (fld w 16 5) (fld w 8 3)) else .error .field
  | 2 => if bits w 0 5 = 0 ∧ bits w 11 10 = 0 then .ok (.strmend (fld w 21 5) (fld w 8 3)) else .error .field
  | _ => .error .function

/-- The words of opcode 0x22 (R59). -/
def decodeGather (w : Nat) : Except Reject Instr :=
  match bits w 7 1 with
  | 0 => if bits w 0 1 = 0 then scopeOf (bits w 1 3) >>= fun scope => .ok (.gather (fld w 21 5) (fld w 16 5) (fld w 11 5) (fld w 8 3) (flag w 6) (flag w 5) (flag w 4) scope) else .error .field
  | _ => if bits w 0 1 = 0 then scopeOf (bits w 1 3) >>= fun scope => .ok (.scatter (fld w 21 5) (fld w 16 5) (fld w 11 5) (fld w 8 3) (flag w 6) (flag w 5) (flag w 4) scope) else .error .field

/-- The words of opcode 0x23 (R60). -/
def decodeVectorArith (w : Nat) : Except Reject Instr :=
  match bits w 0 5 with
  | 0 => dtypeOf (bits w 9 5) >>= fun ty => rndOf (bits w 6 3) >>= fun rnd => .ok (.vadd (fld w 22 4) (fld w 18 4) (fld w 14 4) ty rnd (flag w 5))
  | 1 => dtypeOf (bits w 9 5) >>= fun ty => rndOf (bits w 6 3) >>= fun rnd => .ok (.vsub (fld w 22 4) (fld w 18 4) (fld w 14 4) ty rnd (flag w 5))
  | 2 => dtypeOf (bits w 9 5) >>= fun ty => rndOf (bits w 6 3) >>= fun rnd => .ok (.vmul (fld w 22 4) (fld w 18 4) (fld w 14 4) ty rnd (flag w 5))
  | 3 => dtypeOf (bits w 9 5) >>= fun ty => rndOf (bits w 6 3) >>= fun rnd => .ok (.vfma (fld w 22 4) (fld w 18 4) (fld w 14 4) ty rnd (flag w 5))
  | 4 => dtypeOf (bits w 9 5) >>= fun ty => rndOf (bits w 6 3) >>= fun rnd => .ok (.vfms (fld w 22 4) (fld w 18 4) (fld w 14 4) ty rnd (flag w 5))
  | 5 => if bits w 5 4 = 0 then dtypeOf (bits w 9 5) >>= fun ty => .ok (.vmin (fld w 22 4) (fld w 18 4) (fld w 14 4) ty) else .error .field
  | 6 => if bits w 5 4 = 0 then dtypeOf (bits w 9 5) >>= fun ty => .ok (.vmax (fld w 22 4) (fld w 18 4) (fld w 14 4) ty) else .error .field
  | 7 => if bits w 5 4 = 0 ∧ bits w 14 4 = 0 then dtypeOf (bits w 9 5) >>= fun ty => .ok (.vabs (fld w 22 4) (fld w 18 4) ty) else .error .field
  | 8 => if bits w 5 4 = 0 ∧ bits w 14 4 = 0 then dtypeOf (bits w 9 5) >>= fun ty => .ok (.vneg (fld w 22 4) (fld w 18 4) ty) else .error .field
  | 9 => if bits w 5 4 = 0 then dtypeOf (bits w 9 5) >>= fun ty => .ok (.vand (fld w 22 4) (fld w 18 4) (fld w 14 4) ty) else .error .field
  | 10 => if bits w 5 4 = 0 then dtypeOf (bits w 9 5) >>= fun ty => .ok (.vor (fld w 22 4) (fld w 18 4) (fld w 14 4) ty) else .error .field
  | 11 => if bits w 5 4 = 0 then dtypeOf (bits w 9 5) >>= fun ty => .ok (.vxor (fld w 22 4) (fld w 18 4) (fld w 14 4) ty) else .error .field
  | 12 => if bits w 6 3 = 0 then dtypeOf (bits w 9 5) >>= fun ty => .ok (.vshl (fld w 22 4) (fld w 18 4) (fld w 14 4) ty (flag w 5)) else .error .field
  | 13 => if bits w 5 4 = 0 then dtypeOf (bits w 9 5) >>= fun ty => .ok (.vshr (fld w 22 4) (fld w 18 4) (fld w 14 4) ty) else .error .field
  | 14 => if bits w 5 4 = 0 then dtypeOf (bits w 9 5) >>= fun ty => .ok (.vsra (fld w 22 4) (fld w 18 4) (fld w 14 4) ty) else .error .field
  | 15 => dtypeOf (bits w 9 5) >>= fun ty => rndOf (bits w 6 3) >>= fun rnd => .ok (.vcmul (fld w 22 4) (fld w 18 4) (fld w 14 4) ty rnd (flag w 5))
  | 16 => dtypeOf (bits w 9 5) >>= fun ty => rndOf (bits w 6 3) >>= fun rnd => .ok (.vcmac (fld w 22 4) (fld w 18 4) (fld w 14 4) ty rnd (flag w 5))
  | 17 => if bits w 5 4 = 0 ∧ bits w 14 4 = 0 then dtypeOf (bits w 9 5) >>= fun ty => .ok (.vconj (fld w 22 4) (fld w 18 4) ty) else .error .field
  | 18 => if bits w 5 4 = 0 ∧ bits w 14 4 = 0 then dtypeOf (bits w 9 5) >>= fun ty => .ok (.vmov (fld w 22 4) (fld w 18 4) ty) else .error .field
  | _ => .error .function

/-- The words of opcode 0x24 (R60). -/
def decodeVectorTrans (w : Nat) : Except Reject Instr :=
  match bits w 0 5 with
  | 0 => if bits w 14 4 = 0 then dtypeOf (bits w 9 5) >>= fun ty => rndOf (bits w 6 3) >>= fun rnd => .ok (.vexp2 (fld w 22 4) (fld w 18 4) ty rnd (flag w 5)) else .error .field
  | 1 => if bits w 14 4 = 0 then dtypeOf (bits w 9 5) >>= fun ty => rndOf (bits w 6 3) >>= fun rnd => .ok (.vlog2 (fld w 22 4) (fld w 18 4) ty rnd (flag w 5)) else .error .field
  | 2 => if bits w 14 4 = 0 then dtypeOf (bits w 9 5) >>= fun ty => rndOf (bits w 6 3) >>= fun rnd => .ok (.vrcp (fld w 22 4) (fld w 18 4) ty rnd (flag w 5)) else .error .field
  | 3 => if bits w 14 4 = 0 then dtypeOf (bits w 9 5) >>= fun ty => rndOf (bits w 6 3) >>= fun rnd => .ok (.vrsqrt (fld w 22 4) (fld w 18 4) ty rnd (flag w 5)) else .error .field
  | 4 => if bits w 14 4 = 0 then dtypeOf (bits w 9 5) >>= fun ty => rndOf (bits w 6 3) >>= fun rnd => .ok (.vcvt (fld w 22 4) (fld w 18 4) ty rnd (flag w 5)) else .error .field
  | _ => .error .function

/-- The words of opcode 0x25 (R60). -/
def decodeVectorReduce (w : Nat) : Except Reject Instr :=
  match bits w 0 5 with
  | 0 => if bits w 14 4 = 0 then dtypeOf (bits w 9 5) >>= fun ty => rndOf (bits w 6 3) >>= fun rnd => .ok (.vrsum (fld w 22 4) (fld w 18 4) ty rnd (flag w 5)) else .error .field
  | 1 => if bits w 5 4 = 0 ∧ bits w 14 4 = 0 then dtypeOf (bits w 9 5) >>= fun ty => .ok (.vrmax (fld w 22 4) (fld w 18 4) ty) else .error .field
  | 2 => if bits w 5 4 = 0 ∧ bits w 14 4 = 0 then dtypeOf (bits w 9 5) >>= fun ty => .ok (.vrmin (fld w 22 4) (fld w 18 4) ty) else .error .field
  | 3 => if bits w 5 4 = 0 then dtypeOf (bits w 9 5) >>= fun ty => .ok (.vceq (fld w 22 4) (fld w 18 4) (fld w 14 4) ty) else .error .field
  | 4 => if bits w 5 4 = 0 then dtypeOf (bits w 9 5) >>= fun ty => .ok (.vclt (fld w 22 4) (fld w 18 4) (fld w 14 4) ty) else .error .field
  | 5 => if bits w 5 4 = 0 then dtypeOf (bits w 9 5) >>= fun ty => .ok (.vcle (fld w 22 4) (fld w 18 4) (fld w 14 4) ty) else .error .field
  | 6 => if bits w 5 4 = 0 then dtypeOf (bits w 9 5) >>= fun ty => .ok (.vsel (fld w 22 4) (fld w 18 4) (fld w 14 4) ty) else .error .field
  | 7 => if bits w 5 4 = 0 then dtypeOf (bits w 9 5) >>= fun ty => .ok (.vperm (fld w 22 4) (fld w 18 4) (fld w 14 4) ty) else .error .field
  | 8 => if bits w 5 4 = 0 ∧ bits w 14 4 = 0 then dtypeOf (bits w 9 5) >>= fun ty => .ok (.vbcast (fld w 22 4) (fld w 18 4) ty) else .error .field
  | 9 => if bits w 5 4 = 0 then dtypeOf (bits w 9 5) >>= fun ty => .ok (.vzip (fld w 22 4) (fld w 18 4) (fld w 14 4) ty) else .error .field
  | 10 => if bits w 5 4 = 0 then dtypeOf (bits w 9 5) >>= fun ty => .ok (.vunzip (fld w 22 4) (fld w 18 4) (fld w 14 4) ty) else .error .field
  | 11 => if bits w 5 4 = 0 ∧ bits w 14 4 = 0 then dtypeOf (bits w 9 5) >>= fun ty => .ok (.vrev (fld w 22 4) (fld w 18 4) ty) else .error .field
  | _ => .error .function

/-- The words of opcode 0x26 (R61). -/
def decodeVectorSeq (w : Nat) : Except Reject Instr :=
  match bits w 0 4 with
  | 0 => if bits w 4 12 = 0 then .ok (.vloop (fld w 21 5) (fld w 16 5)) else .error .field
  | 1 => if bits w 4 22 = 0 then .ok (.vsync) else .error .field
  | _ => .error .function

/-- The words of opcode 0x27 (R62). -/
def decodeShape (w : Nat) : Except Reject Instr :=
  match bits w 8 3 with
  | 0 => if bits w 0 8 = 0 ∧ bits w 11 5 = 0 ∧ bits w 21 1 = 0 then .ok (.shld (fld w 22 4) (fld w 16 5)) else .error .field
  | 1 => if bits w 0 8 = 0 ∧ bits w 11 5 = 0 ∧ bits w 21 1 = 0 then .ok (.shobj (fld w 22 4) (fld w 16 5)) else .error .field
  | 2 => if bits w 0 8 = 0 ∧ bits w 11 5 = 0 ∧ bits w 21 1 = 0 then .ok (.shst (fld w 22 4) (fld w 16 5)) else .error .field
  | 3 => if bits w 11 5 = 0 ∧ bits w 21 1 = 0 then .ok (.shset (fld w 22 4) (fld w 16 5) (fld w 0 8)) else .error .field
  | 4 => if bits w 16 6 = 0 then .ok (.shget (fld w 22 4) (fld w 11 5) (fld w 0 8)) else .error .field
  | _ => .error .function

/-- The words of opcode 0x28 (R63). -/
def decodeMma (w : Nat) : Except Reject Instr :=
  match bits w 12 1 with
  | 0 => if bits w 0 6 = 0 then dtypeOf (bits w 13 5) >>= fun ty => scopeOf (bits w 7 3) >>= fun scope => .ok (.mma (fld w 24 2) (fld w 20 4) (fld w 18 2) ty (flag w 11) (flag w 10) scope (flag w 6)) else .error .field
  | _ => if bits w 0 6 = 0 then dtypeOf (bits w 13 5) >>= fun ty => scopeOf (bits w 7 3) >>= fun scope => .ok (.mmcx (fld w 24 2) (fld w 20 4) (fld w 18 2) ty (flag w 11) (flag w 10) scope (flag w 6)) else .error .field

/-- The words of opcode 0x2A (R65). -/
def decodeMatrixKeep (w : Nat) : Except Reject Instr :=
  match bits w 20 4 with
  | 0 => if bits w 0 6 = 0 ∧ bits w 18 2 = 0 ∧ bits w 24 2 = 0 then dtypeOf (bits w 6 5) >>= fun ty => .ok (.mwld (fld w 16 2) (fld w 11 5) ty) else .error .field
  | 1 => if bits w 0 20 = 0 then .ok (.maclr (fld w 24 2)) else .error .field
  | 2 => if bits w 0 2 = 0 ∧ bits w 11 5 = 0 then dtypeOf (bits w 6 5) >>= fun ty => rndOf (bits w 3 3) >>= fun rnd => .ok (.macrd (fld w 24 2) (fld w 16 4) ty rnd (flag w 2)) else .error .field
  | 3 => if bits w 0 6 = 0 ∧ bits w 11 5 = 0 then dtypeOf (bits w 6 5) >>= fun ty => .ok (.macwr (fld w 24 2) (fld w 16 4) ty) else .error .field
  | 4 => if bits w 0 2 = 0 then dtypeOf (bits w 6 5) >>= fun ty => rndOf (bits w 3 3) >>= fun rnd => .ok (.mepi (fld w 24 2) (fld w 16 4) (fld w 11 5) ty rnd (flag w 2)) else .error .field
  | 5 => if bits w 0 20 = 0 then .ok (.macq (fld w 24 2)) else .error .field
  | 6 => if bits w 0 20 = 0 then .ok (.mrel (fld w 24 2)) else .error .field
  | _ => .error .function

/-- The words of opcode 0x2B (R56). -/
def decodeSystem (w : Nat) : Except Reject Instr :=
  match bits w 24 2 with
  | 0 => if bits w 0 11 = 0 then .ok (.sysrd (fld w 16 8) (fld w 11 5)) else .error .field
  | 1 => if bits w 0 6 = 0 ∧ bits w 11 5 = 0 then .ok (.syswr (fld w 16 8) (fld w 6 5)) else .error .field
  | 2 =>
    match bits w 16 8 with
    | 0 => .ok (.trap (fld w 0 16))
    | 1 => if bits w 0 16 = 0 then .ok .eret else .error .field
    | 16 => if bits w 0 16 = 0 then .ok .ckpt else .error .field
    | 17 => if bits w 0 11 = 0 then .ok (.caskuse (fld w 11 5)) else .error .field
    | 18 => if bits w 0 11 = 0 then .ok (.scanno (fld w 11 5)) else .error .field
    | 19 => if bits w 0 11 = 0 then .ok (.provq (fld w 11 5)) else .error .field
    | 20 => if bits w 0 16 = 0 then .ok .irrev else .error .field
    | 21 => if bits w 0 6 = 0 then .ok (.cmtq (fld w 11 5) (fld w 6 5)) else .error .field
    | 22 => if bits w 0 6 = 0 ∧ bits w 11 5 = 0 then .ok (.abort (fld w 6 5)) else .error .field
    | _ => .error .function
  | _ => .error .function

/-- The words of opcode 0x3F (R68). -/
def decodeHint (w : Nat) : Except Reject Instr :=
  match bits w 24 2 with
  | 0 => .ok (.hintImm (fld w 0 24))
  | 1 => if bits w 3 21 = 0 then brHintOf (bits w 0 2) >>= fun br => .ok (.hintSched (flag w 2) br) else .error .field
  | 2 => if bits w 9 15 = 0 then .ok (.hintMod (flag w 8) (fld w 1 7) (flag w 0)) else .error .field
  | _ => .error .function

/-- The word's fields read by its major opcode (R40), before the limits of `wellFormed`. -/
def decodeRaw (w : Nat) : Except Reject Instr :=
  match bits w 26 6 with
  | 1 => decodeIntegerRR w
  | 2 => .ok (.addi (fld w 21 5) (fld w 16 5) (fld w 0 16))
  | 3 => .ok (.andi (fld w 21 5) (fld w 16 5) (fld w 0 16))
  | 4 => .ok (.ori (fld w 21 5) (fld w 16 5) (fld w 0 16))
  | 5 => .ok (.xori (fld w 21 5) (fld w 16 5) (fld w 0 16))
  | 6 => .ok (.slti (fld w 21 5) (fld w 16 5) (fld w 0 16))
  | 7 => if bits w 16 5 = 0 then .ok (.lui (fld w 21 5) (fld w 0 16)) else .error .field
  | 8 => decodeImmediateShift w
  | 10 => decodeScalarFp w
  | 11 => if bits w 0 1 = 0 then dtypeOf (bits w 11 5) >>= fun dt => dtypeOf (bits w 6 5) >>= fun st => rndOf (bits w 3 3) >>= fun rnd => .ok (.fcvt (fld w 21 5) (fld w 16 5) dt st rnd (flag w 2) (flag w 1)) else .error .field
  | 12 => .ok (.beq (fld w 21 5) (fld w 16 5) (fld w 0 16))
  | 13 => .ok (.bne (fld w 21 5) (fld w 16 5) (fld w 0 16))
  | 14 => .ok (.blt (fld w 21 5) (fld w 16 5) (fld w 0 16))
  | 15 => .ok (.bge (fld w 21 5) (fld w 16 5) (fld w 0 16))
  | 16 => .ok (.bltu (fld w 21 5) (fld w 16 5) (fld w 0 16))
  | 17 => .ok (.bgeu (fld w 21 5) (fld w 16 5) (fld w 0 16))
  | 18 => .ok (.jal (fld w 21 5) (fld w 0 21))
  | 19 => .ok (.jalr (fld w 21 5) (fld w 16 5) (fld w 0 16))
  | 20 => ldSizeOf (bits w 13 3) >>= fun sz => .ok (.ld (fld w 21 5) (fld w 16 5) sz (fld w 0 13))
  | 21 => stSizeOf (bits w 13 3) >>= fun sz => .ok (.st (fld w 21 5) (fld w 16 5) sz (fld w 0 13))
  | 22 => ldSizeOf (bits w 13 3) >>= fun sz => .ok (.ldp (fld w 21 5) (fld w 16 5) sz (fld w 10 3) (fld w 0 10))
  | 23 => decodeMessage w
  | 24 => aopOf (bits w 7 4) >>= fun aop => asizeOf (bits w 5 2) >>= fun sz => scopeOf (bits w 0 3) >>= fun scope => .ok (.amo (fld w 21 5) (fld w 16 5) (fld w 11 5) aop sz (ordOf (bits w 3 2)) scope)
  | 25 => if bits w 7 4 = 0 then asizeOf (bits w 5 2) >>= fun sz => scopeOf (bits w 0 3) >>= fun scope => .ok (.cas (fld w 21 5) (fld w 16 5) (fld w 11 5) sz (ordOf (bits w 3 2)) scope) else .error .field
  | 26 => if bits w 21 5 = 0 then aopOf (bits w 7 4) >>= fun aop => asizeOf (bits w 5 2) >>= fun sz => scopeOf (bits w 0 3) >>= fun scope => .ok (.red (fld w 16 5) (fld w 11 5) aop sz (ordOf (bits w 3 2)) scope) else .error .field
  | 27 => decodeSync w
  | 28 => if bits w 16 10 = 0 then .ok (.wait (fld w 12 4) (fld w 8 4) (fld w 4 4) (fld w 0 4)) else .error .field
  | 29 => decodeBuffer w
  | 30 => decodeTask w
  | 31 => decodeCollective w
  | 32 => decodeCopy w
  | 33 => decodeStream w
  | 34 => decodeGather w
  | 35 => decodeVectorArith w
  | 36 => decodeVectorTrans w
  | 37 => decodeVectorReduce w
  | 38 => decodeVectorSeq w
  | 39 => decodeShape w
  | 40 => decodeMma w
  | 41 => if bits w 0 3 = 0 then dtypeOf (bits w 13 5) >>= fun ty => scopeOf (bits w 4 3) >>= fun scope => .ok (.mconv (fld w 24 2) (fld w 20 4) (fld w 18 2) ty (fld w 9 4) (flag w 8) (flag w 7) scope (flag w 3)) else .error .field
  | 42 => decodeMatrixKeep w
  | 43 => decodeSystem w
  | 63 => decodeHint w
  | _ => .error .opcode

/-- The instruction a 32-bit value stands for, within the limits of its form (R71, R74). -/
def decodeWord (w : Nat) : Except Reject Instr :=
  match decodeRaw w with
  | .error e => .error e
  | .ok i => if wellFormed i then .ok i else .error .limit

/-- The value of bytes, the first the least significant (R25). -/
def leNat : List Byte → Nat
  | [] => 0
  | b :: t => b.toNat + 256 * leNat t

/-- The first n bytes of a value, the least significant first (R25). -/
def leBytes : Nat → Nat → List Byte
  | 0, _ => []
  | n + 1, v => BitVec.ofNat 8 v :: leBytes n (v / 256)

/-- The instruction in the first four bytes, and the bytes after it. -/
def decodeBytes (l : List Byte) : Except Reject (Instr × List Byte) :=
  if l.length < 4 then .error .short
  else
    match decodeWord (leNat (l.take 4)) with
    | .error e => .error e
    | .ok i => .ok (i, l.drop 4)

/-- The decoder's answer to an instruction whose bits are w, laid out as the hardware stores it: every word has 32
bits, and the rows without an encoding have none. -/
def decodeTableWord (nbits w : Nat) : Option Instr :=
  if nbits = 32 then
    match decodeBytes (leBytes 4 w) with
    | .ok (i, _) => some i
    | .error _ => none
  else none

/-- The word of an instruction (R39-R65), `none` for the table's rows that have no encoding. -/
def encode : Instr → Option Nat
  | .add d a b => some (0x4000000 + d.toNat * 0x200000 + a.toNat * 0x10000 + b.toNat * 0x800)
  | .sub d a b => some (0x4000001 + d.toNat * 0x200000 + a.toNat * 0x10000 + b.toNat * 0x800)
  | .and d a b => some (0x4000002 + d.toNat * 0x200000 + a.toNat * 0x10000 + b.toNat * 0x800)
  | .or d a b => some (0x4000003 + d.toNat * 0x200000 + a.toNat * 0x10000 + b.toNat * 0x800)
  | .xor d a b => some (0x4000004 + d.toNat * 0x200000 + a.toNat * 0x10000 + b.toNat * 0x800)
  | .andn d a b => some (0x4000005 + d.toNat * 0x200000 + a.toNat * 0x10000 + b.toNat * 0x800)
  | .sll d a b => some (0x4000006 + d.toNat * 0x200000 + a.toNat * 0x10000 + b.toNat * 0x800)
  | .srl d a b => some (0x4000007 + d.toNat * 0x200000 + a.toNat * 0x10000 + b.toNat * 0x800)
  | .sra d a b => some (0x4000008 + d.toNat * 0x200000 + a.toNat * 0x10000 + b.toNat * 0x800)
  | .ror d a b => some (0x4000009 + d.toNat * 0x200000 + a.toNat * 0x10000 + b.toNat * 0x800)
  | .slt d a b => some (0x400000a + d.toNat * 0x200000 + a.toNat * 0x10000 + b.toNat * 0x800)
  | .sltu d a b => some (0x400000b + d.toNat * 0x200000 + a.toNat * 0x10000 + b.toNat * 0x800)
  | .min d a b => some (0x400000c + d.toNat * 0x200000 + a.toNat * 0x10000 + b.toNat * 0x800)
  | .max d a b => some (0x400000d + d.toNat * 0x200000 + a.toNat * 0x10000 + b.toNat * 0x800)
  | .minu d a b => some (0x400000e + d.toNat * 0x200000 + a.toNat * 0x10000 + b.toNat * 0x800)
  | .maxu d a b => some (0x400000f + d.toNat * 0x200000 + a.toNat * 0x10000 + b.toNat * 0x800)
  | .mul d a b => some (0x4000010 + d.toNat * 0x200000 + a.toNat * 0x10000 + b.toNat * 0x800)
  | .mulh d a b => some (0x4000011 + d.toNat * 0x200000 + a.toNat * 0x10000 + b.toNat * 0x800)
  | .mulhu d a b => some (0x4000012 + d.toNat * 0x200000 + a.toNat * 0x10000 + b.toNat * 0x800)
  | .mulx d a b => some (0x4000013 + d.toNat * 0x200000 + a.toNat * 0x10000 + b.toNat * 0x800)
  | .mulxu d a b => some (0x4000014 + d.toNat * 0x200000 + a.toNat * 0x10000 + b.toNat * 0x800)
  | .div d a b => some (0x4000015 + d.toNat * 0x200000 + a.toNat * 0x10000 + b.toNat * 0x800)
  | .divu d a b => some (0x4000016 + d.toNat * 0x200000 + a.toNat * 0x10000 + b.toNat * 0x800)
  | .rem d a b => some (0x4000017 + d.toNat * 0x200000 + a.toNat * 0x10000 + b.toNat * 0x800)
  | .remu d a b => some (0x4000018 + d.toNat * 0x200000 + a.toNat * 0x10000 + b.toNat * 0x800)
  | .addw d a b => some (0x4000019 + d.toNat * 0x200000 + a.toNat * 0x10000 + b.toNat * 0x800)
  | .subw d a b => some (0x400001a + d.toNat * 0x200000 + a.toNat * 0x10000 + b.toNat * 0x800)
  | .mulw d a b => some (0x400001b + d.toNat * 0x200000 + a.toNat * 0x10000 + b.toNat * 0x800)
  | .clz d a => some (0x400001c + d.toNat * 0x200000 + a.toNat * 0x10000)
  | .ctz d a => some (0x400001d + d.toNat * 0x200000 + a.toNat * 0x10000)
  | .popc d a => some (0x400001e + d.toNat * 0x200000 + a.toNat * 0x10000)
  | .sextb d a => some (0x400001f + d.toNat * 0x200000 + a.toNat * 0x10000)
  | .sexth d a => some (0x4000020 + d.toNat * 0x200000 + a.toNat * 0x10000)
  | .sextw d a => some (0x4000021 + d.toNat * 0x200000 + a.toNat * 0x10000)
  | .zextw d a => some (0x4000022 + d.toNat * 0x200000 + a.toNat * 0x10000)
  | .bext d a b => some (0x4000023 + d.toNat * 0x200000 + a.toNat * 0x10000 + b.toNat * 0x800)
  | .bextu d a b => some (0x4000024 + d.toNat * 0x200000 + a.toNat * 0x10000 + b.toNat * 0x800)
  | .bins d a b => some (0x4000025 + d.toNat * 0x200000 + a.toNat * 0x10000 + b.toNat * 0x800)
  | .divt d a b => some (0x4000026 + d.toNat * 0x200000 + a.toNat * 0x10000 + b.toNat * 0x800)
  | .remt d a b => some (0x4000027 + d.toNat * 0x200000 + a.toNat * 0x10000 + b.toNat * 0x800)
  | .addi d a imm => some (0x8000000 + d.toNat * 0x200000 + a.toNat * 0x10000 + imm.toNat)
  | .andi d a imm => some (0xc000000 + d.toNat * 0x200000 + a.toNat * 0x10000 + imm.toNat)
  | .ori d a imm => some (0x10000000 + d.toNat * 0x200000 + a.toNat * 0x10000 + imm.toNat)
  | .xori d a imm => some (0x14000000 + d.toNat * 0x200000 + a.toNat * 0x10000 + imm.toNat)
  | .slti d a imm => some (0x18000000 + d.toNat * 0x200000 + a.toNat * 0x10000 + imm.toNat)
  | .lui d imm => some (0x1c000000 + d.toNat * 0x200000 + imm.toNat)
  | .slli d a pos => some (0x20000000 + d.toNat * 0x200000 + a.toNat * 0x10000 + pos.toNat * 0x40)
  | .srli d a pos => some (0x20001000 + d.toNat * 0x200000 + a.toNat * 0x10000 + pos.toNat * 0x40)
  | .srai d a pos => some (0x20002000 + d.toNat * 0x200000 + a.toNat * 0x10000 + pos.toNat * 0x40)
  | .rori d a pos => some (0x20003000 + d.toNat * 0x200000 + a.toNat * 0x10000 + pos.toNat * 0x40)
  | .bexti d a pos len => some (0x20004000 + d.toNat * 0x200000 + a.toNat * 0x10000 + pos.toNat * 0x40 + len.toNat)
  | .bextui d a pos len => some (0x20005000 + d.toNat * 0x200000 + a.toNat * 0x10000 + pos.toNat * 0x40 + len.toNat)
  | .binsi d a pos len => some (0x20006000 + d.toNat * 0x200000 + a.toNat * 0x10000 + pos.toNat * 0x40 + len.toNat)
  | .fadd d a b rnd ftz => some (0x28000000 + d.toNat * 0x200000 + a.toNat * 0x10000 + b.toNat * 0x800 + rnd.code * 0x100 + ftz.toNat * 0x80)
  | .fsub d a b rnd ftz => some (0x28000001 + d.toNat * 0x200000 + a.toNat * 0x10000 + b.toNat * 0x800 + rnd.code * 0x100 + ftz.toNat * 0x80)
  | .fmul d a b rnd ftz => some (0x28000002 + d.toNat * 0x200000 + a.toNat * 0x10000 + b.toNat * 0x800 + rnd.code * 0x100 + ftz.toNat * 0x80)
  | .fdiv d a b rnd ftz => some (0x28000003 + d.toNat * 0x200000 + a.toNat * 0x10000 + b.toNat * 0x800 + rnd.code * 0x100 + ftz.toNat * 0x80)
  | .fsqrt d a rnd ftz => some (0x28000004 + d.toNat * 0x200000 + a.toNat * 0x10000 + rnd.code * 0x100 + ftz.toNat * 0x80)
  | .fma d a b rnd ftz => some (0x28000005 + d.toNat * 0x200000 + a.toNat * 0x10000 + b.toNat * 0x800 + rnd.code * 0x100 + ftz.toNat * 0x80)
  | .fms d a b rnd ftz => some (0x28000006 + d.toNat * 0x200000 + a.toNat * 0x10000 + b.toNat * 0x800 + rnd.code * 0x100 + ftz.toNat * 0x80)
  | .fmin d a b ftz => some (0x28000007 + d.toNat * 0x200000 + a.toNat * 0x10000 + b.toNat * 0x800 + ftz.toNat * 0x80)
  | .fmax d a b ftz => some (0x28000008 + d.toNat * 0x200000 + a.toNat * 0x10000 + b.toNat * 0x800 + ftz.toNat * 0x80)
  | .fabs d a => some (0x28000009 + d.toNat * 0x200000 + a.toNat * 0x10000)
  | .fneg d a => some (0x2800000a + d.toNat * 0x200000 + a.toNat * 0x10000)
  | .fsgnj d a b => some (0x2800000b + d.toNat * 0x200000 + a.toNat * 0x10000 + b.toNat * 0x800)
  | .feq d a b ftz => some (0x2800000c + d.toNat * 0x200000 + a.toNat * 0x10000 + b.toNat * 0x800 + ftz.toNat * 0x80)
  | .flt d a b ftz => some (0x2800000d + d.toNat * 0x200000 + a.toNat * 0x10000 + b.toNat * 0x800 + ftz.toNat * 0x80)
  | .fle d a b ftz => some (0x2800000e + d.toNat * 0x200000 + a.toNat * 0x10000 + b.toNat * 0x800 + ftz.toNat * 0x80)
  | .fclass d a => some (0x2800000f + d.toNat * 0x200000 + a.toNat * 0x10000)
  | .fcvt d a dt st rnd sat ftz => some (0x2c000000 + d.toNat * 0x200000 + a.toNat * 0x10000 + dt.code * 0x800 + st.code * 0x40 + rnd.code * 0x8 + sat.toNat * 0x4 + ftz.toNat * 0x2)
  | .beq a b off => some (0x30000000 + a.toNat * 0x200000 + b.toNat * 0x10000 + off.toNat)
  | .bne a b off => some (0x34000000 + a.toNat * 0x200000 + b.toNat * 0x10000 + off.toNat)
  | .blt a b off => some (0x38000000 + a.toNat * 0x200000 + b.toNat * 0x10000 + off.toNat)
  | .bge a b off => some (0x3c000000 + a.toNat * 0x200000 + b.toNat * 0x10000 + off.toNat)
  | .bltu a b off => some (0x40000000 + a.toNat * 0x200000 + b.toNat * 0x10000 + off.toNat)
  | .bgeu a b off => some (0x44000000 + a.toNat * 0x200000 + b.toNat * 0x10000 + off.toNat)
  | .jal d off => some (0x48000000 + d.toNat * 0x200000 + off.toNat)
  | .jalr d a imm => some (0x4c000000 + d.toNat * 0x200000 + a.toNat * 0x10000 + imm.toNat)
  | .ld d a sz imm => some (0x50000000 + d.toNat * 0x200000 + a.toNat * 0x10000 + sz.code * 0x2000 + imm.toNat)
  | .st d a sz imm => some (0x54000000 + d.toNat * 0x200000 + a.toNat * 0x10000 + sz.code * 0x2000 + imm.toNat)
  | .ldp d a sz pw disp => some (0x58000000 + d.toNat * 0x200000 + a.toNat * 0x10000 + sz.code * 0x2000 + pw.toNat * 0x400 + disp.toNat)
  | .geta tag a b len => some (0x5c000000 + tag.toNat * 0x200000 + a.toNat * 0x10000 + b.toNat * 0x800 + len.toNat)
  | .puta tag a b len => some (0x5c000100 + tag.toNat * 0x200000 + a.toNat * 0x10000 + b.toNat * 0x800 + len.toNat)
  | .recv d tag => some (0x5c000200 + d.toNat * 0x200000 + tag.toNat * 0x10000)
  | .tbind tag a => some (0x5c000300 + tag.toNat * 0x200000 + a.toNat * 0x10000)
  | .amo d a b aop sz ord scope => some (0x60000000 + d.toNat * 0x200000 + a.toNat * 0x10000 + b.toNat * 0x800 + aop.code * 0x80 + sz.code * 0x20 + ord.code * 0x8 + scope.code)
  | .cas d a b sz ord scope => some (0x64000000 + d.toNat * 0x200000 + a.toNat * 0x10000 + b.toNat * 0x800 + sz.code * 0x20 + ord.code * 0x8 + scope.code)
  | .red a b aop sz ord scope => some (0x68000000 + a.toNat * 0x10000 + b.toNat * 0x800 + aop.code * 0x80 + sz.code * 0x20 + ord.code * 0x8 + scope.code)
  | .acq a scope => some (0x6c000000 + a.toNat * 0x10000 + scope.code)
  | .rel a scope => some (0x6c000100 + a.toNat * 0x10000 + scope.code)
  | .fence scope => some (0x6c000200 + scope.code)
  | .wait ld st cp tl => some (0x70000000 + ld.toNat * 0x1000 + st.toNat * 0x100 + cp.toNat * 0x10 + tl.toNat)
  | .bdecl a b buf => some (0x74000000 + a.toNat * 0x10000 + b.toNat * 0x800 + buf.toNat * 0x20)
  | .bfill buf => some (0x74000001 + buf.toNat * 0x20)
  | .bfull buf => some (0x74000002 + buf.toNat * 0x20)
  | .bdrain buf => some (0x74000003 + buf.toNat * 0x20)
  | .bempty buf => some (0x74000004 + buf.toNat * 0x20)
  | .bstat d buf => some (0x74000005 + d.toNat * 0x200000 + buf.toNat * 0x20)
  | .spawn d a b => some (0x78000000 + d.toNat * 0x200000 + a.toNat * 0x10000 + b.toNat * 0x800)
  | .suspend => some (0x78000001)
  | .exit a => some (0x78000002 + a.toNat * 0x10000)
  | .decr a => some (0x78000003 + a.toNat * 0x10000)
  | .yield => some (0x78000004)
  | .depadd a b => some (0x78000005 + a.toNat * 0x10000 + b.toNat * 0x800)
  | .tself d => some (0x78000006 + d.toNat * 0x200000)
  | .ctb a grp acq rel => some (0x7c000000 + a.toNat * 0x10000 + grp.toNat * 0x400 + acq.toNat * 0x40 + rel.toNat * 0x20)
  | .crd d grp rnd => some (0x7c000004 + d.toNat * 0x200000 + grp.toNat * 0x400 + rnd.code * 0x80)
  | .chain d a grp => some (0x7c000008 + d.toNat * 0x200000 + a.toNat * 0x10000 + grp.toNat * 0x400)
  | .gstat d grp => some (0x7c00000c + d.toNat * 0x200000 + grp.toNat * 0x400)
  | .ccfg a grp => some (0x7c000010 + a.toNat * 0x10000 + grp.toNat * 0x400)
  | .copy d a b ch wm acq rel scope => some (0x80000000 + d.toNat * 0x200000 + a.toNat * 0x10000 + b.toNat * 0x800 + ch.toNat * 0x100 + wm.toNat * 0x80 + acq.toNat * 0x40 + rel.toNat * 0x20 + scope.code * 0x4)
  | .cwait a ch => some (0x80000001 + a.toNat * 0x10000 + ch.toNat * 0x100)
  | .cdone d ch => some (0x80000002 + d.toNat * 0x200000 + ch.toNat * 0x100)
  | .cwm d ch => some (0x80000006 + d.toNat * 0x200000 + ch.toNat * 0x100)
  | .cnext d ch => some (0x8000000a + d.toNat * 0x200000 + ch.toNat * 0x100)
  | .chstat d ch => some (0x8000000e + d.toNat * 0x200000 + ch.toNat * 0x100)
  | .cabort ch => some (0x80000003 + ch.toNat * 0x100)
  | .strm d a ch => some (0x84000000 + d.toNat * 0x200000 + a.toNat * 0x10000 + ch.toNat * 0x100)
  | .strmw d a ch => some (0x84000020 + d.toNat * 0x200000 + a.toNat * 0x10000 + ch.toNat * 0x100)
  | .strmend d ch => some (0x84000040 + d.toNat * 0x200000 + ch.toNat * 0x100)
  | .gather d a b ch oobf acq rel scope => some (0x88000000 + d.toNat * 0x200000 + a.toNat * 0x10000 + b.toNat * 0x800 + ch.toNat * 0x100 + oobf.toNat * 0x40 + acq.toNat * 0x20 + rel.toNat * 0x10 + scope.code * 0x2)
  | .scatter d a b ch oobf acq rel scope => some (0x88000080 + d.toNat * 0x200000 + a.toNat * 0x10000 + b.toNat * 0x800 + ch.toNat * 0x100 + oobf.toNat * 0x40 + acq.toNat * 0x20 + rel.toNat * 0x10 + scope.code * 0x2)
  | .vadd dk ak bk ty rnd sat => some (0x8c000000 + dk.toNat * 0x400000 + ak.toNat * 0x40000 + bk.toNat * 0x4000 + ty.code * 0x200 + rnd.code * 0x40 + sat.toNat * 0x20)
  | .vsub dk ak bk ty rnd sat => some (0x8c000001 + dk.toNat * 0x400000 + ak.toNat * 0x40000 + bk.toNat * 0x4000 + ty.code * 0x200 + rnd.code * 0x40 + sat.toNat * 0x20)
  | .vmul dk ak bk ty rnd sat => some (0x8c000002 + dk.toNat * 0x400000 + ak.toNat * 0x40000 + bk.toNat * 0x4000 + ty.code * 0x200 + rnd.code * 0x40 + sat.toNat * 0x20)
  | .vfma dk ak bk ty rnd sat => some (0x8c000003 + dk.toNat * 0x400000 + ak.toNat * 0x40000 + bk.toNat * 0x4000 + ty.code * 0x200 + rnd.code * 0x40 + sat.toNat * 0x20)
  | .vfms dk ak bk ty rnd sat => some (0x8c000004 + dk.toNat * 0x400000 + ak.toNat * 0x40000 + bk.toNat * 0x4000 + ty.code * 0x200 + rnd.code * 0x40 + sat.toNat * 0x20)
  | .vmin dk ak bk ty => some (0x8c000005 + dk.toNat * 0x400000 + ak.toNat * 0x40000 + bk.toNat * 0x4000 + ty.code * 0x200)
  | .vmax dk ak bk ty => some (0x8c000006 + dk.toNat * 0x400000 + ak.toNat * 0x40000 + bk.toNat * 0x4000 + ty.code * 0x200)
  | .vabs dk ak ty => some (0x8c000007 + dk.toNat * 0x400000 + ak.toNat * 0x40000 + ty.code * 0x200)
  | .vneg dk ak ty => some (0x8c000008 + dk.toNat * 0x400000 + ak.toNat * 0x40000 + ty.code * 0x200)
  | .vand dk ak bk ty => some (0x8c000009 + dk.toNat * 0x400000 + ak.toNat * 0x40000 + bk.toNat * 0x4000 + ty.code * 0x200)
  | .vor dk ak bk ty => some (0x8c00000a + dk.toNat * 0x400000 + ak.toNat * 0x40000 + bk.toNat * 0x4000 + ty.code * 0x200)
  | .vxor dk ak bk ty => some (0x8c00000b + dk.toNat * 0x400000 + ak.toNat * 0x40000 + bk.toNat * 0x4000 + ty.code * 0x200)
  | .vshl dk ak bk ty sat => some (0x8c00000c + dk.toNat * 0x400000 + ak.toNat * 0x40000 + bk.toNat * 0x4000 + ty.code * 0x200 + sat.toNat * 0x20)
  | .vshr dk ak bk ty => some (0x8c00000d + dk.toNat * 0x400000 + ak.toNat * 0x40000 + bk.toNat * 0x4000 + ty.code * 0x200)
  | .vsra dk ak bk ty => some (0x8c00000e + dk.toNat * 0x400000 + ak.toNat * 0x40000 + bk.toNat * 0x4000 + ty.code * 0x200)
  | .vcmul dk ak bk ty rnd sat => some (0x8c00000f + dk.toNat * 0x400000 + ak.toNat * 0x40000 + bk.toNat * 0x4000 + ty.code * 0x200 + rnd.code * 0x40 + sat.toNat * 0x20)
  | .vcmac dk ak bk ty rnd sat => some (0x8c000010 + dk.toNat * 0x400000 + ak.toNat * 0x40000 + bk.toNat * 0x4000 + ty.code * 0x200 + rnd.code * 0x40 + sat.toNat * 0x20)
  | .vconj dk ak ty => some (0x8c000011 + dk.toNat * 0x400000 + ak.toNat * 0x40000 + ty.code * 0x200)
  | .vmov dk ak ty => some (0x8c000012 + dk.toNat * 0x400000 + ak.toNat * 0x40000 + ty.code * 0x200)
  | .vexp2 dk ak ty rnd sat => some (0x90000000 + dk.toNat * 0x400000 + ak.toNat * 0x40000 + ty.code * 0x200 + rnd.code * 0x40 + sat.toNat * 0x20)
  | .vlog2 dk ak ty rnd sat => some (0x90000001 + dk.toNat * 0x400000 + ak.toNat * 0x40000 + ty.code * 0x200 + rnd.code * 0x40 + sat.toNat * 0x20)
  | .vrcp dk ak ty rnd sat => some (0x90000002 + dk.toNat * 0x400000 + ak.toNat * 0x40000 + ty.code * 0x200 + rnd.code * 0x40 + sat.toNat * 0x20)
  | .vrsqrt dk ak ty rnd sat => some (0x90000003 + dk.toNat * 0x400000 + ak.toNat * 0x40000 + ty.code * 0x200 + rnd.code * 0x40 + sat.toNat * 0x20)
  | .vcvt dk ak ty rnd sat => some (0x90000004 + dk.toNat * 0x400000 + ak.toNat * 0x40000 + ty.code * 0x200 + rnd.code * 0x40 + sat.toNat * 0x20)
  | .vrsum dk ak ty rnd sat => some (0x94000000 + dk.toNat * 0x400000 + ak.toNat * 0x40000 + ty.code * 0x200 + rnd.code * 0x40 + sat.toNat * 0x20)
  | .vrmax dk ak ty => some (0x94000001 + dk.toNat * 0x400000 + ak.toNat * 0x40000 + ty.code * 0x200)
  | .vrmin dk ak ty => some (0x94000002 + dk.toNat * 0x400000 + ak.toNat * 0x40000 + ty.code * 0x200)
  | .vceq dk ak bk ty => some (0x94000003 + dk.toNat * 0x400000 + ak.toNat * 0x40000 + bk.toNat * 0x4000 + ty.code * 0x200)
  | .vclt dk ak bk ty => some (0x94000004 + dk.toNat * 0x400000 + ak.toNat * 0x40000 + bk.toNat * 0x4000 + ty.code * 0x200)
  | .vcle dk ak bk ty => some (0x94000005 + dk.toNat * 0x400000 + ak.toNat * 0x40000 + bk.toNat * 0x4000 + ty.code * 0x200)
  | .vsel dk ak bk ty => some (0x94000006 + dk.toNat * 0x400000 + ak.toNat * 0x40000 + bk.toNat * 0x4000 + ty.code * 0x200)
  | .vperm dk ak bk ty => some (0x94000007 + dk.toNat * 0x400000 + ak.toNat * 0x40000 + bk.toNat * 0x4000 + ty.code * 0x200)
  | .vbcast dk ak ty => some (0x94000008 + dk.toNat * 0x400000 + ak.toNat * 0x40000 + ty.code * 0x200)
  | .vzip dk ak bk ty => some (0x94000009 + dk.toNat * 0x400000 + ak.toNat * 0x40000 + bk.toNat * 0x4000 + ty.code * 0x200)
  | .vunzip dk ak bk ty => some (0x9400000a + dk.toNat * 0x400000 + ak.toNat * 0x40000 + bk.toNat * 0x4000 + ty.code * 0x200)
  | .vrev dk ak ty => some (0x9400000b + dk.toNat * 0x400000 + ak.toNat * 0x40000 + ty.code * 0x200)
  | .vloop a n => some (0x98000000 + a.toNat * 0x200000 + n.toNat * 0x10000)
  | .vsync => some (0x98000001)
  | .shld k a => some (0x9c000000 + k.toNat * 0x400000 + a.toNat * 0x10000)
  | .shobj k a => some (0x9c000100 + k.toNat * 0x400000 + a.toNat * 0x10000)
  | .shst k a => some (0x9c000200 + k.toNat * 0x400000 + a.toNat * 0x10000)
  | .shset k a field => some (0x9c000300 + k.toNat * 0x400000 + a.toNat * 0x10000 + field.toNat)
  | .shget k b field => some (0x9c000400 + k.toNat * 0x400000 + b.toNat * 0x800 + field.toNat)
  | .mma acc ak w ty acq rel scope clr => some (0xa0000000 + acc.toNat * 0x1000000 + ak.toNat * 0x100000 + w.toNat * 0x40000 + ty.code * 0x2000 + acq.toNat * 0x800 + rel.toNat * 0x400 + scope.code * 0x80 + clr.toNat * 0x40)
  | .mmcx acc ak w ty acq rel scope clr => some (0xa0001000 + acc.toNat * 0x1000000 + ak.toNat * 0x100000 + w.toNat * 0x40000 + ty.code * 0x2000 + acq.toNat * 0x800 + rel.toNat * 0x400 + scope.code * 0x80 + clr.toNat * 0x40)
  | .mconv acc ak w ty kk acq rel scope clr => some (0xa4000000 + acc.toNat * 0x1000000 + ak.toNat * 0x100000 + w.toNat * 0x40000 + ty.code * 0x2000 + kk.toNat * 0x200 + acq.toNat * 0x100 + rel.toNat * 0x80 + scope.code * 0x10 + clr.toNat * 0x8)
  | .mwld w a ty => some (0xa8000000 + w.toNat * 0x10000 + a.toNat * 0x800 + ty.code * 0x40)
  | .maclr acc => some (0xa8100000 + acc.toNat * 0x1000000)
  | .macrd acc ks ty rnd sat => some (0xa8200000 + acc.toNat * 0x1000000 + ks.toNat * 0x10000 + ty.code * 0x40 + rnd.code * 0x8 + sat.toNat * 0x4)
  | .macwr acc ks ty => some (0xa8300000 + acc.toNat * 0x1000000 + ks.toNat * 0x10000 + ty.code * 0x40)
  | .mepi acc ks a ty rnd sat => some (0xa8400000 + acc.toNat * 0x1000000 + ks.toNat * 0x10000 + a.toNat * 0x800 + ty.code * 0x40 + rnd.code * 0x8 + sat.toNat * 0x4)
  | .macq acc => some (0xa8500000 + acc.toNat * 0x1000000)
  | .mrel acc => some (0xa8600000 + acc.toNat * 0x1000000)
  | .sysrd num d => some (0xac000000 + num.toNat * 0x10000 + d.toNat * 0x800)
  | .syswr num a => some (0xad000000 + num.toNat * 0x10000 + a.toNat * 0x40)
  | .trap imm => some (0xae000000 + imm.toNat)
  | .eret => some (0xae010000)
  | .ckpt => some (0xae100000)
  | .caskuse d => some (0xae110000 + d.toNat * 0x800)
  | .scanno d => some (0xae120000 + d.toNat * 0x800)
  | .provq d => some (0xae130000 + d.toNat * 0x800)
  | .irrev => some (0xae140000)
  | .cmtq d a => some (0xae150000 + d.toNat * 0x800 + a.toNat * 0x40)
  | .abort a => some (0xae160000 + a.toNat * 0x40)
  | .hintImm payload => some (0xfc000000 + payload.toNat)
  | .hintSched nt br => some (0xfd000000 + nt.toNat * 0x4 + br.code)
  | .hintMod pv prio ftz => some (0xfe000000 + pv.toNat * 0x100 + prio.toNat * 0x2 + ftz.toNat)
  | .writeQueueDrain .. | .bdeclReport .. | .flitRouting .. | .flitArrival .. | .loadRequest .. | .storeRequest ..
  | .atomicRequest .. | .copyReadRequest .. | .remoteOpen .. | .activeMessage .. | .carriage ..
  | .recordOperation .. | .faultMessage .. | .resumePacket .. | .abortPacket .. | .cellarTraffic .. | .dataReply ..
  | .acknowledgement .. | .landing .. | .landingAck .. | .voidFlit .. | .copyRequest .. | .transferComplete ..
  | .streamRefill .. | .closePacket .. | .sidingAppend .. | .sidingRelease .. | .poolEntry .. | .poolPull ..
  | .pullWithdraw .. | .entryReturn .. | .yieldQuery .. | .suspensionPoint .. | .stallConversion ..
  | .preemptionRequest .. | .preemption .. | .imageRestore .. | .vectorFinish .. | .tileCommandStart ..
  | .tileCommandFinish .. | .tileWriteAck .. | .slewStepBoundary .. | .contribution .. | .result ..
  | .chainPartial .. | .proxyContribution .. | .proxyResult .. | .groupConfiguration ..
  | .groupConfigurationAnswer .. | .collectiveTimerExpiry .. | .chainTimeout .. | .doneWave .. | .doneAnswer ..
  | .doneWaveTimer .. | .gatingWave .. | .gatingAnswer .. | .killMessage .. | .killAck .. | .domainEnd ..
  | .domainEndAck .. | .drainWave .. | .drainAck .. | .caskDiscard .. | .killCleanup .. | .lock .. | .lockAck ..
  | .unlock .. | .unlockAck .. | .commitStart .. | .commitIntentAck .. | .commitBroadcast .. | .commitAck ..
  | .completionMessage .. | .vintageSwitch .. | .switch .. | .switchAck .. | .caskuseQuery .. | .caskuseAnswer ..
  | .caskMerge .. | .launchTake .. | .admission .. | .startTimeReached .. | .fireWave .. | .deadlineExpiry ..
  | .recordStoreFill .. | .healthSweepStart .. | .healthSweep .. | .ringSweepTimeout .. | .rebindFence ..
  | .rebindFenceAck .. | .rebindBind .. | .rebindBindAck .. | .rebindRelease .. | .rebindReleaseAck ..
  | .managementRequest .. | .managementResponse | .timeDistribution .. | .translationMiss .. | .intervalTimer ..
  | .highWater .. | .checkpointBoundary .. | .cellarCopy .. | .intervalClose .. | .mirrorFold .. | .detectedError ..
  | .sparingRestore .. | .sparingBind .. | .sparingRelease .. | .logReplay .. | .replayEnd ..
  | .diagnosticScanResult .. | .cellarHostLoss .. | .rotationPass .. | .scanPass .. | .scanPassResult ..
  | .contextWatchdog .. | .coreWatchdog .. | .codeWindowEnd .. | .channelRetirementRequest .. | .blockMove ..
  | .hostMemoryRead .. | .hostMemoryWrite .. | .submit .. | .qctlEnable .. | .qctlFlush .. | .killWrite ..
  | .pctlCreate .. | .pctlDissolve .. | .pctlOperationEnd .. | .semRead .. | .semWrite .. | .tsecRead ..
  | .tnsWrite .. | .timeStep .. | .registerWrite .. | .ppsEdge | .sclLinkDown .. | .warmReset | .coldBringup
  | .mgcSemFree | .linkDataFlit .. | .linkIdleFlit .. | .linkNakFlit .. | .linkRetrainFlit ..
  | .linkReplayTimeout .. | .laneLoss .. | .retrainComplete .. | .portDown .. | .fullTrainingComplete ..
  | .bhlRetrain .. | .bhlEnable .. | .peerRequest .. | .exportRequest .. | .peerDataReturn ..
  | .peerFailoverTimeout .. | .inputUndervoltage | .rideThroughLimit | .rideThroughEnd | .inputPowerLoss
  | .inputOvervoltage | .powerMeasurement .. | .sagDetect .. | .sagClear .. | .sagCapLower .. | .overtemperature ..
  | .overtemperatureStep .. | .coolantFlowLoss | .heartbeatMiss .. | .sidingFullTimeout .. | .mgcWatchdog
  | .operatorKill .. | .firmwareUpdate .. | .attestationRequest .. | .illegalEncoding | .instructionFetchFault ..
  | .lineEviction .. | .scalarResultReady .. | .warmResetEnd | .warmResetFailure | .coldBringupEnd
  | .timeDistributionSend => none

/-- The word of a well-formed instruction. -/
def encodeWord (i : Instr) : Option Nat := if wellFormed i then encode i else none

end Sys2Proof
end

