-- ==== Sys2Proof/Machine/Flags.lean ====
section
/-!
DEFINITION. The sticky bits of sys.sticky (R32) and the flag computations over them: which bit an event sets, how bits
join the register, and what a write of ones clears.
-/

namespace Sys2Proof.Machine

open Sys2Proof

/-- The SCOPEMISS bit of sys.sticky (R32). -/
def stickyScopemiss : Word := 0x01
/-- The PWOOB bit of sys.sticky (R32). -/
def stickyPwoob : Word := 0x02
/-- The GOOB bit of sys.sticky (R32). -/
def stickyGoob : Word := 0x04
/-- The SATURATED bit of sys.sticky (R32). -/
def stickySaturated : Word := 0x08
/-- The INEXACT bit of sys.sticky (R32). -/
def stickyInexact : Word := 0x10
/-- The INVALID bit of sys.sticky (R32). -/
def stickyInvalid : Word := 0x20

/-- The bits of sys.sticky that have a meaning (R32); the others read zero. -/
def stickyAll : Word := 0x3F

/-- sys.sticky with bits joined: a bit stays set until it is written with 1 (R32). -/
def stickyOr (sticky f : Word) : Word := sticky ||| (f &&& stickyAll)

/-- sys.sticky after a write of w: every bit written with 1 clears, bits [63:6] are ignored (R249). -/
def stickyClear (sticky w : Word) : Word := sticky &&& ~~~(w &&& stickyAll)

end Sys2Proof.Machine
end

