-- ==== Sys2Proof/Machine/Formats.lean ====
section
/-!
DEFINITION. Number formats (R83-R100): the exact value of a stored element, the rounding function, and the encoding of
an exact value into a format. An exact value is held as a sign, a natural number and a power of two; the quotients and
square roots that are no such number carry a mark that the value lies strictly between m and m + 1 units.
-/

namespace Sys2Proof

/-- The width in bits of a stored element (R84, R85). -/
def DType.width : DType → Nat
  | .i8 | .n8 | .e4m3 | .e5m2 => 8
  | .i16 | .n16 | .f16 | .bf16 => 16
  | .i32 | .n32 | .f32 => 32
  | .i64 | .n64 => 64
  | .i4 | .cb4 => 4
  | .acc96 => 96

/-- Whether an integer type is two's complement (R84). -/
def DType.signed : DType → Bool
  | .i8 | .i16 | .i32 | .i64 | .i4 => true
  | .n8 | .n16 | .n32 | .n64 | .f32 | .f16 | .bf16 | .e4m3 | .e5m2 | .cb4 | .acc96 => false

end Sys2Proof

namespace Sys2Proof.Machine

open Sys2Proof

/-- The four kinds of value of R97-R99; zero is `fin neg 0 _ false`. `fin neg m e above` has the magnitude m·2^e, or,
with `above`, one strictly between m·2^e and (m + 1)·2^e. -/
inductive Val where
  | nan
  | inf (neg : Bool)
  | fin (neg : Bool) (m : Nat) (e : Int) (above : Bool)
deriving DecidableEq, Repr

/-- The zero of a sign. -/
def Val.zero (neg : Bool) : Val := .fin neg 0 0 false

/-- A result's stored bits and the sticky bits it sets. -/
structure Enc where
  bits : Nat
  flags : Word
deriving DecidableEq, Repr

/-- The parameters of a floating-point format with an implicit leading bit (R85): precision p, exponent width, bias,
largest finite pattern, infinity pattern when it has one, canonical NaN. -/
structure FFmt where
  p : Nat
  ew : Nat
  bias : Nat
  maxBits : Nat
  infBits : Option Nat
  nanBits : Nat
deriving DecidableEq, Repr

/-- FP32 (R85). -/
def fmtF32 : FFmt := ⟨24, 8, 127, 0x7F7FFFFF, some 0x7F800000, 0x7FC00000⟩
/-- FP16 (R85). -/
def fmtF16 : FFmt := ⟨11, 5, 15, 0x7BFF, some 0x7C00, 0x7E00⟩
/-- BF16 (R85). -/
def fmtBf16 : FFmt := ⟨8, 8, 127, 0x7F7F, some 0x7F80, 0x7FC0⟩
/-- E4M3 (R85): no infinity, one NaN pattern per sign. -/
def fmtE4m3 : FFmt := ⟨4, 4, 7, 0x7E, none, 0x7F⟩
/-- E5M2 (R85). -/
def fmtE5m2 : FFmt := ⟨3, 5, 15, 0x7B, some 0x7C, 0x7E⟩

/-- The format of a floating type. -/
def floatFmt : DType → Option FFmt
  | .f32 => some fmtF32
  | .f16 => some fmtF16
  | .bf16 => some fmtBf16
  | .e4m3 => some fmtE4m3
  | .e5m2 => some fmtE5m2
  | .i8 | .i16 | .i32 | .i64 | .n8 | .n16 | .n32 | .n64 | .i4 | .cb4 | .acc96 => none

/-- The bit of a format's sign. -/
def FFmt.signBit (f : FFmt) : Nat := 2 ^ (f.ew + f.p - 1)

/-- The exponent of the least quantum, emin - p + 1 (R86). -/
def FFmt.qmin (f : FFmt) : Int := 2 - (f.bias : Int) - (f.p : Int)

/-- The value of a stored floating-point element (R86). -/
def decodeFloat (f : FFmt) (w : Nat) : Val :=
  let neg : Bool := (w / f.signBit) % 2 == 1
  let mag : Nat := w % f.signBit
  let ex : Nat := mag / 2 ^ (f.p - 1)
  let fr : Nat := mag % 2 ^ (f.p - 1)
  if f.infBits = some mag then .inf neg
  else if (f.infBits = none ∧ mag = f.nanBits) ∨ (f.infBits ≠ none ∧ ex = 2 ^ f.ew - 1) then .nan
  else if ex = 0 then .fin neg fr f.qmin false
  else .fin neg (2 ^ (f.p - 1) + fr) (f.qmin + ex - 1) false

/-- The value of a stored acc96 element (R86). -/
def decodeAcc (a : Acc) : Val :=
  let neg := a.getLsbD 95
  let ex : Nat := a.toNat / 2 ^ 80 % 2 ^ 15
  let fr : Nat := a.toNat % 2 ^ 80
  if ex = 0x7FFF then (if fr = 0 then .inf neg else .nan)
  else if ex = 0 then .fin neg fr (-16461) false
  else .fin neg fr ((ex : Int) - 16462) false

/-- The value of an integer. -/
def valOfInt (i : Int) : Val := .fin (decide (i < 0)) i.natAbs 0 false

/-- The integer that a stored pattern of `width` bits reads as (R84). -/
def intOfBits (signed : Bool) (width w : Nat) : Int :=
  let v : Nat := w % 2 ^ width
  if signed ∧ 2 ^ (width - 1) ≤ v then (v : Int) - 2 ^ width else (v : Int)

/-- The value of a stored element of any type but cb4, whose table the caller looks up (R86, R90). -/
def decodeElem (t : DType) (w : Nat) : Val :=
  match floatFmt t with
  | some f => decodeFloat f (w % 2 ^ t.width)
  | none =>
    match t with
    | .acc96 => decodeAcc (BitVec.ofNat 96 w)
    | _ => valOfInt (intOfBits t.signed t.width w)

/-- A value scaled by the E8M0 block scale s (R91). -/
def scaleVal (s : Nat) (v : Val) : Val :=
  if s = 0xFF then .nan
  else
    match v with
    | .fin neg m e ab => .fin neg m (e + s - 127) ab
    | .inf neg => .inf neg
    | .nan => .nan

/-- floor(log2) of a nonzero magnitude m·2^e (the mark `above` changes nothing). -/
def magLog2 (m : Nat) (e : Int) : Int := e + (Nat.log2 m : Int)

/-- The flush of R96: a nonzero magnitude below 2^-126 becomes a zero of the same sign. -/
def flushVal (v : Val) : Val :=
  match v with
  | .fin neg m e ab => if m = 0 then .fin neg 0 e ab else if magLog2 m e < -126 then .zero neg else .fin neg m e ab
  | .inf neg => .inf neg
  | .nan => .nan

/-- The flush of R96 when the instruction's ftz bit is set. -/
def flushIf (ftz : Bool) (v : Val) : Val := if ftz then flushVal v else v

/-- round_q (R92) on m·2^e in units of 2^q: the rounded count of quanta and whether the value was inexact. A value
marked `above` has its fraction taken as just above the part that m gives. -/
def roundQ (m : Nat) (e q : Int) (above : Bool) (rnd : Rnd) (neg : Bool) (draw : Word) : Nat × Bool :=
  let d := (q - e).toNat
  let num := m * 2 ^ (e - q).toNat
  let lo := num / 2 ^ d
  let fr := num % 2 ^ d
  if fr = 0 ∧ !above then (lo, false)
  else
    let up : Bool := match rnd with
      | .rne => decide (2 ^ d < 2 * fr) || (decide (2 ^ d = 2 * fr) && (above || lo % 2 == 1))
      | .rz => false
      | .ru => !neg
      | .rd => neg
      | .rs => decide (draw.toNat / 2 ^ 32 < fr * 2 ^ 32 / 2 ^ d)
    (if up then lo + 1 else lo, true)

/-- The pattern of a magnitude with the sign of the value. -/
def FFmt.withSign (f : FFmt) (neg : Bool) (mag : Nat) : Nat := if neg then f.signBit + mag else mag

/-- The infinity of a format, or its NaN with INVALID where it has none (R98). -/
def infinityOf (f : FFmt) (neg : Bool) : Enc :=
  match f.infBits with
  | some i => ⟨f.withSign neg i, 0⟩
  | none => ⟨f.nanBits, stickyInvalid⟩

/-- overflow_result (R98). -/
def overflowResult (f : FFmt) (rnd : Rnd) (neg : Bool) : Enc :=
  match rnd with
  | .rne | .rs => infinityOf f neg
  | .rz => ⟨f.withSign neg f.maxBits, 0⟩
  | .ru => if neg then ⟨f.withSign neg f.maxBits, 0⟩ else infinityOf f neg
  | .rd => if neg then infinityOf f neg else ⟨f.withSign neg f.maxBits, 0⟩

/-- encode_float (R98). -/
def encodeFloat (f : FFmt) (v : Val) (rnd : Rnd) (sat ftz : Bool) (draw : Word) : Enc :=
  match v with
  | .nan => ⟨f.nanBits, 0⟩
  | .inf neg =>
    if f.infBits.isNone && sat then ⟨f.withSign neg f.maxBits, stickySaturated⟩ else infinityOf f neg
  | .fin neg m e above =>
    if m = 0 ∧ !above then ⟨f.withSign neg 0, 0⟩
    else if ftz ∧ magLog2 m e < -126 then ⟨f.withSign neg 0, stickyInexact⟩
    else
      let q := max (magLog2 m e - (f.p - 1)) f.qmin
      let r := roundQ m e q above rnd neg draw
      let mag := (q - f.qmin).toNat * 2 ^ (f.p - 1) + r.1
      let fl := if r.2 then stickyInexact else 0
      if f.maxBits < mag then
        if sat then ⟨f.withSign neg f.maxBits, stickyInexact ||| stickySaturated⟩
        else
          let o := overflowResult f rnd neg
          ⟨o.bits, o.flags ||| stickyInexact⟩
      else ⟨f.withSign neg mag, fl⟩

/-- The least and greatest values of an integer type (R84). -/
def intRange (t : DType) : Int × Int :=
  if t.signed then (-(2 ^ (t.width - 1) : Int), 2 ^ (t.width - 1) - 1) else (0, 2 ^ t.width - 1)

/-- An integer's stored bits in a width, read modulo 2^width. -/
def wrapInt (width : Nat) (n : Int) : Nat := (n % (2 ^ width : Int)).toNat

/-- encode_int (R99). -/
def encodeInt (t : DType) (v : Val) (rnd : Rnd) (sat : Bool) (draw : Word) : Enc :=
  let lo := (intRange t).1
  let hi := (intRange t).2
  match v with
  | .nan => ⟨0, stickyInvalid⟩
  | .inf neg => if sat then ⟨wrapInt t.width (if neg then lo else hi), stickySaturated⟩ else ⟨0, stickyInvalid⟩
  | .fin neg m e above =>
    let r := roundQ m e 0 above rnd neg draw
    let n : Int := if neg then -(r.1 : Int) else r.1
    let fl := if r.2 then stickyInexact else 0
    if lo ≤ n ∧ n ≤ hi then ⟨wrapInt t.width n, fl⟩
    else if sat then ⟨wrapInt t.width (if n > hi then hi else lo), fl ||| stickySaturated⟩
    else ⟨wrapInt t.width n, fl⟩

/-- The destination's encode function (R100). -/
def encodeElem (t : DType) (v : Val) (rnd : Rnd) (sat ftz : Bool) (draw : Word) : Enc :=
  match floatFmt t with
  | some f => encodeFloat f v rnd sat ftz draw
  | none => encodeInt t v rnd sat draw

/-- round_acc96_RNE (R93): encoding into acc96, nearest-even, no flush, no sticky bit. -/
def encodeAcc (v : Val) : Acc :=
  match v with
  | .nan => 0x7FFFC0000000000000000000#96
  | .inf neg => if neg then 0xFFFF00000000000000000000#96 else 0x7FFF00000000000000000000#96
  | .fin neg m e above =>
    let s := if neg then 2 ^ 95 else 0
    if m = 0 then BitVec.ofNat 96 s
    else
      let q := max (magLog2 m e - 79) (-16461)
      let r := roundQ m e q above .rne neg 0
      let carry := decide (2 ^ 80 ≤ r.1)
      let sig := if carry then r.1 / 2 else r.1
      let ex := if sig < 2 ^ 79 then 0 else (q + 16461).toNat + 1 + (if carry then 1 else 0)
      if 0x7FFF ≤ ex then BitVec.ofNat 96 (s + 0x7FFF * 2 ^ 80)
      else BitVec.ofNat 96 (s + ex * 2 ^ 80 + sig)

/-- The exact sum of two finite values, with the sign of an exact zero as R156 gives it. -/
def addFin (down : Bool) (na : Bool) (ma : Nat) (ea : Int) (nb : Bool) (mb : Nat) (eb : Int) : Val :=
  let e := min ea eb
  let a : Int := (ma * 2 ^ (ea - e).toNat : Nat)
  let b : Int := (mb * 2 ^ (eb - e).toNat : Nat)
  let s : Int := (if na then -a else a) + (if nb then -b else b)
  if s = 0 then .zero (if na = nb then na else down)
  else .fin (decide (s < 0)) s.natAbs e false

/-- A value and whether the operation that gave it was invalid (R87). -/
structure Res where
  val : Val
  invalid : Bool
deriving DecidableEq, Repr

/-- The exact sum a + b (R156); `down` is rnd = 011. -/
def addVal (down : Bool) : Val → Val → Res
  | .nan, _ => ⟨.nan, false⟩
  | _, .nan => ⟨.nan, false⟩
  | .inf na, .inf nb => if na = nb then ⟨.inf na, false⟩ else ⟨.nan, true⟩
  | .inf na, .fin .. => ⟨.inf na, false⟩
  | .fin .., .inf nb => ⟨.inf nb, false⟩
  | .fin na ma ea _, .fin nb mb eb _ => ⟨addFin down na ma ea nb mb eb, false⟩

/-- The value with its sign inverted. -/
def negVal : Val → Val
  | .nan => .nan
  | .inf n => .inf (!n)
  | .fin n m e ab => .fin (!n) m e ab

/-- The value with a given sign. -/
def withSignVal (neg : Bool) : Val → Val
  | .nan => .nan
  | .inf _ => .inf neg
  | .fin _ m e ab => .fin neg m e ab

/-- The sign of a value; a NaN counts as positive. -/
def signVal : Val → Bool
  | .nan => false
  | .inf n => n
  | .fin n _ _ _ => n

/-- Whether a value is a zero. -/
def isZeroVal : Val → Bool
  | .fin _ m _ ab => m == 0 && !ab
  | .inf _ | .nan => false

/-- Whether a value is a NaN. -/
def isNanVal : Val → Bool
  | .nan => true
  | .inf _ | .fin .. => false

/-- The exact product (R156). -/
def mulVal : Val → Val → Res
  | .nan, _ => ⟨.nan, false⟩
  | _, .nan => ⟨.nan, false⟩
  | .inf na, .inf nb => ⟨.inf (na ^^ nb), false⟩
  | .inf na, .fin nb m _ _ => if m = 0 then ⟨.nan, true⟩ else ⟨.inf (na ^^ nb), false⟩
  | .fin na m _ _, .inf nb => if m = 0 then ⟨.nan, true⟩ else ⟨.inf (na ^^ nb), false⟩
  | .fin na ma ea _, .fin nb mb eb _ => ⟨.fin (na ^^ nb) (ma * mb) (ea + eb) false, false⟩

/-- a·b + c before rounding (R156): invalid when the product or the sum is, unless an operand is a NaN. -/
def fmaVal (down : Bool) (a b c : Val) : Res :=
  if isNanVal a || isNanVal b || isNanVal c then ⟨.nan, false⟩
  else
    let p := mulVal a b
    if p.invalid then ⟨.nan, true⟩ else addVal down p.val c

/-- The quotient (R156), to more than 128 bits, marked `above` when it is not exact there. -/
def divVal : Val → Val → Res
  | .nan, _ => ⟨.nan, false⟩
  | _, .nan => ⟨.nan, false⟩
  | .inf _, .inf _ => ⟨.nan, true⟩
  | .inf na, .fin nb _ _ _ => ⟨.inf (na ^^ nb), false⟩
  | .fin na _ _ _, .inf nb => ⟨.zero (na ^^ nb), false⟩
  | .fin na ma ea _, .fin nb mb eb _ =>
    if mb = 0 then (if ma = 0 then ⟨.nan, true⟩ else ⟨.inf (na ^^ nb), false⟩)
    else
      let k := 129 + Nat.log2 mb
      let n := ma * 2 ^ k
      ⟨.fin (na ^^ nb) (n / mb) (ea - eb - k) (decide (n % mb ≠ 0)), false⟩

/-- The integer square root by `fuel` bits, from the highest. -/
def isqrtBits : Nat → Nat → Nat → Nat
  | 0, _, r => r
  | fuel + 1, n, r =>
    let c := r + 2 ^ fuel
    isqrtBits fuel n (if c * c ≤ n then c else r)

/-- floor(sqrt n). -/
def isqrt (n : Nat) : Nat := isqrtBits (Nat.log2 n / 2 + 1) n 0

/-- The square root (R156), to more than 128 bits, marked `above` when it is not exact there. -/
def sqrtVal : Val → Res
  | .nan => ⟨.nan, false⟩
  | .inf n => if n then ⟨.nan, true⟩ else ⟨.inf false, false⟩
  | .fin n m e ab =>
    if m = 0 then ⟨.fin n 0 e ab, false⟩
    else if n then ⟨.nan, true⟩
    else
      let odd := e % 2
      let big := m * 2 ^ (260 + odd.toNat)
      let r := isqrt big
      ⟨.fin false r ((e - odd) / 2 - 130) (decide (r * r ≠ big)), false⟩

/-- The value as an integer multiple of 2^lo, for comparisons. -/
def scaledInt (neg : Bool) (m : Nat) (e lo : Int) : Int :=
  let a : Int := (m * 2 ^ (e - lo).toNat : Nat)
  if neg then -a else a

/-- a < b by value; false with a NaN (R158). -/
def ltVal : Val → Val → Bool
  | .nan, _ => false
  | _, .nan => false
  | .inf na, .inf nb => na && !nb
  | .inf na, .fin .. => na
  | .fin .., .inf nb => !nb
  | .fin na ma ea _, .fin nb mb eb _ =>
    decide (scaledInt na ma ea (min ea eb) < scaledInt nb mb eb (min ea eb))

/-- a = b by value; false with a NaN, and -0 = +0 (R158). -/
def eqVal : Val → Val → Bool
  | .nan, _ => false
  | _, .nan => false
  | .inf na, .inf nb => na == nb
  | .inf _, .fin .. => false
  | .fin .., .inf _ => false
  | .fin na ma ea _, .fin nb mb eb _ =>
    decide (scaledInt na ma ea (min ea eb) = scaledInt nb mb eb (min ea eb))

/-- a ≤ b by value; false with a NaN (R158). -/
def leVal (a b : Val) : Bool := ltVal a b || eqVal a b

/-- The smaller of two values, -0 below +0, a NaN when either is one (R157). -/
def minVal (a b : Val) : Val :=
  if isNanVal a || isNanVal b then .nan
  else if ltVal a b then a else if ltVal b a then b else if signVal a then a else b

/-- The larger of two values, -0 below +0, a NaN when either is one (R157). -/
def maxVal (a b : Val) : Val :=
  if isNanVal a || isNanVal b then .nan
  else if ltVal a b then b else if ltVal b a then a else if signVal a then b else a

/-- The sticky bit of an invalid operation. -/
def Res.flags (r : Res) : Word := if r.invalid then stickyInvalid else 0

/-- A result encoded with one rounding: the NaN of the type where the value is one, INVALID where the operation was. -/
def Res.encode (r : Res) (t : DType) (rnd : Rnd) (sat ftz : Bool) (draw : Word) : Enc :=
  let e := encodeElem t r.val rnd sat ftz draw
  ⟨e.bits, e.flags ||| r.flags⟩

/-- One step of the stochastic generator (R94): the new state and the draw. -/
def srStep (s : Word) : Word × Word :=
  let s1 := s ^^^ (s >>> 12)
  let s2 := s1 ^^^ (s1 <<< 25)
  let s3 := s2 ^^^ (s2 >>> 27)
  (s3, s3 * 0x2545F4914F6CDD1D)

/-- The default seed of the generator (R95). -/
def srDefault : Word := 0x9E3779B97F4A7C15

/-- The state a write of v leaves: zero is replaced (R95, R249). -/
def srWrite (v : Word) : Word := if v = 0 then srDefault else v

/-- The draw of one result: one step when the rounding code is 100, else none (R94). -/
def drawIf (rnd : Rnd) (s : Word) : Word × Word :=
  match rnd with
  | .rs => srStep s
  | .rne | .rz | .ru | .rd => (s, 0)

/-- The value of an FP32 pattern. -/
def f32Val (w : Nat) : Val := decodeFloat fmtF32 (w % 2 ^ 32)

/-- An FP32 sum rounded to nearest even, with its sticky bits (R137, R200). -/
def addF32 (a b : Nat) : Enc := (addVal false (f32Val a) (f32Val b)).encode .f32 .rne false false 0

end Sys2Proof.Machine
end

