-- ==== Sys2Proof/Config.lean ====
section
/-!
DEFINITION. What one module fixes and what the spec leaves open. The opaque constants are free values: nothing can be
proved about them, so every claim holds whatever they are (log entries 5, 6, 7).
-/

namespace Sys2Proof

/-- The two ordering codes (R1). -/
inductive OrderingCode where
  | zm1_8k3t | zm1_6k3t
deriving DecidableEq, Repr

/-- The entropy from which bring-up seeds the refresh generator of a channel (R509): free, by channel and draw. -/
opaque Config.entropySeed : Nat → Nat → BitVec 32

/-- The fabric cycles that pass between two steps of the model, by the step's number (R396): free; timing is out of scope. -/
opaque Config.cyclesOf : Nat → Nat

/-- Whether a firmware image's ECDSA P-521 signature verifies under the root key of the fuses (R567): free, by digest
and signature. -/
opaque Config.signatureValid : List (BitVec 8) → List (BitVec 8) → Bool

/-- The device key's signature over an attestation report (R568): free, by report. -/
opaque Config.attest : List (BitVec 8) → List (BitVec 8)

/-- The stored bursts of a channel that go bad at a row activation, by channel and step (R519): free. Each is given by its
number and by whether the check symbols fail to correct it. -/
opaque Config.decay : Nat → Nat → List (Nat × Bool)

/-- The sites whose scratchpad reads in a step meet a single-bit error, by the step's number (R186): free. -/
opaque Config.readErrors : Nat → List Nat

/-- What the host's words of an image's system state give a field, by the field's number: free, since R256 lists the state and gives no
layout. -/
opaque Config.imageField : Nat → List (Nat × Nat) → Nat

/-- A free bit string of a width, drawn with a plain counter: the values that the spec leaves undefined. -/
opaque Config.freeBits : (w : Nat) → Nat → BitVec w

/-- The number of job cores a band may hold (R1, R2). -/
def jobCoresPerBand : OrderingCode → Nat
  | .zm1_8k3t => 688
  | .zm1_6k3t => 516

end Sys2Proof
end

