-- ==== Sys2Proof/Machine/Types.lean ====
section
/-!
DEFINITION. The types of a context, of the flits of the data planes, of a core's memory side, of the routers and of the
slot controllers, as plain data. Tables (`Tbl`) list by key only what differs from a default. Nothing here acts.
-/

namespace Sys2Proof.Machine

open Sys2Proof

/-! ## Orders -/

/-- A list with an element put before the first that does not come before it. -/
def insertBy {α : Type} (le : α → α → Bool) (x : α) : List α → List α
  | [] => [x]
  | y :: t => if le x y then x :: y :: t else y :: insertBy le x t

/-- A list in order; those that the order does not tell apart keep their places. -/
def sortBy {α : Type} (le : α → α → Bool) : List α → List α
  | [] => []
  | x :: t => insertBy le x (sortBy le t)

/-! ## Contexts -/

/-- The four outstanding counters of a context (R174), and none for an operation that no counter counts. -/
inductive Cnt where
  | ld | st | cp | tl | no
deriving DecidableEq, Repr

/-- The modes of a stream register (R141). -/
inductive SMode where
  | off | read | write
deriving DecidableEq, Repr

/-- The read-modify-writes a home performs (R127, R200): an AMO or RED, a CAS, an object's ACQ read, a REL. -/
inductive AtomK where
  | amo (op : AOp)
  | cas
  | acq
  | rel
deriving DecidableEq, Repr

/-- A read-modify-write in flight (R200): its width in bits, its operand, what a CAS compares with, whether it returns
a value, its acquire and release scopes, and the releaser's LCN and context. -/
structure Atom where
  k : AtomK
  w : Nat
  b : Word
  cmp : Word
  ret : Bool
  acq : Option Scope
  rel : Option Scope
  lcn : Nat
  ctx : Nat
deriving DecidableEq, Repr

/-- A declared global region of a region control block (R227): intent 1 ro, 2 wo, 3 rw. -/
structure DRegion where
  base : Nat
  size : Nat
  obj : Addr
  intent : BitVec 2
deriving DecidableEq, Repr

/-- What an outstanding operation does when its answer comes (R173, R174). -/
inductive OpWhat where
  /-- A load of `size` bytes to x[d], sign-extended or not; `line`: the PPA of the line that the answer carries for the cache. -/
  | load (d : Reg) (size : Nat) (sext : Bool) (line : Option Nat)
  /-- A store or a PUTA-less write. -/
  | store
  /-- An atomic with a result to x[d], the PPA of its word in global memory, and the regions that were bound to its object when
  it issued (R126). -/
  | atomic (d : Reg) (a : Atom) (ppa : Option Nat) (regs : List DRegion)
  /-- A RED, and the PPA of its word in global memory. -/
  | red (ppa : Option (Nat × Nat))
  /-- A GETA under a tag, of a len field and an issue count, to a scratchpad offset of the core: the requests not answered,
  the pieces that have come by their number, and the cause of a refusal among them. -/
  | geta (tag len : Nat) (seq : BitVec 32) (dst left : Nat) (got : List (Nat × List Byte)) (bad : Option (BitVec 5))
  /-- A PUTA under a tag: the writes not answered and the cause of a refusal among them. -/
  | puta (tag len : Nat) (seq : BitVec 32) (left : Nat) (bad : Option (BitVec 5))
  /-- A SPAWN with its status to x[d]. -/
  | spawn (d : Reg)
  /-- A DECR or DEPADD. -/
  | recop
  /-- The write-back of a suspension. -/
  | writeback
  /-- An ACQ, whose answer the context waits for, and the regions that were bound to its object when it issued (R126). -/
  | acq (regs : List DRegion)
  /-- A REL, and the PPA of its object in global memory. -/
  | rel (ppa : Option Nat)
  /-- A CASKUSE, CMTQ or other query with its answer to x[d]. -/
  | query (d : Reg)
  /-- A transfer of a channel (R174). -/
  | copy (ch id : Nat)
  /-- A tile command (R174). -/
  | tile (k : Nat)
deriving DecidableEq, Repr

/-- An outstanding operation of a context, in issue order: its counter, its issue number, its address, whether it is a
write to global memory, what its answer does, and whether an acquire or an unbinding has overtaken the line load that it is, so
that its line is not kept (R121, R128). -/
structure OutOp where
  cnt : Cnt
  id : Nat
  addr : Addr
  global : Bool
  isWrite : Bool
  what : OpWhat
  stale : Bool
deriving DecidableEq, Repr

/-- A posted fault (R117): the counter and issue number of the refused access, the cause and the address; `fstep` for
a stopped tile command (R337). -/
structure Posted where
  cnt : Cnt
  id : Nat
  cause : BitVec 5
  faddr : Addr
  fstep : BitVec 32
deriving DecidableEq, Repr

/-- The HINT words of an open word group (R66): the group's first address and the payloads. -/
structure HintGroup where
  start : Addr
  imm : Option (BitVec 24)
  sched : Option (Bool × BrHint)
  mod : Option (Bool × BitVec 7 × Bool)
deriving DecidableEq, Repr

/-- What a suspension point ends with (R214, R216, R239-R241, R252). -/
inductive SuspKind where
  /-- SUSPEND, with the address after it. -/
  | suspend (pc : Addr)
  /-- YIELD that yields, with the address after it. -/
  | yields (pc : Addr)
  /-- EXIT with its status word. -/
  | exit (status : BitVec 32)
  /-- Stall conversion. -/
  | convert
  /-- The end of a fault domain, with its fault record's nested bit, cause, epc, faddr and fstep. -/
  | ending (nested : Bool) (cause : BitVec 5) (epc faddr : Addr) (fstep : BitVec 32)
deriving DecidableEq, Repr

/-- Why a context is held (R142, R204, R241, R181, R468, R428, R466). -/
inductive Hold where
  /-- Not held. -/
  | none
  /-- An ACQ whose read has not returned. -/
  | acq
  /-- An ACQ's answer: the refusal's cause, if it was refused. -/
  | acqDone (cause : Option (BitVec 5))
  /-- A YIELD whose query has not returned. -/
  | yield
  /-- A YIELD's answer: whether the context yields. -/
  | yieldDone (yes : Bool)
  /-- A BDECL under check by the launch engine: its buffer, base and size, 0 to undeclare. -/
  | bdecl (buf base size : Nat)
  /-- A BDECL's answer: accepted or not. -/
  | bdeclDone (ok : Bool)
  /-- A suspension point whose counters are not yet zero (R214, R252). -/
  | suspending (k : SuspKind)
  /-- A suspension point whose record operation has not been answered (R214). -/
  | writeback (k : SuspKind)
  /-- An IRREV waiting for its switch. -/
  | irrev
  /-- A word that reads a block elsewhere, at an address, and waits for it (R277, R329, R334, R361). -/
  | block (a : Addr)
  /-- A CCFG waiting for its answers (R572), and the answers come. -/
  | ccfg
  | ccfgDone
  /-- A CABORT waiting for the packets of what it aborted (R379). -/
  | cabort
  /-- A CKPT waiting for its boundary's capture (R501), and the capture done. -/
  | ckpt
  | ckptDone
deriving DecidableEq, Repr

/-- What a stalled word waits for, when R216 converts its stall: a WAIT's cp count, an access behind a copy's watermark or
span (its range by the keys of R370's comparisons, and the WM transfer concerned), a CWAIT, an element of a stream, a
tile, a result or beat of a group, an earlier contribution that has not left the port, the switch (R208, R309, R372, R417,
R432, R468). -/
inductive Await where
  | cp (n : Nat)
  | span (key lo hi : Nat) (write : Bool) (wms : List (Nat × BitVec 32))
  | done (ch : Nat) (id : BitVec 32)
  | stream (r : Reg)
  | tile (k : Nat)
  | result (grp : Nat) (round : Nat)
  | beat (grp : Nat)
  | port (grp : Nat)
  | switch
deriving DecidableEq, Repr

/-- What occupies a context (R221, R265). -/
inductive Occ where
  /-- No task. -/
  | idle
  /-- A seed of a timed launch is staged: reserved, nothing runs (R534). -/
  | staged
  /-- A task runs. -/
  | running
  /-- Left by a task that yielded, for the entry that its query reserved (R241). -/
  | yielded
  /-- Stopped by a kill, held until its step 5 (R265). -/
  | stopped
deriving DecidableEq, Repr

/-- A 64-byte shape record as a slot holds it (R268), with the bounds and rights of a slot bound by SHOBJ (R273). -/
structure Shape where
  w0 : Word
  w1 : Word
  w2 : Word
  w3 : Word
  w4 : Word
  w5 : Word
  w6 : Word
  w7 : Word
  lo : BitVec 56
  hi : BitVec 56
  rd : Bool
  wr : Bool
deriving DecidableEq, Repr

/-- The slot of a context just created (R274). -/
def Shape.empty : Shape := ⟨0, 0, 0, 0, 0, 0, 0, 0, 0, 0, false, false⟩

/-- The forms of the vector opcodes 0x23, 0x24 and 0x25 (R60, R295, R298, R305). -/
inductive VFn where
  | add | sub | mul | fma | fms | min | max | abs | neg | and | or | xor | shl | shr | sra | cmul | cmac | conj | mov
  | exp2 | log2 | rcp | rsqrt | cvt
  | rsum | rmax | rmin | ceq | clt | cle | sel | perm | bcast | zip | unzip | rev
deriving DecidableEq, Repr

/-- One vector operation with the records it named, as taken at its issue (R284, R292). -/
structure VOp where
  fn : VFn
  ty : DType
  rnd : Rnd
  sat : Bool
  ftz : Bool
  d : Shape
  a : Shape
  b : Shape
deriving DecidableEq, Repr

/-- A stream register's data (R382, R384): its channel, the elements landed and not popped, the elements pushed and not
sent, whether the stream's source is exhausted. -/
structure StreamReg where
  ch : Nat
  landed : List Word
  pushed : List Word
  left : Nat
  /-- Whether its transfer was aborted (R374). -/
  aborted : Bool
deriving DecidableEq, Repr

/-- A stream register out of stream mode. -/
def StreamReg.off : StreamReg := ⟨0, [], [], 0, false⟩

/-- The operators of a group (R412). -/
inductive COp where
  | add | max | min | and | or | xor | barrier
deriving DecidableEq, Repr

/-- What a group's configuration gives every node and port (R412, R437): its timeout in units of 256 fc; `chain` is mode 1;
`words` counts from 1. -/
structure GConf where
  op : COp
  ty : DType
  oty : DType
  words : Nat
  chain : Bool
  timeout : Nat
deriving DecidableEq, Repr

/-- A timeout report (R422, R423): from a chain core or a router, its mask of absent inputs and its site. -/
structure Report where
  chain : Bool
  mask : Nat
  site : Nat
deriving DecidableEq, Repr

/-- The header fields of a routed beat of the collective plane (R414, R415): its kind, destination and source endpoint, destination
site, age and the index of its word. -/
structure Routed where
  kind : Nat
  dep : Nat
  sep : Nat
  dsite : Nat
  inj : Nat
  widx : Nat
deriving DecidableEq, Repr

/-- A contribution, partial or result of a round, or one routed beat with one of its words (R414, R415, R418). -/
structure CMsg where
  round : BitVec 16
  vint : BitVec 32
  words : List Word
  inexact : Bool
  invalid : Bool
  report : Option Report
  routed : Option Routed
deriving DecidableEq, Repr

/-- A collective timer (R421): the fabric cycles that it has counted, and since when it counts on. -/
structure Timer where
  ran : Nat
  since : Option Nat
deriving DecidableEq, Repr

/-- A router's entry of a group (R412): inputs by port, 0 own, 1 N, 2 E, 3 S, 4 W; `closed` when the open round's inputs have
been combined; the messages of later rounds parked on the group's siding list, oldest first (R420). -/
structure GEntry where
  conf : GConf
  parent : Nat
  child : BitVec 4
  own : Bool
  ht : Nat
  olcn : Nat
  root : Nat
  round : BitVec 16
  inputs : Tbl CMsg
  closed : Bool
  parked : List (Nat × CMsg)
  /-- The proxy beats of a contribution that is not whole (R415, R429), and the open round's timer (R421). -/
  beats : List CMsg
  timer : Timer
deriving DecidableEq, Repr

/-- A core's collective port for a group (R413): `words` are those of round cr offered so far, with the vintage of the last one
and the operations that a release waits for; `out` are whole contributions not yet at the router; `preds` the chain beats that have come; `last` the
status word of the round completed last. -/
structure CPort where
  conf : GConf
  own : Bool
  root : Nat
  osite : Nat
  cr : BitVec 16
  rr : BitVec 16
  rw : Nat
  words : List Word
  wvint : BitVec 32
  rel : List (Nat × Nat)
  out : List (CMsg × List (Nat × Nat))
  held : List CMsg
  preds : List CMsg
  tseen : Bool
  last : Word
  /-- The proxy beats of a result that is not whole (R415, R429), and the timer of a CHAIN that waits (R426). -/
  beats : List CMsg
  wait : Option Timer
deriving DecidableEq, Repr

/-- One context of a core (R28, R141, R174, R245, R257). -/
structure Ctx where
  occ : Occ
  pc : Addr
  x : Vector Word 32
  k : Vector Shape 16
  sb : BitVec 32
  /-- Scalar and local-port results whose ready cycle has not come, oldest first: the registers of each (R143). -/
  due : List (BitVec 32)
  smode : Vector SMode 8
  spos : Vector (BitVec 32) 8
  strm : Vector StreamReg 8
  ld : Nat
  st : Nat
  cp : Nat
  tl : Nat
  /-- Issue numbers given so far, one sequence for all counters. -/
  issued : Nat
  ops : List OutOp
  /-- The numbers of the 15 youngest operations of each counter, youngest first (R207). -/
  recent : List (Cnt × Nat)
  posted : List Posted
  /-- Channels with an abort not yet observed (R360). -/
  abortMask : BitVec 8
  window : List VOp
  psup : Bool
  tact : Bool
  sup : Bool
  prio : BitVec 7
  sticky : Word
  cause : BitVec 5
  epc : Addr
  faddr : Addr
  fstep : BitVec 32
  srstate : Word
  tvec : Addr
  task : Addr
  region : BitVec 32
  vintage : BitVec 32
  syncreg : BitVec 8
  dirtyX : BitVec 32
  dirtyK : BitVec 16
  dirtyL : BitVec 256
  loadslots : Vector Word 6
  retReg : Addr
  hints : Option HintGroup
  hold : Hold
  /-- What the next word is stalled on (R216, R372). -/
  stall : Option Await
  /-- sys.time, sys.epc and sys.faddr at the last trap entry (R253). -/
  ttime : Word
  tepc : Addr
  tfaddr : Addr
  /-- Blocks that the held word has read so far: address, the cause of a refusal, bytes (R277, R361). -/
  fetched : List (Addr × Option (BitVec 5) × List Byte)
  /-- The objects that the context holds (R129). -/
  held : List Addr
  /-- The rounds that an acquiring CTB orders later accesses behind, by group (R428). -/
  rounds : List (Nat × BitVec 16)
  /-- The record address of the task's hint, radius and prio as loaded, for the write-back (R239). -/
  hint : BitVec 16
  radius : BitVec 4
deriving DecidableEq, Repr

/-- A context at reset; registers without a reset value are zero (log entry 2). -/
def Ctx.reset : Ctx where
  occ := .idle
  pc := 0
  x := Vector.replicate 32 0
  k := Vector.replicate 16 Shape.empty
  sb := 0
  due := []
  smode := Vector.replicate 8 .off
  spos := Vector.replicate 8 0
  strm := Vector.replicate 8 StreamReg.off
  ld := 0
  st := 0
  cp := 0
  tl := 0
  issued := 0
  ops := []
  recent := []
  posted := []
  abortMask := 0
  window := []
  psup := false
  tact := false
  sup := false
  prio := 0
  sticky := 0
  cause := 0
  epc := 0
  faddr := 0
  fstep := 0
  srstate := 0x9E3779B97F4A7C15
  tvec := 0
  task := 0
  region := 0
  vintage := 0
  syncreg := 0
  dirtyX := 0
  dirtyK := 0
  dirtyL := 0
  loadslots := Vector.replicate 6 0
  retReg := 0
  hints := none
  hold := .none
  stall := none
  ttime := 0
  tepc := 0
  tfaddr := 0
  fetched := []
  held := []
  rounds := []
  hint := 0
  radius := 0

/-! ## Flits -/

/-- Where a request acts: a partition physical address at a rim slot, or a local-space address of a core (R113). -/
inductive Target where
  | rim (ppa : Nat)
  | core (laddr : Nat)
deriving DecidableEq, Repr

/-- A continuation record's fields (R209). -/
structure Rec where
  pc : Addr
  state : BitVec 2
  cont : Bool
  slots : Vector Word 6
  count : BitVec 16
  hint : BitVec 16
  region : BitVec 12
  radius : BitVec 4
  prio : BitVec 7
deriving DecidableEq, Repr

/-- A carriage (R218): the record image, the record's canonical address (0 for a seed task) and the vintage. -/
structure Carr where
  r : Rec
  addr : Addr
  vint : BitVec 32
  /-- The router whose core it was last offered to (R220). -/
  seen : Option Nat
deriving DecidableEq, Repr

/-- The operations on a record at its home (R211). -/
inductive RecOp where
  /-- SPAWN with its hint, radius, priority hint, the issuer's region and LCN (R236). -/
  | spawn (hint : BitVec 16) (radius : BitVec 4) (prio : Option (BitVec 7)) (region : BitVec 32) (lcn : Nat)
  /-- DECR (R237). -/
  | decr
  /-- DEPADD (R238). -/
  | depadd (amount : BitVec 16)
  /-- The state write at placement (R221). -/
  | running
  /-- The write-back of SUSPEND and YIELD (R239). -/
  | suspend (pc : Addr) (slots : Vector Word 6)
  /-- The write-back of EXIT (R240). -/
  | exit
  /-- The write-back of a stall conversion (R216). -/
  | convert (hint : BitVec 16)
deriving DecidableEq, Repr

/-- The identity of a landing (R362-R364): the issuing LCN, channel and transfer id, the request's number in its transfer, the
destination address of the element after it, and the transfer's age (R363). More than one part: the bytes come from several homes,
and the issuing engine joins them to the one landing of the request (R362). -/
structure LandKey where
  lcn : Nat
  ch : Nat
  xfer : BitVec 32
  n : Nat
  parts : Nat
  nextLo : Nat
  age : Nat
deriving DecidableEq, Repr

/-- What a pull carries of its peer entry (R553): the peer module, the window, the exporting partition and the ports; the
window's length. -/
structure PeerRef where
  entry : Nat
  module : Nat
  window : Nat
  epart : Nat
  mask : Nat
  length : Nat
deriving DecidableEq, Repr

/-- A log record (R483, R484): event number, kind, context, value, address, source endpoint, pair sequence number and
payload. -/
structure LogRec where
  en : BitVec 32
  kind : Nat
  ctx : Nat
  value : Word
  addr : Addr
  src : Nat
  seq : Nat
  payload : List Byte
deriving DecidableEq, Repr

/-- What a flit carries beyond its header (R388, R389). The spec fixes the kinds, not the payload's layout: log entry 8. -/
inductive Body where
  /-- Kind 0: a load of `size` bytes, of the committed view or of the cask-aware view; whether the home answers with the whole line
  that holds them. -/
  | load (t : Target) (size : Nat) (committed line : Bool)
  /-- Kind 1: a store of bytes, one mask bit per byte. -/
  | store (t : Target) (data : List Byte) (mask : Nat)
  /-- Kind 1: one row of a MACRD or MEPI at a scratchpad offset, one mask bit per nibble (R332). -/
  | row (off : Nat) (data : List Byte) (nmask : Nat)
  /-- Kind 2: an atomic, ACQ or REL. -/
  | atomic (t : Target) (a : Atom)
  /-- Kind 3: a copy read request (R362): the places to read with their lengths and destination places (source, bytes,
  destination), in the committed view or not, the endpoint that the landing goes to, and the landing's identity. -/
  | copyRead (reads : List (Nat × Nat × Nat)) (committed : Bool) (dep : Nat) (k : LandKey)
  /-- Kind 3 to a port engine (R553): a range of a peer's window, with the destination places of its bytes (bytes,
  destination), the endpoint that the landing goes to, and the landing's identity. -/
  | pull (r : PeerRef) (off : Nat) (dsts : List (Nat × Nat)) (dep : Nat) (k : LandKey)
  /-- Kind 4: the open of a remote copy destination (R365): the span, the transfer and whether it is ordered. -/
  | open (base span : Nat) (k : LandKey) (wm : Bool)
  /-- Kind 5: a GETA (R194). -/
  | geta (t : Target) (bytes : Nat)
  /-- Kind 5: a PUTA (R195). -/
  | puta (t : Target) (data : List Byte)
  /-- Kind 6: a carriage (R218). -/
  | carriage (c : Carr)
  /-- Kind 7: a record operation (R211), with the issuing context's posted-fault address. -/
  | recop (t : Target) (addr : Addr) (o : RecOp)
  /-- Kind 8: a fault message of a channel (R373). -/
  | faultMsg (ch : Nat) (xfer : Nat) (va : Addr) (write : Bool) (vint : BitVec 32)
  /-- Kind 8: a resume packet (R373). -/
  | resume (ch : Nat) (xfer : Nat) (vint : BitVec 32)
  /-- Kind 8: an abort packet (R373), with the cause. -/
  | abort (ch : Nat) (xfer : Nat) (cause : BitVec 5)
  /-- Kind 8: the close of a transfer at a destination port, with the requests whose landings are still out (R374). -/
  | close (k : LandKey) (outs : List Nat)
  /-- Kind 9: cellar traffic (R481) of an interval: line copies with their tags, lines of the snapshot, records of the log, or
  the close line. -/
  | cellar (interval : BitVec 32) (lines : List (Nat × BitVec 32 × List Byte)) (snap : Nat) (recs : List LogRec) (closing : Bool)
  /-- Kind 10: a data reply: the bytes, the sticky bits, whether an acquire missed a release for scope, whether it
  synchronised with one (R130), the cause of a refusal. -/
  | data (bytes : List Byte) (sticky : Word) (scopemiss sync : Bool) (refused : Option (BitVec 5))
  /-- Kind 11: an acknowledgement or refusal, with a status. -/
  | ack (refused : Option (BitVec 5)) (status : Nat)
  /-- Kind 12: a landing (R362), or the part of one that a home gives the issuing engine: destination places and their bytes. -/
  | landing (pieces : List (Nat × List Byte)) (k : LandKey)
  /-- Kind 11 to the issuing channel: a landing's acknowledgement (R363) or refusal, with the source homes that it was read
  at and the bytes written at a granule (PPA, bytes) for the issuing core's cached copy (R369). -/
  | landAck (k : LandKey) (srcs : List Nat) (pieces : List (Nat × List Byte)) (refused : Option (BitVec 5))
  /-- Kind 13: a void flit (R571). -/
  | void
deriving DecidableEq, Repr

/-- A flit of a data plane (R388). `ctx` and `id` are the reply tag of R398: the issuing context and the operation. -/
structure Flit where
  plane : Plane
  part : Nat
  dsite : Nat
  dep : Nat
  sep : Nat
  inj : Nat
  vint : BitVec 32
  seq : Nat
  ctx : Nat
  id : Nat
  tag : Nat
  /-- The header's count of payload bytes in use, 8·(len + 1) (R388). -/
  len : Nat
  det : Bool
  ddist : Nat
  park : Bool
  /-- The direction of the last hop (R397); 4 while the flit waits for its injection (R399). -/
  last : Nat
  body : Body
deriving DecidableEq, Repr

/-! ## Engines of a core: memory side -/

/-- A line of the line cache (R121): the vintage and view that loaded it, its virtual (VA bits [53:0]) and physical line
addresses and its bytes. -/
structure CacheLine where
  vint : BitVec 32
  committed : Bool
  va : Nat
  line : Nat
  data : List Byte
deriving DecidableEq, Repr

/-- An entry of the write queue (R122): the line (PPA), the byte mask, the bytes, the issuing context, whether a FENCE,
REL or release closed it to joins, the operations it carries, and whether it was sent. -/
structure WqEntry where
  line : Nat
  mask : Nat
  data : List Byte
  ctx : Nat
  vint : BitVec 32
  closed : Bool
  sent : Bool
  ids : List Nat
deriving DecidableEq, Repr

/-- The buffer states (R176). -/
inductive BState where
  | undeclared | empty | filling | full | draining
deriving DecidableEq, Repr

/-- An entry of a buffer table (R176), base and size in bytes. -/
structure Buf where
  state : BState
  owner : Nat
  size : Nat
  base : Nat
  /-- Whether a BDECL declared it (R181, R447). -/
  bdecl : Bool
  /-- The image slot whose task owns it, if an image holds the owner (R261). -/
  held : Option Nat
deriving DecidableEq, Repr

/-- An undeclared entry. -/
def Buf.none : Buf := ⟨.undeclared, 0, 0, 0, false, Option.none⟩

/-- What a delivery writes (R115, R179). -/
inductive DelWhat where
  | store (off : Nat) (data : List Byte)
  | row (off : Nat) (data : List Byte) (nmask : Nat)
  | atomic (off : Nat) (a : Atom)
  /-- The data of a GETA to its local destination (R194). -/
  | getaData (off : Nat) (data : List Byte) (id : Nat) (refused : Option (BitVec 5))
  /-- The open of a remote copy destination (R365). -/
  | open (base span : Nat) (k : LandKey) (wm : Bool)
deriving DecidableEq, Repr

/-- Who waits for a delivery's outcome: an operation of a context of this core, or a flit's sender. -/
inductive DelFrom where
  | local (ctx id : Nat)
  | remote (f : Flit)
  /-- The flag addition of a transfer of a channel (R135). -/
  | engine (ch : Nat) (xfer : BitVec 32)
deriving DecidableEq, Repr

/-- A pending delivery to a context (R115), in order of arrival. -/
structure Delivery where
  ctx : Nat
  vint : BitVec 32
  src : DelFrom
  what : DelWhat
deriving DecidableEq, Repr

/-- A landing held in the reorder store of a destination port (R363), or one whose parts an engine joins: its identity, the parts
arrived, their pieces and the endpoints they were read at. -/
structure Land where
  key : LandKey
  got : Nat
  pieces : List (Nat × List Byte)
  vint : BitVec 32
  srcs : List Nat
deriving DecidableEq, Repr

/-- An open taken at a destination port (R365, R370): the transfer, its span, whether it carries WM, and how far it has
landed here: its mark and the number of its next request; after its close, the landings that are dropped as they come (R374). -/
structure OpenRec where
  key : LandKey
  vint : BitVec 32
  lo : Nat
  hi : Nat
  wm : Bool
  mark : Nat
  landN : Nat
  gone : Option (List Nat)
deriving DecidableEq, Repr

/-- A pattern record (R350): base, esize, ext, pack, sizes, strides, flag, and whether a reserved bit is set. -/
structure Pat where
  base : Addr
  esize : Nat
  ext : Bool
  pack : Bool
  sizes : List Nat
  strides : List Int
  flag : Addr
  resv : Bool
deriving DecidableEq, Repr

/-- What a transfer is (R376, R380, R382). -/
inductive XKind where
  | copy | gather | scatter | rstream | wstream
deriving DecidableEq, Repr

/-- The end of a transfer's writes (R358): its flag addition not started, on its way, or done. -/
inductive FlagState where
  | todo | sent | done
deriving DecidableEq, Repr

/-- A request of a transfer that is not acknowledged (R362): its number, its lowest and end destination address, the endpoint that its
landing goes to, the addresses of its source elements that are read elsewhere (R371), the packets of it that are out, and whether its
landing is on its way to the destination. -/
structure Req where
  n : Nat
  lo : Nat
  hi : Nat
  dep : Nat
  srcs : List Nat
  out : Nat
  landing : Bool
deriving DecidableEq, Repr

/-- An unfinished transfer of a channel (R357, R358, R362). -/
structure Xfer where
  id : BitVec 32
  kind : XKind
  /-- The issuing context and the image slot that holds its task (R261). -/
  ctx : Nat
  held : Option Nat
  vint : BitVec 32
  region : BitVec 32
  /-- Its operation in the context's cp; none for a stream or a detached transfer (R214). -/
  opId : Option Nat
  detached : Bool
  wm : Bool
  src : Pat
  dst : Pat
  /-- The indices of a GATHER or SCATTER, the sentinel and out-of-range ones as none (R381). -/
  idx : List (Option Nat)
  rel : Option Scope
  /-- The operations whose performing an acquire waits for (R134). -/
  acqWait : List Nat
  /-- The context's issue count at its issue, and its place in the order of issue of all transfers (R285, R363, R367). -/
  seq : Nat
  age : Nat
  /-- The peer entry as it stood at issue (R553). -/
  peer : Option PeerRef
  /-- The next element to request and the element count. -/
  pos : Nat
  count : Nat
  /-- Requests sent and not acknowledged (R362). -/
  reqs : List Req
  nextReq : Nat
  /-- Whether the open of a remote destination has been sent (R365). -/
  openSent : Bool
  /-- The next request to land at the own port (R364), and the landings whose parts are being joined (R362). -/
  landN : Nat
  joining : List Land
  /-- The bytes of a read stream that have come and are not in its queue, by their place in the stream (R384). -/
  got : List (Nat × List Byte)
  /-- The pops that the queue has been given. -/
  fed : Nat
  frozen : Bool
  aborted : Bool
  flagState : FlagState
  /-- The stream has ended, and the pushes it still had to send (R384, R385). -/
  ended : Bool
  pushed : List Word
deriving DecidableEq, Repr

/-- A copy channel (R357). -/
structure Chan where
  next : BitVec 32
  done : BitVec 32
  wm : Addr
  /-- Unfinished transfers, oldest first, and ids completed out of order. -/
  xfers : List Xfer
  early : List (BitVec 32)
  lastAborted : Bool
  /-- Aborted transfers whose stalled words have not yet been raised (R374). -/
  abortedIds : List (BitVec 32)
deriving DecidableEq, Repr

/-- A channel at partition creation. -/
def Chan.new : Chan := ⟨0, 0, 0, [], [], false, []⟩

/-- An entry of the vector sequencer (R279, R292): its context, vintage, instructions and the repetitions it runs, `first`
to `last`; an instruction alone is repetition 0. `reads` and `writes` list the spans of its scratchpad bytes, low and end
offset (R285). -/
structure VEntry where
  ctx : Nat
  vint : BitVec 32
  body : List VOp
  first : Nat
  last : Nat
  /-- The context's issue count at its issue: operations numbered below are earlier (R285, R312). -/
  seq : Nat
  reads : List (Nat × Nat)
  writes : List (Nat × Nat)
deriving DecidableEq, Repr

/-- Where a tile command stands (R311, R323, R337). -/
inductive TState where
  | queued | running | stopped
deriving DecidableEq, Repr

/-- The forms of the tile command queue (R311, R327-R334); MACQ needs no entry. -/
inductive TFn where
  | mma | mmcx | mconv | mwld | maclr | macrd | macwr | mepi | mrel
deriving DecidableEq, Repr

/-- A tile command in the queue (R311): its form with its tile and weight slot, its fields, the records it named, its
context and counters. -/
structure TCmd where
  fn : TFn
  tile : Nat
  w : Nat
  ty : DType
  rnd : Rnd
  sat : Bool
  clr : Bool
  ctx : Nat
  /-- The image slot that holds its task (R261). -/
  held : Option Nat
  vint : BitVec 32
  region : BitVec 32
  ftz : Bool
  a : Shape
  kk : Shape
  d : Shape
  /-- The 64 bytes of an MWLD header or MEPI record, and the scratchpad offset of the image. -/
  rec' : List Byte
  recAt : Nat
  /-- The context's issue count at its issue: operations numbered below are earlier (R285, R312). -/
  seq : Nat
  /-- Its operation in tl; none for MACLR and MREL, and while stopped (R330, R337). -/
  opId : Option Nat
  state : TState
  /-- The next chunk or row (R322). -/
  step : Nat
  /-- The context's operations that an acquire or a release waits for (R327). -/
  acqWait : List Nat
  relWait : List Nat
  reads : List (Nat × Nat)
  writes : List (Nat × Nat)
  /-- Remote rows sent and not acknowledged, their answers not yet applied, and the lowest refused row (R336, R337). -/
  sent : List Nat
  answers : List (Nat × Option (BitVec 5))
  refusedRow : Option Nat
deriving DecidableEq, Repr

/-- One accumulator tile (R308, R309): its holder (a context, or an image slot), the vintage of its last holder, the
contexts that stall for it, and the elements that are not +0, by 64·i + j. -/
structure TileSt where
  holder : Option Nat
  image : Option Nat
  last : BitVec 32
  waiters : List Nat
  elems : Tbl Acc
deriving DecidableEq, Repr

/-- A tile at partition creation (R308). -/
def TileSt.new : TileSt := ⟨none, none, 0, [], []⟩

/-- A queued reply of a GETA or PUTA (R192, R193). -/
structure Reply where
  tag : Nat
  seq : Nat
  word : Word
deriving DecidableEq, Repr

/-- A tag's binding (R198): the record address, the vintage and context of the issuer. -/
structure TagBind where
  addr : Addr
  vint : BitVec 32
  ctx : Nat
  region : BitVec 32
deriving DecidableEq, Repr

/-- A launch's counts on a core (R232). -/
structure Tally where
  made : BitVec 32
  ended : BitVec 32
  s : BitVec 32
deriving DecidableEq, Repr

/-- A region's binding to a synchronisation object on a core (R126). -/
structure SyncBind where
  vint : BitVec 32
  region : Nat
  obj : Addr
deriving DecidableEq, Repr

/-- A cached translation (R518): vintage, 64 KiB virtual page (bits [53:16]), frame PPA and rights. -/
structure Xlat where
  vint : BitVec 32
  page : Nat
  ppa : Nat
  rd : Bool
  wr : Bool
  ex : Bool
deriving DecidableEq, Repr

/-- A release write kept at an object's home (R130): the launch, the object word (its PPA, or its scratchpad offset) and the
releaser's place and stated scope. -/
structure Release where
  vint : BitVec 32
  ppa : Nat
  lcn : Nat
  ctx : Nat
  scope : Scope
deriving DecidableEq, Repr

/-- One core (R29, R121, R122, R126, R174-R198, R232, R452). -/
structure Core where
  ctxs : Vector Ctx 8
  /-- The context that issued last (R225). -/
  last : Nat
  cache : List CacheLine
  wq : List WqEntry
  /-- Buffer tables by vintage, each by buffer number (R177). -/
  bufs : Tbl (Tbl Buf)
  deliv : List Delivery
  /-- Issue counts and bindings of the reply tags (R192, R193, R198). -/
  tagCnt : Vector (BitVec 32) 32
  tagBind : Vector (Option TagBind) 32
  replies : List Reply
  /-- Replies that have joined the queue, by tag, and replies that wait to join, each with the context and the operation that it
  completes: early ones, or parked behind a full queue in the reply queue's list of the band's siding (R192, R401). -/
  tagNext : Vector (BitVec 32) 32
  repliesWait : List (Reply × Nat × Nat)
  /-- DECRs that the core itself has sent for bound tags and converted tasks, by number (R198, R216). -/
  decrs : Tbl TagBind
  decrNext : Nat
  /-- State writes "running" of accepted tasks that their homes have not answered: the vintage by number (R221, R234). -/
  starts : Tbl (BitVec 32)
  /-- Remote reads that wait at the port behind a copy (R370). -/
  waitReads : List Flit
  /-- Releases kept with the object words of this scratchpad (R130). -/
  rels : List Release
  /-- Dirty lines and vintage tags (R474): scratchpad lines from 0, accumulator lines from 65,536, weight lines from
  131,072. -/
  dirty : Tbl Unit
  tags : Tbl (BitVec 32)
  /-- The next event number and the open interval's records, oldest first (R483). -/
  en : BitVec 32
  log : List LogRec
  /-- The copy channels, the pattern store by vintage, the landing store and the opens taken (R355, R357, R363, R365). -/
  chans : Vector Chan 8
  pats : Tbl (List (List Byte))
  /-- The shape store by vintage (R272). -/
  shapes : Tbl (List (List Byte))
  lands : List Land
  opens : List OpenRec
  /-- The vector sequencer's entries, in order of issue (R279). -/
  vq : List VEntry
  /-- The tile command queue, the tiles and the weight slots' images (R308-R311). -/
  tq : List TCmd
  tiles : Vector TileSt 4
  wslots : Vector (Option (List Byte)) 4
  /-- The collective port, by group, and the results on their way to it from its router (R413, R419). -/
  ports : Tbl CPort
  colIn : List (Nat × CMsg)
  /-- made, ended and s by vintage (R232). -/
  tally : Tbl Tally
  sync : List SyncBind
  xlat : List Xlat
  /-- The provisional list: vintage and pass number at its recording (R452). -/
  prov : List (BitVec 32 × Nat)
  pass : Nat
  /-- An outstanding pull to the district pool: the context that it is for (R224). -/
  pull : Option Nat
  /-- Whether a closing scan has been asked for (R452). -/
  scanAsked : Bool
  /-- Vintages whose gating waves it answers 1 until a failed site's diagnostic scan is known (R494). -/
  adopted : List (BitVec 32)
  /-- Corrected errors in this rotation (R490). -/
  corr : Nat
  dead : Bool
  fenced : Bool
  /-- Drained for a scan pass, or stopped by a detected error (R219, R489). -/
  drained : Bool
  stopped : Bool
  /-- Running scan patterns (R496), replaying a log (R486), and retired by a failed scan (R494, R497). -/
  scanning : Bool
  replaying : Bool
  retired : Bool
deriving DecidableEq, Repr

/-- A core at reset (log entry 2). -/
def Core.reset : Core where
  ctxs := Vector.replicate 8 Ctx.reset
  last := 7
  cache := []
  wq := []
  bufs := []
  deliv := []
  tagCnt := Vector.replicate 32 0
  tagBind := Vector.replicate 32 none
  replies := []
  tagNext := Vector.replicate 32 0
  repliesWait := []
  decrs := []
  decrNext := 0
  starts := []
  waitReads := []
  rels := []
  dirty := []
  tags := []
  en := 0
  log := []
  chans := Vector.replicate 8 Chan.new
  pats := []
  shapes := []
  lands := []
  opens := []
  vq := []
  tq := []
  tiles := Vector.replicate 4 TileSt.new
  wslots := Vector.replicate 4 none
  ports := []
  colIn := []
  tally := []
  sync := []
  xlat := []
  prov := []
  pass := 0
  pull := none
  scanAsked := false
  adopted := []
  corr := 0
  dead := false
  fenced := false
  drained := false
  stopped := false
  scanning := false
  replaying := false
  retired := false

/-! ## Routers, endpoints and rims -/

/-- The states of a rebinding entry (R406). -/
inductive BindState where
  | bound | parked | unused
deriving DecidableEq, Repr

/-- One site's router: the flits that have come in on each plane from north, east, south and west, one a fabric cycle and in
their order, the flits that its core and its rim port offer, those it held when it was fenced (R392), what the broadcasts of R406 changed in its rebinding table, and its discard table of killed vintages. -/
structure Router where
  inReq : Vector (List Flit) 4
  inRep : Vector (List Flit) 4
  offCoreReq : List Flit
  offCoreRep : List Flit
  offRimReq : List Flit
  offRimRep : List Flit
  lost : List Flit
  rebind : Tbl (Nat × BindState)
  discard : List (BitVec 32)
  fenced : Bool
  /-- Links dead at wafer test: north, east, south, west (R393). -/
  deadLinks : Vector Bool 4
  /-- The group entries (R412), and the messages on the links into the router and from its core: contributions by group and
  port, chain totals by port 5, and results by group (R415). -/
  groups : Tbl GEntry
  colUp : List (Nat × Nat × CMsg)
  colDown : List (Nat × CMsg)
deriving DecidableEq, Repr

/-- A router at reset. -/
def Router.reset : Router where
  inReq := Vector.replicate 4 []
  inRep := Vector.replicate 4 []
  offCoreReq := []
  offCoreRep := []
  offRimReq := []
  offRimRep := []
  lost := []
  rebind := []
  discard := []
  fenced := false
  deadLinks := Vector.replicate 4 false
  groups := []
  colUp := []
  colDown := []

/-- An endpoint of a partition (R391, R399, R400): the next number per destination, the unanswered flits per vintage and
destination (at 65,536·vintage + destination), the expected number per source, and per plane the flits just ejected (`Arr`), the early ones held in the input store (`Store`)
and those that have come into order (`In`). -/
structure Endpoint where
  next : Tbl Nat
  await : Tbl Nat
  expct : Tbl Nat
  reqArr : List Flit
  repArr : List Flit
  reqStore : List Flit
  repStore : List Flit
  reqIn : List Flit
  repIn : List Flit
deriving DecidableEq, Repr

/-- An endpoint at partition creation. -/
def Endpoint.new : Endpoint := ⟨[], [], [], [], [], [], [], [], []⟩

/-- The states of a cask entry in use (R440). -/
inductive CaskState where
  | open | committed | undo
deriving DecidableEq, Repr

/-- An entry of the cask pool or of the undo area (R440): line (PPA of its first byte), bytes, mask, vintage, state, and
the commit number that merging follows (R444). -/
structure CaskEntry where
  line : Nat
  data : List Byte
  mask : Nat
  vint : BitVec 32
  state : CaskState
  order : Nat
deriving DecidableEq, Repr

/-- The slot of one LCN of a reduction address (R137). -/
structure RedSlot where
  lcn : Nat
  val : BitVec 32
  invalid : Bool
  inexact : Bool
deriving DecidableEq, Repr

/-- A reduction address (R136): its vintage, its word, its base and the used slots by LCN. -/
structure RedAddr where
  vint : BitVec 32
  ppa : Nat
  base : BitVec 32
  slots : List RedSlot
deriving DecidableEq, Repr

/-- A lock of a slot controller (R448): the vintage and its granule ranges (first granule, number). -/
structure RimLock where
  vint : BitVec 32
  ranges : List (Nat × Nat)
deriving DecidableEq, Repr

/-- One slot controller with its channel (R440, R503-R515). -/
structure Rim where
  casks : List CaskEntry
  reds : List RedAddr
  rels : List Release
  locks : List RimLock
  /-- Requests held at the home: writes that wait for a switch (R460), in order. -/
  waiting : List Flit
  /-- Copy landings that wait here (R364, R367). -/
  lands : List Land
  /-- Vintages switched to in-place writes here (R462). -/
  inPlace : List (BitVec 32)
  code : BitVec 2
  mode : BitVec 2
  pn : BitVec 4
  test : Bool
  chState : BitVec 2
  rq : Bool
  corr : BitVec 16
  uncorr : BitVec 16
  seed : BitVec 32
  /-- The generator's state, and whether the seed field is loaded at the next activation (R508, R509). -/
  gen : BitVec 32
  loadSeed : Bool
  /-- Rows refreshed beside a busy row, newest first (R508). -/
  refreshed : List Nat
  /-- The last burst on the bus, the write bursts of the window and the transitions under the three codes (R507). -/
  lastBurst : List Byte
  bursts : Nat
  trans : Nat × Nat × Nat
  /-- The stored code byte of each burst that is not plain (R506), by burst number. -/
  burstCode : Tbl Byte
  /-- The block table of a retired slot (R513): block to channel and spare block; and the blocks moved. -/
  blocks : Tbl (Nat × Nat)
  moved : Tbl Unit
  /-- Spare blocks in use on this channel (R513). -/
  spares : Tbl Unit
  /-- The next block to move, and the channel of the next donor (R513, R515). -/
  nextBlock : Nat
  donor : Nat
  /-- The stored bursts that have gone bad, by number: whether one cannot be corrected (R519). The model's own. -/
  weak : Tbl Bool
  /-- Blocks to be rebound to a spare block each (R519). -/
  rebind : List Nat
deriving DecidableEq, Repr

/-- A slot controller at reset (R510; the generator's seed is a free value, log entry 5; 0 is stored as R509 says). -/
def Rim.reset (seed : BitVec 32) : Rim where
  casks := []
  reds := []
  rels := []
  locks := []
  waiting := []
  lands := []
  inPlace := []
  code := 0
  mode := 0
  pn := 9
  test := false
  chState := 0
  rq := false
  corr := 0
  uncorr := 0
  seed := if seed = 0 then 0x2545F491 else seed
  gen := if seed = 0 then 0x2545F491 else seed
  loadSeed := false
  refreshed := []
  lastBurst := List.replicate 32 0
  bursts := 0
  trans := (0, 0, 0)
  burstCode := []
  blocks := []
  moved := []
  spares := []
  nextBlock := 0
  donor := 0
  weak := []
  rebind := []

end Sys2Proof.Machine
end

