-- ==== Sys2Proof/Machine/TypesPart.lean ====
section
/-!
DEFINITION. The types of a partition: its configuration, queues, launches, commit arbiter, district pools, image area,
fault log and system tables; of the module's host side and of its time. Nothing here acts.
-/

namespace Sys2Proof.Machine

open Sys2Proof

/-- A copy of the PTP counter (R533): nanoseconds since second 0 and the fraction in units of 2^-32 ns. -/
structure Clock where
  ns : Nat
  frac : Nat
deriving DecidableEq, Repr

/-- A region control block with every field resolved (R227, R228); `params` holds address and bound size of p0-p7. -/
structure Region where
  parent : Nat
  cores : Nat
  contexts : Nat
  prio : BitVec 7
  fd : BitVec 8
  params : List (Nat × Nat)
  regs : List DRegion
deriving DecidableEq, Repr

/-- A launch command (R528) with its submission number and port. -/
structure Cmd where
  rtab : Nat
  ptroot : Nat
  shsec : Nat
  shn : Nat
  patn : Nat
  patsec : Nat
  cmpl : Nat
  tag : Word
  msg : Bool
  shvirt : Nat
  patvirt : Nat
  buftab : Nat
  nbuf : Nat
  /-- Whether a reserved bit is set (R529). -/
  resv : Bool
  sub : BitVec 32
  port : Requester
  /-- The deadline instant a relaunch keeps (R535). -/
  keptDeadline : Option Nat
deriving DecidableEq, Repr

/-- A launch queue (R527, R536); `flushed` is QSTAT state 10. -/
structure LQueue where
  cmds : List Cmd
  subs : BitVec 32
  en : Bool
  flushed : Bool
deriving DecidableEq, Repr

/-- How a launch ends without commit: the outcome code of R530, the status and granule of its record, and whether it is
relaunched (R458). -/
structure EndHow where
  outcome : Nat
  status : BitVec 32
  addr : Nat
  relaunch : Bool
deriving DecidableEq, Repr

/-- Where a launch stands on the path of R20 and in the kill of R265. -/
inductive Phase where
  /-- Step 3: waiting for admission. -/
  | waiting
  /-- Step 3: the lock broadcast is out. -/
  | locking
  /-- Step 4: waiting for its start time, seeds staged. -/
  | staged
  /-- Step 5: tree, record-store fill, seeds. -/
  | filling
  /-- Step 6. -/
  | running
  /-- Step 7. -/
  | gating
  /-- Waiting for its place in the commit order (R454). -/
  | ready
  /-- R455 step 1: the intent record is being written. -/
  | intent
  /-- R455 step 2: the commit broadcast is out. -/
  | committing
  /-- R455 step 3: locks are being released after the record. -/
  | unlocking
  /-- R265 step 1. -/
  | kill1
  /-- R265 step 2. -/
  | kill2
  /-- R265 step 3. -/
  | kill3
  /-- R265 step 4. -/
  | kill4
  /-- R265 step 5. -/
  | kill5
  /-- Ended by a warm reset, its record not yet written (R537). -/
  | warm
deriving DecidableEq, Repr

/-- The states of a vintage that CMTQ reads (R469). -/
inductive VState where
  | assigned | running | switched | gating | ready | committing | committed | ended | relaunched
deriving DecidableEq, Repr

/-- A CASKUSE query (R466): the core, context and operation that asked, the slots it has not reached, those whose counts are
on their way with the counts, and the sum so far. -/
structure CaskQuery where
  site : Nat
  ctx : Nat
  id : Nat
  todo : List Nat
  counts : List (Nat × Nat)
  sum : Nat
deriving DecidableEq, Repr

/-- One launch from step 2 on (R20, R227, R447, R455). -/
structure Launch where
  vint : BitVec 32
  queue : Nat
  cmd : Cmd
  phase : Phase
  entry : Addr
  seedAll : Bool
  table : Bool
  irrevocable : Bool
  reductions : Nat
  cask : Nat
  start : Option Nat
  deadns : Option Nat
  seedsr : Word
  regions : List Region
  /-- The declared buffers: number, base, size in bytes. -/
  bufDecl : List (Nat × Nat × Nat)
  /-- Ranges that BDECL holds declared: site, buffer number, base, size (R447). -/
  bufDyn : List (Nat × Nat × Nat × Nat)
  grp : Option Nat
  late : Bool
  deadlineAt : Option Nat
  tadmit : Nat
  tstart : Nat
  /-- Reduction addresses allocated so far (R136). -/
  redUsed : Nat
  /-- The switch: asked for, broadcast, done (R461). -/
  switchAsked : Bool
  switchOut : Bool
  switched : Bool
  /-- Slots that the switch broadcast has not reached, and those that have not acknowledged it. -/
  swTodo : List Nat
  swAcks : List Nat
  /-- Slots or sites whose acknowledgement is awaited by the step in progress. -/
  acks : List Nat
  /-- Slots or sites that the step in progress has not reached. -/
  todo : List Nat
  /-- The totals of the last done wave: made, ended, s (R234), and whether a wave is out. -/
  lastTotals : Option (BitVec 32 × BitVec 32 × BitVec 32)
  waveOut : Bool
  /-- Answers gathered for the wave in progress: site, made, ended, s (R234), or the gating count (R452). -/
  answers : List (Nat × BitVec 32 × BitVec 32 × BitVec 32)
  status : BitVec 32
  /-- The order in which it became ready (R454). -/
  readyAt : Nat
  ending : Option EndHow
  /-- The index of its first fault record (R530). -/
  flog : Option Nat
  /-- Ended fault domains (R254), and the cores that the messages of the latest have not reached or that have not
  acknowledged it. -/
  domains : List (BitVec 8)
  domTodo : List Nat
  domAcks : List Nat
  /-- The seed tasks counted as made at the root (R232). -/
  seeds : Nat
  /-- The granule ranges that its locks cover: first granule and number (R448). -/
  ranges : List (Nat × Nat)
  /-- The shape and pattern records on their way along the ring (R410). -/
  fillShapes : List (List Byte)
  fillPats : List (List Byte)
  /-- CASKUSE queries on their way (R466). -/
  queries : List CaskQuery
  /-- The groups it has used (R430). -/
  groups : List Nat
deriving DecidableEq, Repr

/-- An entry of a district's queue (R223): its arrival number, and the core an entry is reserved for (R259). -/
structure PoolEntry where
  seq : Nat
  carr : Carr
  /-- The core and the context that it is reserved for (R241, R259). -/
  reserved : Option (Nat × Nat)
deriving DecidableEq, Repr

/-- A recorded pull (R224): the site, and the context that it is for. -/
structure PullReq where
  site : Nat
  ctx : Nat
deriving DecidableEq, Repr

/-- A district's ready pool (R223, R224, R259): the queue that the pool and its siding form, the carriages that have
reached the hint's router and not yet the queue. -/
structure Pool where
  entries : List PoolEntry
  arriving : List Carr
  pulls : List PullReq
  nextSeq : Nat
  /-- Entries on their way to a core that pulled. -/
  sent : List (Nat × PoolEntry)
  /-- An outstanding pre-emption request: site, context (R259). -/
  preempt : Option (Nat × Nat)
deriving DecidableEq, Repr

/-- A pool at partition creation. -/
def Pool.new : Pool := ⟨[], [], [], 0, [], none⟩

/-- The kinds of a held image (R256). -/
inductive ImgKind where
  | free | preempted | continuation | reserved
deriving DecidableEq, Repr

/-- A held image (R255, R256): the context as saved, with the maps of the items present, and the private-window lines.
Width and format are those of the header, which the host may rewrite. -/
structure Image where
  slot : Nat
  kind : ImgKind
  width : BitVec 16
  format : BitVec 8
  /-- Age order among the images of an LCN (R262). -/
  age : Nat
  /-- The context number in which the task last ran (R261). -/
  ctx : Nat
  c : Ctx
  regmap : BitVec 32
  kmap : BitVec 16
  lines : List (Nat × List Byte)
  /-- The private-window lines present (R256). -/
  linemap : BitVec 256
  /-- The words that the host has written to the slot, by offset (R256). -/
  host : Tbl Nat
  /-- Tiles and weight slots held, and the interrupted tile commands' step (R261). -/
  tiles : List Nat
  wslots : List Nat
  /-- Writes delivered to the image's buffers, waiting (R261). -/
  waiting : List Delivery
  /-- Whether the DECR of R216 is still to be performed. -/
  awaiting : Bool
deriving DecidableEq, Repr

/-- A fault record (R253). -/
structure FaultRec where
  cause : BitVec 5
  nested : Bool
  ctx : Nat
  lcn : Nat
  site : Nat
  epc : Addr
  faddr : Addr
  fstep : BitVec 32
  vint : BitVec 32
  task : Addr
  region : BitVec 32
  domain : BitVec 8
  time : Word
deriving DecidableEq, Repr

/-- An entry of the peer or export tables, as its 32 bytes (R550). -/
structure PeerEntry where
  w : List Byte
deriving DecidableEq, Repr

/-- A siding list of a band's area: its number (R401) and its flits, the head first. -/
structure SidingList where
  band : Nat
  list : Nat
  flits : List Flit
deriving DecidableEq, Repr

/-- An entry of the ring table (R409): site and the LCN of a visit. -/
structure RingEntry where
  site : Nat
  lcn : Option Nat
deriving DecidableEq, Repr

/-- A partition configuration record as last written (R525). -/
structure Pcfg where
  lead : BitVec 4
  nb : BitVec 4
  tvec : Addr
  objtab : Addr
  objn : BitVec 16
  grptab : Addr
  grpn : BitVec 6
  resv : Bool
deriving DecidableEq, Repr

/-- The record at reset (R525). -/
def Pcfg.reset : Pcfg := ⟨0, 0, 0, 0, 0, 0, 0, false⟩

/-- A group configuration on its way over the broadcast tree (R437, R572): the node entries by site, the context that
issued it, and the routers that have not taken it. -/
structure GroupMsg where
  grp : Nat
  conf : Option GConf
  nodes : Tbl GEntry
  site : Nat
  ctx : Nat
  left : List Nat
deriving DecidableEq, Repr

/-! ## Peer links (R538-R557) -/

/-- A pull as it travels over a link (R553, R554): the consumer port's number for it, the window, the exporting partition, the
range. -/
structure LinkReq where
  id : Nat
  window : Nat
  epart : Nat
  off : Nat
  len : Nat
deriving DecidableEq, Repr

/-- What a link flit carries after its header (R541, R544): nothing, a request, its data, or its refusal. -/
inductive LinkBody where
  | none
  | request (r : LinkReq)
  | data (id : Nat) (bytes : List Byte)
  | refusal (id : Nat) (cause : BitVec 5)
deriving DecidableEq, Repr

/-- A link flit (R541); `bad` when its CRC fails or a reserved bit is set. -/
structure LinkFlit where
  kind : Nat
  hold : Bool
  seq : BitVec 12
  ack : BitVec 12
  width : BitVec 3
  bad : Bool
  body : LinkBody
deriving DecidableEq, Repr

/-- A request held by a port engine (R553, R555): its number and the pull's flit. -/
structure HeldPull where
  id : Nat
  flit : Flit
deriving DecidableEq, Repr

/-- A BHL port (R538-R548): its register; the sender's next number, replay buffer and bodies not yet sent; the receiver's expected
number, outstanding nak and receive store; whether the peer holds; the directions under retraining with their new widths;
the requests held; the flits that have come on the link and those sent. -/
structure BhlPort where
  state : BitVec 2
  txw : BitVec 3
  rxw : BitVec 3
  lost : BitVec 16
  en : Bool
  rt : Bool
  pmod : BitVec 16
  pport : BitVec 5
  replays : BitVec 16
  crcerr : BitVec 16
  next : BitVec 12
  replay : List LinkFlit
  unsent : List LinkBody
  e : BitVec 12
  nak : Option (BitVec 12)
  store : List LinkFlit
  peerHold : Bool
  retx : Option (BitVec 3)
  rerx : Option (BitVec 3)
  held : List HeldPull
  nextId : Nat
  line : List LinkFlit
  out : List LinkFlit
deriving DecidableEq, Repr

/-- A port at reset (R548). -/
def BhlPort.reset : BhlPort where
  state := 0
  txw := 0
  rxw := 0
  lost := 0
  en := true
  rt := false
  pmod := 0
  pport := 0
  replays := 0
  crcerr := 0
  next := 0
  replay := []
  unsent := []
  e := 0
  nak := Option.none
  store := []
  peerHold := false
  retx := Option.none
  rerx := Option.none
  held := []
  nextId := 0
  line := []
  out := []

/-! ## Recovery (R471-R499) -/

/-- A line copy: its number (R474), its vintage tag and its bytes. -/
abbrev LineCopy := Nat × BitVec 32 × List Byte

/-- An interval's snapshot and copy set (R473, R476, R480): its number, its boundary record's event number, the time and site
of its boundary. -/
structure Ival where
  num : BitVec 32
  en : BitVec 32
  time : Word
  site : Nat
  snap : Core
  lines : List LineCopy
deriving DecidableEq, Repr

/-- A mirror slot (R487): the last fold's interval, boundary event number and pass number, the snapshot, the lines and tags
that differ from those of a new core. -/
structure Mirror where
  num : BitVec 32
  en : BitVec 32
  pass : Nat
  snap : Core
  lines : Tbl (List Byte)
  tags : Tbl (BitVec 32)
deriving DecidableEq, Repr

/-- What keeps one endpoint's core restorable (R471-R488): its cellar's site and number there (0 own, 1 to 3 extra), its open
interval, whether a boundary is asked for, the copy in progress with the lines and snapshot lines not sent, the flits not
acknowledged and whether its close line is sent, the log records sent and not acknowledged. -/
structure Keep where
  host : Option (Nat × Nat)
  num : BitVec 32
  want : Bool
  copy : Option Ival
  left : List LineCopy
  snapLeft : Nat
  out : Nat
  closeSent : Bool
  sent : Nat
  /-- At the host: the closed intervals, the lines and snapshot lines of the one that is coming, and the log. -/
  ivals : List Ival
  part : List LineCopy
  snapPart : Nat
  log : List LogRec
  mirror : Mirror
  /-- A fold is asked for (R488): by which pass, of the intervals before which; and whether the next pass is to write the core's whole
  state (R482). -/
  fold : Bool
  foldPass : Nat
  foldNum : BitVec 32
  whole : Bool
deriving DecidableEq, Repr

/-- A keep at partition creation, with its host. -/
def Keep.new (host : Option (Nat × Nat)) : Keep :=
  ⟨host, 0, false, none, [], 0, 0, false, 0, [], [], 0, [], ⟨0, 0, 0, Core.reset, [], []⟩, false, 0, 0, false⟩

/-- A scan rotation of a district, or of a band's supervisor and reserves (R497): the place of its next pass, the site of its
pass under way, the sites that asked for a pass and those in one. -/
structure Rota where
  next : Nat
  rot : Option Nat
  queue : List Nat
  passing : List Nat
  /-- The fabric cycle in which the rotation under way began. -/
  begun : Option Nat
deriving DecidableEq, Repr

/-- A rotation at partition creation. -/
def Rota.new : Rota := ⟨0, none, [], [], none⟩

/-- A health sweep on the ring (R410): the entry it has reached, the errors summed, the lowest pass number. -/
structure Sweep where
  pos : Nat
  errs : Nat
  pass : Nat
deriving DecidableEq, Repr

/-- The steps of a sparing (R493). -/
inductive SpStep where
  | fence | restore | bind | release | replay
deriving DecidableEq, Repr

/-- A sparing under way in a band (R493, R499): the endpoint, the failed site with the core as it stopped, the reserve, the
records to replay, and whether it follows a failed scan; the routers that its broadcast has not reached and those that
have not acknowledged it. -/
structure Sparing where
  ep : Nat
  site : Nat
  core : Core
  reserve : Nat
  step : SpStep
  replay : List LogRec
  scan : Bool
  todo : List Nat
  acks : List Nat
deriving DecidableEq, Repr

/-- A partition (R10, R14, R438-R470, R511-R519, R525-R536). -/
structure Part where
  lead : Nat
  nb : Nat
  /-- The site of LCN i at configuration (R405). -/
  cores : List Nat
  /-- The site of LCN i now, after any sparing (R22, R493). -/
  bound : List Nat
  /-- The supervisor's site of each band, from the lead (R9). -/
  sups : List Nat
  nrow : Nat
  tvec : Addr
  objtab : Nat
  objn : Nat
  grptab : Nat
  grpn : Nat
  queues : List LQueue
  vcount : BitVec 32
  vstates : List (BitVec 32 × VState)
  launches : List Launch
  /-- The queue the launch engine looks at next (R445). -/
  turn : Nat
  /-- The vintage under commit and its intent record (R455). -/
  intent : Option (BitVec 32)
  commitCount : Nat
  pools : Tbl Pool
  images : Tbl (List Image)
  flog : Tbl FaultRec
  flogHead : Nat
  eps : Tbl Endpoint
  siding : List SidingList
  ring : List RingEntry
  ringBroken : Bool
  peers : Tbl PeerEntry
  exports : Tbl PeerEntry
  lost : List Nat
  preserved : List Nat
  preservedN : Nat
  stopped : Bool
  /-- Group configurations on their way (R572). -/
  cfgs : List GroupMsg
  /-- The LCNs under a rebinding whose replay has not ended: the collective timers stand still (R424). -/
  rebinding : List Nat
  /-- Since when the collective timers stand still, and the fabric cycles that they have stood still for before (R424). -/
  stillFrom : Option Nat
  stillFc : Nat
  /-- By owner endpoint (R471-R488), by district and band (R497). -/
  keeps : Tbl Keep
  rotas : Tbl Rota
  /-- A health sweep under way, and what the last one brought back (R410). -/
  sweep : Option Sweep
  health : Nat × Nat
  /-- Completion messages to send: their 32 bytes and port (R531). -/
  messages : List (Requester × List Byte)
  pcfg : Pcfg
deriving DecidableEq, Repr

/-- A partition as its configuration starts it: no launch, sixteen empty queues that accept, no pools, an empty fault
log (R526, R527). -/
def Part.new (lead nb : Nat) (cores sups : List Nat) (nrow : Nat) (pcfg : Pcfg) : Part where
  lead := lead
  nb := nb
  cores := cores
  bound := cores
  sups := sups
  nrow := nrow
  tvec := pcfg.tvec
  objtab := pcfg.objtab.toNat
  objn := pcfg.objn.toNat
  grptab := pcfg.grptab.toNat
  grpn := pcfg.grpn.toNat
  queues := List.replicate 16 ⟨[], 0, true, false⟩
  vcount := 1
  vstates := []
  launches := []
  turn := 0
  intent := none
  commitCount := 0
  pools := []
  images := []
  flog := []
  flogHead := 0
  eps := []
  siding := []
  ring := []
  ringBroken := false
  peers := []
  exports := []
  lost := []
  preserved := []
  preservedN := 0
  stopped := false
  cfgs := []
  rebinding := []
  stillFrom := none
  stillFc := 0
  keeps := []
  rotas := []
  sweep := none
  health := (0, 0)
  messages := []
  pcfg := pcfg

/-- A launch just taken from a queue, every field not read from its tables at its default (R80, R445). -/
def Launch.new (vint : BitVec 32) (queue : Nat) (cmd : Cmd) : Launch where
  vint := vint
  queue := queue
  cmd := cmd
  phase := .waiting
  entry := 0
  seedAll := false
  table := false
  irrevocable := false
  reductions := 0
  cask := 0
  start := none
  deadns := none
  seedsr := 0
  regions := []
  bufDecl := []
  bufDyn := []
  grp := none
  late := false
  deadlineAt := none
  tadmit := 0
  tstart := 0
  redUsed := 0
  switchAsked := false
  switchOut := false
  switched := false
  swTodo := []
  swAcks := []
  acks := []
  todo := []
  lastTotals := none
  waveOut := false
  answers := []
  status := 0
  readyAt := 0
  ending := none
  flog := none
  domains := []
  domTodo := []
  domAcks := []
  seeds := 0
  ranges := []
  fillShapes := []
  fillPats := []
  queries := []
  groups := []

/-- A launch command of zeros from port SCL-A. -/
def Cmd.zero : Cmd where
  rtab := 0
  ptroot := 0
  shsec := 0
  shn := 0
  patn := 0
  patsec := 0
  cmpl := 0
  tag := 0
  msg := false
  shvirt := 0
  patvirt := 0
  buftab := 0
  nbuf := 0
  resv := false
  sub := 0
  port := .sclA
  keptDeadline := none

end Sys2Proof.Machine
end

