-- ==== Sys2Proof/Machine/State.lean ====
section
/-!
DEFINITION. The state of a ZM1 module as plain data, the faults and refusals, and the state after a cold bring-up
(R569). What a core, a router, a rim or a partition holds is in Types and TypesPart. Nothing here acts.
-/

namespace Sys2Proof.Machine

open Sys2Proof

/-- Why the machine stops. -/
inductive Fault where
  /-- An issue turn names a site or a context that the wafer does not have (R5, R28). Raised by `stepIssue`.
  Safe: no such turn exists. -/
  | noUnit
deriving DecidableEq, Repr

/-- Why an instruction has no meaning where it stands. -/
inductive Refusal where
  /-- The instruction has no meaning in this model yet. Raised by the arms of `exec`. Safe. -/
  | notModelled (mnemonic : String)
  /-- An instruction is executed on a context that runs no task, where no word is ever issued (R221). Safe. -/
  | noContext
deriving DecidableEq, Repr

/-- A turn of the machine: one issue slot of a core's context, or one event (log entry 9). -/
inductive Turn where
  | issue (site ctx : Nat)
  | event (i : Instr)
deriving DecidableEq, Repr

/-- The roles of a band's sites (R9): as the procedure gives them over the sites that were live and unfenced at the last
assignment, `out` naming those that were not; or as the last partition of the band left them, with what sparings bound. -/
inductive Roles where
  | given (out : List Nat)
  | kept (sup : Nat) (jobs : List Nat)
deriving DecidableEq, Repr

/-- One band (R12, R472, R533): its PTP copy stands `skew` ns from the lead copy and never below `floor`. -/
structure Band where
  skew : Int
  floor : Nat
  /-- The translations that its agent holds (R518). -/
  agent : List Xlat
  /-- The recovery engine's control register (R472). -/
  ivl : Nat
  hw : BitVec 2
  wdl : Nat
  sthr : BitVec 8
  /-- The sparing under way, failed sites that wait for one with their cores as they stopped, sites under a diagnostic scan
  with the endpoint that left them (R493-R495). -/
  sparing : Option Sparing
  failed : List (Nat × Core)
  diag : List (Nat × Nat)
  /-- The PCFG record as written, by byte, and PCTL while an operation runs (R525, R526). -/
  pcfg : Tbl Byte
  pctl : Nat
  /-- When the supervisor's last heartbeat miss was counted, in fc (R565). -/
  missAt : Option Nat
  /-- The rotation over the supervisor and the reserves while the band is unassigned (R10, R497). -/
  rota : Rota
  /-- The roles of the last bring-up or partition configuration (R9). -/
  roles : Roles
deriving DecidableEq, Repr

/-- A band at reset (R472), its roles assigned over a wafer without a dead site (log entry 4). -/
def Band.reset : Band := ⟨0, 0, [], 250, 2, 22, 16, none, [], [], [], 0, none, Rota.new, .given []⟩

/-- One array under a slew limiter (R341, R343, R345): its level and the instants at which its wants first stood. -/
structure SlewArray where
  level : Nat
  rise : Option Nat
  fall : Option Nat
deriving DecidableEq, Repr

/-- One power domain's slew limiter (R340, R344): its control register and the arrays above level 0 or with a want. -/
structure Domain where
  up : BitVec 6
  down : BitVec 6
  cap : Nat
  arrays : Tbl SlewArray
  /-- A cap that the MGC wrote, for the next step boundary (R561). -/
  capNext : Option Nat
  /-- Domain status (R560, R561, R564): temperature in °C, power in units of 2 W. -/
  sag : Bool
  sagcap : Bool
  sagn : BitVec 16
  temp : Nat
  power : Nat
  /-- The cap before a ride-through (R558), and the lowerings for power and for temperature that stand (R559, R562). -/
  saved : Option Nat
  lowered : Nat
  heated : Nat
deriving DecidableEq, Repr

/-- A domain at reset (R344). -/
def Domain.reset : Domain := ⟨4, 4, 4, [], none, false, false, 0, 0, 0, none, 0, 0⟩

/-- The owner of the configuration semaphore (R524). -/
inductive SemOwner where
  | free | sclA | sclB
deriving DecidableEq, Repr

/-- A response on an SCL port: the port, the status and the data (R520). -/
structure SclResponse where
  port : Requester
  status : Nat
  data : List Byte
deriving DecidableEq, Repr

/-- The module's input (R558): full operation, ride-through, or wafer rails off. -/
inductive Input where
  | full | ride | off
deriving DecidableEq, Repr

/-- What a band supervisor reports to the management controller: a ring that is broken (R410), by the partition's lead band; a full
siding area (R404); a rotation longer than 1.2 ms, with its band or partition, its number and its delay in fabric cycles (R497). -/
inductive Notice where
  | ringBroken (lead : Nat)
  | sidingFull (band : Nat)
  | slowRotation (part key late : Nat)
deriving DecidableEq, Repr

/-- The management controller (R558-R568): the budget and the partitions' shares in W, the measurements below 95 % in a row, the
input and whether over-voltage is reported, the supervisors' reports, its restarts, the firmware's state, its reports and responses, and the failed
warm resets with the time of the first. -/
structure Mgc where
  budget : Nat
  shares : Tbl Nat
  low : Nat
  input : Input
  overVolt : Bool
  notices : List Notice
  restarts : Nat
  recovery : Bool
  rollback : BitVec 32
  images : List FirmwareImage
  reports : List (List Byte)
  /-- Management responses on their way, and those taken (R563). -/
  responses : List Word
  taken : List Word
  warmFails : Nat
  failAt : Nat
deriving DecidableEq, Repr

/-- The management controller at reset. -/
def Mgc.reset : Mgc := ⟨28000, [], 0, .full, false, [], 0, false, 0, [], [], [], [], 0, 0⟩

/-- The module's own state (R520-R533, R537). -/
structure Module where
  code : OrderingCode
  /-- The fabric cycle count (R396). -/
  fc : Nat
  sem : SemOwner
  semGen : BitVec 16
  /-- The lead copy of the PTP counter in band 0's rim (R533). -/
  clock : Clock
  rate : BitVec 32
  ppsec : BitVec 48
  ppns : BitVec 32
  /-- tns latched by each port's read of tsec, and the staged seconds of a set (R533). -/
  latch : List (Requester × BitVec 32)
  stagedSec : Option (BitVec 48)
  upA : Bool
  upB : Bool
  /-- The port that lost the last tie, true for SCL-A (R522). -/
  tieFirstA : Bool
  responses : List SclResponse
  /-- Host reads held behind a commit (R140): port, address and length. -/
  held : List (Requester × Nat × Nat)
  /-- The module number, once it is written (R549, R563). -/
  number : Option (BitVec 16)
  /-- Completion messages sent (R531). -/
  messages : List (Requester × List Byte)
  warm : Bool
  /-- A cold bring-up is under way, and how many have begun (R569). -/
  booting : Bool
  boots : Nat
  mgc : Mgc
deriving DecidableEq, Repr

/-- The module at reset. -/
def Module.reset : Module where
  code := .zm1_8k3t
  fc := 0
  sem := .free
  semGen := 0
  clock := ⟨0, 0⟩
  rate := 0xB6DB6DB7
  ppsec := 0
  ppns := 0
  latch := []
  stagedSec := none
  upA := true
  upB := true
  tieFirstA := true
  responses := []
  held := []
  number := none
  messages := []
  warm := false
  booting := false
  boots := 0
  mgc := Mgc.reset

/-- An event that has fallen due: one of the first constructors of Instr as such, the others by name. -/
inductive Due where
  | ev (i : Instr)
  /-- A scratchpad read of a core met a single-bit error (R186, R490); no row of the opcode table. -/
  | readError (site : Nat)
  | doneWaveTimer (part v : Nat)
  | domainEnd (site v : Nat)
  | domainEndAck (site v : Nat)
  | caskDiscard (part v : Nat)
  | killCleanup (part v : Nat)
  | commitStart (part : Nat)
  | completionMessage (part : Nat)
  | vintageSwitch (part v : Nat)
  | switch (part slot v : Nat)
  | switchAck (part slot v : Nat)
  | caskuseQuery (part slot v : Nat)
  | caskuseAnswer (part slot v : Nat)
  | launchTake (part : Nat)
  | admission (part v : Nat)
  | fireWave (band v : Nat)
  | recordStoreFill (site v : Nat)
  | proxyContribution (site grp : Nat)
  | proxyResult (site grp : Nat)
  | scanPass (site : Nat)
  | linkDataFlit (port : Nat)
  | linkIdleFlit (port : Nat)
  | linkNakFlit (port : Nat)
  | linkRetrainFlit (port : Nat)
  | peerRequest (port : Nat)
  | exportRequest (port : Nat)
  | peerDataReturn (port : Nat)
  | pctlOperationEnd (band : Nat)
  | timeDistribution (band : Nat)
  | warmReset
  | warmResetEnd
  | coldBringupEnd
  | managementResponse
  | hostMemoryRead (scl : Requester) (addr len : Nat)
  | codeWindowEnd (chan : Nat)
  | channelRetirementRequest (chan : Nat)
  | blockMove (chan : Nat)
  | scanPassResult (site : Nat) (pass : Bool)
  | sidingRelease (part list : Nat)
  | healthSweep (site : Nat)
  | rebindFence (site ep : Nat)
  | rebindFenceAck (site ep : Nat)
  | rebindBind (site ep : Nat)
  | rebindBindAck (site ep : Nat)
  | rebindRelease (site ep : Nat)
  | rebindReleaseAck (site ep : Nat)
  | highWater (site : Nat)
  | cellarCopy (site : Nat)
  | intervalClose (site : Nat)
  | mirrorFold (site : Nat)
  | sparingRestore (band : Nat)
  | sparingBind (band : Nat)
  | sparingRelease (band : Nat)
  | logReplay (site : Nat)
  | replayEnd (site : Nat)
  | diagnosticScanResult (site : Nat) (pass : Bool)
  | cellarHostLoss (site : Nat)
  | startTimeReached (part v : Nat)
  | deadlineExpiry (part v : Nat)
deriving DecidableEq, Repr

/-- The whole module. An unlisted core, router, slot controller or band is as after bring-up; an unlisted partition is
absent. Memory holds the HBM channels and the scratchpads; an unlisted byte reads 0 (log entry 3). -/
structure State where
  cores : Tbl Core
  routers : Tbl Router
  rims : Tbl Rim
  parts : Tbl Part
  bands : Tbl Band
  doms : Tbl Domain
  /-- The BHL ports (R538). -/
  links : Tbl BhlPort
  mem : List Host.Cell
  module : Module
  /-- The counter that free values are drawn with. The model's own. -/
  tick : Nat
  /-- The turns to come, in an order that the machine leaves open. The model's own (log entry 9). -/
  order : List Turn
  /-- Events that have fallen due, oldest first. The model's own. -/
  pending : List Due
  /-- The site and context whose word is being executed. The model's own. -/
  cur : Nat × Nat
deriving DecidableEq, Repr

/-- The module at the end of a cold bring-up (R569): every band unassigned, no task, memory unlisted. -/
def State.reset : State where
  cores := []
  routers := []
  rims := []
  parts := []
  bands := []
  doms := []
  links := []
  mem := []
  module := Module.reset
  tick := 0
  order := []
  pending := []
  cur := (0, 0)

end Sys2Proof.Machine
end

