-- ==== Sys2Proof/Machine/Ops.lean ====
section
/-!
DEFINITION. Named operations over registers, contexts and memory, taking a trap (R244) and returning from one (R251).
Every other file reads and writes the state through these.
-/

namespace Sys2Proof.Machine

open Sys2Proof

/-- The outcome of a meaning. -/
abbrev Out := Host.Outcome State Fault Refusal

/-! ## Cores and contexts -/

/-- The core at a site. -/
def State.core (s : State) (site : Nat) : Core := Tbl.get Core.reset s.cores site

/-- The state with another core at a site. -/
def State.setCore (s : State) (site : Nat) (c : Core) : State := { s with cores := Tbl.put s.cores site c }

/-- Change the core at a site. -/
def State.updCore (s : State) (site : Nat) (f : Core → Core) : State := s.setCore site (f (s.core site))

/-- Context n of a core. -/
def Core.ctx (c : Core) (n : Nat) : Ctx := c.ctxs[n]?.getD Ctx.reset

/-- The core with another context n. -/
def Core.setCtx (c : Core) (n : Nat) (x : Ctx) : Core := { c with ctxs := c.ctxs.setIfInBounds n x }

/-- Context n of the core at a site. -/
def State.ctx (s : State) (site n : Nat) : Ctx := (s.core site).ctx n

/-- The state with another context n at a site. -/
def State.setCtx (s : State) (site n : Nat) (x : Ctx) : State := s.setCore site ((s.core site).setCtx n x)

/-- Change context n of the core at a site. -/
def State.updCtx (s : State) (site n : Nat) (f : Ctx → Ctx) : State := s.setCtx site n (f (s.ctx site n))

/-- The context whose word is being executed. -/
def State.me (s : State) : Ctx := s.ctx s.cur.1 s.cur.2

/-- The state with another executing context. -/
def State.setMe (s : State) (x : Ctx) : State := s.setCtx s.cur.1 s.cur.2 x

/-- The core of the executing context. -/
def State.myCore (s : State) : Core := s.core s.cur.1

/-- The state with another core of the executing context. -/
def State.setMyCore (s : State) (c : Core) : State := s.setCore s.cur.1 c

/-- Whether a core's engines stand still: fenced, dead, stopped by an error, in a scan's patterns or replaying (R486, R489,
R493, R496). -/
def Core.paused (c : Core) : Bool := c.dead || c.fenced || c.stopped || c.scanning || c.replaying

/-- The router of a site. -/
def State.router (s : State) (site : Nat) : Router := Tbl.get Router.reset s.routers site

/-- The state with another router at a site. -/
def State.setRouter (s : State) (site : Nat) (r : Router) : State := { s with routers := Tbl.put s.routers site r }

/-- The slot controller of a module channel; its generator's seed at bring-up is free (R509). -/
def State.rim (s : State) (chan : Nat) : Rim := Tbl.get (Rim.reset (Config.entropySeed chan s.module.boots)) s.rims chan

/-- The state with another slot controller of a channel. -/
def State.setRim (s : State) (chan : Nat) (r : Rim) : State := { s with rims := Tbl.put s.rims chan r }

/-- A BHL port. -/
def State.link (s : State) (port : Nat) : BhlPort := Tbl.get BhlPort.reset s.links port

/-- The state with another BHL port. -/
def State.setLink (s : State) (port : Nat) (x : BhlPort) : State := { s with links := Tbl.put s.links port x }

/-- The partition of a lead band. -/
def State.part? (s : State) (lead : Nat) : Option Part := Tbl.find? s.parts lead

/-- The state with another partition of a lead band. -/
def State.setPart (s : State) (lead : Nat) (p : Part) : State := { s with parts := Tbl.put s.parts lead p }

/-- Change a partition, if there is one. -/
def State.updPart (s : State) (lead : Nat) (f : Part → Part) : State :=
  match s.part? lead with
  | some p => s.setPart lead (f p)
  | none => s

/-- Record that an event has fallen due. -/
def State.due (s : State) (i : Instr) : State := { s with pending := s.pending ++ [.ev i] }

/-- Record that an event has fallen due, once. -/
def State.dueOnce (s : State) (i : Instr) : State := if s.pending.contains (.ev i) then s else s.due i

/-- Record that a named event has fallen due. -/
def State.later (s : State) (d : Due) : State := { s with pending := s.pending ++ [d] }

/-- The band of a site (R5, R6). -/
def bandOf (site : Nat) : Nat := site % 120 / 10

/-- The power domain of a site (R7). -/
def domOf (site : Nat) : Nat := 2 * bandOf site + (if site / 120 ≤ 37 then 0 else 1)

/-- The buddy of a site (R8). -/
def buddyOf (site : Nat) : Nat := 120 * (75 - site / 120) + site % 120

/-- The partition that holds a band (R10). -/
def State.partOfBand (s : State) (band : Nat) : Option Part :=
  (List.find? (fun e => decide (e.2.lead ≤ band) && decide (band < e.2.lead + e.2.nb)) s.parts).map (·.2)

/-- The sites of a band. -/
def bandSites (b : Nat) : List Nat := (List.range 760).map fun i => 120 * (i / 10) + 10 * b + i % 10

/-- A band's state. -/
def State.band (s : State) (b : Nat) : Band := Tbl.get Band.reset s.bands b

/-- The state with another band. -/
def State.setBand (s : State) (b : Nat) (x : Band) : State := { s with bands := Tbl.put s.bands b x }

/-- The site that supervises a band: its partition's, or the one that the last assignment of roles gave (R9, R10). -/
def State.supOf (s : State) (b : Nat) : Nat :=
  let last := match (s.band b).roles with
    | .given out => ((bandSites b).filter fun x => !out.contains x).headD (10 * b)
    | .kept sup _ => sup
  match s.partOfBand b with
  | some p => (p.sups[b - p.lead]?).getD last
  | none => last

/-- Whether a site is the supervisor core of its band, which runs every context with sup = 1 (R33). -/
def State.supSite (s : State) (site : Nat) : Bool := s.supOf (bandOf site) == site

/-- The partition that holds a site (R10). -/
def State.partAt (s : State) (site : Nat) : Option Part := s.partOfBand (bandOf site)

/-- The site bound to endpoint `ep` (an LCN or a supervisor) at configuration (R405, R406). -/
def Part.baseSite (p : Part) (ep : Nat) : Option Nat :=
  if 0xD000 ≤ ep then some (ep - 0xD000) else if 0xC000 ≤ ep then p.sups[ep - 0xC000 - p.lead]? else p.cores[ep]?

/-- The rebinding entry of an endpoint at a router (R406). -/
def State.bindAt (s : State) (p : Part) (router ep : Nat) : Option (Nat × BindState) :=
  match Tbl.find? (s.router router).rebind ep with
  | some e => some e
  | none => (p.baseSite ep).map fun b => (b, .bound)

/-- The position of a site in a list. -/
def indexOf : List Nat → Nat → Option Nat
  | [], _ => none
  | a :: t, x => if a = x then some 0 else (indexOf t x).map (· + 1)

/-- The LCN bound to a site, if any (R405, R493). -/
def State.lcnOf (s : State) (site : Nat) : Option Nat :=
  match s.partAt site with
  | none => none
  | some p => indexOf p.bound site

/-- The endpoint whose core stands at a site: an LCN, or a supervisor (R391). -/
def State.ownerEp (s : State) (p : Part) (site : Nat) : Option Nat :=
  match s.lcnOf site with
  | some l => some l
  | none => if p.sups.contains site then some (0xC000 + bandOf site) else none

/-- The endpoint of a cellar's host (R481): an owner's, or one of the model's own for a reserve (log entry 8). -/
def State.hostEp (s : State) (p : Part) (site : Nat) : Nat := (s.ownerEp p site).getD (0xD000 + site)

/-- What keeps an endpoint's core restorable, if the partition keeps it. -/
def State.keepAt (s : State) (site : Nat) : Option (Part × Nat × Keep) :=
  match s.partAt site with
  | none => none
  | some p => (s.ownerEp p site).bind fun ep => (Tbl.find? p.keeps ep).map fun k => (p, ep, k)

/-- The bytes that a log record takes (R484). -/
def LogRec.bytes (r : LogRec) : Nat := 32 + 32 * ((r.payload.length + 31) / 32)

/-- The bytes that a log takes. -/
def logBytes (l : List LogRec) : Nat := l.foldl (fun n r => n + r.bytes) 0

/-- Lines of a cellar (R480). -/
def cellarSize : Nat := 16384

/-- The lines that an owner's records take in its cellar (R480): headers, snapshots, line groups, close lines, log blocks. -/
def Keep.lines (k : Keep) : Nat :=
  k.ivals.foldl (fun n i => n + 1026 + 8 * ((i.lines.length + 6) / 7)) 0 + k.snapPart + 8 * ((k.part.length + 6) / 7)
    + (logBytes k.log + 63) / 64

/-- Whether a cellar has no room for a further line (R478). -/
def Keep.full (k : Keep) : Bool := decide (cellarSize ≤ k.lines)

/-- Whether a core's cellar has no room: its port writes nothing until a fold frees room (R478). -/
def State.cellarFull (s : State) (site : Nat) : Bool :=
  match s.keepAt site with
  | some (_, _, k) => k.host.isSome && k.full
  | none => false

/-- Whether the engines and the port of a core write nothing: it stands still (R475, R493, R496), or its cellar is full (R478). -/
def State.still (s : State) (site : Nat) : Bool := (s.core site).paused || s.cellarFull site

/-- Change an endpoint's keep. -/
def State.updKeep (s : State) (lead ep : Nat) (f : Keep → Keep) : State :=
  s.updPart lead fun p =>
    match Tbl.find? p.keeps ep with
    | some k => { p with keeps := Tbl.put p.keeps ep (f k) }
    | none => p

/-- Whether a context may issue words: it runs a task and stands at no suspension point (R221, R225). -/
def Ctx.issues (c : Ctx) : Bool :=
  c.occ == .running &&
    match c.hold with
    | .suspending _ | .writeback _ => false
    | _ => true

/-- Whether a context stands inside a word group whose instruction has not issued (R66, R142). -/
def Ctx.inGroup (c : Ctx) : Bool := c.issues && c.hints.isSome && c.hold == .none

/-! ## Registers -/

/-- x[r]: x0 reads zero (R28). -/
def Ctx.get (c : Ctx) (r : Reg) : Word := if r = 0 then 0 else c.x[r.toNat]'(r.isLt)

/-- Write x[r]: a write to x0 is discarded (R28); the register becomes dirty (R257). -/
def Ctx.put (c : Ctx) (r : Reg) (v : Word) : Ctx :=
  if r = 0 then c
  else { c with x := c.x.set r.toNat v r.isLt, dirtyX := c.dirtyX ||| (1 <<< r.toNat) }

/-- Bit mask of a register in the scoreboard; x0 has none (R141, R143). -/
def regBit (r : Reg) : BitVec 32 := if r = 0 then 0 else 1 <<< r.toNat

/-- Whether a register's scoreboard bit is clear (R142). -/
def Ctx.clear (c : Ctx) (r : Reg) : Bool := c.sb &&& regBit r == 0

/-- Index of a stream-capable register x16-x23. -/
def streamIx (r : Reg) : Nat := r.toNat - 16

/-- The stream mode of a register (R141). -/
def Ctx.mode (c : Ctx) (r : Reg) : SMode :=
  if 16 ≤ r.toNat ∧ r.toNat ≤ 23 then c.smode[streamIx r]?.getD .off else .off

/-- OR sticky bits into sys.sticky (R32). -/
def Ctx.orSticky (c : Ctx) (f : Word) : Ctx := { c with sticky := stickyOr c.sticky f }

/-- The first address of the word group of the word at pc (R66, R67). -/
def Ctx.groupStart (c : Ctx) : Addr :=
  match c.hints with
  | some h => h.start
  | none => c.pc

/-- The pc after the word at pc (R163). -/
def Ctx.advance (c : Ctx) : Ctx := { c with pc := c.pc + 4, hints := none, stall := none, fetched := [], hold := .none }

/-- Every scalar word already issued completes: its scoreboard bits clear (R145). -/
def Ctx.drainScalar (c : Ctx) : Ctx :=
  { c with due := [], sb := c.due.foldl (fun sb m => sb &&& ~~~m) c.sb }

/-- The entries of a core's reply queue (R192). -/
def replyEntries : Nat := 64

/-- The entries that a district's pool serves from (R223). -/
def poolSize : Nat := 4096

/-! ## Causes (R246) -/

def causeIllegal : BitVec 5 := 0x01
def causeOverlap : BitVec 5 := 0x02
def causeMisalign : BitVec 5 := 0x03
def causeXlate : BitVec 5 := 0x04
def causeProt : BitVec 5 := 0x05
def causeParamUnbound : BitVec 5 := 0x06
def causeBufstate : BitVec 5 := 0x07
def causeUndeclared : BitVec 5 := 0x08
def causeCopyAbort : BitVec 5 := 0x09
def causeCollTimeout : BitVec 5 := 0x0A
def causeWatchdog : BitVec 5 := 0x0B
def causeImageMismatch : BitVec 5 := 0x0C
def causePriv : BitVec 5 := 0x0D
def causeTrap : BitVec 5 := 0x0E
def causeLayout : BitVec 5 := 0x0F

/-- What a write answers that its launch's kill refused for want of room (R459, R461): no fault is posted for it, since no context of
the launch traps. The model's own use of R246's code. -/
def causeKilled : BitVec 5 := 0x12

/-- Trap entry with tact = 0 (R244): psup and tact, supervisor mode, the five trap registers, and the pc at sys.tvec.
Scalar registers, streams, counters, sys.sticky and sys.srstate keep their values. -/
def Ctx.enterTrap (c : Ctx) (cause : BitVec 5) (faddr : Addr) (fstep : BitVec 32) : Ctx :=
  let d := c.drainScalar
  { d with
    psup := d.sup, tact := true, sup := true,
    cause := cause, epc := d.groupStart, faddr := faddr, fstep := fstep, tepc := d.groupStart, tfaddr := faddr,
    pc := d.tvec, hints := none, hold := .none, stall := none, fetched := [], window := [] }

/-- A trap with tact = 1 is not entered: the fault domain ends with nested := 1 (R244, R245). The context waits as in
step 1 of R214; SUSPENSION_POINT completes the end. The fault record holds sys.epc and sys.faddr of the entry that stands, and
sys.fstep (R253); a fetch fault at sys.tvec without an entry gives its own address. Of the two causes the record and the status
word take the second trap's: the spec names neither (DESIGN CHOICE, log entry 70). -/
def Ctx.endNested (c : Ctx) (cause : BitVec 5) (faddr : Addr) : Ctx :=
  let d := c.drainScalar
  let epc := if c.tact then c.tepc else d.groupStart
  { d with hold := .suspending (.ending true cause epc (if c.tact then c.tfaddr else faddr) c.fstep) }

/-- Take a trap on a context (R244). -/
def Ctx.takeTrap (c : Ctx) (cause : BitVec 5) (faddr : Addr) (fstep : BitVec 32) : Ctx :=
  if c.tact then c.endNested cause faddr else c.enterTrap cause faddr fstep

/-- The value of sys.time: seconds in bits [63:32], nanoseconds in bits [31:0] (R30). -/
def timeWord (ns : Nat) : Word := BitVec.ofNat 64 (ns / 1000000000 % 2 ^ 32 * 2 ^ 32 + ns % 1000000000)

/-- The nanoseconds of a band's PTP copy (R533). -/
def State.bandNs (s : State) (b : Nat) : Nat :=
  let x := s.band b
  max x.floor ((s.module.clock.ns : Int) + x.skew).toNat

/-- sys.time at a site (R30). -/
def State.timeAt (s : State) (site : Nat) : Word := timeWord (s.bandNs (bandOf site))

/-- Take a trap on context n of a site. -/
def State.trapAt (s : State) (site n : Nat) (cause : BitVec 5) (faddr : Addr) (fstep : BitVec 32) : State :=
  let t := s.updCtx site n fun c =>
    { c.takeTrap cause faddr fstep with ttime := if c.tact then c.ttime else s.timeAt site }
  if (s.ctx site n).tact then t.due (.suspensionPoint site n) else t

/-- Take a trap on the executing context, at its word group (R244). -/
def State.trap (s : State) (cause : BitVec 5) (faddr : Addr) : State := s.trapAt s.cur.1 s.cur.2 cause faddr 0

/-- The return of ERET (R251), with tact = 1. -/
def Ctx.returnFromTrap (c : Ctx) : Ctx :=
  { c with sup := c.psup, tact := false, pc := c.epc, hints := none, hold := .none, stall := none, fetched := [], window := [] }

/-! ## Memory -/

/-- What an unlisted byte reads as (log entry 3). -/
def unlistedByte : Byte := 0

/-- One byte of memory. -/
def memGet (m : List Host.Cell) (a : Nat) : Byte := Tbl.get unlistedByte m a

/-- Memory with one byte written, in its canonical form. -/
def memSet (m : List Host.Cell) (a : Nat) (v : Byte) : List Host.Cell :=
  if v = unlistedByte then Tbl.del m a else Tbl.put m a v

/-- n bytes from an address upward. -/
def memRead (m : List Host.Cell) (a : Nat) : Nat → List Byte
  | 0 => []
  | n + 1 => memGet m a :: memRead m (a + 1) n

/-- Bytes written from an address upward. -/
def memWrite (m : List Host.Cell) (a : Nat) : List Byte → List Host.Cell
  | [] => m
  | b :: t => memWrite (memSet m a b) (a + 1) t

/-- Bytes written from an address upward where the mask's bits are set. -/
def memWriteMask (m : List Host.Cell) (a mask : Nat) : List Byte → List Host.Cell
  | [] => m
  | b :: t => memWriteMask (if mask % 2 = 1 then memSet m a b else m) (a + 1) (mask / 2) t

/-- No listed byte equals what an unlisted byte reads as. -/
def memNoZero : List Host.Cell → Bool
  | [] => true
  | (_, v) :: t => v != unlistedByte && memNoZero t

/-- The canonical form of memory: addresses strictly rising, no listed byte that an unlisted one reads as. -/
def Memory.wf (m : List Host.Cell) : Bool := Tbl.rises m && memNoZero m

/-- The place in memory of byte `off` of an HBM channel (R503: 2 GiB each, 1,536 channels). -/
def hbmAddr (chan off : Nat) : Nat := chan * 2 ^ 31 + off

/-- The place in memory of scratchpad offset `off` of a site (R29: 4 MiB each). -/
def scrAddr (site off : Nat) : Nat := 2 ^ 42 + site * 2 ^ 22 + off

/-- n bytes of a site's scratchpad. -/
def State.scrRead (s : State) (site off n : Nat) : List Byte := memRead s.mem (scrAddr site off) n

/-- Bytes written to a site's scratchpad. -/
def State.scrWrite (s : State) (site off : Nat) (d : List Byte) : State :=
  { s with mem := memWrite s.mem (scrAddr site off) d }

/-- A 64-bit value of bytes. -/
def wordOf (l : List Byte) : Word := BitVec.ofNat 64 (leNat l)

/-- The first bytes of a list as a list of a fixed length, padded with zeros. -/
def padTo : Nat → List Byte → List Byte
  | 0, _ => []
  | n + 1, [] => 0 :: padTo n []
  | n + 1, b :: t => b :: padTo n t

end Sys2Proof.Machine
end

