-- ==== Sys2Proof/Machine/Operands.lean ====
section
/-!
DEFINITION. Operand forms of the scalar pipeline: register sources with the pops of read streams (R167, R170),
destinations with the pushes of write streams (R168), the scoreboard (R142, R143), the HINTs an instruction accepts and
what they change (R68-R70), immediates (R153, R172), and the decode checks that look at a context's state (R71, R169).
-/

namespace Sys2Proof.Machine

open Sys2Proof

/-- Which HINT bits an instruction accepts (R68): an IMM HINT, the branch bits and the non-temporal bit of SCHED, the
MOD kind, and of MOD the ftz bit and the priority. -/
structure HintUse where
  imm : Bool := false
  br : Bool := false
  nt : Bool := false
  mod : Bool := false
  ftz : Bool := false
  prio : Bool := false
  deriving DecidableEq, Repr

/-- Whether the HINTs of an open group suit the instruction; if not, the group traps ILLEGAL (R70). R70 does not say whether the
priority bits [7:1] of a MOD HINT before SPAWN have a meaning while the priority-valid bit is 0: the model accepts them whatever
they hold and ignores them (DESIGN CHOICE, log entry 67). -/
def hintsFit (u : HintUse) (h : Option HintGroup) : Bool :=
  match h with
  | none => true
  | some g =>
    (g.imm.isNone || u.imm)
    && (match g.sched with
        | none => true
        | some (nt, br) => (br == .none || u.br) && (!nt || u.nt))
    && (match g.mod with
        | none => true
        | some (pv, prio, ftz) =>
          u.mod && (!ftz || u.ftz) && (u.prio || (!pv && prio == 0)))

/-- The ftz bit that a MOD HINT gives the instruction (R69). -/
def Ctx.hintFtz (c : Ctx) : Bool :=
  match c.hints with
  | some ⟨_, _, _, some (_, _, ftz)⟩ => ftz
  | _ => false

/-- The priority that a MOD HINT gives a SPAWN (R69). -/
def Ctx.hintPrio (c : Ctx) : Option (BitVec 7) :=
  match c.hints with
  | some ⟨_, _, _, some (true, p, _)⟩ => some p
  | _ => none

/-- The immediate of an RI form: sext(imm16), or sext40(payload:imm16) with an IMM HINT (R68, R153). -/
def Ctx.imm16 (c : Ctx) (imm : BitVec 16) : Word :=
  match c.hints with
  | some ⟨_, some p, _, _⟩ => (p ++ imm).signExtend 64
  | _ => imm.signExtend 64

/-- The offset of LD and ST: sext(imm13), or sext37(payload:imm13) with an IMM HINT (R68, R172). -/
def Ctx.imm13 (c : Ctx) (imm : BitVec 13) : Word :=
  match c.hints with
  | some ⟨_, some p, _, _⟩ => (p ++ imm).signExtend 64
  | _ => imm.signExtend 64

/-- A source register's value: an element popped from a read stream, 0 past its end (R167, R170), else x[r]. No value
when the scoreboard bit is set or the element has not arrived: the word does not issue (R142, R170). -/
def Ctx.source (c : Ctx) (r : Reg) : Option (Word × Ctx) :=
  if c.mode r = .read then
    let q := c.strm[streamIx r]?.getD StreamReg.off
    match q.landed with
    | v :: t =>
      some (v, { c with
        strm := c.strm.setIfInBounds (streamIx r) { q with landed := t }
        spos := c.spos.setIfInBounds (streamIx r) (c.spos[streamIx r]?.getD 0 + 1) })
    | [] => if q.left = 0 then some (0, c) else none
  else if c.clear r then some (c.get r, c)
  else none

/-- The values of the sources in field order: a, then b, then the third operand (R167). -/
def Ctx.sources (c : Ctx) : List Reg → Option (List Word × Ctx)
  | [] => some ([], c)
  | r :: t =>
    match c.source r with
    | none => none
    | some (v, c1) =>
      match c1.sources t with
      | none => none
      | some (vs, c2) => some (v :: vs, c2)

/-- The depth of a write stream's push queue (R384). -/
def pushDepth : Nat := 64

/-- Whether a destination can be written: scoreboard bit clear (R142), and room in a write stream's queue. -/
def Ctx.destReady (c : Ctx) (d : Reg) : Bool :=
  c.clear d && (c.mode d != .write || decide ((c.strm[streamIx d]?.getD StreamReg.off).pushed.length < pushDepth))

/-- Write a result: pushed on a write stream (R168), else written to x[d]. -/
def Ctx.result (c : Ctx) (d : Reg) (v : Word) : Ctx :=
  if c.mode d = .write then
    let q := c.strm[streamIx d]?.getD StreamReg.off
    { c with
      strm := c.strm.setIfInBounds (streamIx d) { q with pushed := q.pushed ++ [v] }
      spos := c.spos.setIfInBounds (streamIx d) (c.spos[streamIx d]?.getD 0 + 1) }
  else c.put d v

/-- Set the scoreboard bits of registers written by a word whose results become ready at a later cycle (R143). -/
def Ctx.pend (c : Ctx) (m : BitVec 32) : Ctx := if m = 0 then c else { c with sb := c.sb ||| m, due := c.due ++ [m] }

/-- The stream checks at decode (R169, R175): a write stream named as a source, a read stream named as a destination; a
form that reads its destination, or that takes no stream as destination (`plain`), allows neither. -/
def streamsLegal (c : Ctx) (srcs dests : List Reg) (plain : Bool) : Bool :=
  srcs.all (fun r => c.mode r != .write)
  && dests.all (fun r => c.mode r != .read && (!plain || c.mode r != .write))

/-- The OVERLAP check of R72: a destination other than x0 that is also a source, x0 as a source excepted. -/
def overlaps (dests srcs : List Reg) : Bool :=
  dests.any fun d => d != 0 && srcs.any fun r => r == d

/-- The stream among a word's registers whose transfer was aborted (R374). -/
def Ctx.abortedStream (c : Ctx) (l : List Reg) : Option Nat :=
  (List.find? (fun (r : Reg) => c.mode r != .off
    && ((c.strm[streamIx r]?.getD StreamReg.off).aborted
      || c.abortMask.getLsbD (c.strm[streamIx r]?.getD StreamReg.off).ch)) l).map fun r =>
    (c.strm[streamIx r]?.getD StreamReg.off).ch

/-- The stream among a word's registers that stalls it: a read stream without its next element, a write stream without
room (R170, R384). -/
def Ctx.stalledStream (c : Ctx) (srcs dests : List Reg) : Option Reg :=
  match List.find? (fun (r : Reg) => c.mode r == .read && (c.source r).isNone) srcs with
  | some r => some r
  | none => List.find? (fun (r : Reg) => c.mode r == .write && !c.destReady r) dests

/-- A word that stalls: its context notes the stream it waits for (R372). -/
def stallOn (s : State) (c : Ctx) (srcs dests : List Reg) : State :=
  match c.stalledStream srcs dests with
  | some r => s.setMe { c with stall := some (.stream r) }
  | none => s

/-- A word's decode checks in the order of R71, and the cause of the first that fails. -/
def decodeCheck (c : Ctx) (u : HintUse) (srcs dests : List Reg) (plain priv pair : Bool) : Option (BitVec 5) :=
  if !hintsFit u c.hints || !streamsLegal c srcs dests plain then some causeIllegal
  else if priv && !c.sup then some causePriv
  else if pair && overlaps dests srcs then some causeOverlap
  else none

/-- What a word sees when it issues: the context with its pops made, and the operand values in field order. -/
structure Issued where
  c : Ctx
  vals : List Word
  deriving DecidableEq, Repr

/-- The i-th operand value. -/
def Issued.v (i : Issued) (n : Nat) : Word := i.vals.getD n 0

/-- Issue a word of the executing context. The context must run a task; its decode checks trap (R71); a word that cannot
issue leaves its context where it stands (R142); a supervisor core runs privileged forms in every context (R33); else `k` gives the effect. A word that traps after issue restores the
streams, since `k` receives the state with its pops only in `Issued.c` (R171). -/
def issueWord (s : State) (u : HintUse) (srcs dests : List Reg) (plain priv pair : Bool) (k : Issued → Out) : Out :=
  let c := s.me
  if c.occ ≠ .running then .refused .noContext
  else
    match decodeCheck c u srcs dests plain (priv && !s.supSite s.cur.1) pair with
    | some cause => .next (s.trap cause 0)
    | none =>
      match c.abortedStream (srcs ++ dests) with
      | some ch => .next ((s.setMe { c with abortMask := c.abortMask &&& ~~~((1 : BitVec 8) <<< ch) }).trap causeCopyAbort 0)
      | none =>
        match c.sources srcs with
        | none => .next (stallOn s c srcs dests)
        | some (vs, c1) => if dests.all c1.destReady then k ⟨c1, vs⟩ else .next (stallOn s c srcs dests)

/-- Record that the executing context's next scalar result will be ready (R143). -/
def State.resultDue (s : State) : State := s.due (.scalarResultReady s.cur.1 s.cur.2)

/-- Complete a word that writes x[d] in the scalar pipeline (R143, R146): the result, the pending bit, the sticky bits,
the next pc. -/
def finishScalar (s : State) (c : Ctx) (d : Reg) (v flags : Word) : State :=
  let c1 := ((c.result d v).pend (regBit d)).orSticky flags
  (s.setMe c1.advance).resultDue

/-- A form that computes x[d] from its sources alone. -/
def aluOp (s : State) (u : HintUse) (srcs : List Reg) (d : Reg) (plain : Bool) (f : Issued → Word) : Out :=
  issueWord s u srcs [d] plain false false fun i => .next (finishScalar s i.c d (f i) 0)

/-- No HINT but SCHED without bits. -/
def noHints : HintUse := {}
/-- A form that takes an IMM HINT. -/
def immHints : HintUse := { imm := true }
/-- A form that takes the non-temporal bit of SCHED: COPY, GATHER and SCATTER (R68). -/
def ntHints : HintUse := { nt := true }
/-- A branch. -/
def brHints : HintUse := { br := true }

end Sys2Proof.Machine
end

