-- ==== Sys2Proof/Machine/Net.lean ====
section
/-!
DEFINITION. Sending flits (R388-R399) and taking the flits that have arrived in order at an endpoint (R400).
-/

namespace Sys2Proof.Machine

open Sys2Proof

/-- An endpoint of a partition. -/
def Part.ep (p : Part) (e : Nat) : Endpoint := Tbl.get Endpoint.new p.eps e

/-- A partition with another endpoint. -/
def Part.setEp (p : Part) (e : Nat) (x : Endpoint) : Part := { p with eps := Tbl.put p.eps e x }

/-- The kind of a flit (R389). -/
def Body.kind : Body → Nat
  | .load .. => 0
  | .store .. | .row .. => 1
  | .atomic .. => 2
  | .copyRead .. | .pull .. => 3
  | .open .. => 4
  | .geta .. | .puta .. => 5
  | .carriage .. => 6
  | .recop .. => 7
  | .faultMsg .. | .resume .. | .abort .. | .close .. => 8
  | .cellar .. => 9
  | .data .. => 10
  | .ack .. | .landAck .. => 11
  | .landing .. => 12
  | .void => 13

/-- The plane of a kind (R389). -/
def Body.plane (b : Body) : Plane := if 10 ≤ b.kind ∧ b.kind ≤ 12 then .reply else .request

/-- Whether a flit of a kind awaits an answer (R399). -/
def Body.awaits (b : Body) : Bool :=
  match b.kind with
  | 0 | 1 | 2 | 3 | 4 | 5 | 7 | 9 | 12 => true
  | _ => false

/-- The rim port of a slot of a partition (R504, R505). -/
def slotPort (p : Part) (slot : Nat) : Nat :=
  let band := p.lead + slot / 128
  let q := slot % 128
  if q < 64 then 9120 + 10 * band + q % 10 else 9240 + 10 * band + (q - 64) % 10

/-- The endpoint of port engine p, and whether an endpoint is one (R538). -/
def portEp (port : Nat) : Nat := 0xC010 + port
def isPortEp (ep : Nat) : Bool := decide (0xC010 ≤ ep) && decide (ep < 0xC028)

/-- The rim port through which a port engine is reached (R538). -/
def peerRim (port : Nat) : Nat := if port % 2 = 0 then 9125 + 10 * (port / 2) else 9245 + 10 * (port / 2)

/-- The site of a rim port: (x, 0) for 9,120 + x, (x, 75) for 9,240 + x (R390). -/
def portSite (port : Nat) : Nat := if port < 9240 then port - 9120 else 120 * 75 + (port - 9240)

/-- The destination of an endpoint by the tables at a site (R398): a slot's rim port, or the rebinding entry. -/
def State.dsiteOf (s : State) (p : Part) (site dep : Nat) : Nat :=
  if 0x8000 ≤ dep ∧ dep < 0xC000 then slotPort p (dep - 0x8000)
  else if isPortEp dep then peerRim (dep - 0xC010)
  else ((s.bindAt p site dep).map (·.1)).getD site

/-- The flits of a pair that no answer has come for (R399). -/
def Part.pairOut (p : Part) (sep dep : Nat) : Nat := ((p.ep sep).await.filter fun e => e.1 % 65536 == dep).foldl (fun n e => n + e.2) 0

/-- The unanswered flits of a pair at which its sender injects no more (R399). -/
def pairLimit : Nat := 2048

/-- Whether an endpoint may send another flit of a pair (R399). -/
def Part.canSend (p : Part) (sep dep : Nat) : Bool := decide (p.pairOut sep dep < pairLimit)

/-- The place of a pair's count of one vintage among an endpoint's unanswered flits (R265, R399). -/
def awaitKey (v : BitVec 32) (dep : Nat) : Nat := 65536 * v.toNat + dep

/-- Offer a flit at a router, from its core or from its rim port. -/
def Router.offer (r : Router) (rim : Bool) (f : Flit) : Router :=
  match f.plane, rim with
  | .request, false => { r with offCoreReq := r.offCoreReq ++ [f] }
  | .request, true => { r with offRimReq := r.offRimReq ++ [f] }
  | .reply, false => { r with offCoreRep := r.offCoreRep ++ [f] }
  | .reply, true => { r with offRimRep := r.offRimRep ++ [f] }

/-- Send a flit from endpoint `sep` of a partition, injected at `site` from the core or from the rim: it takes the
pair's next number and its destination's site (R398, R399). Carriages belong to no pair and name no source (R391). The count of payload
bytes in use is open, since the spec lays out no payload. -/
def State.send (s : State) (lead : Nat) (site : Nat) (rim : Bool) (sep dep ctx id tag : Nat) (vint : BitVec 32)
    (body : Body) : State :=
  match s.part? lead with
  | none => s
  | some p =>
    let e := p.ep sep
    let n := Tbl.get 0 e.next dep
    let paired := body.kind ≠ 6
    let f : Flit :=
      { plane := body.plane, part := lead, dsite := s.dsiteOf p site dep, dep := dep,
        sep := if paired then sep else 0xFFFF, inj := s.module.fc % 2 ^ 14, vint := vint, seq := if paired then n else 0, ctx := ctx, id := id, tag := tag,
        len := (Config.freeBits 5 s.tick).toNat, det := false, ddist := 0, park := false, last := 4, body := body }
    let e1 := if paired then
        { e with
          next := Tbl.put e.next dep ((n + 1) % 4096)
          await := if body.awaits then Tbl.put e.await (awaitKey vint dep) (Tbl.get 0 e.await (awaitKey vint dep) + 1) else e.await }
      else e
    ((s.setPart lead (p.setEp sep e1)).setRouter site ((s.router site).offer rim f)).due (.flitRouting f.plane site)

/-- The site that endpoint `ep` of a partition stands at: a core, a supervisor, or the site of a slot's rim port. -/
def Part.siteOf (p : Part) (ep : Nat) : Nat :=
  if isPortEp ep then portSite (peerRim (ep - 0xC010))
  else if 0xD000 ≤ ep then ep - 0xD000
  else if 0xC000 ≤ ep then p.sups.getD (ep - 0xC000 - p.lead) 0
  else if 0x8000 ≤ ep then portSite (slotPort p (ep - 0x8000))
  else p.bound.getD ep 0

/-- Whether an endpoint is a rim slot. -/
def isSlot (ep : Nat) : Bool := decide (0x8000 ≤ ep) && decide (ep < 0xC000)

/-- Whether an endpoint injects from its rim port: a slot or a port engine. -/
def isRimEp (ep : Nat) : Bool := isSlot ep || isPortEp ep

/-- Answer a flit: a flit from its destination back to its source, with its reply tag (R398). -/
def State.answer (s : State) (f : Flit) (body : Body) : State :=
  match s.part? f.part with
  | none => s
  | some p => s.send f.part (p.siteOf f.dep) (isRimEp f.dep) f.dep f.sep f.ctx f.id f.tag f.vint body

/-- Send from the core at a site, as its LCN. -/
def State.sendFromCore (s : State) (site dep ctx id tag : Nat) (vint : BitVec 32) (body : Body) : State :=
  match s.partAt site, s.lcnOf site with
  | some p, some l => s.send p.lead site false l dep ctx id tag vint body
  | _, _ => s

/-- Whether the core at a site may send a flit to an endpoint now (R399): not while it stands still (R493, R496). -/
def State.coreCanSend (s : State) (site dep : Nat) : Bool :=
  match s.partAt site, s.lcnOf site with
  | some p, some l => !(s.core site).paused && p.canSend l dep
  | _, _ => false

/-- The flits of a plane that have come into order at an endpoint. -/
def Endpoint.ins (e : Endpoint) : Plane → List Flit
  | .request => e.reqIn
  | .reply => e.repIn

/-- The held early flits of a plane. -/
def Endpoint.store (e : Endpoint) : Plane → List Flit
  | .request => e.reqStore
  | .reply => e.repStore

/-- The flits just ejected on a plane. -/
def Endpoint.arr (e : Endpoint) : Plane → List Flit
  | .request => e.reqArr
  | .reply => e.repArr

/-- Replace the lists of a plane. -/
def Endpoint.setPlane (e : Endpoint) (pl : Plane) (arr store ins : List Flit) : Endpoint :=
  match pl with
  | .request => { e with reqArr := arr, reqStore := store, reqIn := ins }
  | .reply => { e with repArr := arr, repStore := store, repIn := ins }

/-- The flit of a pair with a given number, taken out of a list. -/
def takeFlit (sep seq : Nat) : List Flit → Option (Flit × List Flit)
  | [] => none
  | f :: t =>
    if f.sep = sep ∧ f.seq = seq then some (f, t)
    else (takeFlit sep seq t).map fun (g, r) => (g, f :: r)

/-- After a flit of a pair is applied: the expected number advances by one, and the pair's next flit, if it is held
early, comes into order, on whichever plane it came (R400). -/
def Endpoint.advance (e : Endpoint) (f : Flit) : Endpoint × Option Flit :=
  let n := (Tbl.get 0 e.expct f.sep + 1) % 4096
  let e1 := { e with expct := Tbl.put e.expct f.sep n }
  match takeFlit f.sep n e.reqStore, takeFlit f.sep n e.repStore with
  | some (g, st), _ => ({ e1 with reqStore := st, reqIn := e1.reqIn ++ [g] }, some g)
  | none, some (g, st) => ({ e1 with repStore := st, repIn := e1.repIn ++ [g] }, some g)
  | none, none => (e1, none)

/-- The event that applies a flit of a body (R389). -/
def eventOf (lead ep : Nat) (pl : Plane) : Body → Instr
  | .load .. => .loadRequest lead ep
  | .store .. | .row .. => .storeRequest lead ep
  | .atomic .. => .atomicRequest lead ep
  | .copyRead .. => .copyReadRequest lead ep
  | .pull .. => .copyReadRequest lead ep
  | .open .. => .remoteOpen lead ep
  | .geta .. | .puta .. => .activeMessage lead ep
  | .carriage .. => .carriage .request 0
  | .recop .. => .recordOperation lead ep
  | .faultMsg .. => .faultMessage lead ep
  | .resume .. => .resumePacket lead ep
  | .abort .. => .abortPacket lead ep
  | .close .. => .closePacket lead ep
  | .cellar .. => .cellarTraffic lead ep
  | .data .. => .dataReply lead ep
  | .ack .. => .acknowledgement lead ep
  | .landAck .. => .landingAck lead ep
  | .landing .. => .landing lead ep
  | .void => .voidFlit pl lead ep

/-- Whether the core of an endpoint stands still, so that its endpoint applies no flit (R475, R493, R496), or no request for want of room
in its cellar (R478). -/
def State.portHeld (s : State) (p : Part) (ep : Nat) (pl : Plane) : Bool :=
  !isRimEp ep && ((s.core (p.siteOf ep)).paused || (pl == .request && s.cellarFull (p.siteOf ep)))

/-- The parked lists of an endpoint are looked at again (R403). -/
def State.wakeSiding (s : State) (p : Part) (ep : Nat) : State :=
  (p.siding.filter fun l => l.list % 65536 == ep && decide (l.list < 131072)).foldl (fun t l => t.later (.sidingRelease p.lead l.list)) s

/-- The first flit that has come into order at an endpoint on a plane, and the state in which it is applied: out of the
list, the expected number advanced, the pair's next flit due (R400). Nothing when there is none. -/
def State.takeIn (s : State) (lead ep : Nat) (pl : Plane) : Option (Flit × State) :=
  match s.part? lead with
  | none => none
  | some p =>
    let e := p.ep ep
    match (if s.portHeld p ep pl then [] else e.ins pl) with
    | [] => none
    | f :: t =>
      let r := (e.setPlane pl (e.arr pl) (e.store pl) t).advance f
      let s1 := (s.setPart lead (p.setEp ep r.1)).wakeSiding p ep
      some (f, match r.2 with
        | some g => s1.due (eventOf lead ep g.plane g.body)
        | none => s1)

/-- One flit of a pair and vintage no longer awaits its answer; flits of the pair that waited for it may be injected (R399). -/
def State.answered (s : State) (lead sep dep : Nat) (v : BitVec 32) : State :=
  let s1 := s.updPart lead fun p =>
    let e := p.ep sep
    let k := awaitKey v dep
    let n := Tbl.get 0 e.await k - 1
    p.setEp sep { e with await := if n = 0 then Tbl.del e.await k else Tbl.put e.await k n }
  match s.part? lead with
  | none => s1
  | some p =>
    if p.canSend sep dep then s1
    else (s1.due (.flitRouting .request (p.siteOf sep))).due (.flitRouting .reply (p.siteOf sep))

end Sys2Proof.Machine
end

