-- ==== Sys2Proof/Machine/Home.lean ====
section
/-!
DEFINITION. The slot controllers as homes of global memory: the interleave and the block tables (R511-R515), the stored
code and the neighbour refresh (R506-R508), the cask (R440-R444, R459-R463), the reductions (R136-R138), atomics and
objects at the home (R127-R130, R132, R200).
-/

namespace Sys2Proof.Machine

open Sys2Proof

/-! ## Places -/

/-- The slots S of a partition (R511). -/
def Part.slots (p : Part) : Nat := 128 * p.nb

/-- The reported capacity S·nrow·256 (R511, R512). -/
def Part.capacity (p : Part) : Nat := p.slots * p.nrow * 256

/-- The slot of a PPA (R511). -/
def Part.slotOf (p : Part) (ppa : Nat) : Nat := ppa / 256 % p.slots

/-- The module channel of a slot (R504). -/
def Part.chanOf (p : Part) (slot : Nat) : Nat := 128 * p.lead + slot

/-- The row of a PPA (R511). -/
def Part.rowOf (p : Part) (ppa : Nat) : Nat := ppa / 256 / p.slots

/-- Where a PPA's bytes are stored: channel and byte, through the slot's block table when the block has moved (R511,
R513, R515). Spare block k starts at channel byte 256·8,126,464 + 65,536·k (R512). -/
def State.placeOf (s : State) (p : Part) (ppa : Nat) : Nat × Nat :=
  let chan := p.chanOf (p.slotOf ppa)
  let row := p.rowOf ppa
  let r := s.rim chan
  match Tbl.find? r.moved (row / 256), Tbl.find? r.blocks (row / 256) with
  | some _, some (c, k) => (c, 0x7C000000 + 65536 * k + 256 * (row % 256) + ppa % 256)
  | _, _ => (chan, 256 * row + ppa % 256)

/-- n bytes at home from a PPA, within one granule. -/
def State.homeRead (s : State) (p : Part) (ppa n : Nat) : List Byte :=
  let pl := s.placeOf p ppa
  memRead s.mem (hbmAddr pl.1 pl.2) n

/-! ## Row activations and stored codes -/

/-- One step of a channel's 32-bit generator (R508). -/
def genStep (g : BitVec 32) : BitVec 32 :=
  let a := g ^^^ (g <<< 13)
  let b := a ^^^ (a >>> 17)
  b ^^^ (b <<< 5)

/-- The neighbours of a row that exist (R508, R512). -/
def neighbours (row : Nat) : List Nat :=
  ([2, 1].filter fun k => decide (k ≤ row)).map (row - ·) ++ [row + 1, row + 2].filter fun r => decide (r < 8388608)

/-- A row activation (R508): the generator steps, from the seed field first in seeded test mode (R509), and the neighbours of the
row are refreshed when its top pn bits are 0. -/
def Rim.activate (r : Rim) (row : Nat) : Rim :=
  let g := genStep (if r.loadSeed then r.seed else r.gen)
  let hit := decide (g.toNat / 2 ^ (32 - r.pn.toNat) = 0)
  { r with
    gen := g, loadSeed := false,
    refreshed := if hit then neighbours row ++ r.refreshed else r.refreshed }

/-- The bursts of a channel (R503, R504). -/
def chanBursts : Nat := 67108864

/-- A channel whose bursts have decayed further, freely (R519). -/
def Rim.decayed (r : Rim) (chan tick : Nat) : Rim :=
  { r with weak := (Config.decay chan tick).foldl (fun l e => Tbl.put l (e.1 % chanBursts) e.2) r.weak }

/-- The number of set bits among the low n of a number. -/
def popNat : Nat → Nat → Nat
  | 0, _ => 0
  | n + 1, v => v % 2 + popNat n (v / 2)

/-- The bus word of a burst under a code byte (R506). -/
def codedBurst (m : Nat) (d : Nat) : Nat :=
  if m % 4 = 1 then (if m / 4 % 2 = 1 then (2 ^ 256 - 1) ^^^ d else d)
  else if m % 4 = 2 then
    (List.range 4).foldl (fun a k => if m / 2 ^ (2 + k) % 2 = 1 then a ^^^ ((2 ^ 64 - 1) * 2 ^ (64 * k)) else a) d
  else d

/-- The code byte that a code gives a burst after the previous burst on the bus (R506, R507): each flag is set when
inverting saves transitions. -/
def codeByte (code prev d : Nat) : Nat :=
  if code = 1 then
    (if 128 < popNat 256 (prev ^^^ d) then 5 else 1)
  else if code = 2 then
    2 + (List.range 4).foldl (fun a k =>
      if 32 < popNat 64 ((prev ^^^ d) / 2 ^ (64 * k) % 2 ^ 64) then a + 2 ^ (2 + k) else a) 0
  else 0

/-- The transitions that a code makes on a burst after the previous one (R507). -/
def codeCost (code prev d : Nat) : Nat := popNat 256 (prev ^^^ codedBurst (codeByte code prev d) d)

/-- The code that new writes of a channel use (R507, R510). -/
def Rim.newCode (r : Rim) : Nat := if r.mode = 0 then r.code.toNat else r.mode.toNat - 1

/-- A burst write at a channel (R506, R507): its code byte is stored, and the window's counts grow. -/
def Rim.burst (r : Rim) (burstNo : Nat) (bytes : List Byte) : Rim :=
  let d := leNat bytes
  let prev := leNat r.lastBurst
  let m := codeByte r.newCode prev d
  { r with
    burstCode := if m = 0 then Tbl.del r.burstCode burstNo else Tbl.put r.burstCode burstNo (BitVec.ofNat 8 m),
    lastBurst := leBytes 32 (codedBurst m d),
    bursts := r.bursts + 1,
    trans := (r.trans.1 + codeCost 0 prev d, r.trans.2.1 + codeCost 1 prev d, r.trans.2.2 + codeCost 2 prev d) }

/-- The write bursts of a window (R507). -/
def codeWindow : Nat := 1048576

/-- Write bytes of one line at home where the mask's bits are set: a row activation, the stored bytes, and the bursts of
the line that the write touches; a burst that is written whole is sound again. -/
def State.homeWriteLine (s : State) (p : Part) (line mask : Nat) (data : List Byte) : State :=
  let pl := s.placeOf p line
  let s1 := { s with mem := memWriteMask s.mem (hbmAddr pl.1 pl.2) mask data }
  let r0 := (s1.rim pl.1).activate (pl.2 / 256)
  let step := fun (r : Rim) (k : Nat) =>
    if mask / 2 ^ (32 * k) % 2 ^ 32 = 0 then r
    else
      let q := r.burst (pl.2 / 32 + k) (memRead s1.mem (hbmAddr pl.1 (pl.2 + 32 * k)) 32)
      if mask / 2 ^ (32 * k) % 2 ^ 32 = 2 ^ 32 - 1 then { q with weak := Tbl.del q.weak (pl.2 / 32 + k) } else q
  let r1 := (step (step r0 0) 1).decayed pl.1 s.tick
  let s2 := s1.setRim pl.1 r1
  if codeWindow ≤ r1.bursts then s2.later (.codeWindowEnd pl.1) else s2

/-- A row activation by a read of a PPA. -/
def State.activateAt (s : State) (p : Part) (ppa : Nat) : State :=
  let pl := s.placeOf p ppa
  s.setRim pl.1 (((s.rim pl.1).activate (pl.2 / 256)).decayed pl.1 s.tick)

/-! ## Views (R443) -/

/-- The open entry of a vintage for a line at a slot controller. -/
def Rim.openEntry (r : Rim) (v : BitVec 32) (line : Nat) : Option CaskEntry :=
  r.casks.find? fun e => e.state == .open && e.vint == v && e.line == line

/-- The committed byte i of a line: the newest committed entry whose mask has it, else the byte at home (R443). -/
def Rim.committedByte (r : Rim) (line i : Nat) (home : Byte) : Byte :=
  let c := r.casks.filter fun e => e.state == .committed && e.line == line && decide (e.mask / 2 ^ i % 2 = 1)
  match c.foldl (fun (b : Option CaskEntry) e =>
      match b with
      | some x => if x.order < e.order then some e else b
      | none => some e) none with
  | some e => e.data.getD i 0
  | none => home

/-- Byte i of a line as a vintage's cask-aware view, or the committed view, reads it at home (R118, R443, R462). -/
def Rim.viewByte (r : Rim) (v : BitVec 32) (committed : Bool) (line i : Nat) (home : Byte) : Byte :=
  match (if committed then none else r.openEntry v line) with
  | some e => if e.mask / 2 ^ i % 2 = 1 then e.data.getD i 0 else r.committedByte line i home
  | none => r.committedByte line i home

/-- n bytes at a PPA in a view, reductions apart. -/
def State.viewRead (s : State) (p : Part) (v : BitVec 32) (committed : Bool) (ppa : Nat) : Nat → List Byte
  | 0 => []
  | n + 1 =>
    let line := ppa / 64 * 64
    let home := (s.homeRead p ppa 1).getD 0 0
    (s.rim (p.chanOf (p.slotOf ppa))).viewByte v committed line (ppa % 64) home
      :: s.viewRead p v committed (ppa + 1) n

/-! ## Reductions (R136-R138) -/

/-- A reduction address's fold and the sticky bits of a load of it (R138). -/
def RedAddr.fold (a : RedAddr) : Enc :=
  a.slots.foldl (fun (acc : Enc) sl =>
    let e := addF32 acc.bits sl.val.toNat
    let f := (if sl.invalid then stickyInvalid else 0) ||| (if sl.inexact then stickyInexact else 0)
    ⟨e.bits, acc.flags ||| e.flags ||| f⟩) ⟨a.base.toNat, 0⟩

/-- The reduction addresses of a vintage at a slot controller that meet bytes ppa to ppa + n - 1. -/
def Rim.redsIn (r : Rim) (v : BitVec 32) (ppa n : Nat) : List RedAddr :=
  r.reds.filter fun a => a.vint == v && decide (a.ppa < ppa + n) && decide (ppa < a.ppa + 4)

/-- Bytes read with the folds of the reduction words among them, and the folds' sticky bits (R138). -/
def overlayFolds (ppa : Nat) (reds : List RedAddr) (bytes : List Byte) : List Byte × Word :=
  reds.foldl (fun (acc : List Byte × Word) a =>
    let e := a.fold
    let fb := leBytes 4 e.bits
    ((acc.1.zipIdx).map fun (b, i) =>
        if a.ppa ≤ ppa + i ∧ ppa + i < a.ppa + 4 then fb.getD (ppa + i - a.ppa) b else b,
     acc.2 ||| e.flags)) (bytes, 0)

/-- A load of vintage v at its home: the bytes and the sticky bits of any folds (R138, R443). -/
def State.homeLoad (s : State) (p : Part) (v : BitVec 32) (committed : Bool) (ppa n : Nat) : List Byte × Word :=
  let b := s.viewRead p v committed ppa n
  if committed then (b, 0) else overlayFolds ppa ((s.rim (p.chanOf (p.slotOf ppa))).redsIn v ppa n) b

/-- A slot fed with an operand (R137): a first one is stored, NaNs as the canonical NaN, a later one added. -/
def RedAddr.feed (a : RedAddr) (lcn : Nat) (x : BitVec 32) : RedAddr :=
  let canon : BitVec 32 := if isNanVal (f32Val x.toNat) then 0x7FC00000 else x
  match a.slots.find? fun sl => sl.lcn == lcn with
  | none =>
    let before := a.slots.takeWhile fun sl => decide (sl.lcn < lcn)
    let after := a.slots.dropWhile fun sl => decide (sl.lcn < lcn)
    { a with slots := before ++ [⟨lcn, canon, false, false⟩] ++ after }
  | some sl =>
    let e := addF32 sl.val.toNat x.toNat
    let sl' : RedSlot :=
      ⟨lcn, BitVec.ofNat 32 e.bits, sl.invalid || (e.flags &&& stickyInvalid != 0),
       sl.inexact || (e.flags &&& stickyInexact != 0)⟩
    { a with slots := a.slots.map fun t => if t.lcn = lcn then sl' else t }

/-- A write of bytes that covers part of a reduction word: the fold with the written bytes merged becomes the base, and
every slot is unused (R138). -/
def RedAddr.overwrite (a : RedAddr) (line mask : Nat) (data : List Byte) : RedAddr :=
  let fb := leBytes 4 a.fold.bits
  let nb := fb.zipIdx.map fun (b, i) =>
    let o := a.ppa + i - line
    if mask / 2 ^ o % 2 = 1 then data.getD o b else b
  { a with base := BitVec.ofNat 32 (leNat nb), slots := [] }

/-! ## Writes at the home (R441, R442, R459-R462) -/

/-- The launch of a vintage, also once its record is written and its locks are going. -/
def Part.launch? (p : Part) (v : BitVec 32) : Option Launch := p.launches.find? fun l => l.vint == v

/-- Change the launch of a vintage. -/
def Part.updLaunch (p : Part) (v : BitVec 32) (f : Launch → Launch) : Part :=
  { p with launches := p.launches.map fun l => if l.vint = v then f l else l }

/-- The launches of a partition that wait for another are looked at again: the queues' turn and the waiting launches, in
vintage order (R445), a switch that waits for older vintages (R461), and the commit order (R454). -/
def State.examine (s : State) (lead : Nat) : State :=
  match s.part? lead with
  | none => s
  | some p =>
    let w := p.launches.filter fun l => l.phase == .waiting
    let l := sortBy (fun a b => decide ((b.vint - a.vint).toNat < 2 ^ 31)) w
    let asked := p.launches.filter fun l => l.phase == .running && l.switchAsked && !l.switchOut
    let s1 := l.foldl (fun t x => t.later (.admission lead x.vint.toNat)) (s.later (.launchTake lead))
    (asked.foldl (fun t x => t.later (.vintageSwitch lead x.vint.toNat)) s1).later (.commitStart lead)

/-- A cask entry's bytes replaced where the mask's bits are set. -/
def mergeBytes (mask : Nat) (new old : List Byte) : List Byte :=
  old.zipIdx.map fun (b, i) => if mask / 2 ^ i % 2 = 1 then new.getD i b else b

/-- The undo share of a slot (R461). -/
def undoShare : Nat := 65536

/-- How a write fared at its home. -/
inductive WResult where
  /-- Performed. -/
  | done (s : State)
  /-- Refused: the launch's kill with CASKFULL begins (R459, R461). -/
  | full (s : State)
  /-- Waits at the home for the switch (R460). -/
  | wait (s : State)
  deriving DecidableEq, Repr

/-- Start the end of a launch (R264, R265): the first starter stands, and nothing happens once the commit broadcast has
begun (R267). KILL_MESSAGE carries it to the cores. -/
def State.startKill (s : State) (lead : Nat) (v : BitVec 32) (how : EndHow) : State :=
  match s.part? lead with
  | none => s
  | some p =>
    match p.launch? v with
    | none => s
    | some l =>
      match l.phase with
      | .waiting | .locking | .committing | .unlocking | .kill1 | .kill2 | .kill3 | .kill4 | .kill5 | .warm => s
      | .staged | .filling | .running | .gating | .ready | .intent =>
        let stop := fun (k : Launch) =>
          { k with phase := .kill1, ending := some how, acks := p.bound, todo := p.bound, answers := [], waveOut := false,
                   swTodo := [], swAcks := [], domTodo := [], domAcks := [], queries := [] }
        let q := { p.updLaunch v stop with intent := if p.intent = some v then none else p.intent }
        let s1 := (s.setPart lead q).due (.killMessage (p.bound.headD 0) v.toNat)
        if l.phase = .intent then s1.later (.commitStart lead) else s1

/-- The first granule of the lost list that n bytes from a PPA meet. -/
def Part.lostIn (p : Part) (ppa n : Nat) : Option Nat := p.lost.find? fun g => decide (g < ppa + n) && decide (ppa < g + 256)

/-- A launch that reads a granule of the lost list is killed with DETECTED and the granule's address (R519). -/
def State.killLost (s : State) (p : Part) (v : BitVec 32) (ppa n : Nat) : State :=
  match p.lostIn ppa n with
  | some g => s.startKill p.lead v ⟨6, 0, g, false⟩
  | none => s

/-! ## Bad bursts (R519) -/

/-- The bad bursts among n bytes from a channel byte. -/
def Rim.badIn (r : Rim) (b n : Nat) : List (Nat × Bool) :=
  r.weak.filter fun e => decide (b / 32 ≤ e.1) && decide (e.1 * 32 < b + n)

/-- Whether a burst lies in the system rows (R512). -/
def isSystemBurst (b : Nat) : Bool := decide (59244544 ≤ b) && decide (b < 65011712)

/-- The bursts of the system rows of a channel that cannot be corrected. -/
def Rim.systemBad (r : Rim) : List (Nat × Bool) := r.weak.filter fun e => e.2 && isSystemBurst e.1

/-- Bad bursts were read: they are counted, saturating (R510), and one that cannot be corrected is dealt with once. -/
def Rim.meet (r : Rim) (l : List (Nat × Bool)) : Rim :=
  let hard := l.filter (·.2)
  { r with
    corr := BitVec.ofNat 16 (min 65535 (r.corr.toNat + (l.length - hard.length))),
    uncorr := BitVec.ofNat 16 (min 65535 (r.uncorr.toNat + hard.length)),
    weak := r.weak.filter fun e => !hard.contains e }

/-- A block of a slot waits to be rebound to a spare block (R519). -/
def Rim.askRebind (r : Rim) (block : Nat) : Rim :=
  if r.rebind.contains block then r else { r with rebind := r.rebind ++ [block] }

/-- What a count of uncorrectable bursts starts: a rebinding of blocks, and a retirement at 4 (R513, R519). -/
def State.afterBad (s : State) (slotChan chan : Nat) : State :=
  let s1 := s.later (.blockMove slotChan)
  if 4 ≤ (s1.rim chan).uncorr.toNat ∧ (s1.rim chan).chState = 0 then s1.later (.channelRetirementRequest chan) else s1

/-- A read of n bytes of committed data met the bad bursts among them: the granule of one that cannot be corrected joins the lost
list, and its block is rebound (R519). -/
def State.meetBad (s : State) (p : Part) (ppa n : Nat) : State :=
  let pl := s.placeOf p ppa
  let l := (s.rim pl.1).badIn pl.2 n
  if l.isEmpty then s
  else
    let s1 := s.setRim pl.1 ((s.rim pl.1).meet l)
    if l.any (·.2) then
      let c := p.chanOf (p.slotOf ppa)
      let s2 := s1.setRim c ((s1.rim c).askRebind (p.rowOf ppa / 256))
      let g := ppa / 256 * 256
      let s3 := s2.updPart p.lead fun q => if q.lost.contains g then q else { q with lost := q.lost ++ [g] }
      s3.afterBad c pl.1
    else s1

/-- A read of a vintage's open cask entry at a slot met a bad burst of the area that holds it: the vintage is killed and relaunched
(R519). Which bytes of the area hold an entry is not given, so whether a bad one does is free. -/
def State.meetBadCask (s : State) (p : Part) (v : BitVec 32) (ppa : Nat) : State :=
  let c := p.chanOf (p.slotOf ppa)
  let r := s.rim c
  match r.openEntry v (ppa / 64 * 64), r.systemBad with
  | some _, (b, _) :: _ =>
    if Config.freeBits 1 s.tick = 0 then s
    else
      ((s.setRim c ((r.meet [(b, true)]).askRebind (b / 2048))).afterBad c c).startKill p.lead v ⟨6, 0, ppa / 256 * 256, true⟩
  | _, _ => s

/-- Whether a read of one of the band's system areas meets a burst that cannot be corrected (R519): free when there is one. -/
def State.systemBadAt (s : State) (band : Nat) : Bool :=
  ((List.range 128).any fun q => !(s.rim (128 * band + q)).systemBad.isEmpty) && Config.freeBits 1 s.tick == 1

/-- The bytes that a vintage's request reads at a home: bad bursts are dealt with, a lost granule ends the launch (R519). -/
def State.checkAtHome (s : State) (p : Part) (v : BitVec 32) (ppa n : Nat) : State :=
  let s1 := (s.meetBad p ppa n).meetBadCask p v ppa
  s1.killLost ((s1.part? p.lead).getD p) v ppa n

/-- A read of n bytes at a home for a vintage: the bytes are checked and the row is activated (R508, R519). What the activation
spoils is met by later reads. -/
def State.readAtHome (s : State) (p : Part) (v : BitVec 32) (ppa n : Nat) : State := (s.checkAtHome p v ppa n).activateAt p ppa

/-- Merge every committed entry of a line into home and free it, oldest commit first (R444). -/
def State.mergeLine (s : State) (p : Part) (line : Nat) : State :=
  let chan := p.chanOf (p.slotOf line)
  let r := s.rim chan
  let here := fun (e : CaskEntry) => e.state == .committed && e.line == line
  let es := sortBy (fun (a b : CaskEntry) => decide (a.order ≤ b.order)) (r.casks.filter here)
  let s1 := es.foldl (fun (t : State) e => t.homeWriteLine p line e.mask e.data) s
  let r1 := s1.rim chan
  s1.setRim chan { r1 with casks := r1.casks.filter fun e => !here e }

/-- An in-place write of a switched vintage (R462): the line's home bytes are saved once, then overwritten. -/
def State.writeInPlace (s : State) (p : Part) (v : BitVec 32) (line mask : Nat) (data : List Byte) : WResult :=
  let chan := p.chanOf (p.slotOf line)
  let s0 := s.mergeLine p line
  let r := s0.rim chan
  let mine := fun (e : CaskEntry) => e.state == .undo && e.vint == v
  if r.casks.any fun e => mine e && e.line == line then .done (s0.homeWriteLine p line mask data)
  else if undoShare ≤ (r.casks.filter mine).length then
    .full (s0.startKill p.lead v ⟨4, 0, 0, false⟩)
  else
    let u : CaskEntry := ⟨line, s0.homeRead p line 64, 2 ^ 64 - 1, v, .undo, 0⟩
    .done ((s0.setRim chan { r with casks := r.casks ++ [u] }).homeWriteLine p line mask data)

/-- The entries that a vintage's cask gives each slot (R442). -/
def Part.share (p : Part) (l : Launch) : Nat := l.cask / (64 * p.slots)

/-- A global write of a vintage at its home: bytes of one line where the mask's bits are set (R138, R441, R442, R459,
R460, R462). -/
def State.homeStore (s : State) (p : Part) (v : BitVec 32) (line mask : Nat) (data : List Byte) : WResult :=
  let chan := p.chanOf (p.slotOf line)
  let r := s.rim chan
  let hit := r.redsIn v line 64 |>.filter fun a => decide (mask / 2 ^ (a.ppa - line) % 16 ≠ 0)
  let redMask := hit.foldl (fun m a => m ||| (15 * 2 ^ (a.ppa - line))) 0
  let r1 := { r with reds := r.reds.map fun a => if hit.contains a then a.overwrite line mask data else a }
  let s1 := if hit.isEmpty then s else s.setRim chan r1
  let m := mask - (mask &&& redMask)
  if m = 0 then .done s1
  else if r.inPlace.contains v then s1.writeInPlace p v line m data
  else
    match r1.openEntry v line with
    | some _ =>
      .done (s1.setRim chan { r1 with casks := r1.casks.map fun e =>
        if e.state = .open ∧ e.vint = v ∧ e.line = line then
          { e with data := mergeBytes m data e.data, mask := e.mask ||| m } else e })
    | none =>
      match p.launch? v with
      | none => .done s1
      | some l =>
        if l.switchAsked then .wait s
        else if p.share l ≤ (r1.casks.filter fun e => e.state == .open && e.vint == v).length then
          if l.irrevocable then
            .wait ((s.updPart p.lead fun q => q.updLaunch v fun k => { k with switchAsked := true }).later
              (.vintageSwitch p.lead v.toNat))
          else .full (s.startKill p.lead v ⟨4, 0, 0, false⟩)
        else
          let e : CaskEntry := ⟨line, mergeBytes m data (List.replicate 64 0), m, v, .open, 0⟩
          .done (s1.setRim chan { r1 with casks := r1.casks ++ [e] })

/-! ## Atomics and objects at a home (R127-R132, R200) -/

/-- Sign-extend a value of w bits to 64 (w = 32 or 64). -/
def sextW (w : Nat) (v : Nat) : Word := if w = 32 then (BitVec.ofNat 32 v).signExtend 64 else BitVec.ofNat 64 v

/-- The new value of an AMO or RED and its sticky bits (R200). -/
def amoNew (op : AOp) (w : Nat) (old : Nat) (b : Word) : Enc :=
  let x := b.toNat % 2 ^ w
  let so := (sextW w old).toInt
  let sx := (sextW w x).toInt
  match op with
  | .swap => ⟨x, 0⟩
  | .add => ⟨(old + x) % 2 ^ w, 0⟩
  | .and => ⟨old &&& x, 0⟩
  | .or => ⟨old ||| x, 0⟩
  | .xor => ⟨old ^^^ x, 0⟩
  | .min => ⟨if so ≤ sx then old else x, 0⟩
  | .max => ⟨if so ≤ sx then x else old, 0⟩
  | .minu => ⟨if old ≤ x then old else x, 0⟩
  | .maxu => ⟨if old ≤ x then x else old, 0⟩
  | .fadd => addF32 old x

/-- What an atomic does to the old value: the new value, if it writes one, and its sticky bits (R127, R200). -/
def Atom.apply (a : Atom) (old : Nat) : Option Nat × Word :=
  match a.k with
  | .amo op => let e := amoNew op a.w old a.b; (some e.bits, e.flags)
  | .cas => (if old = a.cmp.toNat % 2 ^ a.w then some (a.b.toNat % 2 ^ a.w) else none, 0)
  | .acq => (none, 0)
  | .rel => (some ((old + 1) % 2 ^ 64), 0)

/-- Whether party Q is within scope s of party P, both of one partition (R124). -/
def withinScope (sc : Scope) (lp cp lq cq : Nat) : Bool :=
  match sc with
  | .cx => lp == lq && cp == cq
  | .co => lp == lq
  | .d => lp / 64 == lq / 64
  | .p | .m | .s => true

/-- Whether an acquire synchronises with a release (R130). -/
def syncs (acq : Scope) (lq cq : Nat) (r : Release) : Bool :=
  withinScope r.scope r.lcn r.ctx lq cq && withinScope acq lq cq r.lcn r.ctx

/-- The outcome of a launch's acquire's scope test over the releases kept with the word: whether one missed, and whether the
acquire takes its synchronising side effect (R130). -/
def acquireTest (rels : List Release) (v : BitVec 32) (key : Nat) (a : Atom) : Bool × Bool :=
  match a.acq with
  | none => (false, false)
  | some sc =>
    let rs := rels.filter fun r => r.vint == v && r.ppa == key
    (rs.any fun r => !syncs sc a.lcn a.ctx r, rs.isEmpty || rs.any fun r => syncs sc a.lcn a.ctx r)

/-- The releases kept after an atomic of a launch: its own too, if it releases (R130). Releases of one context at one scope are kept
once, since the scope test tells them not apart. -/
def keepRelease (rels : List Release) (v : BitVec 32) (key : Nat) (a : Atom) : List Release :=
  match a.rel with
  | none => rels
  | some sc =>
    let r : Release := ⟨v, key, a.lcn, a.ctx, sc⟩
    if rels.contains r then rels else rels ++ [r]

/-- The releases kept once a launch has ended: none of its own. -/
def forgetReleases (v : BitVec 32) (rels : List Release) : List Release := rels.filter fun r => r.vint != v

/-- The landings held at an endpoint. -/
def State.landsAt (s : State) (p : Part) (ep : Nat) : List Land :=
  if isSlot ep then (s.rim (p.chanOf (ep - 0x8000))).lands else (s.core (p.siteOf ep)).lands

/-- Entries of an endpoint's input store on a plane (R400). -/
def storeSize (ep : Nat) : Nat := if isSlot ep then 32 else 64

/-- The entries of an endpoint's store in use on a plane. -/
def Endpoint.used (e : Endpoint) (pl : Plane) : Nat := (e.arr pl).length + (e.store pl).length + (e.ins pl).length

/-- The entries of an endpoint's store in use on a plane: the reply plane's is the reorder store, which holds the landings not yet
written (R363, R400). -/
def State.storeUsed (s : State) (p : Part) (ep : Nat) (pl : Plane) : Nat :=
  (p.ep ep).used pl + if pl = .reply then (s.landsAt p ep).length else 0

end Sys2Proof.Machine
end

