-- ==== Sys2Proof/Machine/Xlat.lean ====
section
/-!
DEFINITION. Virtual addresses: spaces and local windows (R108, R109, R113), page tables and cached translations
(R516-R518), declared regions and parameter windows (R112, R116, R118, R190, R229), and the fetch of a word (R166).
-/

namespace Sys2Proof.Machine

open Sys2Proof

/-- The spaces of a virtual address (R108). -/
inductive Space where
  | loc | remote | peer | reserved | global | committed
deriving DecidableEq, Repr

/-- The space of an address (R108). -/
def spaceOf (a : Addr) : Space :=
  let k := a.toNat / 2 ^ 48
  if k = 0 then .loc
  else if k = 1 then .remote
  else if k = 2 then .peer
  else if k < 0x80 then .reserved
  else if k < 0xC0 then .global
  else .committed

/-- Where a local-space address lies (R109): the private window, a parameter window, an alias window, or nowhere. -/
inductive Place where
  | priv (off : Nat)
  | param (w off : Nat)
  | win (w off : Nat)
  | bad
deriving DecidableEq, Repr

/-- The place of a local-space address (R109). -/
def placeOfLocal (a : Nat) : Place :=
  if 0x8000000 ≤ a ∧ a < 0x8004000 then .priv (a - 0x8000000)
  else if 0x9000000 ≤ a ∧ a < 0x9080000 then .param ((a - 0x9000000) / 0x10000) (a % 0x10000)
  else if 0x10000000 ≤ a ∧ a < 0x17000000 then .win ((a - 0x10000000) / 0x1000000) (a % 0x1000000)
  else if 0x18000000 ≤ a ∧ a < 0x20000000 then .win 7 (a - 0x18000000)
  else .bad

/-- The LCN and the local part of a remote address (R113). -/
def remoteLcn (a : Addr) : Nat := a.toNat / 2 ^ 32 % 2 ^ 16

/-- The local part of a remote address (R113). -/
def remoteLocal (a : Addr) : Nat := a.toNat % 2 ^ 32

/-- An address as the issuer's own core treats it: a remote address of the own LCN is the local address (R113). -/
def ownLocal (lcn : Nat) (a : Addr) : Addr :=
  if spaceOf a = .remote ∧ remoteLcn a = lcn then BitVec.ofNat 56 (remoteLocal a) else a

/-- The parameter window base of R109. -/
def paramBase (w : Nat) : Addr := BitVec.ofNat 56 (0x9000000 + 0x10000 * w)

/-! ## Page tables -/

/-- A 64 KiB piece of a mapping: its PPA and its rights (R516). -/
structure Mapping where
  ppa : Nat
  rd : Bool
  wr : Bool
  ex : Bool
deriving DecidableEq, Repr

/-- The committed 64-bit word at a PPA of a partition. -/
def State.ppaWord (s : State) (p : Part) (ppa : Nat) : Nat := leNat (s.viewRead p 0 true ppa 8)

/-- One level of a walk (R516, R517). `levels` lists, from this level down, the shift and width of its index and whether
a leaf may stand there; `page` is the 64 KiB virtual page, VA bits [53:16]. -/
def State.walk (s : State) (p : Part) (page : Nat) : List (Nat × Nat × Bool) → Nat → Option Mapping
  | [], _ => none
  | (sh, w, leafOk) :: rest, table =>
    let va := page * 65536
    if p.capacity ≤ table + 8 * (va / 2 ^ sh % 2 ^ w) then none
    else
      let e := s.ppaWord p (table + 8 * (va / 2 ^ sh % 2 ^ w))
      let addr := e / 2 ^ 8 % 2 ^ 48 * 256
      if e % 2 = 0 ∨ e / 2 ^ 5 % 8 ≠ 0 ∨ e / 2 ^ 56 ≠ 0 ∨ p.capacity ≤ addr then none
      else if e / 2 % 2 = 1 then
        let frame := addr + va % 2 ^ sh
        if !leafOk || decide (addr % 2 ^ sh ≠ 0) || decide (p.capacity ≤ frame) then none
        else some ⟨frame, decide (e / 4 % 2 = 1), decide (e / 8 % 2 = 1), decide (e / 16 % 2 = 1)⟩
      else s.walk p page rest addr

/-- The four levels of R516. -/
def walkLevels : List (Nat × Nat × Bool) := [(39, 15, false), (30, 9, true), (21, 9, true), (16, 5, true)]

/-- A walk from the root that a launch's command names (R516). -/
def State.walkFrom (s : State) (p : Part) (root page : Nat) : Option Mapping := s.walk p page walkLevels root

/-- The PPAs of the entries that a walk reads, root first (R516, R518). -/
def State.walkReads (s : State) (p : Part) (page : Nat) : List (Nat × Nat × Bool) → Nat → List Nat
  | [], _ => []
  | (sh, w, _) :: rest, table =>
    let at' := table + 8 * (page * 65536 / 2 ^ sh % 2 ^ w)
    if p.capacity ≤ at' then []
    else
      let e := s.ppaWord p at'
      if e % 2 = 1 ∧ e / 2 % 2 = 0 then at' :: s.walkReads p page rest (e / 2 ^ 8 % 2 ^ 48 * 256) else [at']

/-- The reads of a walk for a launch at their homes, one of each level (R518): a bad or lost entry ends the launch (R519). -/
def State.readWalk (s : State) (p : Part) (v : BitVec 32) (page : Nat) : State :=
  match p.launch? v with
  | none => s
  | some l => (s.walkReads p page walkLevels l.cmd.ptroot).foldl (fun t a => t.readAtHome p v a 8) s

/-- How a translation stands for a core: cached (R518), missing but mapped, or without a mapping. -/
inductive XRes where
  | hit (m : Mapping)
  | miss
  | bad
  deriving DecidableEq, Repr

/-- The translations cached at a core for a vintage's page (R518). -/
def Core.cached (c : Core) (v : BitVec 32) (page : Nat) : Option Mapping :=
  (List.find? (fun x => x.vint == v && x.page == page) c.xlat).map fun x => ⟨x.ppa, x.rd, x.wr, x.ex⟩

/-- Translate a page for a launch at a core (R516-R518). -/
def State.translate (s : State) (site : Nat) (v : BitVec 32) (page : Nat) : XRes :=
  match (s.core site).cached v page with
  | some m => .hit m
  | none =>
    match s.partAt site with
    | none => .bad
    | some p =>
      match p.launch? v with
      | none => .bad
      | some l => if (s.walkFrom p l.cmd.ptroot page).isSome then .miss else .bad

/-- The 64 KiB virtual page of an address. -/
def pageOf (a : Addr) : Nat := a.toNat / 2 ^ 16 % 2 ^ 38

/-- The address within the 54 bits that global addresses compare by (R116, R118). -/
def low54 (a : Addr) : Nat := a.toNat % 2 ^ 54

/-! ## Declared regions -/

/-- The region of a task: the entry of its launch's region table (R227, R229). -/
def State.regionOf (s : State) (site : Nat) (v : BitVec 32) (r : BitVec 32) : Option Region :=
  match s.partAt site with
  | none => none
  | some p => (p.launch? v).bind fun l => l.regions[r.toNat]?

/-- The declared region of a task that holds n bytes at a global address (R116, R118), with its index. -/
def declaredAt (regs : List DRegion) (a : Addr) (n : Nat) : Option (Nat × DRegion) :=
  (List.find? (fun e => decide (e.2.base % 2 ^ 54 ≤ low54 a) && decide (low54 a + n ≤ e.2.base % 2 ^ 54 + e.2.size))
    (regs.zipIdx.map fun (r, i) => (i, r)))

/-- What an access does to global memory (R116). -/
inductive GAcc where
  | load | store | atom | red
deriving DecidableEq, Repr

/-- Whether an intent allows an access: 1 ro, 2 wo, 3 rw (R116). -/
def intentAllows (intent : BitVec 2) (acc : GAcc) : Bool :=
  match acc with
  | .load => intent == 1 || intent == 3
  | .store | .red => intent == 2 || intent == 3
  | .atom => intent == 3

/-- How a checked global access stands: a fault (R119), a translation to wait for, or where it goes: the PPA and the
region that declares it. -/
inductive GRes where
  | fault (cause : BitVec 5)
  | miss (page : Nat)
  | ok (ppa : Nat) (idx : Nat) (r : DRegion)
  deriving DecidableEq, Repr

/-- Check a global access of a party (R116-R119): XLATE, PROT by rights, view and intent, UNDECLARED. Alignment is the
caller's. -/
def State.checkGlobal (s : State) (site : Nat) (v region : BitVec 32) (a : Addr) (n : Nat) (acc : GAcc) : GRes :=
  match s.translate site v (pageOf a) with
  | .bad => .fault causeXlate
  | .miss => .miss (pageOf a)
  | .hit m =>
    let regs := ((s.regionOf site v region).map (·.regs)).getD []
    let rights := match acc with
      | .load => m.rd
      | .store | .red => m.wr
      | .atom => m.wr
    let view := acc == .load || spaceOf a == .global
    if !rights || !view then .fault causeProt
    else
      match declaredAt regs a n with
      | none => .fault causeUndeclared
      | some (i, r) =>
        if intentAllows r.intent acc then .ok (m.ppa + a.toNat % 65536) i r
        else .fault causeProt

/-- The object that a core has bound to a declared region (R126): the run-time binding, else that of .sync. -/
def Core.objectOf (c : Core) (v : BitVec 32) (idx : Nat) (r : DRegion) : Addr :=
  match List.find? (fun (b : SyncBind) => b.vint == v && b.region == idx) c.sync with
  | some b => b.obj
  | none => r.obj

/-- Whether the committed view of a region ignores in-place writes no longer (R118, R121): the launch has switched. -/
def State.switchedAt (s : State) (site : Nat) (v : BitVec 32) : Bool :=
  match s.partAt site with
  | none => false
  | some p => ((p.launch? v).map (·.switched)).getD false

/-- Whether lines of a region are held in the line cache (R121). -/
def State.cacheable (s : State) (site : Nat) (v : BitVec 32) (a : Addr) (idx : Nat) (r : DRegion) : Bool :=
  if spaceOf a = .committed then !s.switchedAt site v
  else r.intent == 1 || (r.intent == 3 && ((s.core site).objectOf v idx r) != 0)

/-- The binding of a parameter window of a task: address and bound size (R190). -/
def State.paramOf (s : State) (site : Nat) (v region : BitVec 32) (w : Nat) : Option (Nat × Nat) :=
  match (s.regionOf site v region).bind fun r => r.params[w]? with
  | some (a, n) => if n = 0 then none else some (a, n)
  | none => none

/-! ## Fetching -/

/-- The outcome of a fetch: a word, or its fault (R166). -/
inductive Fetch where
  | word (w : Nat)
  | fault (c : FetchCause)
  deriving DecidableEq, Repr

/-- The word at an address of a launch (R166, R516, R517): programs lie in global memory; a word elsewhere has no
mapping. -/
def State.fetch (s : State) (site : Nat) (v : BitVec 32) (a : Addr) : Fetch :=
  let sp := spaceOf a
  if sp ≠ .global ∧ sp ≠ .committed then .fault .xlate
  else
    match s.partAt site with
    | none => .fault .xlate
    | some p =>
      let m := match (s.core site).cached v (pageOf a) with
        | some m => some m
        | none => (p.launch? v).bind fun l => s.walkFrom p l.cmd.ptroot (pageOf a)
      match m with
      | none => .fault .xlate
      | some m =>
        if m.ex then .word (leNat (s.homeLoad p v (sp == .committed) (m.ppa + a.toNat % 65536) 4).1)
        else .fault .prot

end Sys2Proof.Machine
end

