-- ==== Sys2Proof/Machine/Port.lean ====
section
/-!
DEFINITION. The scratchpad port: the event log (R483), dirty lines (R257, R474), the private window (R110), the alias
windows (R101-R106), buffer tables and the states that admit an access (R111, R176-R180).
-/

namespace Sys2Proof.Machine

open Sys2Proof

/-! ## Logging and marks -/

/-- Write one log record of a core's event (R483). -/
def Core.logEv (c : Core) (kind ctx : Nat) (value : Word) (addr : Addr) (src seq : Nat) (payload : List Byte) : Core :=
  { c with en := c.en + 1, log := c.log ++ [⟨c.en, kind, ctx, value, addr, src, seq, payload⟩] }

/-- Write one log record at a site (R483, R485): staged for the core's cellar host; a core without a host keeps none. -/
def State.logEv (s : State) (site kind ctx : Nat) (value : Word) (addr : Addr) (src seq : Nat) (payload : List Byte) : State :=
  match s.keepAt site with
  | some (_, _, k) =>
    if k.host.isNone then s.updCore site fun c => { c with en := c.en + 1 }
    else
      let s1 := s.updCore site fun c => c.logEv kind ctx value addr src seq payload
      if k.sent = 0 then s1.later (.cellarCopy site) else s1
  | none => s.updCore site fun c => { c with en := c.en + 1 }

/-- Log an answer that a core's port has applied, for a context or an engine (R483): a refusal's cause, or a value. -/
def State.logAnswer (s : State) (site n : Nat) (at' : Addr) (f : Flit) (v : Word) (refused : Option (BitVec 5)) (data : List Byte) : State :=
  s.logEv site 2 n ((refused.map fun c => c.setWidth 64).getD v) at' f.sep f.seq data

/-- Whether a core issues no word for want of room: its staging store cannot take another record (R485), or its cellar
another line (R478). -/
def State.logHold (s : State) (site : Nat) : Bool :=
  match s.keepAt site with
  | some (_, _, k) => k.host.isSome && (decide (4096 < logBytes (s.core site).log + 288) || k.full)
  | none => false

/-- The lines of a cellar that make its owner's high water (R472, R478). -/
def highLines (hw : BitVec 2) : Nat := 8192 + 2048 * hw.toNat

/-- Whether a core's high water is reached (R478). -/
def State.isHigh (s : State) (site : Nat) (k : Keep) : Bool :=
  k.host.isSome && decide (highLines (s.band (bandOf site)).hw < k.lines + (s.core site).dirty.length + 1024)

/-- A high water that a write or a record has made is due (R478). -/
def State.noteHigh (s : State) (site : Nat) : State :=
  match s.keepAt site with
  | some (_, _, k) =>
    if s.isHigh site k && !k.want && k.copy.isNone && !s.pending.contains (.highWater site) then s.later (.highWater site) else s
  | none => s

/-- A line of a store becomes dirty, its tag the writer's vintage (R474). -/
def Core.mark (c : Core) (line : Nat) (v : BitVec 32) : Core :=
  { c with dirty := Tbl.put c.dirty line (), tags := Tbl.put c.tags line v }

/-- Mark lines from `first` on. -/
def Core.markLines (c : Core) (first : Nat) (v : BitVec 32) : Nat → Core
  | 0 => c
  | n + 1 => (c.mark first v).markLines (first + 1) v n

/-- The first scratchpad offset of a context's private window (R110). -/
def privBase (n : Nat) : Nat := 0x2E0000 + 0x4000 * n

/-- Set the private-window dirty bits of a context for the lines of an offset range (R257). -/
def Ctx.dirtyPriv (c : Ctx) (off n : Nat) : Ctx :=
  let lines := if n = 0 then 0 else (off + n - 1) / 64 - off / 64 + 1
  let mask := (List.range lines).foldl (fun (m : BitVec 256) i => m ||| (1 <<< (off / 64 + i))) c.dirtyL
  { c with dirtyL := mask }

/-- A write at the scratchpad port (R185, R257, R474): the bytes, their lines' dirty bits and tags, and the dirty bits of
a private window; it can make the core's high water (R478). -/
def State.scrStore (s : State) (site : Nat) (v : BitVec 32) (off : Nat) (data : List Byte) : State :=
  let n := data.length
  let s1 := s.scrWrite site off data
  let s2 := s1.updCore site fun c => c.markLines (off / 64) v (if n = 0 then 0 else (off + n - 1) / 64 - off / 64 + 1)
  if 0x2E0000 ≤ off ∧ off < 0x300000 then
    (s2.updCtx site ((off - 0x2E0000) / 0x4000) fun c => c.dirtyPriv ((off - 0x2E0000) % 0x4000) n).noteHigh site
  else s2.noteHigh site

/-- A write of the nibbles whose mask bits are set, byte by byte from an offset (R185, R332). -/
def State.scrStoreNibbles (s : State) (site : Nat) (v : BitVec 32) (off nmask : Nat) : List Byte → State
  | [] => s
  | b :: t =>
    let m := (if nmask % 2 = 1 then 0x0F else 0) + (if nmask / 2 % 2 = 1 then 0xF0 else 0)
    let old := (memGet s.mem (scrAddr site off)).toNat
    let nw := BitVec.ofNat 8 ((old &&& (0xFF - m)) ||| (b.toNat &&& m))
    (if m = 0 then s else s.scrStore site v off [nw]).scrStoreNibbles site v (off + 1) (nmask / 4) t

/-! ## Buffer tables -/

/-- The buffer table of a launch at a core (R177). -/
def Core.bufTab (c : Core) (v : BitVec 32) : Tbl Buf := Tbl.get [] c.bufs v.toNat

/-- An entry of a launch's buffer table. -/
def Core.buf (c : Core) (v : BitVec 32) (b : Nat) : Buf := Tbl.get Buf.none (c.bufTab v) b

/-- Replace an entry of a launch's buffer table. -/
def Core.setBuf (c : Core) (v : BitVec 32) (b : Nat) (x : Buf) : Core :=
  { c with bufs := Tbl.put c.bufs v.toNat (Tbl.put (c.bufTab v) b x) }

/-- The declared buffer of a launch that holds n bytes at an offset whole (R111, R180). -/
def Core.bufAt (c : Core) (v : BitVec 32) (off n : Nat) : Option (Nat × Buf) :=
  List.find? (fun (e : Nat × Buf) => e.2.state != .undeclared && decide (e.2.base ≤ off)
    && decide (off + n ≤ e.2.base + e.2.size)) (c.bufTab v)

/-- Whether a context owns a filling or draining buffer; one whose task is held in an image is owned by none (R176,
R261). -/
def Buf.ownedBy (b : Buf) (n : Nat) : Bool := b.owner == n && b.held.isNone

/-- The readings of the buffer-state table (R178). -/
inductive SAcc where
  /-- A local load of a context. -/
  | load (n : Nat)
  /-- A remote load (R114). -/
  | rload
  /-- An engine's read for a context. -/
  | engine (n : Nat)
deriving DecidableEq, Repr

/-- Whether a buffer's state admits a read (R178). -/
def Buf.admits (b : Buf) (acc : SAcc) : Bool :=
  match b.state, acc with
  | .undeclared, _ | .empty, _ => false
  | .filling, .load n | .filling, .engine n => b.ownedBy n
  | .filling, .rload => false
  | .full, _ => true
  | .draining, .load _ | .draining, .engine _ => true
  | .draining, .rload => false

/-- Whether a buffer admits a write performed by a context as its owner (R178). -/
def Buf.ownerWrites (b : Buf) (n : Nat) : Bool := b.state == .filling && b.ownedBy n

/-! ## Windows -/

/-- The encoding of R83 codes and R101 windows: the 16-bit word that decoding delivers, a NaN as 0x7FC0. -/
def deliver16 (v : Val) : Nat := (encodeElem .bf16 v .rne false false 0).bits

/-- Nibble j of a byte (R83). -/
def nibble (b : Byte) (j : Nat) : Nat := b.toNat / (if j % 2 = 1 then 16 else 1) % 16

/-- The stored bytes of element e of a window's view, apart from table entries: offsets, or nothing for a reserved
sub-view (R101, R104). Window 7's sub-view is given. -/
def winStored (w sub e : Nat) : Option (List Nat) :=
  if w = 1 ∨ w = 2 then some [2 * e, 2 * e + 1]
  else if w = 3 ∨ w = 4 ∨ w = 5 then some [e]
  else if w = 6 then some [e / 2]
  else if sub ≤ 2 then some [65 * (e / 64), 65 * (e / 64) + 1 + e % 64]
  else if sub ≤ 4 then some [33 * (e / 64), 33 * (e / 64) + 1 + e % 64 / 2]
  else none

/-- The stored value of an element that a window names by code, type or table (R90, R101, R104, R105). -/
def winElem (rd : Nat → Byte) (w sub e table : Nat) (ftz : Bool) : Nat :=
  let bf := fun (o : Nat) => (rd o).toNat + 256 * (rd (o + 1)).toNat
  let scaled := fun (scale : Nat) (v : Val) => deliver16 (flushIf ftz (scaleVal scale v))
  if w = 1 ∨ w = 2 then bf (2 * e)
  else if w = 3 then deliver16 (decodeElem .e4m3 (rd e).toNat)
  else if w = 4 then deliver16 (decodeElem .e5m2 (rd e).toNat)
  else if w = 5 then deliver16 (decodeElem .i8 (rd e).toNat)
  else if w = 6 then deliver16 (decodeElem .bf16 (bf (table + 2 * nibble (rd (e / 2)) e)))
  else
    let b := e / 64
    let j := e % 64
    let s8 := (rd (65 * b)).toNat
    let s4 := (rd (33 * b)).toNat
    let code := nibble (rd (33 * b + 1 + j / 2)) j
    if sub = 0 then scaled s8 (decodeElem .e4m3 (rd (65 * b + 1 + j)).toNat)
    else if sub = 1 then scaled s8 (decodeElem .e5m2 (rd (65 * b + 1 + j)).toNat)
    else if sub = 2 then scaled s8 (decodeElem .i8 (rd (65 * b + 1 + j)).toNat)
    else if sub = 3 then scaled s4 (decodeElem .i4 code)
    else scaled s4 (decodeElem .bf16 (bf (table + 2 * code)))

/-- Whether every offset of a list lies in a buffer. -/
def Buf.holds (b : Buf) (l : List Nat) : Bool := l.all fun o => decide (b.base ≤ o) && decide (o < b.base + b.size)

/-- A read of `size` bytes at an offset of window w by a party of a launch at the core that holds the scratchpad (R101,
R102, R105, R106, R111, R178, R180): the delivered bytes or a fault. Natural alignment is the caller's; an 8-bit read
through windows 1-7 is a MISALIGN. -/
def State.readWindow (s : State) (site : Nat) (v : BitVec 32) (acc : SAcc) (w off size : Nat) (ftz : Bool) :
    Except (BitVec 5) (List Byte) :=
  let c := s.core site
  if w = 0 then
    match c.bufAt v off size with
    | none => .error causeProt
    | some (_, b) => if b.admits acc then .ok (s.scrRead site off size) else .error causeBufstate
  else if size < 2 then .error causeMisalign
  else
    let sub := if w = 7 then off / 2 ^ 24 else 0
    let e0 := (if w = 7 then off % 2 ^ 24 else off) / 2
    let es := (List.range (size / 2)).map (e0 + ·)
    match es.mapM (winStored w sub) with
    | none => .error causeProt
    | some ls =>
      let offs := ls.flatten
      match c.bufAt v (offs.headD 0) 1 with
      | none => .error causeProt
      | some (_, b) =>
        if !b.holds offs then .error causeProt
        else if !b.admits acc then .error causeBufstate
        else
          let rd := fun (o : Nat) => memGet s.mem (scrAddr site o)
          .ok (es.flatMap fun e => leBytes 2 (winElem rd w sub e b.base ftz))

/-- The natural alignment of an access of a power-of-two size. -/
def aligned (a : Addr) (size : Nat) : Bool := decide (a.toNat % size = 0)

end Sys2Proof.Machine
end

