-- ==== Sys2Proof/Machine/Patterns.lean ====
section
/-!
DEFINITION. Pattern records (R350-R354), the elements of a transfer (R351, R381), and the places its bytes lie at, in
terms that the comparisons of R367-R371 use.
-/

namespace Sys2Proof.Machine

open Sys2Proof

/-- A signed 32-bit field. -/
def signed32 (n : Nat) : Int := (BitVec.ofNat 32 n).toInt

/-- A pattern record from its 64 bytes (R350). -/
def patOf (l : List Byte) : Pat :=
  let w := fun i => wordAt' l i
  let w0 := w 0
  { base := BitVec.ofNat 56 w0, esize := w0 / 2 ^ 56 % 8, ext := decide (w0 / 2 ^ 59 % 2 = 1),
    pack := decide (w0 / 2 ^ 60 % 2 = 1),
    sizes := (List.range 8).map fun d => w (1 + d / 4) / 2 ^ (16 * (d % 4)) % 2 ^ 16,
    strides := (List.range 8).map fun d => signed32 (w (3 + d / 2) / 2 ^ (32 * (d % 2)) % 2 ^ 32),
    flag := BitVec.ofNat 56 (w 7), resv := decide (w0 / 2 ^ 61 ≠ 0) || decide (w 7 / 2 ^ 56 ≠ 0) }
where
  /-- The i-th 64-bit word of the record. -/
  wordAt' (l : List Byte) (i : Nat) : Nat := leNat ((l.drop (8 * i)).take 8)

/-- The number of elements (R351). -/
def Pat.count (p : Pat) : Nat := p.sizes.foldl (· * ·) 1

/-- The bytes of one element. -/
def Pat.elem (p : Pat) : Nat := 2 ^ p.esize

/-- The limits of R352 that fault ILLEGAL. -/
def Pat.valid (p : Pat) : Bool :=
  !p.resv && decide (p.esize ≤ 6) && p.sizes.all (fun n => decide (1 ≤ n)) && decide (p.count * p.elem ≤ 2 ^ 32)

/-- The dimensions with more than one element: size and stride. -/
def Pat.dims (p : Pat) : List (Nat × Int) := (p.sizes.zip p.strides).filter fun d => decide (1 < d.1)

/-- Whether each stride covers the extents before it (R353). -/
def canonicalFrom : Int → List (Nat × Int) → Bool
  | _, [] => true
  | ext, (n, st) :: t => decide (1 + ext ≤ st) && canonicalFrom (ext + st * ((n : Int) - 1)) t

/-- A canonical destination (R353). -/
def Pat.canonical (p : Pat) : Bool := canonicalFrom 0 p.dims

/-- A destination that writes each byte at most once by the test of R354. -/
def Pat.once (p : Pat) : Bool :=
  canonicalFrom 0 (sortBy (fun (a b : Nat × Int) => decide (a.2 ≤ b.2)) (p.dims.map fun d => (d.1, (d.2.natAbs : Int))))

/-- The element offset of the n-th element in iteration order (R351). -/
def offsetOf : List (Nat × Int) → Nat → Int
  | [], _ => 0
  | (sz, st) :: t, n => (n % sz : Nat) * st + offsetOf t (n / sz)

/-- The address of the n-th element, as an exact integer (R351). -/
def Pat.addrI (p : Pat) (n : Nat) : Int :=
  (p.base.toNat : Int) + (p.elem : Int) * offsetOf (p.sizes.zip p.strides) n

/-- The address of the n-th element. -/
def Pat.addr (p : Pat) (n : Nat) : Nat := (p.addrI n).toNat

/-- The extremes of the element offsets: the sums of the negative and of the positive extents. -/
def extents (l : List (Nat × Int)) : Int × Int :=
  l.foldl (fun (a : Int × Int) d =>
    let e := d.2 * ((d.1 : Int) - 1)
    if e < 0 then (a.1 + e, a.2) else (a.1, a.2 + e)) (0, 0)

/-- The lowest byte and the end of a record's span, as exact integers (R361). -/
def Pat.spanI (p : Pat) : Int × Int :=
  let e := extents (p.sizes.zip p.strides)
  ((p.base.toNat : Int) + (p.elem : Int) * e.1, (p.base.toNat : Int) + (p.elem : Int) * (e.2 + 1))

/-- Whether the span stays in the space, and for scratchpad in the window, of its base (R351). -/
def Pat.stays (p : Pat) : Bool :=
  let sp := p.spanI
  if sp.1 < 0 ∨ 2 ^ 56 < sp.2 then false
  else
    let lo : Addr := BitVec.ofNat 56 sp.1.toNat
    let hi : Addr := BitVec.ofNat 56 (sp.2.toNat - 1)
    let win := fun (a : Addr) =>
      match placeOfLocal (a.toNat % 2 ^ 32) with
      | .win w _ => w + 1
      | .param w _ => w + 16
      | .priv _ => 32
      | .bad => 0
    spaceOf lo == spaceOf hi &&
      match spaceOf lo with
      | .loc | .remote => win lo == win hi && decide (lo.toNat / 2 ^ 32 = hi.toNat / 2 ^ 32)
      | _ => true

/-! ## Elements of a transfer -/

/-- The row length m of a GATHER's or SCATTER's table (R380). -/
def rowLen (tab : Pat) : Nat := tab.sizes.getD 0 1

/-- The table element (i, r) as an address (R380, R381). -/
def tabAddr (tab : Pat) (i r : Nat) : Nat :=
  ((tab.base.toNat : Int) + (tab.elem : Int) * ((i : Int) * tab.strides.getD 0 0 + (r : Int) * tab.strides.getD 1 0)).toNat

/-- The source address of element n; none for the zeros of a GATHER's sentinel (R376, R381). -/
def Xfer.srcAt (x : Xfer) (n : Nat) : Option Nat :=
  match x.kind with
  | .gather => (x.idx.getD (n / rowLen x.src) none).map fun r => tabAddr x.src (n % rowLen x.src) r
  | _ => some (x.src.addr n)

/-- Whether a later position of a SCATTER names the same row (R381). -/
def laterSame (idx : List (Option Nat)) (p : Nat) : Bool := (idx.drop (p + 1)).contains (idx.getD p none)

/-- The destination address of element n; none where a SCATTER writes nothing: a sentinel, or a row that a later position
writes (R376, R381). -/
def Xfer.dstAt (x : Xfer) (n : Nat) : Option Nat :=
  match x.kind with
  | .scatter =>
    let p := n / rowLen x.dst
    if laterSame x.idx p then none
    else (x.idx.getD p none).map fun r => tabAddr x.dst (n % rowLen x.dst) r
  | _ => some (x.dst.addr n)

/-! ## Where bytes lie -/

/-- A range of memory: key 0 for global memory by VA bits [53:0], key 1 + LCN for that core's scratchpad by offset. -/
structure Range where
  key : Nat
  lo : Nat
  hi : Nat
deriving DecidableEq, Repr

/-- Whether two ranges share a byte. -/
def Range.meets (a b : Range) : Bool := a.key == b.key && decide (a.lo < b.hi) && decide (b.lo < a.hi)

/-- The stored bytes that n bytes at a window offset reach, as offsets (R101, R104). -/
def winSpan (w off n : Nat) : Nat × Nat :=
  if w = 0 then (off, off + n)
  else
    let sub := if w = 7 then off / 2 ^ 24 else 0
    let e0 := (if w = 7 then off % 2 ^ 24 else off) / 2
    let e1 := e0 + (n - 1) / 2
    let a := (winStored w sub e0).getD [0]
    let b := (winStored w sub e1).getD [0]
    (a.foldl min (a.headD 0), b.foldl max 0 + 1)

/-- The range of n bytes at an address as a context of a core reaches them: nothing for a parameter window, a peer
address or an unmapped one. -/
def rangeOf (lcn ctx : Nat) (a : Addr) (n : Nat) : Option Range :=
  match spaceOf a with
  | .global | .committed => some ⟨0, low54 a, low54 a + n⟩
  | .loc =>
    match placeOfLocal a.toNat with
    | .priv o => some ⟨1 + lcn, privBase ctx + o, privBase ctx + o + n⟩
    | .win w o => let sp := winSpan w o n; some ⟨1 + lcn, sp.1, sp.2⟩
    | _ => none
  | .remote =>
    match placeOfLocal (remoteLocal a) with
    | .win w o => let sp := winSpan w o n; some ⟨1 + remoteLcn a, sp.1, sp.2⟩
    | _ => none
  | _ => none

/-- Whether the bytes between two addresses, as a context of a core reaches them, meet a range. -/
def bytesMeet (lcn ctx : Nat) (r : Range) (lo hi : Int) : Bool :=
  ((rangeOf lcn ctx (BitVec.ofInt 56 lo) (hi - lo).toNat).map fun q => q.meets r).getD false

/-- The dimensions of a record from the outermost in: size, stride, and the index at the n-th visit (R351). -/
def Pat.visit (p : Pat) (n : Nat) : List (Nat × Int × Nat) :=
  ((p.sizes.zip p.strides).foldl (fun (a : List (Nat × Int × Nat) × Nat) d =>
    ((d.1, d.2, a.2 % d.1) :: a.1, a.2 / d.1)) ([], n)).1

/-- Whether an element of a pattern meets a range, from a visit on: `tight` while the outer indices are that visit's (R351, R371). -/
def elemsMeet (lcn ctx elem : Nat) (r : Range) : List (Nat × Int × Nat) → Bool → Int → Bool
  | [], _, a => bytesMeet lcn ctx r a (a + elem)
  | (size, stride, at') :: t, tight, a =>
    let e := extents (t.map fun d => (d.1, d.2.1))
    let from' := if tight then at' else 0
    (List.range (size - from')).any fun j =>
      let b := a + elem * ((from' + j : Nat) * stride)
      bytesMeet lcn ctx r (b + elem * e.1) (b + elem * (e.2 + 1)) && elemsMeet lcn ctx elem r t (tight && j == 0) b

/-- The range of a record's span (R361). -/
def Pat.range (p : Pat) (lcn ctx : Nat) : Option Range :=
  let sp := p.spanI
  rangeOf lcn ctx (BitVec.ofNat 56 sp.1.toNat) (sp.2 - sp.1).toNat

/-- The watermark of a WM transfer: the lowest destination address not yet acknowledged, the end of its span when there
is none (R364). -/
def Xfer.mark (x : Xfer) : Nat :=
  let next := if x.pos < x.count then x.dst.addr x.pos else x.dst.spanI.2.toNat
  x.reqs.foldl (fun m r => min m r.lo) next

end Sys2Proof.Machine
end

