-- ==== Sys2Proof/Machine/Gates.lean ====
section
/-!
DEFINITION. The waits that order a context's words behind work its engines have not finished: the draws and sticky bits
of vector and tile work (R288, R313), the spans of that work (R285, R312), and unfinished copies (R370-R372, R374).
-/

namespace Sys2Proof.Machine

open Sys2Proof

/-- Whether a tile command is a MACRD or MEPI (R313). -/
def TCmd.drains (t : TCmd) : Bool :=
  match t.fn with
  | .macrd | .mepi => true
  | .mma | .mmcx | .mconv | .mwld | .maclr | .macwr | .mrel => false

/-- Whether earlier MACRDs or MEPIs of a context have not finished (R313). -/
def Core.tileDraws (c : Core) (n : Nat) : Bool := c.tq.any fun t => t.ctx == n && t.held.isNone && t.drains

/-- Whether earlier vector instructions, MACRDs or MEPIs of a context have not finished (R94, R288, R313). -/
def Core.drawsBusy (c : Core) (n : Nat) : Bool := c.vq.any (fun e => e.ctx == n) || c.tileDraws n

/-- Whether a stopped tile command of a context keeps its later ones waiting (R323, R337). -/
def Core.tileStuck (c : Core) (n : Nat) : Bool :=
  c.tq.any fun t => t.ctx == n && t.held.isNone && t.state == .stopped

/-- The same for the executing context. -/
def drawsBusy (s : State) : Bool := s.myCore.drawsBusy s.cur.2

/-- Whether a span list meets a range of offsets. -/
def spansMeet (l : List (Nat × Nat)) (lo hi : Nat) : Bool := l.any fun sp => decide (sp.1 < hi) && decide (lo < sp.2)

/-- Whether a scratchpad access of a context meets the spans of its unfinished vector instructions and tile commands: a
read a destination, a write any (R285, R312). -/
def Core.engineConflict (c : Core) (n lo hi : Nat) (write : Bool) : Bool :=
  c.vq.any (fun e => e.ctx == n && (spansMeet e.writes lo hi || (write && spansMeet e.reads lo hi)))
  || c.tq.any fun t => t.ctx == n && t.held.isNone && (spansMeet t.writes lo hi || (write && spansMeet t.reads lo hi))

/-- How an access stands: free, behind its engines' spans (R285, R312), or behind unfinished copies: whether one without WM is among
them, and the WM transfers whose watermarks it meets, whose abort faults the waiting word (R370, R371, R374). -/
inductive Gate where
  | free
  | busy
  | held (plain : Bool) (wms : List (Nat × BitVec 32))
  deriving DecidableEq, Repr

/-- An access behind several waits stands behind them all. -/
def joinGates : List Gate → Gate
  | [] => .free
  | .free :: t => joinGates t
  | .busy :: _ => .busy
  | .held p l :: t =>
    match joinGates t with
    | .held q m => .held (p || q) (l ++ m)
    | .busy => .busy
    | .free => .held p l

/-- The bytes of a transfer's source that it has not read yet meet a range (R371): elements not requested, and those whose request,
sent to their home, is not acknowledged. -/
def Xfer.unread (x : Xfer) (lcn : Nat) (r : Range) : Bool :=
  let rest := decide (x.pos < x.count) &&
    match x.kind with
    | .wstream => false
    | .gather =>
      let m := rowLen x.src
      x.idx.zipIdx.any fun e =>
        decide (x.pos / m ≤ e.2) && match e.1 with
          | some row => elemsMeet lcn x.ctx x.src.elem r [(m, x.src.strides.getD 0 0, x.pos % m)] (e.2 == x.pos / m)
              (x.src.base.toNat + x.src.elem * (row * x.src.strides.getD 1 0))
          | none => false
    | _ => elemsMeet lcn x.ctx x.src.elem r (x.src.visit x.pos) true x.src.base.toNat
  rest || x.reqs.any fun q => q.srcs.any fun a => bytesMeet lcn x.ctx r a (a + x.src.elem)

/-- Whether bytes of an access that meet the destination span lie at or above a WM transfer's watermark (R370). -/
def Xfer.aboveMark (x : Xfer) (d r : Range) : Bool :=
  d.meets r && decide (x.mark - (x.dst.spanI.1.toNat - d.lo) < min r.hi d.hi)

/-- How an access of a context stands against one transfer of its core (R370, R371). -/
def Xfer.gate (x : Xfer) (lcn n ch : Nat) (r : Range) (write : Bool) : Gate :=
  if x.aborted then .free
  else
    let source : Gate := if write && x.ctx == n && x.held.isNone && !x.detached && x.unread lcn r then .held true [] else .free
    match (if x.kind == .rstream then none else x.dst.range lcn x.ctx) with
    | some d =>
      if x.wm then if x.aboveMark d r then joinGates [.held false [(ch, x.id)], source] else source
      else if d.meets r && decide (d.key = 1 + lcn) then .held true [] else source
    | none => source

/-- The transfers of a core with their channels. -/
def Core.xfers (c : Core) : List (Nat × Xfer) :=
  (c.chans.toList.zipIdx).flatMap fun e => e.1.xfers.map fun x => (e.2, x)

/-- Whether an access at a port meets an open taken there, at or above its mark, or a whole non-WM transfer (R370,
R371). -/
def State.openGate (s : State) (site : Nat) (lo hi : Nat) : Bool :=
  (s.core site).opens.any fun o =>
    decide (o.lo < hi) && decide (lo < o.hi) && (!o.wm || decide (o.mark < min hi o.hi))

/-- How an access at the own port stands against the opens taken there. -/
def State.openHeld (s : State) (site : Nat) (r : Range) : Gate :=
  if r.key == 1 + (s.lcnOf site).getD 0 && s.openGate site r.lo r.hi then .held true [] else .free

/-- How an access of a context stands against its core's copies and the opens at the port (R370, R371). -/
def State.copyGate (s : State) (site n : Nat) (r : Range) (write : Bool) : Gate :=
  let lcn := (s.lcnOf site).getD 0
  joinGates (s.openHeld site r :: (s.core site).xfers.map fun e => e.2.gate lcn n e.1 r write)

/-- How an access of a context's engines stands against the transfers issued before it: those of other contexts, and the
context's own of a lower issue count (R285, R287, R312, R370). -/
def State.copyGateBefore (s : State) (site n seq : Nat) (r : Range) (write : Bool) : Gate :=
  let lcn := (s.lcnOf site).getD 0
  let before := (s.core site).xfers.filter fun e => e.2.ctx != n || e.2.held.isSome || decide (e.2.seq < seq)
  joinGates (s.openHeld site r :: before.map fun e => e.2.gate lcn n e.1 r write)

/-- Whether an engine's read stands behind an open at the port or a WM transfer issued before it (R287, R370). -/
def State.readBehind (s : State) (site n seq : Nat) (r : Range) : Bool :=
  s.openHeld site r != .free || match s.copyGateBefore site n seq r false with
    | .held _ l => !l.isEmpty
    | _ => false

/-- How an access of a context stands: its engines' spans, then the copies (R285, R312, R370, R371). -/
def State.gate (s : State) (site n : Nat) (r : Range) (write : Bool) : Gate :=
  if r.key == 1 + (s.lcnOf site).getD 0 && (s.core site).engineConflict n r.lo r.hi write then .busy
  else s.copyGate site n r write

/-- Whether a channel's transfer was aborted. -/
def Core.wasAborted (c : Core) (ch : Nat) (id : BitVec 32) : Bool :=
  ((c.chans[ch]?).map fun k => k.abortedIds.contains id).getD false

/-- Whether an acquiring atomic of the context has not been answered (R128, R132), or the round of an acquiring CTB has not
come (R428). -/
def Ctx.acquiring (c : Ctx) : Bool := !c.rounds.isEmpty || c.ops.any fun o =>
  match o.what with
  | .atomic _ a _ _ => a.acq.isSome
  | _ => false

/-- The WM transfers that a stalled word of the executing context stood behind and that were aborted since (R374). -/
def State.goneSpans (s : State) : List (Nat × BitVec 32) :=
  match s.me.stall with
  | some (.span _ _ _ _ l) => l.filter fun e => s.myCore.wasAborted e.1 e.2
  | _ => []

/-- Pass an access of the executing context through its gate: a word that stands behind copies waits, its stall noted (R372); one that was
stalled on an aborted WM transfer faults COPY_ABORT when it resumes (R374); else `k`. An acquire on its way orders every later access
after itself (R128, R132). -/
def gated (s : State) (r : Option Range) (write : Bool) (k : Out) : Out :=
  let gone := s.goneSpans
  let go : Out := if gone.isEmpty then k else .next ((s.setMe { s.me with stall := none }).trap causeCopyAbort 0)
  if s.me.acquiring then .next s
  else
    match r with
    | none => go
    | some r =>
      match s.gate s.cur.1 s.cur.2 r write with
      | .free => go
      | .busy => .next s
      | .held _ l => .next (s.setMe { s.me with stall := some (.span r.key r.lo r.hi write (gone ++ l)) })

end Sys2Proof.Machine
end

