-- ==== Sys2Proof/Machine/Record.lean ====
section
/-!
DEFINITION. Continuation records (R209), the operations on them at their home (R211, R212, R236-R241, R216), carriages
(R218), the counts and the status fold of a launch (R232, R233), and the end of a fault domain (R252-R254).
-/

namespace Sys2Proof.Machine

open Sys2Proof

/-! ## Layout -/

/-- Bits of a number as a bit vector. -/
def sliceNat (n lo w : Nat) : BitVec w := BitVec.ofNat w (n / 2 ^ lo)

/-- The i-th 64-bit word of bytes. -/
def wordAt (l : List Byte) (i : Nat) : Nat := leNat ((l.drop (8 * i)).take 8)

/-- A record's fields from its 64 bytes (R209). -/
def recOf (l : List Byte) : Rec :=
  let w0 := wordAt l 0
  let w7 := wordAt l 7
  { pc := sliceNat w0 0 56, state := sliceNat w0 56 2, cont := decide (w0 / 2 ^ 58 % 2 = 1),
    slots := Vector.ofFn fun (i : Fin 6) => BitVec.ofNat 64 (wordAt l (i.val + 1)),
    count := sliceNat w7 0 16, hint := sliceNat w7 16 16, region := sliceNat w7 32 12, radius := sliceNat w7 44 4,
    prio := sliceNat w7 48 7 }

/-- A record's 64 bytes, its reserved bits 0 (R209). -/
def Rec.bytes (r : Rec) : List Byte :=
  let w0 := r.pc.toNat + 2 ^ 56 * r.state.toNat + (if r.cont then 2 ^ 58 else 0)
  let w7 := r.count.toNat + 2 ^ 16 * r.hint.toNat + 2 ^ 32 * r.region.toNat + 2 ^ 44 * r.radius.toNat
    + 2 ^ 48 * r.prio.toNat
  leBytes 8 w0 ++ r.slots.toList.flatMap (fun w => leBytes 8 w.toNat) ++ leBytes 8 w7

/-- The states of a record (R209). -/
def recIdle : BitVec 2 := 0
def recWaiting : BitVec 2 := 1
def recReady : BitVec 2 := 2
def recRunning : BitVec 2 := 3

/-! ## The operations -/

/-- Whether region r is region a or a descendant of it (R228, R236): at most `fuel` steps toward the root. -/
def descends (regs : List Region) (a : Nat) : Nat → Nat → Bool
  | 0, r => r == a
  | fuel + 1, r =>
    r == a || (match regs[r]? with
      | some g => r != 0 && descends regs a fuel g.parent
      | none => false)

/-- What a record operation does: the record to write, the status or the cause of a refusal, and whether the task became
ready. -/
structure RecOut where
  rec' : Option Rec
  status : Nat
  refused : Option (BitVec 5)
  ready : Bool
  deriving DecidableEq, Repr

/-- A record that waits while its counter is above 0, else is ready (R212). -/
def Rec.release (r : Rec) : RecOut :=
  if r.count = 0 then ⟨some { r with state := recReady }, 0, none, true⟩
  else ⟨some { r with state := recWaiting }, 0, none, false⟩

/-- A record operation at its home, with the launch's regions (R236-R240, R216, R221). A stall conversion that finds the count at 65,535
lets it wrap to 0: R216 adds 1 and R209 gives the field 16 bits (DESIGN CHOICE, log entry 70). -/
def RecOp.run (o : RecOp) (regs : List Region) (r : Rec) : RecOut :=
  match o with
  | .spawn hint radius prio region lcn =>
    if r.state ≠ recIdle then ⟨none, 1, none, false⟩
    else if regs.length ≤ r.region.toNat || !descends regs region.toNat regs.length r.region.toNat then
      ⟨none, 2, none, false⟩
    else
      let h := if hint = 0xFFFF then BitVec.ofNat 16 lcn else hint
      match regs[r.region.toNat]? with
      | none => ⟨none, 2, none, false⟩
      | some g =>
        if g.cores ≤ h.toNat then ⟨none, 3, none, false⟩
        else if r.pc.toNat % 4 ≠ 0 then ⟨none, 4, none, false⟩
        else Rec.release { r with hint := h, radius := radius, prio := prio.getD g.prio }
  | .decr =>
    if r.count = 0 then ⟨none, 0, some causeProt, false⟩
    else
      let r1 := { r with count := r.count - 1 }
      if r1.count = 0 ∧ r.state = recWaiting then ⟨some { r1 with state := recReady }, 0, none, true⟩
      else ⟨some r1, 0, none, false⟩
  | .depadd amount =>
    if r.state = recReady ∨ 65535 < r.count.toNat + amount.toNat then ⟨none, 0, some causeProt, false⟩
    else ⟨some { r with count := r.count + amount }, 0, none, false⟩
  | .running => ⟨some { r with state := recRunning, cont := false }, 0, none, false⟩
  | .suspend pc slots => Rec.release { r with pc := pc, slots := slots }
  | .exit => ⟨some { r with state := recIdle }, 0, none, false⟩
  | .convert hint => Rec.release { r with count := r.count + 1, cont := true, hint := hint, radius := 0 }

/-! ## Carriages and homes -/

/-- Inject a carriage at a home's router (R218): from a core or from a slot's rim port. -/
def State.inject (s : State) (lead site : Nat) (rim : Bool) (sep : Nat) (v : BitVec 32) (r : Rec) (addr : Addr) : State :=
  s.send lead site rim sep r.hint.toNat 0 0 0 v (.carriage ⟨r, addr, v, none⟩)

/-- The canonical address of a record in a scratchpad (R218). -/
def scrRecAddr (lcn off : Nat) : Addr := BitVec.ofNat 56 (2 ^ 48 + lcn * 2 ^ 32 + 0x10000000 + off)

/-- The regions of a launch. -/
def Part.regionsOf (p : Part) (v : BitVec 32) : List Region := ((p.launch? v).map (·.regions)).getD []

/-- A record operation at a scratchpad home (R210, R211): not checked against the buffer's state, logged. -/
def State.recAtScr (s : State) (site : Nat) (v : BitVec 32) (off : Nat) (o : RecOp) (src seq : Nat) : State × RecOut :=
  match s.partAt site, s.lcnOf site with
  | some p, some l =>
    let out := o.run (p.regionsOf v) (recOf (s.scrRead site off 64))
    let s1 := match out.rec' with
      | some r =>
        let t := s.scrStore site v off r.bytes
        if out.ready then t.inject p.lead site false l v r (scrRecAddr l off) else t
      | none => s
    (s1.logEv site 1 0 (BitVec.ofNat 64 out.status) (scrRecAddr l off) src seq [], out)
  | _, _ => (s, ⟨none, 0, some causeProt, false⟩)

/-- How a record operation fared at a rim home. -/
inductive RecRim where
  | done (s : State) (out : RecOut)
  | wait (s : State)
  deriving DecidableEq, Repr

/-- A record operation at a rim home, through the launch's cask (R210): its write is a write of R441-R462. -/
def State.recAtRim (s : State) (p : Part) (v : BitVec 32) (ppa : Nat) (addr : Addr) (o : RecOp) : RecRim :=
  let out := o.run (p.regionsOf v) (recOf (s.homeLoad p v false ppa 64).1)
  match out.rec' with
  | none => .done s out
  | some r =>
    match s.homeStore p v ppa (2 ^ 64 - 1) r.bytes with
    | .wait t => .wait t
    | .full t => .done t ⟨none, 0, some causeKilled, false⟩
    | .done t =>
      let slot := p.slotOf ppa
      if out.ready then .done (t.inject p.lead (portSite (slotPort p slot)) true (0x8000 + slot) v r addr) out
      else .done t out

/-! ## Counts and the end of a fault domain -/

/-- The fold of status words (R233). -/
def foldStatus (u v : BitVec 32) : BitVec 32 :=
  let hu := u.toNat / 2 ^ 24
  let hv := v.toNat / 2 ^ 24
  BitVec.ofNat 32 ((if hu ≤ hv then hv else hu) * 2 ^ 24) ||| ((u ||| v) &&& 0xFFFFFF)

/-- The counts of a launch on a core (R232). -/
def Core.tallyOf (c : Core) (v : BitVec 32) : Tally := Tbl.get ⟨0, 0, 0⟩ c.tally v.toNat

/-- Change the counts of a launch on a core. -/
def Core.updTally (c : Core) (v : BitVec 32) (f : Tally → Tally) : Core :=
  { c with tally := Tbl.put c.tally v.toNat (f (c.tallyOf v)) }

/-- One more task of a launch is made on a core (R232). -/
def Core.madeOne (c : Core) (v : BitVec 32) : Core := c.updTally v fun t => { t with made := t.made + 1 }

/-- One more task of a launch has ended on a core, and its status word is folded (R232). -/
def Core.endedOne (c : Core) (v : BitVec 32) (st : BitVec 32) : Core :=
  c.updTally v fun t => { t with ended := t.ended + 1, s := foldStatus t.s st }

/-- Write a fault record to the partition's fault log, a ring of 256 (R253), and note the vintage's first (R530). -/
def Part.addFault (p : Part) (r : FaultRec) : Part :=
  let q := { p with flog := Tbl.put p.flog (p.flogHead % 256) r, flogHead := p.flogHead + 1 }
  q.updLaunch r.vint fun l => if l.flog.isNone then { l with flog := some (p.flogHead % 256) } else l

/-- The fault domain of a region of a launch (R227). -/
def Part.domainOf (p : Part) (v region : BitVec 32) : BitVec 8 :=
  (((p.regionsOf v)[region.toNat]?).map (·.fd)).getD 0

/-- A fault domain of a launch ends (R231, R254): domain 0 aborts the launch (R264); another is sent along the completion
tree. -/
def State.domainEnds (s : State) (lead : Nat) (v : BitVec 32) (fd : BitVec 8) (status : BitVec 32) : State :=
  if fd = 0 then s.startKill lead v ⟨3, status, 0, false⟩
  else
    match s.part? lead with
    | none => s
    | some p =>
      let add := fun (l : Launch) =>
        if l.domains.contains fd then l else { l with domains := l.domains ++ [fd], domTodo := p.bound, domAcks := p.bound }
      (s.setPart lead (p.updLaunch v add)).later (.domainEnd (p.bound.headD 0) v.toNat)

/-- Steps 2 to 4 of R252 on a core: the fault record, the fold of 0xF000_0000 or (1 << cause), one task ended, and the
domain's end. -/
def State.endDomain (s : State) (site ctx : Nat) (c : Ctx) (nested : Bool) (cause : BitVec 5) (epc faddr : Addr)
    (fstep : BitVec 32) (time : Word) : State :=
  match s.partAt site with
  | none => s
  | some p =>
    let fd := p.domainOf c.vintage c.region
    let st : BitVec 32 := 0xF0000000 ||| (1 <<< cause.toNat)
    let r : FaultRec :=
      { cause := cause, nested := nested, ctx := ctx, lcn := (s.lcnOf site).getD 0, site := site, epc := epc,
        faddr := faddr, fstep := fstep, vint := c.vintage, task := c.task, region := c.region, domain := fd,
        time := time }
    let s1 := s.setPart p.lead (p.addFault r)
    let s2 := s1.updCore site fun k => k.endedOne c.vintage st
    s2.domainEnds p.lead c.vintage fd st

end Sys2Proof.Machine
end

