-- ==== Sys2Proof/Machine/Deliver.lean ====
section
/-!
DEFINITION. Answers to a context's operations (R117, R173, R174), the reply queue (R192, R193, R198), deliveries and
delivery points (R115, R179, R194, R200, R286), and a context's leaving of its task (R214, R239-R241, R252).
-/

namespace Sys2Proof.Machine

open Sys2Proof

/-! ## Operations of a context -/

/-- The four counters by name (R174). -/
def Ctx.cnt (c : Ctx) : Cnt → Nat
  | .ld => c.ld
  | .st => c.st
  | .cp => c.cp
  | .tl => c.tl
  | .no => 0

/-- A context with a counter changed. -/
def Ctx.setCnt (c : Ctx) (k : Cnt) (n : Nat) : Ctx :=
  match k with
  | .ld => { c with ld := n }
  | .st => { c with st := n }
  | .cp => { c with cp := n }
  | .tl => { c with tl := n }
  | .no => c

/-- Whether another operation may be counted: a word that would raise a counter above 63 does not issue (R174). -/
def Ctx.canCount (c : Ctx) (k : Cnt) : Bool := decide (c.cnt k < 63)

/-- The operations that a WAIT operand may spare: the 15 youngest of each counter (R207). -/
def pushRecent (k : Cnt) (id : Nat) (l : List (Cnt × Nat)) : List (Cnt × Nat) :=
  (k, id) :: (l.filter fun e => e.1 == k).take 14 ++ l.filter fun e => e.1 != k

/-- Number an operation that is performed at its issue (R174, R207). -/
def Ctx.noteOp (c : Ctx) (k : Cnt) : Ctx := { c with issued := c.issued + 1, recent := pushRecent k c.issued c.recent }

/-- Count an operation from issue under the number `c.issued` (R174). -/
def Ctx.startOp (c : Ctx) (k : Cnt) (addr : Addr) (global isWrite : Bool) (what : OpWhat) : Ctx :=
  { c.setCnt k (c.cnt k + 1) with
    issued := c.issued + 1, recent := pushRecent k c.issued c.recent,
    ops := c.ops ++ [⟨k, c.issued, addr, global, isWrite, what, false⟩] }

/-- The operation of a number, and the context without it, its counter one less. -/
def Ctx.endOp (c : Ctx) (id : Nat) : Option (OutOp × Ctx) :=
  (List.find? (fun (o : OutOp) => o.id == id) c.ops).map fun o =>
    (o, { c.setCnt o.cnt (c.cnt o.cnt - 1) with ops := c.ops.filter fun p => p.id != id })

/-- A context without an operation, its counter one less. -/
def Ctx.dropOp (c : Ctx) (id : Nat) : Ctx :=
  match c.endOp id with
  | some (_, d) => d
  | none => c

/-- Post a fault of a refused operation (R117). -/
def Ctx.post (c : Ctx) (o : OutOp) (cause : BitVec 5) (faddr : Addr) (fstep : BitVec 32) : Ctx :=
  { c with posted := c.posted ++ [⟨o.cnt, o.id, cause, faddr, fstep⟩] }

/-- Write a result that arrives after issue: x[d] and its scoreboard bit (R143). -/
def Ctx.arrive (c : Ctx) (d : Reg) (v : Word) : Ctx :=
  let c1 := c.put d v
  { c1 with sb := c1.sb &&& ~~~regBit d }

/-- Extend loaded bytes to 64 bits (R187). -/
def extend (sext : Bool) (bytes : List Byte) : Word :=
  let v := leNat bytes
  let w := 8 * bytes.length
  if sext && decide (2 ^ (w - 1) ≤ v) && decide (0 < w) then BitVec.ofInt 64 ((v : Int) - 2 ^ w) else BitVec.ofNat 64 v

/-- A context raises COPY_ABORT for one channel: of its abort bits the lowest is cleared (R374; which one first is a DESIGN CHOICE, log
entry 71). -/
def Ctx.abortRaised (c : Ctx) : Ctx := { c with abortMask := c.abortMask &&& (c.abortMask - 1) }

/-- Take a posted fault of a context from its list and raise it (R117, R337). -/
def State.raiseAt (s : State) (site n : Nat) (p : Posted) : State :=
  (s.updCtx site n fun c => { c with posted := c.posted.erase p }).trapAt site n p.cause p.faddr p.fstep

/-- The posted fault of a stopped tile command (R337). -/
def Ctx.tileFault (c : Ctx) : Option Posted :=
  List.find? (fun (p : Posted) => p.cnt == .tl && p.fstep.toNat / 2 ^ 30 == 2) c.posted

/-- A word that waits for earlier MACRDs and MEPIs: behind a stopped one it raises that command's posted fault (R313). -/
def State.drawWait (s : State) : State :=
  match s.me.tileFault with
  | some p => if s.myCore.tileStuck s.cur.2 then s.raiseAt s.cur.1 s.cur.2 p else s
  | none => s

/-! ## The line cache and acquires -/

/-- The capacity of the line cache in lines (R121: 64 KiB). -/
def cacheLines : Nat := 1024

/-- Put a line in the cache; a full cache evicts a line that nothing defines, a free value (R121). -/
def Core.fill (c : Core) (l : CacheLine) (draw : Nat) : Core :=
  let rest := c.cache.filter fun m => !(m.vint == l.vint && m.committed == l.committed && m.line == l.line)
  let kept := if rest.length < cacheLines then rest
    else rest.eraseIdx ((Config.freeBits 10 draw).toNat % rest.length)
  { c with cache := kept ++ [l] }

/-- The cached line of a vintage, view and line address. -/
def Core.cachedLine (c : Core) (v : BitVec 32) (committed : Bool) (line : Nat) : Option CacheLine :=
  List.find? (fun m => m.vint == v && m.committed == committed && m.line == line) c.cache

/-- Update a core's cached copy of a line with acknowledged bytes (R121, R202). -/
def Core.updateLine (c : Core) (v : BitVec 32) (line mask : Nat) (data : List Byte) : Core :=
  { c with cache := c.cache.map fun m =>
      if m.vint = v ∧ m.line = line ∧ m.committed = false then { m with data := mergeBytes mask data m.data } else m }

/-- Update a core's cached copy of a line with the value that an atomic left (R202). -/
def State.updateCached (s : State) (site : Nat) (v : BitVec 32) (ppa len new : Nat) : State :=
  let off := ppa % 64
  s.updCore site fun c =>
    c.updateLine v (ppa / 64 * 64) ((2 ^ len - 1) * 2 ^ off) (List.replicate off 0 ++ leBytes len new)

/-- Whether an atomic's result is sign-extended (R200). -/
def AtomK.sext : AtomK → Bool
  | .amo .fadd | .amo .minu | .amo .maxu => false
  | _ => true

/-- The regions of a task that are bound to an object on a core (R126, R128). -/
def Core.boundTo (c : Core) (lcn : Nat) (v : BitVec 32) (regs : List DRegion) (obj : Addr) : List DRegion :=
  (regs.zipIdx.filter fun e => obj != 0 && ownLocal lcn (c.objectOf v e.2 e.1) == ownLocal lcn obj).map (·.1)

/-- The declared regions of a context's task (R229). -/
def State.regsOf (s : State) (site : Nat) (c : Ctx) : List DRegion :=
  ((s.regionOf site c.vintage c.region).map (·.regs)).getD []

/-- Whether a global address, by its bits [53:0], lies in one of some regions. -/
def inRegions (rs : List DRegion) (va : Nat) : Bool :=
  rs.any fun r => decide (r.base % 2 ^ 54 ≤ va) && decide (va < r.base % 2 ^ 54 + r.size)

/-- An outstanding line load of some regions does not keep its line. -/
def OutOp.overtaken (rs : List DRegion) (o : OutOp) : OutOp :=
  match o.what with
  | .load _ _ _ (some _) => if inRegions rs (low54 o.addr) then { o with stale := true } else o
  | _ => o

/-- The core's cache drops every line of some regions of a launch, and lines of them on their way are not kept (R121, R128). -/
def Core.dropLines (c : Core) (v : BitVec 32) (rs : List DRegion) : Core :=
  { c with
    cache := c.cache.filter fun m => !(m.vint == v && inRegions rs m.va),
    ctxs := Vector.ofFn fun (i : Fin 8) =>
      if c.ctxs[i].vintage = v then { c.ctxs[i] with ops := c.ctxs[i].ops.map (OutOp.overtaken rs) } else c.ctxs[i] }

/-- The regions of an acquire of the executing context: those that its core has bound to the object as it issues (R126, R128). -/
def State.acquireRegs (s : State) (site : Nat) (c : Ctx) (obj : Addr) : List DRegion :=
  (s.core site).boundTo ((s.lcnOf site).getD 0) c.vintage (s.regsOf site c) obj

/-! ## Record operations of the core itself -/

/-- Where a record address of a party leads (R210, R218): an offset of the own scratchpad, another core's, a PPA, or
nowhere. -/
inductive RecHome where
  | here (off : Nat)
  | core (lcn off : Nat)
  | rim (ppa : Nat)
  | none
  deriving DecidableEq, Repr

/-- The home of a canonical record address, by the launch's page tables; no rights are checked (R210). -/
def State.recHome (s : State) (site : Nat) (v : BitVec 32) (a : Addr) : RecHome :=
  let lcn := (s.lcnOf site).getD 0
  let b := ownLocal lcn a
  match spaceOf b with
  | .loc =>
    match placeOfLocal b.toNat with
    | .win 0 o => .here o
    | _ => .none
  | .remote =>
    match placeOfLocal (remoteLocal b) with
    | .win 0 o => .core (remoteLcn b) o
    | _ => .none
  | .global | .committed =>
    match s.partAt site with
    | none => .none
    | some p =>
      let m := match (s.core site).cached v (pageOf b) with
        | some m => some m
        | Option.none => (p.launch? v).bind fun l => s.walkFrom p l.cmd.ptroot (pageOf b)
      match m with
      | some m => .rim (m.ppa + b.toNat % 65536)
      | Option.none => .none
  | _ => .none

/-- The context number that tags the operations of the core itself. -/
def ctxNone : Nat := 8

/-- A refused DECR of a bound tag (R198): a fault record with cause PROT and a fold, nothing ended. -/
def State.boundRefused (s : State) (site : Nat) (b : TagBind) : State :=
  match s.partAt site with
  | none => s
  | some p =>
    let r : FaultRec :=
      { cause := causeProt, nested := false, ctx := b.ctx, lcn := (s.lcnOf site).getD 0, site := site, epc := 0,
        faddr := 0, fstep := 0, vint := b.vint, task := b.addr, region := b.region,
        domain := p.domainOf b.vint b.region, time := s.timeAt site }
    (s.setPart p.lead (p.addFault r)).updCore site fun k =>
      k.updTally b.vint fun t => { t with s := foldStatus t.s 0xF0000020 }

/-- Send a DECR of the core itself, remembered until its answer. -/
def State.sendDecr (s : State) (site dep : Nat) (b : TagBind) (t : Target) : State :=
  let c := s.core site
  let s1 := s.setCore site { c with decrs := Tbl.put c.decrs c.decrNext b, decrNext := c.decrNext + 1 }
  s1.sendFromCore site dep ctxNone c.decrNext 0 b.vint (.recop t b.addr .decr)

/-- A DECR performed by the core itself, for a bound tag or an awaited copy, without the wait of R217 (R198, R216, R237). -/
def State.coreDecr (s : State) (site : Nat) (b : TagBind) : State :=
  match s.recHome site b.vint b.addr with
  | .here o =>
    let r := s.recAtScr site b.vint o .decr ((s.lcnOf site).getD 0) 0
    if r.2.refused.isSome then r.1.boundRefused site b else r.1
  | .core lcn o => s.sendDecr site lcn b (.core o)
  | .rim ppa =>
    match s.partAt site with
    | Option.none => s
    | some p => s.sendDecr site (0x8000 + p.slotOf ppa) b (.rim ppa)
  | .none => s.boundRefused site b

/-- The answer of a DECR of the core itself (R198). -/
def State.decrAnswered (s : State) (site id : Nat) (refused : Option (BitVec 5)) : State :=
  let c := s.core site
  match Tbl.find? c.decrs id with
  | none => s
  | some b =>
    let s1 := s.setCore site { c with decrs := Tbl.del c.decrs id }
    if refused.isSome then s1.boundRefused site b else s1

/-- The answer of a record operation of the core itself: a DECR, or the state write of a task that it accepted (R198, R221,
R234). -/
def State.ownAnswered (s : State) (site id : Nat) (refused : Option (BitVec 5)) : State :=
  let c := s.core site
  if (Tbl.find? c.starts id).isSome then s.setCore site { c with starts := Tbl.del c.starts id }
  else s.decrAnswered site id refused

/-! ## Replies -/

/-- The reply word of R193. -/
def replyWord (puta : Bool) (refused : Option (BitVec 5)) (len : Nat) (seq : BitVec 32) : Word :=
  BitVec.ofNat 64 (1 + (if puta then 2 else 0) + (if refused.isSome then 8 else 0)
    + 2 ^ 8 * ((refused.map (·.toNat)).getD 0) + 2 ^ 16 * len + 2 ^ 32 * seq.toNat)

/-- Whether a context is the one that its pool pre-empts (R259, R260). -/
def State.preempting (s : State) (site n : Nat) : Bool :=
  match s.partAt site, s.lcnOf site with
  | some p, some l => (Tbl.get Pool.new p.pools (l / 64)).preempt == some (site, n)
  | _, _ => false

/-- A context that waits at a suspension point, or is to be pre-empted, is looked at again (R214, R260). -/
def State.wakeContext (s : State) (site n : Nat) : State :=
  let s1 := if s.preempting site n then s.due (.preemption site n) else s
  match (s.ctx site n).hold with
  | .suspending _ => s1.due (.suspensionPoint site n)
  | _ => s1

/-- Let waiting replies join the queue, in their tag's issue order, while it has room (R192): a reply that joins completes its
operation (R194, R195), with the DECR of a bound tag (R198). At most `fuel` join. -/
def State.joinReplies (s : State) (site : Nat) : Nat → State
  | 0 => s
  | fuel + 1 =>
    let c := s.core site
    match List.find? (fun (r : Reply × Nat × Nat) => c.tagNext[r.1.tag]?.getD 0 == BitVec.ofNat 32 r.1.seq) c.repliesWait with
    | none => s
    | some (r, n, id) =>
      if replyEntries ≤ c.replies.length then s
      else
        let c1 := { c with
          replies := c.replies ++ [r], repliesWait := c.repliesWait.erase (r, n, id),
          tagNext := c.tagNext.setIfInBounds r.tag (c.tagNext[r.tag]?.getD 0 + 1) }
        let s1 := ((s.setCore site c1).updCtx site n fun x => x.dropOp id).wakeContext site n
        let s2 := match c.tagBind[r.tag]?.getD none with
          | some b => s1.coreDecr site b
          | none => s1
        s2.joinReplies site fuel

/-- The reply of an operation of a context, a GETA or PUTA, is ready for the queue (R192). -/
def State.queueReply (s : State) (site n id tag seq : Nat) (w : Word) : State :=
  let s1 := s.updCore site fun c => { c with repliesWait := c.repliesWait ++ [(⟨tag, seq, w⟩, n, id)] }
  s1.joinReplies site (s1.core site).repliesWait.length

/-! ## Leaving a task -/

/-- A context becomes idle (R214, R240): its task is gone; k0-k15 and the private window stay (R213). -/
def Ctx.leave (c : Ctx) : Ctx :=
  { Ctx.reset with k := c.k, dirtyK := c.dirtyK, dirtyL := c.dirtyL }

/-- The image of a converted task waits for its condition from the write of its record on (R216). -/
def State.armImage (s : State) (site : Nat) (task : Addr) : State :=
  match s.partAt site, s.lcnOf site with
  | some p, some l =>
    let arm := fun (i : Image) => if i.kind = .continuation ∧ i.c.task = task then { i with awaiting := true } else i
    s.setPart p.lead { p with images := Tbl.upd [] p.images l (List.map arm) }
  | _, _ => s

/-- A suspension point's last step (R214): what ends on the core, and the idle context, which applies what is
delivered to it (R115) and asks for work (R224); a context that yielded is kept for the entry that its query reserved (R241). -/
def State.leaveTask (s : State) (site n : Nat) (k : SuspKind) : State :=
  let c := s.ctx site n
  let s1 := (s.updCtx site n Ctx.leave).due (.suspensionPoint site n)
  let waves := fun (t : State) => match t.partAt site with
    | some p => t.later (.doneWaveTimer p.lead c.vintage.toNat)
    | none => t
  match k with
  | .suspend _ => s1.due (.poolPull site)
  | .yields _ => (s1.updCtx site n fun x => { x with occ := .yielded }).due (.poolPull site)
  | .convert => (s1.armImage site c.task).due (.poolPull site)
  | .exit st => waves ((s1.updCore site fun q => q.endedOne c.vintage st).due (.poolPull site))
  | .ending nested cause epc faddr fstep =>
    waves ((s1.endDomain site n c nested cause epc faddr fstep c.ttime).due (.poolPull site))

/-! ## Answers -/

/-- The answer to an operation: a refusal's cause, the bytes of a value, sticky bits, whether an acquire missed a release
for scope or takes its side effect, and a status. -/
structure Answer where
  refused : Option (BitVec 5) := none
  bytes : List Byte := []
  sticky : Word := 0
  miss : Bool := false
  sync : Bool := false
  status : Nat := 0
  deriving DecidableEq, Repr

/-- The posted fault to raise among those that satisfy a condition: the oldest in issue order (R117, R207). -/
def Ctx.oldestPosted (c : Ctx) (f : Posted → Bool) : Option Posted :=
  (c.posted.filter f).foldl (fun (b : Option Posted) p =>
    match b with
    | some q => if p.id < q.id then some p else b
    | none => some p) none

/-- Raise a posted fault at the executing context's word (R117, R337). -/
def State.raisePosted (s : State) (p : Posted) : State :=
  (s.setMe { s.me with posted := s.me.posted.erase p }).trapAt s.cur.1 s.cur.2 p.cause p.faddr p.fstep

/-- Post what an answer refuses of an operation (R117): a refused ACQ faults at the ACQ itself (R204), and a write that the kill
refused faults nowhere (R459). -/
def Ctx.postAnswer (c : Ctx) (o : OutOp) (a : Answer) : Ctx :=
  match a.refused with
  | none => c
  | some cause =>
    match o.what with
    | .acq _ => c
    | _ => if cause = causeKilled then c else c.post o cause o.addr 0

/-- Apply the answer of operation `id` of a context (R117, R173, R174, R195, R196, R204, R205, R236, R466). A GETA or PUTA stays
outstanding until its reply has joined the queue (R194, R195). -/
def State.answerOp (s : State) (site n id : Nat) (a : Answer) : State :=
  match (s.ctx site n).endOp id with
  | none => s
  | some (o, c0) =>
    let c := c0.postAnswer o a
    let kept := (s.ctx site n).postAnswer o a
    let flags := a.sticky ||| (if a.miss then stickyScopemiss else 0)
    match o.what with
    | .load d size sext line =>
      let bytes := match line with
        | some _ => (a.bytes.drop (o.addr.toNat % 64)).take size
        | none => a.bytes.take size
      let v := if a.refused.isSome then 0 else extend sext bytes
      let s1 := s.setCtx site n ((c.arrive d v).orSticky flags)
      match line with
      | some l =>
        if a.refused.isSome || o.stale then s1
        else s1.updCore site fun k =>
          k.fill ⟨c.vintage, spaceOf o.addr == .committed, low54 o.addr / 64 * 64, l, a.bytes⟩ s.tick
      | none => s1
    | .atomic d at' ppa regs =>
      let old := a.bytes.take (at'.w / 8)
      let v := if a.refused.isSome then 0 else extend (AtomK.sext at'.k) old
      let s1 := s.setCtx site n ((c.arrive d v).orSticky flags)
      let s2 := match ppa, (at'.apply (leNat old)).1 with
        | some q, some nw => if a.refused.isSome then s1 else s1.updateCached site c.vintage q (at'.w / 8) nw
        | _, _ => s1
      if at'.acq.isSome && a.sync && a.refused.isNone then s2.updCore site fun k => k.dropLines c.vintage regs else s2
    | .red ppa =>
      let s1 := s.setCtx site n (c.orSticky (if a.miss then stickyScopemiss else 0))
      match ppa with
      | some (q, w) => if a.refused.isSome then s1 else s1.updateCached site c.vintage q (w / 8) a.status
      | none => s1
    | .acq regs =>
      let s1 := s.setCtx site n { c.orSticky flags with hold := .acqDone a.refused }
      if a.sync && a.refused.isNone then s1.updCore site fun k => k.dropLines c.vintage regs else s1
    | .rel ppa =>
      let s1 := s.setCtx site n (c.orSticky flags)
      match ppa with
      | some q => if a.refused.isSome then s1 else s1.updateCached site c.vintage q 8 a.status
      | none => s1
    | .spawn d =>
      let s1 := s.setCtx site n (c.arrive d (BitVec.ofNat 64 a.status))
      if a.status = 0 ∧ a.refused.isNone then s1.updCore site fun k => k.madeOne c.vintage else s1
    | .query d => s.setCtx site n (c.arrive d (wordOf a.bytes))
    | .puta tag len seq _ _ => (s.setCtx site n kept).queueReply site n id tag seq.toNat (replyWord true a.refused len seq)
    | .geta tag len seq _ _ _ _ =>
      (s.setCtx site n kept).queueReply site n id tag seq.toNat (replyWord false a.refused len seq)
    | .writeback =>
      match c.hold with
      | .writeback k => (s.setCtx site n c).leaveTask site n k
      | _ => s.setCtx site n c
    | .store | .recop => s.setCtx site n (c.orSticky flags)
    | .copy .. | .tile .. => s.setCtx site n c

/-- The waves, kills and domain ends of a partition that wait for a core look again (R234, R254, R265). -/
def State.wakeLaunches (s : State) (site : Nat) : State :=
  match s.partAt site with
  | none => s
  | some p =>
    p.launches.foldl (fun t l =>
      let t1 := if l.waveOut && l.phase == .running && l.todo.contains site then t.due (.doneWave site l.vint.toNat) else t
      let t2 := if l.phase == .kill2 then t1.due (.drainWave site l.vint.toNat) else t1
      if l.domAcks.contains site && !l.domTodo.contains site then t2.later (.domainEndAck site l.vint.toNat) else t2) s

/-- Let the engines of a core look again at work that waited (R133, R285, R312). -/
def State.wakeEngines (s : State) (site : Nat) : State :=
  let c := s.core site
  let s1 := if c.vq.isEmpty then s else s.due (.vectorFinish site)
  let look := fun (t : State) (e : TCmd × Nat) =>
    match e.1.state with
    | .queued => t.due (.tileCommandStart site e.2)
    | .running => t.due (.tileCommandFinish site e.2)
    | .stopped => t
  let send := fun (t : State) (e : Nat × CPort) => if e.2.out.isEmpty then t else t.due (.contribution site e.1)
  let copy := fun (t : State) (e : Chan × Nat) =>
    let more := fun (stream : Bool) =>
      e.1.xfers.any fun x => (x.kind == .rstream && !x.ended) == stream && decide (x.pos < x.count) && !x.frozen && !x.aborted
    let t1 := if more false then t.dueOnce (.copyRequest site e.2) else t
    if more true then t1.dueOnce (.streamRefill site e.2) else t1
  (c.chans.toList.zipIdx.foldl copy (c.ports.foldl send (c.tq.zipIdx.foldl look s1))).wakeLaunches site

/-- Apply the answer of an operation, and wake what waited for it. -/
def State.complete (s : State) (site n id : Nat) (a : Answer) : State :=
  ((s.answerOp site n id a).wakeContext site n).wakeEngines site

/-! ## Deliveries -/

/-- The flag addition of a transfer has been performed (R135), or refused (R117). -/
def State.flagAdded (s : State) (site ch : Nat) (id : BitVec 32) (refused : Option (BitVec 5)) : State :=
  let c := s.core site
  let k := c.chans[ch]?.getD Chan.new
  let done := fun (x : Xfer) => if x.id = id then { x with flagState := .done } else x
  let s1 := s.setCore site { c with chans := c.chans.setIfInBounds ch { k with xfers := k.xfers.map done } }
  let s2 := match refused, List.find? (fun (x : Xfer) => x.id == id) k.xfers with
    | some cause, some x =>
      match x.opId with
      | some o =>
        if x.held.isSome then s1
        else s1.updCtx site x.ctx fun y => { y with posted := y.posted ++ [(⟨.cp, o, cause, x.dst.flag, 0⟩ : Posted)] }
      | none => s1
    | _, _ => s1
  s2.due (.transferComplete site ch)

/-- Tell the party that waits for a delivery its outcome (R179, R117). -/
def State.settle (s : State) (site : Nat) (d : DelFrom) (a : Answer) (value : Bool) : State :=
  match d with
  | .local n id => s.complete site n id a
  | .engine ch x => s.flagAdded site ch x a.refused
  | .remote f =>
    if value then s.answer f (.data a.bytes a.sticky a.miss a.sync a.refused) else s.answer f (.ack a.refused a.status)

/-- An atomic performed at a scratchpad home, with the releases kept there (R127, R130, R132, R200, R203). -/
def State.atomicAtScr (s : State) (site : Nat) (v : BitVec 32) (off : Nat) (a : Atom) : State × Answer :=
  let bytes := s.scrRead site off (a.w / 8)
  let old := leNat bytes
  let r := a.apply old
  let rels := (s.core site).rels
  let t := acquireTest rels v off a
  let s1 := match r.1 with
    | some nw => s.scrStore site v off (leBytes (a.w / 8) nw)
    | none => s
  let s2 := s1.updCore site fun c => { c with rels := keepRelease rels v off a }
  (s2.logEv site 6 a.ctx (BitVec.ofNat 64 old) (BitVec.ofNat 56 (0x10000000 + off)) a.lcn 0 [],
    { bytes := bytes, sticky := r.2, miss := t.1, sync := t.2 })

/-- Whether the kinds of an atomic answer with a value: AMO, CAS and ACQ (R389). -/
def Atom.valued (a : Atom) : Bool :=
  match a.k with
  | .amo _ => a.ret
  | .cas | .acq => true
  | .rel => false

/-- The source endpoint and pair number of a delivery, for its log record (R483). -/
def DelFrom.src : DelFrom → Nat × Nat
  | .local _ _ | .engine _ _ => (0xFFFF, 0)
  | .remote f => (f.sep, f.seq)

/-- Why a delivered write is refused by the state of the buffer that holds it, if it is (R178, R179). A delivery waits for the context
that owned the buffer when it arrived; where another context has filled the buffer since, R179 does not say who writes it: it is
refused with BUFSTATE at its context's delivery point (DESIGN CHOICE, log entry 69). -/
def Core.delRefused (c : Core) (v : BitVec 32) (n off len : Nat) : Option (BitVec 5) :=
  match c.bufAt v off len with
  | none => some causeProt
  | some (_, b) => if b.ownerWrites n then none else some causeBufstate

/-- The bytes that a delivery may change. -/
def DelWhat.span : DelWhat → Nat × Nat
  | .store off data | .row off data _ => (off, off + data.length)
  | .atomic off a => (off, off + a.w / 8)
  | .getaData off data .. => (off, off + data.length)
  | .open base hi _ _ => (base, hi)

/-- Apply one delivery to its context at a delivery point (R115, R179, R194, R365); logged (R483). -/
def State.applyOne (s : State) (site : Nat) (d : Delivery) : State :=
  let c := s.core site
  let src := d.src.src
  let log := fun (t : State) (data : List Byte) (off : Nat) =>
    t.logEv site 1 d.ctx 0 (BitVec.ofNat 56 (0x10000000 + off)) src.1 src.2 data
  match d.what with
  | .store off data =>
    match c.delRefused d.vint d.ctx off data.length with
    | some cause => log (s.settle site d.src { refused := some cause } false) data off
    | none => log ((s.scrStore site d.vint off data).settle site d.src {} false) data off
  | .row off data nmask =>
    match c.delRefused d.vint d.ctx off data.length with
    | some cause => log (s.settle site d.src { refused := some cause } false) data off
    | none => log ((s.scrStoreNibbles site d.vint off nmask data).settle site d.src {} false) data off
  | .atomic off a =>
    match c.delRefused d.vint d.ctx off (a.w / 8) with
    | some cause => log (s.settle site d.src { refused := some cause } a.valued) [] off
    | none =>
      let r := s.atomicAtScr site d.vint off a
      log (r.1.settle site d.src r.2 a.valued) [] off
  | .getaData off data id refused =>
    let priv := decide (privBase d.ctx ≤ off) && decide (off + data.length ≤ privBase d.ctx + 0x4000)
    let why := match refused with
      | some r => some r
      | none =>
        if priv then none
        else match c.bufAt d.vint off data.length with
          | some (_, b) => if b.ownerWrites d.ctx then none else some causeBufstate
          | none => some causeBufstate
    let s1 := if why.isNone then s.scrStore site d.vint off data else s
    log (s1.complete site d.ctx id { refused := why }) data off
  | .open lo hi k wm =>
    if hi ≤ lo then (s.settle site d.src {} false).logEv site 4 d.ctx 0 (BitVec.ofNat 56 lo) src.1 src.2 []
    else
    match c.delRefused d.vint d.ctx lo (hi - lo) with
    | some cause => (s.settle site d.src { refused := some cause } false).logEv site 4 d.ctx 1 (BitVec.ofNat 56 lo) src.1 src.2 []
    | none =>
      let s1 := s.updCore site fun q => { q with opens := q.opens ++ [⟨k, d.vint, lo, hi, wm, lo, 0, none⟩] }
      let s2 := (s1.settle site d.src {} false).logEv site 4 d.ctx 0 (BitVec.ofNat 56 lo) src.1 src.2 []
      match s2.partAt site with
      | some p => s2.due (.landing p.lead ((s2.lcnOf site).getD 0))
      | none => s2

/-- Whether a pending delivery must wait: its bytes lie in a span of an unfinished vector instruction or tile command of
the context, or at or above the watermark of a copy landing here (R286, R312, R370). -/
def State.delWaits (s : State) (site n : Nat) (d : Delivery) : Bool :=
  let sp := d.what.span
  match d.what with
  | .open .. => false
  | _ => match s.gate site n ⟨1 + (s.lcnOf site).getD 0, sp.1, sp.2⟩ true with
      | .free => false
      | _ => true

/-- The deliveries pending for a context of a vintage, in order of arrival. -/
def Core.pendingFor (c : Core) (n : Nat) : List Delivery := c.deliv.filter fun d => d.ctx == n

/-- Apply a list of deliveries in order: one that must wait stays, and those behind it too. -/
def State.applyList (s : State) (site n : Nat) : List Delivery → State
  | [] => s
  | d :: t =>
    if s.delWaits site n d then s
    else
      let s1 := s.updCore site fun c => { c with deliv := c.deliv.erase d }
      (s1.applyOne site d).applyList site n t

/-- A delivery point of a context (R115). -/
def State.deliveryPoint (s : State) (site n : Nat) : State := s.applyList site n ((s.core site).pendingFor n)

/-- A context as a delivery point left it, with the pops that the executing word has made. -/
def Ctx.withPops (c popped : Ctx) : Ctx := { c with strm := popped.strm, spos := popped.spos }

/-- Whether the context waits at a delivery point: a delivery lies in a span of its unfinished vector work (R286). -/
def State.pointHeld (s : State) (site n : Nat) : Bool :=
  ((s.core site).pendingFor n).any fun d =>
    let sp := d.what.span
    (s.core site).vq.any fun e => e.ctx == n && (spansMeet e.writes sp.1 sp.2 || spansMeet e.reads sp.1 sp.2)

/-- Whether a context holds no task (R115): it is idle, or kept for a pool entry (R241) or for a seed that has not started (R534). -/
def Ctx.free (c : Ctx) : Bool := c.occ == .idle || c.occ == .yielded || c.occ == .staged

/-- A delivery arrives at a core's port (R115, R179, R261): behind a held image's buffer it waits with the image; for a
context without a task it is applied at once. -/
def State.deliver (s : State) (site : Nat) (held : Option Nat) (d : Delivery) : State :=
  match held with
  | some slot =>
    match s.partAt site, s.lcnOf site with
    | some p, some l =>
      let put := fun (i : Image) => if i.slot = slot then { i with waiting := i.waiting ++ [d] } else i
      s.setPart p.lead { p with images := Tbl.upd [] p.images l (List.map put) }
    | _, _ => s
  | none =>
    let s1 := s.updCore site fun c => { c with deliv := c.deliv ++ [d] }
    if (s.ctx site d.ctx).free then s1.deliveryPoint site d.ctx else s1

/-- A write of another party reaches a scratchpad port (R179): outside every buffer it is refused, else it is delivered
to the context that the buffer's owner field names. -/
def State.arriveWrite (s : State) (site : Nat) (v : BitVec 32) (src : DelFrom) (what : DelWhat) (value : Bool) : State :=
  let sp := what.span
  match (s.core site).bufAt v sp.1 (sp.2 - sp.1) with
  | none => s.settle site src { refused := some causeProt } value
  | some (_, b) => s.deliver site b.held ⟨b.owner, v, src, what⟩

end Sys2Proof.Machine
end

