-- ==== Sys2Proof/Machine/Access.lean ====
section
/-!
DEFINITION. The accesses that the memory instructions share: loads and stores of a context by space (R113, R114, R121-R123,
R172-R174, R178, R179, R187, R188), parameter windows (R112, R189), and 64-byte blocks read by words that wait for them
(R277).
-/

namespace Sys2Proof.Machine

open Sys2Proof

/-- The number of job cores of the partition at a site (R113). -/
def State.ncores (s : State) (site : Nat) : Nat := ((s.partAt site).map (·.bound.length)).getD 0

/-- The LCN at a site, 0 for none. -/
def State.lcn (s : State) (site : Nat) : Nat := (s.lcnOf site).getD 0

/-- Complete a word that starts an operation away from the context: x[d] pends until its answer (R143, R173). -/
def Ctx.await (c : Ctx) (d : Reg) : Ctx := { c with sb := c.sb ||| regBit d }

/-- The slot endpoint of a PPA. -/
def Part.slotEp (p : Part) (ppa : Nat) : Nat := 0x8000 + p.slotOf ppa

/-- A word that would raise a counter above 63 does not issue, wherever its access is performed (R174). -/
def counting (s : State) (c : Ctx) (k : Cnt) (out : Out) : Out := if c.canCount k then out else .next s

/-- Send a request of the executing context with its operation counted (R172, R174, R398, R399); a word that cannot be
counted or sent does not issue. `d` pends when given. -/
def sendRequest (s : State) (c : Ctx) (k : Cnt) (d : Option Reg) (dep : Nat) (ea : Addr) (global isWrite : Bool)
    (what : OpWhat) (body : Body) : Out :=
  if !c.canCount k || !s.coreCanSend s.cur.1 dep then .next s
  else
    let c1 := c.startOp k ea global isWrite what
    let c2 := match d with
      | some r => c1.await r
      | none => c1
    .next ((s.setMe c2.advance).sendFromCore s.cur.1 dep s.cur.2 c.issued ((d.map (·.toNat)).getD 0) c.vintage body)

/-! ## The write queue (R122, R123) -/

/-- The mask of n bytes at an offset of a line. -/
def lineMask (off n : Nat) : Nat := (2 ^ n - 1) * 2 ^ off

/-- Whether an entry overlaps n bytes at a PPA. -/
def WqEntry.overlaps (e : WqEntry) (ppa n : Nat) : Bool :=
  e.line == ppa / 64 * 64 && (e.mask &&& lineMask (ppa % 64) n) != 0

/-- How a load stands against the write queue: forwarded bytes, a wait, or no overlap (R123). -/
inductive Forward where
  | bytes (l : List Byte)
  | wait
  | none
  deriving DecidableEq, Repr

/-- A load of n bytes at a PPA against the queue (R123). -/
def Core.forward (c : Core) (n ppa len : Nat) : Forward :=
  let hits := c.wq.filter fun e => e.overlaps ppa len
  if hits.isEmpty then .none
  else if hits.any fun e => e.ctx != n then .wait
  else
    match hits.getLast? with
    | some e =>
      let m := lineMask (ppa % 64) len
      if (e.mask &&& m) = m then .bytes ((e.data.drop (ppa % 64)).take len) else .wait
    | none => .none

/-- The entries of the write queue (R122). -/
def wqEntries : Nat := 32

/-- Enter a store in the write queue: joined to the youngest entry of its line, or as a new one (R122). None when the
queue is full. -/
def Core.enqueue (c : Core) (n : Nat) (v : BitVec 32) (id ppa : Nat) (data : List Byte) : Option Core :=
  let line := ppa / 64 * 64
  let off := ppa % 64
  let m := lineMask off data.length
  let fill := fun (old : List Byte) => mergeBytes m (List.replicate off 0 ++ data) old
  match (c.wq.filter fun e => e.line == line).getLast? with
  | some e =>
    if e.ctx = n ∧ !e.closed ∧ !e.sent then
      let e' := { e with mask := e.mask ||| m, data := fill e.data, ids := e.ids ++ [id] }
      some { c with wq := c.wq.map fun x => if x = e then e' else x }
    else add line m fill
  | none => add line m fill
where
  /-- A new entry. -/
  add (line m : Nat) (fill : List Byte → List Byte) : Option Core :=
    if wqEntries ≤ c.wq.length then none
    else some { c with wq := c.wq ++ [⟨line, m, fill (List.replicate 64 0), n, v, false, false, [id]⟩] }

/-- Close a context's entries to joins: a FENCE, REL or release stands behind them (R122). -/
def Core.closeWq (c : Core) (n : Nat) : Core :=
  { c with wq := c.wq.map fun e => if e.ctx = n then { e with closed := true } else e }

/-! ## Loads -/

/-- Whether a PPA is a reduction address of a vintage (R121, R136). -/
def State.isReduction (s : State) (p : Part) (v : BitVec 32) (ppa n : Nat) : Bool :=
  !((s.rim (p.chanOf (p.slotOf ppa))).redsIn v ppa n).isEmpty

/-- A load of global or parameter memory at a PPA: from the cache, or asked of the home, the whole line when it is
cacheable (R121). -/
def loadHome (s : State) (c : Ctx) (d : Reg) (ea va : Addr) (ppa size : Nat) (sext cacheable logged : Bool) : Out :=
  let site := s.cur.1
  match s.partAt site with
  | none => .next (s.trap causeXlate ea)
  | some p =>
    let com := spaceOf va == .committed
    let line := ppa / 64 * 64
    match (if cacheable then s.myCore.cachedLine c.vintage com line else none) with
    | some l =>
      let v := extend sext ((l.data.drop (ppa % 64)).take size)
      let t := finishScalar s (c.noteOp .ld) d v 0
      .next (if logged then t.logEv site 7 s.cur.2 v va 0xFFFF 0 [] else t)
    | none =>
      let body : Body := .load (.rim ppa) size com cacheable
      sendRequest s c .ld (some d) (p.slotEp ppa) va true false
        (.load d size sext (if cacheable then some line else none)) body

/-- A load in a parameter window at an offset (R112, R189-R191). `faddr` is reported for the faults of the address. -/
def loadParam (s : State) (c : Ctx) (d : Reg) (w o size : Nat) (sext : Bool) (faddr : Addr) : Out :=
  let site := s.cur.1
  if c.acquiring then .next s
  else
  match s.paramOf site c.vintage c.region w with
  | none => .next (s.trap causeParamUnbound (paramBase w))
  | some (base, bound) =>
    if bound ≤ o then .next (finishScalar s (c.noteOp .ld) d 0 stickyPwoob)
    else
      let va : Addr := BitVec.ofNat 56 (base + o)
      match s.translate site c.vintage (pageOf va) with
      | .bad => .next (s.trap causeXlate faddr)
      | .miss => .next (s.due (.translationMiss site (pageOf va)))
      | .hit m =>
        if !m.rd then .next (s.trap causeProt faddr)
        else loadHome s c d faddr va (m.ppa + va.toNat % 65536) size sext true false

/-- A load of `size` bytes at an effective address of the executing context, to x[d] (R187). `c` is the context after its
pops. -/
def loadAt (s : State) (c : Ctx) (d : Reg) (ea : Addr) (size : Nat) (sext : Bool) : Out :=
  let site := s.cur.1
  let n := s.cur.2
  if !aligned ea size then .next (s.trap causeMisalign ea)
  else
    let a := ownLocal (s.lcn site) ea
    match spaceOf a with
    | .peer | .reserved => .next (s.trap causeXlate ea)
    | .loc =>
      match placeOfLocal a.toNat with
      | .bad => .next (s.trap causeXlate ea)
      | .param w o => loadParam s c d w o size sext ea
      | .priv o =>
        gated s (rangeOf (s.lcn site) n a size) false
          (.next (finishScalar s (c.noteOp .ld) d (extend sext (s.scrRead site (privBase n + o) size)) 0))
      | .win w o =>
        if w ≠ 0 ∧ size < 2 then .next (s.trap causeMisalign ea)
        else gated s (rangeOf (s.lcn site) n a size) false
          (match s.readWindow site c.vintage (.load n) w o size false with
          | .error cause => .next (s.trap cause ea)
          | .ok bytes => .next (finishScalar s (c.noteOp .ld) d (extend sext bytes) 0))
    | .remote =>
      let far := decide (s.ncores site ≤ remoteLcn a)
      match placeOfLocal (remoteLocal a) with
      | .win w _ =>
        if w ≠ 0 ∧ size < 2 then .next (s.trap causeMisalign ea)
        else if far then .next (s.trap causeXlate ea)
        else gated s (rangeOf (s.lcn site) n a size) false
          (sendRequest s c .ld (some d) (remoteLcn a) ea false false (.load d size sext none)
            (.load (.core (remoteLocal a)) size false false))
      | _ => .next (s.trap (if far then causeXlate else causeProt) ea)
    | .global | .committed =>
      match s.checkGlobal site c.vintage c.region a size .load with
      | .fault cause => .next (s.trap cause ea)
      | .miss page => .next (s.due (.translationMiss site page))
      | .ok ppa idx r =>
        gated s (rangeOf (s.lcn site) n a size) false
          (match (if spaceOf a = .committed then .none else s.myCore.forward n ppa size) with
          | .wait => .next s
          | .bytes l => .next (finishScalar s (c.noteOp .ld) d (extend sext l) 0)
          | .none =>
            let red := match s.partAt site with
              | some p => s.isReduction p c.vintage ppa size
              | none => false
            loadHome s c d ea a ppa size sext (s.cacheable site c.vintage a idx r && !red) (r.intent == 3))

/-! ## Stores -/

/-- Perform a store of the executing context at the scratchpad port and go on. -/
def storeHere (s : State) (c : Ctx) (off : Nat) (data : List Byte) : Out :=
  .next ((s.setMe (c.noteOp .st).advance).scrStore s.cur.1 c.vintage off data)

/-- A write to a buffer of the own core (R178, R179): performed for the owner in filling, else delivered. `here` is what
the owner's own write does; `what` what a delivery does. -/
def writeBuffer (s : State) (c : Ctx) (ea : Addr) (off len : Nat) (k : Cnt) (op : OpWhat) (d : Option Reg)
    (what : DelWhat) (value : Bool) (here : Out) : Out :=
  let n := s.cur.2
  match s.myCore.bufAt c.vintage off len with
  | none => .next (s.trap causeProt ea)
  | some (_, b) =>
    if b.ownedBy n then (if b.state = .filling then here else .next (s.trap causeBufstate ea))
    else if !c.canCount k then .next s
    else
      let c1 := c.startOp k ea false true op
      let c2 := match d with
        | some r => c1.await r
        | none => c1
      .next ((s.setMe c2.advance).arriveWrite s.cur.1 c.vintage (.local n c.issued) what value)

/-- A store of bytes at an effective address of the executing context (R188, R278). -/
def storeAt (s : State) (c : Ctx) (ea : Addr) (data : List Byte) : Out :=
  let site := s.cur.1
  let n := s.cur.2
  let size := data.length
  if !aligned ea size then .next (s.trap causeMisalign ea)
  else
    let a := ownLocal (s.lcn site) ea
    match spaceOf a with
    | .peer | .reserved => .next (s.trap causeXlate ea)
    | .loc =>
      match placeOfLocal a.toNat with
      | .bad => .next (s.trap causeXlate ea)
      | .priv o =>
        gated s (rangeOf (s.lcn site) n a size) true (storeHere s c (privBase n + o) data)
      | .win 0 o =>
        gated s (rangeOf (s.lcn site) n a size) true
          (writeBuffer s c ea o size .st .store none (.store o data) false (storeHere s c o data))
      | .win _ _ | .param _ _ => .next (s.trap causeProt ea)
    | .remote =>
      if s.ncores site ≤ remoteLcn a then .next (s.trap causeXlate ea)
      else
        match placeOfLocal (remoteLocal a) with
        | .win 0 o =>
          gated s (rangeOf (s.lcn site) n a size) true
            (sendRequest s c .st none (remoteLcn a) ea false true .store (.store (.core o) data (2 ^ size - 1)))
        | _ => .next (s.trap causeProt ea)
    | .global | .committed =>
      match s.checkGlobal site c.vintage c.region a size .store with
      | .fault cause => .next (s.trap cause ea)
      | .miss page => .next (s.due (.translationMiss site page))
      | .ok ppa _ _ =>
        gated s (rangeOf (s.lcn site) n a size) true
          (if !c.canCount .st then .next s
          else
            match s.myCore.enqueue n c.vintage c.issued ppa data with
            | none => .next s
            | some core =>
              let s1 := (s.setMyCore core).setMe (c.startOp .st ea true true .store).advance
              .next (s1.due (.writeQueueDrain site n)))

/-! ## Blocks -/

/-- The operation number that tags the block reads of a held word. -/
def idBlock : Nat := 2 ^ 40

/-- A block read by a word that waits for it: its bytes, a fault, or the state in which the word waits (R277). -/
inductive Block where
  | bytes (l : List Byte)
  | fault (cause : BitVec 5) (faddr : Addr)
  | wait (s : State)
  deriving DecidableEq, Repr

/-- Ask a home for a block of the executing context's held word. -/
def askBlock (s : State) (c : Ctx) (a : Addr) (dep : Nat) (body : Body) : State :=
  if s.coreCanSend s.cur.1 dep then
    (s.setMe { s.me with hold := .block a }).sendFromCore s.cur.1 dep s.cur.2 idBlock 0 c.vintage body
  else s

/-- A block's bytes with those beyond a parameter window's bound read as zeros (R112, R277). -/
def clipParam (s : State) (c : Ctx) (a : Addr) (l : List Byte) : List Byte :=
  match (if spaceOf a = .loc then placeOfLocal a.toNat else .bad) with
  | .param w o =>
    match s.paramOf s.cur.1 c.vintage c.region w with
    | some (_, bound) => l.take (bound - o) ++ List.replicate (l.length - (bound - o)) 0
    | none => l
  | _ => l

/-- Read `len` bytes at an aligned address under the rules of an LD, as one access (R119, R277, R361). The word is held
while the block is on its way, and re-executed when it has come. -/
def readBlock (s : State) (c : Ctx) (a0 : Addr) (len : Nat) : Block :=
  let site := s.cur.1
  let n := s.cur.2
  match List.find? (fun (f : Addr × Option (BitVec 5) × List Byte) => f.1 == a0) c.fetched with
  | some (_, some cause, _) => .fault cause a0
  | some (_, none, l) => .bytes (clipParam s c a0 l)
  | none =>
    let a := ownLocal (s.lcn site) a0
    match spaceOf a with
    | .peer | .reserved => .fault causeXlate a0
    | .loc =>
      match placeOfLocal a.toNat with
      | .bad => .fault causeXlate a0
      | .priv o => .bytes (s.scrRead site (privBase n + o) len)
      | .param w o =>
        match s.paramOf site c.vintage c.region w with
        | none => .fault causeParamUnbound (paramBase w)
        | some (base, bound) =>
          if bound ≤ o then .bytes (List.replicate len 0)
          else
            let va : Addr := BitVec.ofNat 56 (base + o)
            match s.translate site c.vintage (pageOf va), s.partAt site with
            | .hit m, some p =>
              if !m.rd then .fault causeProt a0
              else .wait (askBlock s c a0 (p.slotEp (m.ppa + va.toNat % 65536))
                (.load (.rim (m.ppa + va.toNat % 65536)) len (spaceOf va == .committed) false))
            | .miss, _ => .wait (s.due (.translationMiss site (pageOf va)))
            | _, _ => .fault causeXlate a0
      | .win w o =>
        if w ≠ 0 then .fault causeProt a0
        else
          match s.readWindow site c.vintage (.load n) 0 o len false with
          | .error cause => .fault cause a0
          | .ok l => .bytes l
    | .remote =>
      if s.ncores site ≤ remoteLcn a then .fault causeXlate a0
      else
        match placeOfLocal (remoteLocal a) with
        | .win 0 _ => .wait (askBlock s c a0 (remoteLcn a) (.load (.core (remoteLocal a)) len false false))
        | _ => .fault causeProt a0
    | .global | .committed =>
      match s.checkGlobal site c.vintage c.region a len .load, s.partAt site with
      | .fault cause, _ => .fault cause a0
      | .miss page, _ => .wait (s.due (.translationMiss site page))
      | .ok ppa _ _, some p =>
        match (if spaceOf a = .committed then .none else s.myCore.forward n ppa len) with
        | .wait => .wait s
        | .bytes l => .bytes l
        | .none => .wait (askBlock s c a0 (p.slotEp ppa) (.load (.rim ppa) len (spaceOf a == .committed) false))
      | .ok _ _ _, none => .fault causeXlate a0

/-- Go on with a block's bytes, or fault, or wait. -/
def withBlock (s : State) (c : Ctx) (a : Addr) (len : Nat) (k : List Byte → Out) : Out :=
  match (match s.me.hold with
    | .block _ => Block.wait s
    | _ => readBlock s c a len) with
  | .bytes l => k l
  | .fault cause faddr => .next (s.trap cause faddr)
  | .wait t => .next t

end Sys2Proof.Machine
end

