-- ==== Sys2Proof/Machine/Atomics.lean ====
section
/-!
DEFINITION. AMO, CAS and RED (R199-R203), ACQ, REL and FENCE (R127-R133, R204-R206) and WAIT (R207).
-/

namespace Sys2Proof.Machine

open Sys2Proof

/-! ## Ordering -/

/-- Whether an outstanding access is performed at a scope (R125): at context scope a global store is, once queued. -/
def OutOp.performedAt (o : OutOp) (sc : Scope) : Bool :=
  match o.what with
  | .store => sc == .cx && o.global
  | _ => false

/-- Whether an operation is an access that counts in ld or st. -/
def OutOp.isAccess (o : OutOp) : Bool := o.cnt == .ld || o.cnt == .st

/-- Whether every earlier access of a context is performed at a scope (R127, R132, R133). -/
def Ctx.allPerformed (c : Ctx) (sc : Scope) : Bool := c.ops.all fun o => !o.isAccess || o.performedAt sc

/-- Whether a release on an object may proceed (R127, R132, R204): every earlier access to a region bound to the object
is performed at the scope, or every earlier access when no region is bound to the word. -/
def State.releaseReady (s : State) (site : Nat) (c : Ctx) (obj : Addr) (sc : Scope) : Bool :=
  match (s.core site).boundTo (s.lcn site) c.vintage (s.regsOf site c) obj with
  | [] => c.allPerformed sc
  | rs => c.ops.all fun o => !o.isAccess || o.performedAt sc || !o.global
      || !rs.any fun r => decide (r.base % 2 ^ 54 ≤ low54 o.addr) && decide (low54 o.addr < r.base % 2 ^ 54 + r.size)

/-- Wait for a release's earlier accesses and raise a posted fault (R117, R127), then go on. -/
def releasing (s : State) (c : Ctx) (obj : Addr) (rel : Option Scope) (k : Out) : Out :=
  match rel with
  | none => k
  | some sc =>
    if !s.releaseReady s.cur.1 c obj sc then .next s
    else
      match c.oldestPosted fun _ => true with
      | some p => .next (s.raisePosted p)
      | none => k

/-! ## Atomics -/

/-- The bits of an atomic (R50). -/
def ASize.bits : ASize → Nat
  | .w32 => 32
  | .w64 => 64

/-- The acquire scope of an ordering field (R38). -/
def Ord.acq (o : Ord) (sc : Scope) : Option Scope :=
  match o with
  | .acq | .ar => some sc
  | _ => none

/-- The release scope of an ordering field (R38). -/
def Ord.rel (o : Ord) (sc : Scope) : Option Scope :=
  match o with
  | .rel | .ar => some sc
  | _ => none

/-- The counter of an atomic (R174): RED and REL in st, ACQ in none. -/
def atomCnt (a : Atom) : Cnt :=
  match a.k with
  | .acq => .no
  | .rel => .st
  | .cas => .ld
  | .amo _ => if a.ret then .ld else .st

/-- A release closes the context's queued writes to joins (R122). -/
def State.closing (s : State) (a : Atom) : State := if a.rel.isSome then s.setMyCore (s.myCore.closeWq s.cur.2) else s

/-- Finish an atomic performed at the own port: the result to x[d] with its sticky bits, and the acquire's side effect
(R128, R130, R200). -/
def finishAtomic (t : State) (c : Ctx) (d : Option Reg) (ea : Addr) (a : Atom) (ans : Answer) : State :=
  let t1 := match d with
    | some r =>
      finishScalar t (c.noteOp .ld) r (extend (AtomK.sext a.k) ans.bytes)
        (ans.sticky ||| (if ans.miss then stickyScopemiss else 0))
    | none => t.setMe ((c.noteOp (atomCnt a)).orSticky (if ans.miss then stickyScopemiss else 0)).advance
  let regs := t.acquireRegs t.cur.1 c ea
  if a.acq.isSome && ans.sync then (t1.closing a).updCore t.cur.1 fun k => k.dropLines c.vintage regs else t1.closing a

/-- The operation of an atomic away from the context, an acquiring one with the regions bound to its object now (R126). -/
def State.atomOp (s : State) (c : Ctx) (d : Option Reg) (ea : Addr) (t : Option Target) (a : Atom) : OpWhat :=
  let regs := if a.acq.isSome then s.acquireRegs s.cur.1 c ea else []
  let ppa := match t with
    | some (.rim q) => some q
    | _ => none
  match a.k, d with
  | .acq, _ => .acq regs
  | .rel, _ => .rel ppa
  | _, some r => .atomic r a ppa regs
  | _, none => .red (ppa.map fun q => (q, a.w))

/-- The issue of a RED that another party performs is a logged event (R137, R483). -/
def State.logRed (s : State) (ea : Addr) (a : Atom) : State :=
  match a.k with
  | .amo _ => if a.ret then s else s.logEv s.cur.1 6 s.cur.2 0 ea 0xFFFF 0 []
  | _ => s

/-- Start an atomic that another party performs; an ACQ holds its context (R204). -/
def sendAtomic (s : State) (c : Ctx) (d : Option Reg) (dep : Nat) (ea : Addr) (global : Bool) (t : Target) (a : Atom) : Out :=
  let k := atomCnt a
  if !c.canCount k || !s.coreCanSend s.cur.1 dep then .next s
  else
    let body : Body := .atomic t a
    match a.k with
    | .acq =>
      .next ((s.setMe { s.me.startOp k ea global false (s.atomOp c d ea (some t) a) with hold := .acq }).sendFromCore s.cur.1 dep
        s.cur.2 c.issued 0 c.vintage body)
    | _ => sendRequest ((s.closing a).logRed ea a) c k d dep ea global true (s.atomOp c d ea (some t) a) body

/-- Whether a queued write of the context to the granule has not drained (R202). -/
def Core.granuleQueued (c : Core) (n ppa : Nat) : Bool := c.wq.any fun e => e.ctx == n && e.line / 256 == ppa / 256

/-- An atomic in a buffer of the own core (R199, R203, R205): the owner performs it after its pending deliveries, an ACQ or REL at
once, since neither is a delivery point (R115); any other party's is delivered. -/
def atomicHere (s : State) (c : Ctx) (d : Option Reg) (ea : Addr) (o : Nat) (a : Atom) : Out :=
  let site := s.cur.1
  let n := s.cur.2
  let deliver := fun (_ : Unit) =>
    let k := atomCnt a
    if !c.canCount k then .next s
    else
      let s1 := match a.k with
        | .acq => s.setMe { s.me.startOp k ea false false (s.atomOp c d ea none a) with hold := .acq }
        | _ =>
          let c1 := c.startOp k ea false true (s.atomOp c d ea none a)
          ((s.setMe (match d with
            | some r => (c1.await r).advance
            | none => c1.advance)).closing a).logRed ea a
      .next (s1.arriveWrite site c.vintage (.local n c.issued) (.atomic o a) a.valued)
  match s.myCore.bufAt c.vintage o (a.w / 8) with
  | none => .next (s.trap causeProt ea)
  | some (_, b) =>
    if b.ownedBy n then
      let perform := fun (s1 : State) =>
        let r := s1.atomicAtScr site c.vintage o a
        Host.Outcome.next (finishAtomic r.1 ((s1.ctx site n).withPops c) d ea a r.2)
      if b.state ≠ .filling then .next (s.trap causeBufstate ea)
      else match a.k with
        | .acq | .rel => perform s
        | .amo _ | .cas => if s.pointHeld site n then .next s else perform (s.deliveryPoint site n)
    else deliver ()

/-- An atomic of the executing context at an address (R199-R205). `obj` is set for ACQ and REL, which take no private
window. R138 refuses an AMO, a CAS and a RED other than FADD at a reduction address; it does not name ACQ and REL, which the model
refuses there with PROT too (DESIGN CHOICE, log entry 68). A release waits for its accesses and raises a posted fault after the
alignment of its own address is checked and before the rest of it is (DESIGN CHOICE, log entry 68). -/
def atomicAt (s : State) (c : Ctx) (d : Option Reg) (ea : Addr) (a : Atom) (obj : Bool) : Out :=
  let site := s.cur.1
  let n := s.cur.2
  let size := a.w / 8
  if !aligned ea size then .next (s.trap causeMisalign ea)
  else releasing s c ea a.rel <|
    let x := ownLocal (s.lcn site) ea
    let r := rangeOf (s.lcn site) n x size
    match spaceOf x with
    | .peer | .reserved => .next (s.trap causeXlate ea)
    | .loc =>
      match placeOfLocal x.toNat with
      | .bad => .next (s.trap causeXlate ea)
      | .priv o =>
        if obj then .next (s.trap causeProt ea)
        else gated s r true
          (let t := s.atomicAtScr site c.vintage (privBase n + o) { a with acq := none, rel := none }
           .next (finishAtomic t.1 ((t.1.ctx site n).withPops c) d ea a { t.2 with sync := false }))
      | .win 0 o => gated s r true (atomicHere s c d ea o a)
      | .win _ _ | .param _ _ => .next (s.trap causeProt ea)
    | .remote =>
      if s.ncores site ≤ remoteLcn x then .next (s.trap causeXlate ea)
      else
        match placeOfLocal (remoteLocal x) with
        | .win 0 o => gated s r true (sendAtomic s c d (remoteLcn x) ea false (.core o) a)
        | _ => .next (s.trap causeProt ea)
    | .global | .committed =>
      let isRed := match a.k with
        | .amo _ => !a.ret
        | _ => false
      match s.checkGlobal site c.vintage c.region x size (if isRed then .red else .atom), s.partAt site with
      | .fault cause, _ => .next (s.trap cause ea)
      | .miss page, _ => .next (s.due (.translationMiss site page))
      | .ok ppa _ _, some p =>
        let folds := isRed && a.k == .amo .fadd
        if s.isReduction p c.vintage ppa size && !folds then .next (s.trap causeProt ea)
        else gated s r true
          (if s.myCore.granuleQueued n ppa then .next s
           else sendAtomic s c d (p.slotEp ppa) ea true (.rim ppa) a)
      | .ok _ _ _, none => .next (s.trap causeXlate ea)

/-- The atomic that a word of the executing context names. -/
def State.atom (s : State) (k : AtomK) (sz : ASize) (b cmp : Word) (ret : Bool) (ord : Ord) (sc : Scope) : Atom :=
  ⟨k, ASize.bits sz, b, cmp, ret, Ord.acq ord sc, Ord.rel ord sc, s.lcn s.cur.1, s.cur.2⟩

/-- AMO (R199, R200). -/
def execAmo (d a b : Reg) (aop : AOp) (sz : ASize) (ord : Ord) (scope : Scope) (s : State) : Out :=
  issueWord s noHints [a, b] [d] true false false fun i =>
    counting s i.c .ld <| atomicAt s i.c (some d) ((i.v 0).setWidth 56) (s.atom (.amo aop) sz (i.v 1) 0 true ord scope) false

/-- CAS (R199, R200): x[d] is read as the third operand. -/
def execCas (d a b : Reg) (sz : ASize) (ord : Ord) (scope : Scope) (s : State) : Out :=
  issueWord s noHints [a, b, d] [d] true false false fun i =>
    counting s i.c .ld <| atomicAt s i.c (some d) ((i.v 0).setWidth 56) (s.atom .cas sz (i.v 1) (i.v 2) true ord scope) false

/-- RED (R199, R201). -/
def execRed (a b : Reg) (aop : AOp) (sz : ASize) (ord : Ord) (scope : Scope) (s : State) : Out :=
  issueWord s noHints [a, b] [] true false false fun i =>
    counting s i.c .st <| atomicAt s i.c none ((i.v 0).setWidth 56) (s.atom (.amo aop) sz (i.v 1) 0 false ord scope) false

/-! ## ACQ, REL, FENCE, WAIT -/

/-- ACQ (R128, R204-R206): held until its read returns; a refusal faults BUFSTATE here. A posted fault is raised before its address is
checked at all: R206 gives no order between the two (DESIGN CHOICE, log entry 68). -/
def execAcq (a : Reg) (scope : Scope) (s : State) : Out :=
  issueWord s noHints [a] [] true false false fun i =>
    let ea : Addr := (i.v 0).setWidth 56
    match s.me.hold with
    | .acq => .next s
    | .acqDone (some cause) => .next ((s.setMe { s.me with hold := .none }).trap cause ea)
    | .acqDone none =>
      match i.c.oldestPosted fun _ => true with
      | some p => .next (s.raisePosted p)
      | none => .next (s.setMe i.c.advance)
    | _ =>
      match i.c.oldestPosted fun _ => true with
      | some p => .next (s.raisePosted p)
      | none => atomicAt s i.c none ea (s.atom .acq .w64 0 0 false .acq scope) true

/-- REL (R127, R204-R206). -/
def execRel (a : Reg) (scope : Scope) (s : State) : Out :=
  issueWord s noHints [a] [] true false false fun i =>
    counting s i.c .st <| atomicAt s i.c none ((i.v 0).setWidth 56) (s.atom .rel .w64 0 0 false .rel scope) true

/-- FENCE (R133, R206). -/
def execFence (scope : Scope) (s : State) : Out :=
  issueWord s noHints [] [] true false false fun i =>
    if !i.c.allPerformed scope || i.c.acquiring then .next s
    else
      match i.c.oldestPosted fun _ => true with
      | some p => .next (s.raisePosted p)
      | none => .next ((s.setMyCore (s.myCore.closeWq s.cur.2)).setMe i.c.advance)

/-- Whether a WAIT with an operand for a counter spares an operation: it is among the youngest n (R207). -/
def Ctx.spared (c : Ctx) (k : Cnt) (n id : Nat) : Bool :=
  ((c.recent.filter fun e => e.1 == k).take n).any fun e => e.2 == id

/-- WAIT (R207, R374): its four conditions at once, then the deliveries, the oldest posted fault that it counts, and the
aborted copies. Behind a stopped tile command it raises that command's fault (R337). -/
def execWait (ld st cp tl : BitVec 4) (s : State) : Out :=
  issueWord s noHints [] [] true false false fun i =>
    let c := i.c
    if !(decide (c.ld ≤ ld.toNat) && decide (c.st ≤ st.toNat)) then .next s
    else if tl.toNat < c.tl then .next s.drawWait
    else if cp.toNat < c.cp then .next (s.setMe { s.me with stall := some (.cp cp.toNat) })
    else if s.pointHeld s.cur.1 s.cur.2 then .next s
    else
      let s1 := s.deliveryPoint s.cur.1 s.cur.2
      let n := fun (k : Cnt) => match k with
        | .ld => ld.toNat
        | .st => st.toNat
        | .cp => cp.toNat
        | .tl => tl.toNat
        | .no => 0
      match s1.me.oldestPosted fun p => !s1.me.spared p.cnt (n p.cnt) p.id with
      | some p => .next (s1.raisePosted p)
      | none =>
        if s1.me.abortMask ≠ 0 then .next ((s1.setMe s1.me.abortRaised).trap causeCopyAbort 0)
        else .next (s1.setMe s1.me.advance)

end Sys2Proof.Machine
end

