-- ==== Sys2Proof/Machine/Buffers.lean ====
section
/-!
DEFINITION. The buffer instructions (R176, R177, R181-R183) and the launch engine's check of a BDECL (R181, R447).
-/

namespace Sys2Proof.Machine

open Sys2Proof

/-- The code of a buffer state (R176). -/
def BState.code : BState → Nat
  | .undeclared => 0
  | .empty => 1
  | .filling => 2
  | .full => 3
  | .draining => 4

/-- The word of BSTAT (R176). -/
def Buf.word (b : Buf) : Word :=
  BitVec.ofNat 64 (b.state.code + 2 ^ 3 * b.owner + 2 ^ 16 * (b.size / 64) + 2 ^ 32 * (b.base / 64))

/-- The raw-window address of a buffer's base. -/
def Buf.rawBase (b : Buf) : Addr := BitVec.ofNat 56 (0x10000000 + b.base)

/-- Whether work of a core's engines still writes in a buffer for its owner (R131, R181, R284, R366). -/
def State.bufWriting (s : State) (site : Nat) (b : Buf) : Bool :=
  let c := s.core site
  let lo := b.base
  let hi := b.base + b.size
  let lcn := s.lcn site
  c.vq.any (fun e => spansMeet e.writes lo hi) || c.tq.any (fun t => spansMeet t.writes lo hi)
  || c.xfers.any (fun x => x.2.kind != .rstream
      && ((x.2.dst.range lcn x.2.ctx).map fun r => r.meets ⟨1 + lcn, lo, hi⟩).getD false)
  || s.openGate site lo hi || c.opens.any fun o => decide (o.lo < hi) && decide (lo < o.hi)

/-- Whether work of a core's engines still reads a buffer (R181, R284, R326). -/
def State.bufReading (s : State) (site : Nat) (b : Buf) : Bool :=
  let c := s.core site
  let lo := b.base
  let hi := b.base + b.size
  let lcn := s.lcn site
  c.vq.any (fun e => spansMeet e.reads lo hi) || c.tq.any (fun t => spansMeet t.reads lo hi)
  || c.xfers.any fun x => x.2.unread lcn ⟨1 + lcn, lo, hi⟩

/-- Whether another context's BDECL of a buffer has issued and is not yet answered: later words of the buffer follow it, in issue
order (R183). -/
def Core.declaring (c : Core) (v : BitVec 32) (buf n : Nat) : Bool :=
  (List.range 8).any fun m => m != n && (c.ctx m).vintage == v &&
    match (c.ctx m).hold with
    | .bdecl b _ _ => b == buf
    | _ => false

/-- A transition of a buffer by the executing context (R181-R183): a state or party it does not accept faults BUFSTATE;
the pending deliveries come first; then it waits while `busy`. -/
def transition (s : State) (buf : BitVec 6) (src dst : BState) (owner : Bool) (take : Bool) (busy : State → Buf → Bool) : Out :=
  issueWord s noHints [] [] true false false fun i =>
    let site := s.cur.1
    let n := s.cur.2
    let v := i.c.vintage
    let b := s.myCore.buf v buf.toNat
    if s.myCore.declaring v buf.toNat n then .next s
    else if b.state ≠ src || (owner && !b.ownedBy n) then .next (s.trap causeBufstate b.rawBase)
    else if s.pointHeld site n then .next s
    else
      let s1 := s.deliveryPoint site n
      if busy s1 b then .next s1
      else
        let b' := { b with state := dst, owner := if take then n else b.owner, held := none }
        let s2 := s1.updCore site fun c => c.setBuf v buf.toNat b'
        .next ((s2.setMe s2.me.advance).logEv site 5 n b'.word b'.rawBase 0xFFFF 0 [])

/-- BFILL (R181). -/
def execBfill (buf : BitVec 6) (s : State) : Out := transition s buf .empty .filling false true fun _ _ => false

/-- BFULL (R131, R181, R182). -/
def execBfull (buf : BitVec 6) (s : State) : Out :=
  transition s buf .filling .full true false fun t b => t.bufWriting s.cur.1 b

/-- BDRAIN (R181). -/
def execBdrain (buf : BitVec 6) (s : State) : Out := transition s buf .full .draining false true fun _ _ => false

/-- BEMPTY (R181). -/
def execBempty (buf : BitVec 6) (s : State) : Out :=
  transition s buf .draining .empty true false fun t b => t.bufReading s.cur.1 b

/-- BSTAT (R176): logged (R182). -/
def execBstat (d : Reg) (buf : BitVec 6) (s : State) : Out :=
  issueWord s noHints [] [d] true false false fun i =>
    let b := s.myCore.buf i.c.vintage buf.toNat
    if s.myCore.declaring i.c.vintage buf.toNat s.cur.2 then .next s
    else .next ((finishScalar s i.c d b.word 0).logEv s.cur.1 5 s.cur.2 b.word b.rawBase 0xFFFF 0 [])

/-! ## BDECL -/

/-- Whether two ranges of offsets meet. -/
def rangesMeet (a n b m : Nat) : Bool := decide (a < b + m) && decide (b < a + n)

/-- Whether a range breaks the limits of R177 on a core: alignment, size, place, or another declared buffer of any
launch. -/
def Core.badRange (c : Core) (base size : Nat) : Bool :=
  decide (base % 64 ≠ 0) || decide (size % 64 ≠ 0) || decide (size < 64) || decide (0x2E0000 < base + size)
  || c.bufs.any fun t => t.2.any fun e => e.2.state != .undeclared && rangesMeet base size e.2.base e.2.size

/-- Whether a launch is admitted and not completed (R447). -/
def Launch.admitted (l : Launch) : Bool :=
  match l.phase with
  | .waiting | .unlocking => false
  | _ => true

/-- Whether another launch of the partition holds a range declared: in its declaration table, or by BDECL on any core
(R181, R447). -/
def Part.declaredElsewhere (p : Part) (v : BitVec 32) (base size : Nat) : Bool :=
  p.launches.any fun l => l.vint != v && l.admitted
    && (l.bufDecl.any (fun e => rangesMeet base size e.2.1 e.2.2)
      || l.bufDyn.any fun e => rangesMeet base size e.2.2.1 e.2.2.2)

/-- BDECL (R181): its context is held while the launch engine of the lead band checks and records the range, and the entry changes as
it does. Where both the state of the entry and the range are refused, BUFSTATE comes before PROT: R181 gives no order (DESIGN CHOICE,
log entry 68). -/
def execBdecl (a b : Reg) (buf : BitVec 6) (s : State) : Out :=
  issueWord s noHints [a, b] [] true false false fun i =>
    let site := s.cur.1
    let n := s.cur.2
    let v := i.c.vintage
    let e := s.myCore.buf v buf.toNat
    let base := (i.v 0).toNat
    let size := (i.v 1).toNat
    let faddr : Addr := 0x10000000 + (i.v 0).setWidth 56
    match s.me.hold with
    | .bdecl .. => .next s
    | .bdeclDone true => .next (s.setMe i.c.advance)
    | .bdeclDone false => .next ((s.setMe { s.me with hold := .none }).trap causeProt faddr)
    | _ =>
      if s.myCore.declaring v buf.toNat n then .next s
      else if e.state ≠ (if size = 0 then .empty else .undeclared) then .next (s.trap causeBufstate e.rawBase)
      else if size ≠ 0 ∧ s.myCore.badRange base size = true then .next (s.trap causeProt faddr)
      else .next ((s.setMe { s.me with hold := .bdecl buf.toNat base size }).due (.bdeclReport site n))

/-- An entry takes the state that a BDECL gives it, logged (R181-R183). -/
def State.declareBuf (s : State) (site n : Nat) (v : BitVec 32) (buf : Nat) (x : Buf) : State :=
  (s.updCore site fun c => c.setBuf v buf x).logEv site 5 n x.word x.rawBase 0xFFFF 0 []

/-- BDECL_REPORT (R181, R183, R447): the launch engine of the lead band checks a range against the other launches, and the core's
own tables once more; it records the range, or that one is given up, and the entry changes with it. -/
def execBdeclReport (site ctx : Nat) (s : State) : Out :=
  match (s.ctx site ctx).hold, s.partAt site with
  | .bdecl buf base size, some p =>
    let v := (s.ctx site ctx).vintage
    let answer := fun (t : State) (ok : Bool) => t.updCtx site ctx fun c => { c with hold := .bdeclDone ok }
    if size = 0 then
      let keep := fun (x : Nat × Nat × Nat × Nat) => !(x.1 == site && x.2.1 == buf)
      let p1 := p.updLaunch v fun l => { l with bufDyn := l.bufDyn.filter keep }
      .next (answer (((s.setPart p.lead p1).examine p.lead).declareBuf site ctx v buf Buf.none) true)
    else if p.declaredElsewhere v base size || (s.core site).badRange base size then .next (answer s false)
    else
      let p1 := p.updLaunch v fun l => { l with bufDyn := l.bufDyn ++ [(site, buf, base, size)] }
      .next (answer ((s.setPart p.lead p1).declareBuf site ctx v buf ⟨.empty, 0, size, base, true, none⟩) true)
  | _, _ => .next s

end Sys2Proof.Machine
end

