-- ==== Sys2Proof/Machine/Issue.lean ====
section
/-!
DEFINITION. The choice of the word that issues (R142, R221, R225) and what a fetch gives to execute (R74, R166).
-/

namespace Sys2Proof.Machine

open Sys2Proof

/-- The instruction that a fetch gives: its word's, or the two steps that stand for a word that is none (R74, R166). -/
def instrOfFetch : Fetch → Instr
  | .fault c => .instructionFetchFault c
  | .word w =>
    match decodeWord w with
    | .ok i => i
    | .error _ => .illegalEncoding

/-- Whether a core issues words: it does not stand still and waits for no room of its log (R478, R485). -/
def State.coreIssues (s : State) (site : Nat) : Bool := !(s.core site).paused && !s.logHold site

/-- The state in which a word of a context is executed: the context is the current one. -/
def State.slot (s : State) (site n : Nat) : State := { s with cur := (site, n) }

/-- Whether the word of a context has issued: not, when its context stands at it as before and no more is done than to note why it
cannot issue (R142, R225). -/
def Ctx.hasIssued (c d : Ctx) : Bool := !(d.pc == c.pc && d.hold == c.hold && d.occ == c.occ && d.tact == c.tact)

/-- The context whose word issued is its core's last to issue (R225). -/
def State.tookSlot (before t : State) (site n : Nat) : State :=
  if (before.ctx site n).hasIssued (t.ctx site n) then t.updCore site fun c => { c with last := n } else t

/-- The contexts of a core in the order of R225: an open word group, then by priority, then cyclically after the last. -/
def Core.order (c : Core) : List Nat :=
  let ns := ((List.range 8).map fun i => (c.last + 1 + i) % 8).filter fun n => (c.ctx n).issues
  let open' := ns.filter fun n => (c.ctx n).inGroup
  if open'.isEmpty then sortBy (fun a b => decide ((c.ctx b).prio.toNat ≤ (c.ctx a).prio.toNat)) ns else open'

/-- The issue slots of the module: the cores in cyclic order after the one that issued last, each core's contexts by
R225. -/
def State.slots (s : State) : List (Nat × Nat) :=
  let sites := (s.cores.map (·.1)).filter s.coreIssues
  let later := sites.filter fun x => decide (s.cur.1 < x)
  let rest := sites.filter fun x => decide (x ≤ s.cur.1)
  (later ++ rest).flatMap fun site => ((s.core site).order).map fun n => (site, n)

/-- What a word's pops and pushes set going: a read stream may refill, a write stream drains (R384). -/
def State.moveStream (s : State) (site n i : Nat) : State :=
  let c := s.ctx site n
  let ch := (c.strm[i]?.getD StreamReg.off).ch
  match c.smode[i]?.getD .off with
  | .off => s
  | .read => s.due (.streamRefill site ch)
  | .write => s.due (.copyRequest site ch)

/-- A word fetched from a granule of the lost list ends its launch (R519). -/
def State.fetchedLost (t : State) (site : Nat) (c : Ctx) : State :=
  match t.partAt site with
  | none => t
  | some p =>
    if p.lost.isEmpty then t
    else
      match (t.core site).cached c.vintage (pageOf c.pc) with
      | some m => t.killLost p c.vintage (m.ppa + c.pc.toNat % 65536) 4
      | none => t

/-- A boundary that waited for the end of a word group is due once the group has ended (R67). -/
def State.afterGroup (before t : State) (site n : Nat) : State :=
  if (before.ctx site n).inGroup && !(t.ctx site n).inGroup then
    match t.keepAt site with
    | some (_, _, k) => if k.want then t.due (.checkpointBoundary site) else t
    | none => t
  else t

/-- A state after an issue slot of a context: the context is the last to issue, its streams move when a word popped or pushed, a word from a lost granule ends
its launch, and a boundary goes on behind a word group. -/
def State.afterIssue (before t : State) (site n : Nat) : State :=
  let u := before.afterGroup ((before.tookSlot t site n).fetchedLost site (before.ctx site n)) site n
  if (t.ctx site n).spos = (before.ctx site n).spos then u
  else (List.range 8).foldl (fun u i => u.moveStream site n i) u

/-- A clock after n fabric cycles at a rate in units of 2^-32 ns (R533). -/
def Clock.run (c : Clock) (n rate : Nat) : Clock :=
  let t := c.ns * 2 ^ 32 + c.frac + n * rate
  ⟨t / 2 ^ 32, t % 2 ^ 32⟩

/-- The state at the start of a step: the counter of free values, the fabric cycle count (R396) and the lead PTP copy (R533)
advance, and the single-bit errors that scratchpad reads meet are due to be counted (R186). -/
def State.begin (s : State) : State :=
  let n := Config.cyclesOf s.tick
  let m := s.module
  { s with
    tick := s.tick + 1, module := { m with fc := m.fc + n, clock := m.clock.run n m.rate.toNat },
    pending := s.pending ++ (Config.readErrors s.tick).map Due.readError }

end Sys2Proof.Machine
end

