-- ==== Sys2Proof/Machine/Messages.lean ====
section
/-!
DEFINITION. Active messages: GETA, PUTA, RECV and TBIND (R192-R198).
-/

namespace Sys2Proof.Machine

open Sys2Proof

/-- The pieces of n bytes at a global address, cut at granule boundaries, since each granule has its own home (R511). A
message of at most 256 bytes has one or two. R194 reads a source at its home in one piece and does not say how a range of two homes is
read: each part of it is read in one piece at its own (DESIGN CHOICE, log entry 69). -/
def granulePieces (a : Addr) (n : Nat) : List (Addr × Nat) :=
  let room := 256 - a.toNat % 256
  if n ≤ room then [(a, n)] else [(a, room), (a + BitVec.ofNat 56 room, n - room)]

/-- The remote side of a GETA or PUTA (R194, R195): the pieces with their endpoints and targets, a fault, or a wait. -/
inductive Far where
  | ok (l : List (Nat × Target × Nat))
  | fault (cause : BitVec 5)
  | wait (s : State)
  deriving DecidableEq, Repr

/-- Check the pieces of a global range and place each at its home. -/
def farGlobal (s : State) (c : Ctx) (acc : GAcc) : List (Addr × Nat) → Far
  | [] => .ok []
  | (a, n) :: t =>
    match s.checkGlobal s.cur.1 c.vintage c.region a n acc, s.partAt s.cur.1 with
    | .fault cause, _ => .fault cause
    | .miss page, _ => .wait (s.due (.translationMiss s.cur.1 page))
    | .ok _ _ _, none => .fault causeXlate
    | .ok ppa _ _, some p =>
      if queued s.myCore s.cur.2 ppa then .wait s
      else
        match farGlobal s c acc t with
        | .ok l => .ok ((p.slotEp ppa, .rim ppa, n) :: l)
        | r => r
where
  /-- Whether a queued write of the context to the granule has not drained. -/
  queued (c : Core) (n ppa : Nat) : Bool := c.wq.any fun e => e.ctx == n && e.line / 256 == ppa / 256

/-- The remote side at an address: a scratchpad of any LCN, the own one included, or global memory (R113, R194, R195). A
PUTA writes only through the raw window. -/
def farSide (s : State) (c : Ctx) (a : Addr) (n : Nat) (write : Bool) : Far :=
  match spaceOf a with
  | .loc => .fault causeProt
  | .peer | .reserved => .fault causeXlate
  | .remote =>
    if s.ncores s.cur.1 ≤ remoteLcn a then .fault causeXlate
    else
      match placeOfLocal (remoteLocal a) with
      | .win w o =>
        if write then (if w = 0 then .ok [(remoteLcn a, .core o, n)] else .fault causeProt)
        else .ok [(remoteLcn a, .core (remoteLocal a), n)]
      | _ => .fault causeProt
  | .global | .committed => farGlobal s c (if write then .store else .load) (granulePieces a n)

/-- The scratchpad offset of a GETA's local destination: the private window, or a declared buffer through the raw window
(R180, R194). A destination elsewhere faults XLATE where nothing is mapped (R113, R116, R119), else PROT. -/
def nearDest (s : State) (c : Ctx) (b : Addr) (n : Nat) : Except (BitVec 5) Nat :=
  match spaceOf b with
  | .loc =>
    match placeOfLocal b.toNat with
    | .priv o => if o + n ≤ 0x4000 then .ok (privBase s.cur.2 + o) else .error causeProt
    | .win 0 o => if (s.myCore.bufAt c.vintage o n).isSome then .ok o else .error causeProt
    | .bad => .error causeXlate
    | _ => .error causeProt
  | .peer | .reserved => .error causeXlate
  | .remote => .error (if s.ncores s.cur.1 ≤ remoteLcn b then causeXlate else causeProt)
  | .global | .committed =>
    match s.translate s.cur.1 c.vintage (pageOf b) with
    | .bad => .error causeXlate
    | .hit _ | .miss => .error causeProt

/-- Send the requests of a GETA or PUTA, numbered from 0 in their tag field, as one counted operation (R174). -/
def sendPieces (s : State) (site n id : Nat) (v : BitVec 32) : Nat → List (Nat × Body) → State
  | _, [] => s
  | k, (dep, body) :: t => sendPieces (s.sendFromCore site dep n id k v body) site n id v (k + 1) t

/-- Issue a GETA or PUTA whose pieces are known: the operation, its tag's issue count and its requests. -/
def startMessage (s : State) (c : Ctx) (k : Cnt) (tag : BitVec 5) (ea : Addr) (global write : Bool)
    (what : BitVec 32 → OpWhat) (l : List (Nat × Body)) : Out :=
  let site := s.cur.1
  if !c.canCount k || l.any (fun e => !s.coreCanSend site e.1) then .next s
  else
    let core := s.myCore
    let seq := core.tagCnt[tag.toNat]?.getD 0
    let s1 := s.setMyCore { core with tagCnt := core.tagCnt.setIfInBounds tag.toNat (seq + 1) }
    .next (sendPieces (s1.setMe (c.startOp k ea global write (what seq)).advance) site s.cur.2 c.issued c.vintage 0 l)

/-- GETA (R194, R196): 8·(len+1) bytes from a remote source to a local destination. Where more than one of its checks fails, both
alignments come first, then the source, then the destination: R119 orders the faults of one address only (DESIGN CHOICE, log entry
68). Both ranges wait for the spans of earlier engine work (R285, R312). -/
def execGeta (tag : BitVec 5) (a b : Reg) (len : BitVec 5) (s : State) : Out :=
  issueWord s noHints [a, b] [] true false false fun i =>
    let src : Addr := (i.v 0).setWidth 56
    let dst : Addr := ownLocal (s.lcn s.cur.1) ((i.v 1).setWidth 56)
    let n := 8 * (len.toNat + 1)
    counting s i.c .ld <|
      if !aligned src 8 then .next (s.trap causeMisalign src)
      else if !aligned dst 8 then .next (s.trap causeMisalign ((i.v 1).setWidth 56))
      else
        match farSide s i.c src n false with
        | .fault cause => .next (s.trap cause src)
        | .wait t => .next t
        | .ok l =>
          match nearDest s i.c dst n with
          | .error cause => .next (s.trap cause ((i.v 1).setWidth 56))
          | .ok off =>
            let reqs := l.map fun e => (e.1, Body.geta e.2.1 e.2.2)
            gated s (rangeOf (s.lcn s.cur.1) s.cur.2 src n) false <|
              gated s (rangeOf (s.lcn s.cur.1) s.cur.2 dst n) true
                (startMessage s i.c .ld tag src (spaceOf src == .global || spaceOf src == .committed) false
                  (fun seq => .geta tag.toNat len.toNat seq off reqs.length [] none) reqs)

/-- The pieces of a PUTA with the bytes that each carries. -/
def putaReqs : List (Nat × Target × Nat) → List Byte → List (Nat × Body)
  | [], _ => []
  | (dep, t, n) :: rest, data => (dep, .puta t (data.take n)) :: putaReqs rest (data.drop n)

/-- PUTA (R195, R196): 8·(len+1) bytes of a local source, read at issue with load rules, to a remote destination. Where more than one
of its checks fails, both alignments come first, then the source, then the destination (DESIGN CHOICE, log entry 68). -/
def execPuta (tag : BitVec 5) (a b : Reg) (len : BitVec 5) (s : State) : Out :=
  issueWord s noHints [a, b] [] true false false fun i =>
    let dst : Addr := (i.v 0).setWidth 56
    let srcEa : Addr := (i.v 1).setWidth 56
    let src : Addr := ownLocal (s.lcn s.cur.1) srcEa
    let n := 8 * (len.toNat + 1)
    let site := s.cur.1
    let go := fun (data : List Byte) =>
      match farSide s i.c dst n true with
      | .fault cause => Host.Outcome.next (s.trap cause dst)
      | .wait t => .next t
      | .ok l =>
        let reqs := putaReqs l data
        gated s (rangeOf (s.lcn site) s.cur.2 dst n) true
          (startMessage s i.c .st tag dst (spaceOf dst == .global) true
            (fun seq => .puta tag.toNat len.toNat seq reqs.length none) reqs)
    counting s i.c .st <|
      if !aligned dst 8 then .next (s.trap causeMisalign dst)
      else if !aligned src 8 then .next (s.trap causeMisalign srcEa)
      else if spaceOf src ≠ .loc then
        .next (s.trap (match spaceOf src with
          | .peer | .reserved => causeXlate
          | _ => causeProt) srcEa)
      else
        match placeOfLocal src.toNat with
        | .bad => .next (s.trap causeXlate srcEa)
        | .priv o =>
          if o + n ≤ 0x4000 then
            gated s (rangeOf (s.lcn site) s.cur.2 src n) false (go (s.scrRead site (privBase s.cur.2 + o) n))
          else .next (s.trap causeProt srcEa)
        | .win w o =>
          gated s (rangeOf (s.lcn site) s.cur.2 src n) false
            (match s.readWindow site i.c.vintage (.load s.cur.2) w o n false with
            | .error cause => .next (s.trap cause srcEa)
            | .ok data => go data)
        | .param .. => withBlock s i.c srcEa n go

/-- Change an operation of a context in place. -/
def Ctx.updOp (c : Ctx) (id : Nat) (f : OpWhat → OpWhat) : Ctx :=
  { c with ops := c.ops.map fun o => if o.id = id then { o with what := f o.what } else o }

/-- The pieces of an operation's data in the order of their numbers. -/
def joinPieces (got : List (Nat × List Byte)) : List Byte :=
  (sortBy (fun (a b : Nat × List Byte) => decide (a.1 ≤ b.1)) got).flatMap (·.2)

/-- One answer of a GETA or PUTA (R194-R196), with the sticky bits of the folds that a GETA read (R138): the last one makes a
GETA's data a delivery to the issuing context, and completes a PUTA. -/
def State.messageAnswer (s : State) (site n id k : Nat) (bytes : List Byte) (sticky : Word) (refused : Option (BitVec 5)) : State :=
  let c := (s.ctx site n).orSticky sticky
  match List.find? (fun (o : OutOp) => o.id == id) c.ops with
  | none => s
  | some o =>
    match o.what with
    | .geta tag len seq dst left got bad =>
      let got1 := got ++ [(k, bytes)]
      let bad1 := bad.or refused
      if 1 < left then s.setCtx site n (c.updOp id fun _ => .geta tag len seq dst (left - 1) got1 bad1)
      else
        let data := if bad1.isSome then List.replicate (8 * (len + 1)) 0 else joinPieces got1
        (s.setCtx site n c).deliver site none ⟨n, c.vintage, .local n id, .getaData dst data id bad1⟩
    | .puta tag len seq left bad =>
      let bad1 := bad.or refused
      if 1 < left then s.setCtx site n (c.updOp id fun _ => .puta tag len seq (left - 1) bad1)
      else s.complete site n id { refused := bad1 }
    | _ => s

/-- RECV (R197): after a delivery point, the oldest reply of a tag, or 0. Logged. -/
def execRecv (d : Reg) (tag : BitVec 5) (s : State) : Out :=
  issueWord s noHints [] [d] true false false fun _ =>
    let site := s.cur.1
    if s.pointHeld site s.cur.2 then .next s
    else
      let s1 := s.deliveryPoint site s.cur.2
      let core := s1.core site
      match List.find? (fun (r : Reply) => r.tag == tag.toNat) core.replies with
      | none => .next ((finishScalar s1 s1.me d 0 0).logEv site 9 s.cur.2 0 0 0xFFFF 0 [])
      | some r =>
        let s2 := (s1.setCore site { core with replies := core.replies.erase r }).joinReplies site core.repliesWait.length
        .next ((finishScalar s2 s2.me d r.word 0).logEv site 9 s.cur.2 r.word 0 0xFFFF 0 [])

/-- Where a record address of the executing context leads, by the checks of R210 and R119 with the alignment of R236; the
fault's cause otherwise, or a translation to wait for. -/
inductive RecAddr where
  | home (h : RecHome) (canon : Addr)
  | fault (cause : BitVec 5)
  | miss (page : Nat)
  deriving DecidableEq, Repr

/-- Check a record address (R119, R210, R236) and give its canonical form (R218). -/
def State.recAddr (s : State) (c : Ctx) (ea : Addr) : RecAddr :=
  let site := s.cur.1
  let lcn := s.lcn site
  let a := ownLocal lcn ea
  if !aligned a 64 then .fault causeMisalign
  else
    match spaceOf a with
    | .peer | .reserved => .fault causeXlate
    | .loc =>
      match placeOfLocal a.toNat with
      | .bad => .fault causeXlate
      | .win 0 o =>
        if (s.myCore.bufAt c.vintage o 64).isSome then .home (.here o) (scrRecAddr lcn o) else .fault causeProt
      | _ => .fault causeProt
    | .remote =>
      if s.ncores site ≤ remoteLcn a then .fault causeXlate
      else
        match placeOfLocal (remoteLocal a) with
        | .win 0 o => .home (.core (remoteLcn a) o) a
        | _ => .fault causeProt
    | .global | .committed =>
      match s.checkGlobal site c.vintage c.region a 64 .atom with
      | .fault cause => .fault cause
      | .miss page => .miss page
      | .ok ppa _ _ => .home (.rim ppa) a

/-- TBIND (R198): bind a tag to a record, or unbind it. Logged. -/
def execTbind (tag : BitVec 5) (a : Reg) (s : State) : Out :=
  issueWord s noHints [a] [] true false false fun i =>
    let site := s.cur.1
    let ea : Addr := (i.v 0).setWidth 56
    let bind := fun (b : Option TagBind) =>
      let core := s.myCore
      let s1 := (s.setMyCore { core with tagBind := core.tagBind.setIfInBounds tag.toNat b }).setMe i.c.advance
      Host.Outcome.next (s1.logEv site 9 s.cur.2 (i.v 0) 0 0xFFFF 0 [])
    if ea = 0 then bind none
    else
      match s.recAddr i.c ea with
      | .fault cause => .next (s.trap cause ea)
      | .miss page => .next (s.due (.translationMiss site page))
      | .home _ canon => bind (some ⟨canon, i.c.vintage, s.cur.2, i.c.region⟩)

end Sys2Proof.Machine
end

