-- ==== Sys2Proof/Machine/Release.lean ====
section
/-!
DEFINITION. What a context gives up and takes up with a task: its tiles (R309), streams (R385), copies (R214) and, with a
held image, its buffers (R255-R258, R261); and the DECRs of converted tasks (R216).
-/

namespace Sys2Proof.Machine

open Sys2Proof

/-- The image slots of an LCN that are in use. -/
def Part.imagesOf (p : Part) (l : Nat) : List Image := Tbl.get [] p.images l

/-! ## Tiles -/

/-- The first dirty-map line of a tile and its lines: 64 rows of 64 elements of 12 bytes (R308, R474). -/
def tileLine (t : Nat) : Nat := 65536 + 768 * t

/-- A tile of a core. -/
def Core.tile (c : Core) (t : Nat) : TileSt := c.tiles[t]?.getD TileSt.new

/-- The core with another tile. -/
def Core.setTile (c : Core) (t : Nat) (x : TileSt) : Core := { c with tiles := c.tiles.setIfInBounds t x }

/-- A context acquires a free tile (R309): every element is +0 first when its last holder ran another vintage. Logged. -/
def State.takeTile (s : State) (site t n : Nat) (v : BitVec 32) : State :=
  let c := s.core site
  let x := c.tile t
  let fresh := decide (x.last ≠ v)
  let c1 := c.setTile t { x with holder := some n, image := none, last := v, elems := if fresh then [] else x.elems }
  let c2 := if fresh then c1.markLines (tileLine t) v 768 else c1
  ((s.setCore site c2).logEv site 11 n (BitVec.ofNat 64 t) 0 0xFFFF 0 []).noteHigh site

/-- Perform the DECR of a converted task that waits, once (R216). -/
def State.wakeImage (s : State) (site : Nat) (p : Part) (l : Nat) (i : Image) : State :=
  let off := fun (x : Image) => if x.slot = i.slot then { x with awaiting := false } else x
  let t := s.updPart p.lead fun q => { q with images := Tbl.upd [] q.images l (List.map off) }
  t.coreDecr site ⟨i.c.task, i.c.vintage, i.ctx, i.c.region⟩

/-- The matrix engine performs the DECRs of the converted MACQ stalls on a tile that is freed (R309). -/
def State.wakeTileImages (s : State) (site t : Nat) : State :=
  match s.partAt site with
  | none => s
  | some p =>
    let l := (s.lcnOf site).getD 0
    ((p.imagesOf l).filter fun i => i.awaiting && i.c.stall == some (.tile t)).foldl (fun u i => u.wakeImage site p l i) s

/-- A tile becomes free (R309): converted stalls on it are woken, and the earliest MACQ that waits for it takes it. Logged. -/
def State.freeTile (s : State) (site t n : Nat) : State :=
  let x := (s.core site).tile t
  let s1 := s.updCore site fun c => c.setTile t { x with holder := none, image := none }
  let s2 := (s1.logEv site 11 n (BitVec.ofNat 64 t) 0 0xFFFF 0 []).wakeTileImages site t
  let waits := fun (w : Nat) => (s.ctx site w).occ == .running && (s.ctx site w).stall == some (.tile t)
  match x.waiters.filter waits with
  | [] => s2.updCore site fun c => c.setTile t { c.tile t with waiters := [] }
  | w :: ws =>
    let s3 := s2.updCore site fun c => c.setTile t { c.tile t with waiters := ws }
    s3.takeTile site t w (s3.ctx site w).vintage

/-- The tiles that a context holds. -/
def Core.heldTiles (c : Core) (n : Nat) : List Nat :=
  (List.range 4).filter fun t => (c.tile t).holder == some n

/-- Discard the queued and stopped tile commands of a context whose fault domain ends (R323). -/
def State.discardTiles (s : State) (site n : Nat) : State :=
  let gone := fun (t : TCmd) => t.ctx == n && t.held.isNone && t.state != .running
  let ids := ((s.core site).tq.filter gone).filterMap (·.opId)
  let s1 := s.updCore site fun c => { c with tq := c.tq.filter fun t => !gone t }
  ids.foldl (fun t id => t.updCtx site n fun c => c.dropOp id) s1

/-! ## The slew limiter's arrays (R340-R347) -/

/-- The limiter of the power domain of a site. -/
def State.limiter (s : State) (site : Nat) : Domain := Tbl.get Domain.reset s.doms (domOf site)

/-- The array of a site under its domain's limiter (R341). -/
def State.slew (s : State) (site : Nat) : SlewArray := Tbl.get ⟨0, none, none⟩ (s.limiter site).arrays site

/-- Replace the array of a site under its limiter; one at level 0 without wants is unlisted. -/
def State.setSlew (s : State) (site : Nat) (x : SlewArray) : State :=
  let d := s.limiter site
  let arr := if x = ⟨0, none, none⟩ then Tbl.del d.arrays site else Tbl.put d.arrays site x
  { s with doms := Tbl.put s.doms (domOf site) { d with arrays := arr } }

/-- An array without a started command wants to fall, when it is above level 0: from now on, or from when it first did
(R343-R345). -/
def State.wantFall (s : State) (site : Nat) : State :=
  let x := s.slew site
  s.setSlew site { x with rise := none, fall := if x.level = 0 then none else some (x.fall.getD s.module.fc) }

/-- Whether a command is an array command that runs (R311, R347). -/
def TCmd.onArray (t : TCmd) : Bool :=
  t.state == .running && t.held.isNone && (t.fn == .mma || t.fn == .mmcx || t.fn == .mconv)

/-- A change of a core's tile queue; an array whose running command it stops wants to fall (R347). -/
def State.updQueue (s : State) (site : Nat) (f : List TCmd → List TCmd) : State :=
  let s1 := s.updCore site fun c => { c with tq := f c.tq }
  if (s.core site).tq.any TCmd.onArray && !(s1.core site).tq.any TCmd.onArray then s1.wantFall site else s1

/-- Release every tile of a context: what is left of its tile commands goes first (R214, R309). -/
def State.releaseTiles (s : State) (site n : Nat) : State :=
  let held := (s.core site).heldTiles n
  let s1 := s.updQueue site fun q => q.filter fun t => !(t.ctx == n && t.held.isNone)
  held.foldl (fun t k => t.freeTile site k n) s1

/-! ## Streams and copies -/

/-- Replace a channel of a core. -/
def Core.setChan (c : Core) (ch : Nat) (x : Chan) : Core := { c with chans := c.chans.setIfInBounds ch x }

/-- A channel of a core. -/
def Core.chan (c : Core) (ch : Nat) : Chan := c.chans[ch]?.getD Chan.new

/-- Change the transfers of a channel. -/
def Core.updXfers (c : Core) (ch : Nat) (f : Xfer → Xfer) : Core :=
  c.setChan ch { c.chan ch with xfers := (c.chan ch).xfers.map f }

/-- Whether a transfer is a stream. -/
def Xfer.isStream (x : Xfer) : Bool := x.kind == .rstream || x.kind == .wstream

/-- End the stream of x16+i of a context (R385): the register leaves stream mode; the transfer ends, with its queued
pushes. -/
def State.endStream (s : State) (site n i : Nat) : State :=
  let c := s.ctx site n
  if c.smode[i]?.getD .off = .off then s
  else
    let q := c.strm[i]?.getD StreamReg.off
    let stop := fun (x : Xfer) => if x.isStream && !x.ended && !q.aborted && x.ctx == n && x.held.isNone then { x with ended := true, pushed := q.pushed } else x
    let s1 := s.setCtx site n { c with
      smode := c.smode.setIfInBounds i .off, strm := c.strm.setIfInBounds i StreamReg.off }
    ((s1.updCore site fun k => k.updXfers q.ch stop).due (.copyRequest site q.ch)).due (.transferComplete site q.ch)

/-- End every stream of a context (R214). -/
def State.endStreams (s : State) (site n : Nat) : State := (List.range 8).foldl (fun t i => t.endStream site n i) s

/-- Detach the outstanding copies of a context (R214): they go on, counted in no context's cp. -/
def State.detachCopies (s : State) (site n : Nat) : State :=
  let f := fun (x : Xfer) => if x.ctx = n ∧ x.held.isNone then { x with opId := none, detached := true } else x
  let s1 := s.updCore site fun c => (List.range 8).foldl (fun k ch => k.updXfers ch f) c
  s1.updCtx site n fun c => { c with cp := 0, ops := c.ops.filter fun o => o.cnt != .cp }

/-! ## Context images -/

/-- Whether a slot holds a task: it is neither free nor of the reserved kind (R255, R256). -/
def Image.held (i : Image) : Bool := i.kind == .preempted || i.kind == .continuation

/-- A free image slot of an LCN (R255: 16). -/
def Part.freeSlot (p : Part) (l : Nat) : Option Nat :=
  (List.range 16).find? fun k => !((p.imagesOf l).any fun i => i.slot == k && i.kind != .free)

/-- Move what a context of a core owns with its task between the context and an image slot (R261). -/
def Core.moveOwned (c : Core) (v : BitVec 32) (here : Nat) (heldHere : Option Nat) (n : Nat) (held : Option Nat) : Core :=
  let buf := fun (e : Nat × Buf) =>
    let b := e.2
    if (b.state = .filling ∨ b.state = .draining) ∧ b.owner = here ∧ b.held = heldHere then (e.1, { b with owner := n, held := held })
    else e
  let xf := fun (x : Xfer) =>
    if x.ctx = here ∧ x.held = heldHere ∧ !x.detached then { x with ctx := n, held := held } else x
  let cmd := fun (t : TCmd) => if t.ctx = here ∧ t.held = heldHere then { t with ctx := n, held := held } else t
  let tile := fun (t : TileSt) =>
    match heldHere, held with
    | none, some k => if t.holder = some here then { t with holder := none, image := some k } else t
    | some k, none => if t.image = some k then { t with holder := some n, image := none } else t
    | _, _ => t
  let c1 := { c with
    bufs := Tbl.put c.bufs v.toNat ((c.bufTab v).map buf), tq := c.tq.map cmd, tiles := c.tiles.map tile }
  (List.range 8).foldl (fun k ch => k.updXfers ch xf) c1

/-- The private-window lines of a context that its dirty bits list (R257). -/
def State.dirtyLines (s : State) (site n : Nat) : List (Nat × List Byte) :=
  ((List.range 256).filter fun j => (s.ctx site n).dirtyL.getLsbD j).map fun j =>
    (j, s.scrRead site (privBase n + 64 * j) 64)

/-- Write a context's image to a slot of its LCN and leave the context without dirty items; the writes that still wait at the context
wait with the image (R256, R257, R261). -/
def State.saveImage (s : State) (site n slot : Nat) (kind : ImgKind) : State :=
  match s.partAt site with
  | none => s
  | some p =>
    let l := s.lcnOf site |>.getD 0
    let c := s.ctx site n
    let core := s.core site
    let is := (p.imagesOf l).filter fun x => x.slot != slot
    let lines := s.dirtyLines site n
    let i : Image :=
      { slot := slot, kind := kind, width := 0x0800, format := 1, age := is.foldl (fun m x => max m (x.age + 1)) 0,
        ctx := n, c := c, regmap := c.dirtyX, kmap := c.dirtyK, lines := lines,
        linemap := lines.foldl (fun m e => m ||| (1 <<< e.1)) 0, host := [], tiles := core.heldTiles n,
        wslots := [], waiting := core.pendingFor n, awaiting := false }
    let s1 := s.setPart p.lead { p with images := Tbl.put p.images l (is ++ [i]) }
    s1.setCore site { core.moveOwned c.vintage n none n (some slot) with deliv := core.deliv.filter fun d => d.ctx != n }

/-- The registers of a task just loaded (R213). -/
def loadRegs (slots : Vector Word 6) : Vector Word 32 :=
  Vector.ofFn fun (i : Fin 32) =>
    if 4 ≤ i.val ∧ i.val < 10 then slots[i.val - 4]?.getD 0
    else if i.val = 30 then 0x8004000
    else 0

/-- The system state of an image (R256): where the host has written words of it, what they hold is open, since R256 gives their layout
nowhere; the counters, streams, tiles and slots stay as the task left them (log entry 70). -/
def Image.system (i : Image) : Ctx :=
  let l := i.host.filter fun e => decide (0x200 ≤ e.1) && decide (e.1 < 0x300)
  let f := fun (w k : Nat) => BitVec.ofNat w (Config.imageField k l)
  if l.isEmpty then i.c
  else
    { i.c with
      sticky := (f 6 0).setWidth 64, srstate := f 64 1, sup := f 1 2 == 1, psup := f 1 3 == 1, tact := f 1 4 == 1, cause := f 5 5,
      epc := f 56 6, faddr := f 56 7, fstep := (f 2 8).setWidth 32 <<< 30 ||| (f 16 9).setWidth 32, tvec := f 56 10 }

/-- The context that an image restores, over the context's own shape slots (R258); the retained window is empty (R292). -/
def Image.restored (i : Image) (own : Ctx) : Ctx :=
  let regs := loadRegs i.c.loadslots
  { i.system with
    occ := .running,
    x := Vector.ofFn fun (r : Fin 32) => if i.regmap.getLsbD r.val then i.c.x[r] else regs[r],
    k := Vector.ofFn fun (r : Fin 16) => if i.kmap.getLsbD r.val then i.c.k[r] else own.k[r],
    dirtyX := i.regmap, dirtyK := i.kmap, window := [],
    dirtyL := i.linemap }

/-- A restored slot: one with tabv = 1 takes the bounds and rights again from the object table's entry (R274). -/
def State.rebound (s : State) (p : Part) (x : Shape) : Shape :=
  if x.w7.getLsbD 48 then
    let l := s.viewRead p 0 true (p.objtab + 128 * (x.w7.toNat / 2 ^ 32 % 2 ^ 16)) 128
    { x with
      lo := BitVec.ofNat 56 (wordAt l 8), hi := BitVec.ofNat 56 (wordAt l 9),
      rd := wordAt l 10 % 2 == 1, wr := wordAt l 10 / 2 % 2 == 1 }
  else x

/-- Free an image slot. -/
def Part.dropImage (p : Part) (l slot : Nat) : Part :=
  { p with images := Tbl.put p.images l ((p.imagesOf l).filter fun i => i.slot != slot) }

/-- Whether a core can restore an image (R258). -/
def Image.fits (i : Image) : Bool := i.width == 0x0800 && i.format == 1

/-- The address of an image slot in the partition's image area (R255). -/
def slotAddr (l slot : Nat) : Addr := BitVec.ofNat 56 (20480 * (16 * l + slot))

/-- What a discarded image holds becomes what the context number that ran its task holds (R254, R258, R261): its buffers are owned
by that number again, the writes that waited with it wait at that context, its copies are detached, its tile commands go and its
tiles are freed. The spec says only that the image is discarded (DESIGN CHOICE, log entry 69). -/
def State.releaseImage (s : State) (site : Nat) (i : Image) : State :=
  let mine := fun (o : Option Nat) => o == some i.slot
  let xf := fun (x : Xfer) => if mine x.held then { x with held := none, opId := none, detached := true } else x
  let c := s.core site
  let c1 := { c with
    bufs := Tbl.put c.bufs i.c.vintage.toNat ((c.bufTab i.c.vintage).map fun e =>
      (e.1, if mine e.2.held then { e.2 with held := none } else e.2)),
    deliv := c.deliv ++ i.waiting.map fun d => { d with ctx := i.ctx } }
  let c2 := (List.range 8).foldl (fun k ch => k.updXfers ch xf) c1
  let tiles := (List.range 4).filter fun k => mine (c.tile k).image
  let s1 := (s.setCore site c2).updQueue site fun q => q.filter fun t => !mine t.held
  let s2 := tiles.foldl (fun u k => u.freeTile site k i.ctx) s1
  if (s2.ctx site i.ctx).free then s2.deliveryPoint site i.ctx else s2

/-- The kind of a tile command's steps in sys.fstep, 00 for one without an interruption point (R322). -/
def TFn.stepKind : TFn → Nat
  | .mma | .mmcx | .mconv => 1
  | .macrd | .mepi | .macwr => 2
  | .mwld | .maclr | .mrel => 0

/-- The tile command that a pre-emption stopped resumes at the step in sys.fstep (R322, R323): it is queued again. One stopped by a
refusal (R337) stays stopped, and so does the step of one of whose kind sys.fstep is not. -/
def TCmd.resumed (t : TCmd) (n : Nat) (fstep : BitVec 32) : TCmd :=
  if t.ctx = n ∧ t.held.isNone ∧ t.state = .stopped ∧ t.refusedRow.isNone then
    { t with state := .queued, step := if fstep.toNat / 2 ^ 30 = t.fn.stepKind then fstep.toNat % 2 ^ 16 else t.step }
  else t

/-- Restore a held image of an LCN into an idle context (R258, R261, R274); one of a wrong width or format ends the task's domain
with cause IMAGE_MISMATCH. Logged. -/
def State.restoreImage (s : State) (site n : Nat) (i : Image) : State :=
  match s.partAt site with
  | none => s
  | some p =>
    let l := (s.lcnOf site).getD 0
    let s0 := s.setPart p.lead (p.dropImage l i.slot)
    if !i.fits then
      (((s0.releaseImage site i).endDomain site n i.c false causeImageMismatch i.c.pc (slotAddr l i.slot) 0 (s.timeAt site)).due (.poolPull site)).later
        (.doneWaveTimer p.lead i.c.vintage.toNat)
    else
      let own := i.restored (s0.ctx site n)
      let again := Vector.ofFn fun (r : Fin 16) => if i.kmap.getLsbD r.val then s0.rebound p own.k[r] else own.k[r]
      let s1 := s0.setCtx site n { own with k := again }
      let lines := fun (t : State) (e : Nat × List Byte) => t.scrStore site i.c.vintage (privBase n + 64 * e.1) e.2
      let s2 := (i.lines.filter fun e => i.linemap.getLsbD e.1).foldl lines s1
      let s3 := s2.updCore site fun c =>
        let c1 := c.moveOwned i.c.vintage i.ctx (some i.slot) n none
        { c1 with deliv := c1.deliv ++ i.waiting.map fun d => { d with ctx := n }, tq := c1.tq.map fun t => t.resumed n own.fstep }
      (s3.wakeEngines site).logEv site 8 n (BitVec.ofNat 64 i.slot) i.c.task 0xFFFF 0 []

/-! ## Conversion (R216) -/

/-- Whether what a converted task waits for has come about (R208, R309, R372, R374). -/
def State.awaitMet (s : State) (site : Nat) (i : Image) (w : Await) : Bool :=
  let core := s.core site
  match w with
  | .cp n => decide (i.c.cp ≤ n) || i.c.abortMask != 0
  | .span key lo hi write wms =>
    wms.any (fun e => core.wasAborted e.1 e.2) || (match s.gate site i.ctx ⟨key, lo, hi⟩ write with
      | .free => true
      | _ => false)
  | .done ch id =>
    let d := ((core.chan ch).done - id).toNat
    decide (1 ≤ d) && decide (d < 2 ^ 31)
  | .stream r =>
    let q := i.c.strm[streamIx r]?.getD StreamReg.off
    if i.c.mode r = .write then decide (q.pushed.length < 64) else !q.landed.isEmpty || q.left == 0
  | .tile k => (core.tile k).holder.isNone && (core.tile k).image.isNone
  | .result g r =>
    let q := Tbl.find? core.ports g
    (q.map fun q => q.held.any (fun m => m.round.toNat == r) || q.rr.toNat != r % 2 ^ 16).getD true
  | .beat g =>
    let q := Tbl.find? core.ports g
    (q.map fun q => q.tseen || q.preds.any fun m => m.round == q.cr).getD true
  | .port g =>
    let q := Tbl.find? core.ports g
    (q.map fun q => q.out.isEmpty).getD true
  | .switch => s.switchedAt site i.c.vintage

/-- Perform the DECRs of a core's converted tasks whose conditions are met, once each (R216). -/
def State.wakeImages (s : State) (site : Nat) : State :=
  match s.partAt site with
  | none => s
  | some p =>
    let l := (s.lcnOf site).getD 0
    (p.imagesOf l).foldl (fun t i =>
      match i.c.stall with
      | some w =>
        if i.awaiting && t.awaitMet site i w then t.wakeImage site p l i else t
      | none => t) s

end Sys2Proof.Machine
end

