-- ==== Sys2Proof/Machine/Task.lean ====
section
/-!
DEFINITION. The task engine: the instructions SPAWN, SUSPEND, EXIT, DECR, YIELD, DEPADD and TSELF (R235-R242), record
operations at their homes (R210, R211), carriages and placement (R213, R218-R222, R230), suspension points (R214, R216,
R252).
-/

namespace Sys2Proof.Machine

open Sys2Proof

/-! ## Placement -/

/-- The Manhattan distance of two sites (R219). -/
def distance (a b : Nat) : Nat :=
  let dx := if a % 120 ≤ b % 120 then b % 120 - a % 120 else a % 120 - b % 120
  let dy := if a / 120 ≤ b / 120 then b / 120 - a / 120 else a / 120 - b / 120
  dx + dy

/-- Whether tasks of a launch may be loaded: it is not being killed and has not ended (R265). -/
def Launch.places (l : Launch) : Bool :=
  match l.phase with
  | .filling | .running | .gating | .ready => true
  | _ => false

/-- The contexts of a core that run tasks of a vintage, one context left out (R230). -/
def Core.busyWith (c : Core) (v : BitVec 32) (out : Option Nat) : List Nat :=
  (List.range 8).filter fun n => some n != out && (c.ctx n).occ != .idle && (c.ctx n).vintage == v

/-- Whether the launch's and the region's budgets leave a context for a task (R230). -/
def Core.budget (c : Core) (l : Launch) (region : Nat) (out : Option Nat) : Bool :=
  match l.regions[0]?, l.regions[region]? with
  | some root, some g =>
    let b := c.busyWith l.vint out
    decide (b.length < root.contexts)
      && decide ((b.filter fun n => (c.ctx n).region.toNat == region).length < g.contexts)
  | _, _ => false

/-- The lowest-numbered idle context (R221). -/
def Core.idleCtx (c : Core) : Option Nat := (List.range 8).find? fun n => (c.ctx n).occ == .idle

/-- Whether the core at a site is eligible for a carriage, context `out` counted as idle when given (R219, R230, R254,
R265). -/
def State.eligible (s : State) (site : Nat) (out : Option Nat) (k : Carr) : Bool :=
  match s.partAt site, s.lcnOf site with
  | some p, some l =>
    match p.launch? k.vint with
    | some la =>
      match la.regions[k.r.region.toNat]? with
      | some g =>
        let c := s.core site
        let near := k.r.radius == 15 || decide (distance site (p.bound.getD k.r.hint.toNat 0) ≤ k.r.radius.toNat)
        la.places && decide (l < g.cores) && near && !c.fenced && !c.drained && !c.dead && !c.stopped
          && (out.isSome || c.idleCtx.isSome) && c.budget la k.r.region.toNat out && !la.domains.contains g.fd
      | none => false
    | none => false
  | _, _ => false

/-- A core serves a vintage: its provisional list holds it (R452). -/
def Core.serve (c : Core) (v : BitVec 32) : Core :=
  if c.prov.any fun e => e.1 == v then c else { c with prov := c.prov ++ [(v, c.pass)] }

/-- The context of a task just loaded (R213); `k0`-`k15` and the window stay the context's own. -/
def Ctx.loadTask (own : Ctx) (k : Carr) (tvec : Addr) (seedsr : Word) : Ctx :=
  { Ctx.reset with
    occ := .running, pc := k.r.pc, x := loadRegs k.r.slots, k := own.k, prio := k.r.prio,
    srstate := if seedsr = 0 then 0x9E3779B97F4A7C15 else seedsr, tvec := tvec, task := k.addr,
    region := k.r.region.setWidth 32, vintage := k.vint, loadslots := k.r.slots, hint := k.r.hint, radius := k.r.radius }

/-- Send the state write "running" of an accepted task, remembered until its answer (R221, R234). -/
def State.sendRunning (s : State) (site dep : Nat) (k : Carr) (t : Target) : State :=
  let c := s.core site
  let s1 := s.setCore site { c with starts := Tbl.put c.starts c.decrNext k.vint, decrNext := c.decrNext + 1 }
  s1.sendFromCore site dep ctxNone c.decrNext 0 k.vint (.recop t k.addr .running)

/-- The state write "running" at the record's home (R221). -/
def State.writeRunning (s : State) (site : Nat) (k : Carr) : State :=
  if k.addr = 0 then s
  else
    match s.recHome site k.vint k.addr with
    | .here o => (s.recAtScr site k.vint o .running (s.lcn site) 0).1
    | .core lcn o => s.sendRunning site lcn k (.core o)
    | .rim ppa =>
      match s.partAt site with
      | some p => s.sendRunning site (p.slotEp ppa) k (.rim ppa)
      | Option.none => s
    | .none => s

/-- The image that a carriage's record left at an LCN by stall conversion (R216, R262). -/
def State.imageFor (s : State) (site : Nat) (k : Carr) : Option Image :=
  match s.partAt site, s.lcnOf site with
  | some p, some l =>
    if k.r.cont then
      List.find? (fun (i : Image) => i.kind == .continuation && i.c.task == k.addr && i.c.vintage == k.vint) (p.imagesOf l)
    else none
  | _, _ => none

/-- The record image of a carriage as the bytes of its log record. -/
def Carr.bytes (k : Carr) : List Byte := k.r.bytes

/-- A core accepts a carriage into a context (R213, R216, R221): the task is loaded, or restored from its image, the
record's state is written, and the core serves the vintage. Logged. -/
def State.accept (s : State) (site n : Nat) (k : Carr) : State :=
  match s.partAt site with
  | none => s
  | some p =>
    let seedsr := ((p.launch? k.vint).map (·.seedsr)).getD 0
    let placed := fun (t : State) => ((t.updCore site fun c => c.serve k.vint).writeRunning site k).due (.poolPull site)
    match s.imageFor site k with
    | some i => if i.fits then placed (s.restoreImage site n i) else s.restoreImage site n i
    | none => placed ((s.updCtx site n fun own => own.loadTask k p.tvec seedsr).logEv site 8 n 0 k.addr 0xFFFF 0 k.bytes)

/-! ## Record operations -/

/-- Whether every earlier write and record operation of a context is performed, its vector results among them (R217). -/
def State.recordReady (s : State) (site n : Nat) : Bool :=
  ((s.ctx site n).ops.all fun o =>
    !o.isWrite && (match o.what with
      | .spawn _ | .recop => false
      | _ => true))
  && !(s.core site).vq.any fun e => e.ctx == n

/-- Start a record operation of the executing context at a home (R210, R211, R226). `d` receives a SPAWN's status. -/
def startRecOp (s : State) (c : Ctx) (d : Option Reg) (k : Cnt) (h : RecHome) (canon ea : Addr) (o : RecOp) : Out :=
  let site := s.cur.1
  let n := s.cur.2
  let what : OpWhat := match d with
    | some r => .spawn r
    | none => .recop
  if c.acquiring then .next s
  else
  match h with
  | .none => .next (s.trap causeProt ea)
  | .here off =>
    if !c.canCount k then .next s
    else
      let c1 := c.startOp k ea false true what
      let c2 := match d with
        | some r => c1.await r
        | none => c1
      let r := ((s.setMe c2.advance)).recAtScr site c.vintage off o (s.lcn site) 0
      .next (r.1.complete site n c.issued { refused := r.2.refused, status := r.2.status })
  | .core lcn off => sendRequest s c k d lcn ea false true what (.recop (.core off) canon o)
  | .rim ppa =>
    match s.partAt site with
    | Option.none => .next (s.trap causeProt ea)
    | some p => sendRequest s c k d (p.slotEp ppa) ea true true what (.recop (.rim ppa) canon o)

/-- A record instruction: its address checked by R119, R210 and R236, then the operation, waiting by R217 when `waits`. -/
def recordOp (s : State) (c : Ctx) (d : Option Reg) (k : Cnt) (ea : Addr) (waits : Bool) (o : RecOp) : Out :=
  match s.recAddr c ea with
  | .fault cause => .next (s.trap cause ea)
  | .miss page => .next (s.due (.translationMiss s.cur.1 page))
  | .home h canon => if waits && !s.recordReady s.cur.1 s.cur.2 then .next s else startRecOp s c d k h canon ea o

/-- SPAWN (R236): status to x[d]; a MOD HINT may give the priority (R69). -/
def execSpawn (d a b : Reg) (s : State) : Out :=
  issueWord s { mod := true, prio := true } [a, b] [d] true false false fun i =>
    let x := i.v 1
    recordOp s i.c (some d) .ld ((i.v 0).setWidth 56) true
      (.spawn (x.setWidth 16) ((x >>> 16).setWidth 4) i.c.hintPrio i.c.region (s.lcn s.cur.1))

/-- DECR (R237). -/
def execDecr (a : Reg) (s : State) : Out :=
  issueWord s noHints [a] [] true false false fun i => recordOp s i.c none .st ((i.v 0).setWidth 56) true .decr

/-- DEPADD (R238). -/
def execDepadd (a b : Reg) (s : State) : Out :=
  issueWord s noHints [a, b] [] true false false fun i =>
    recordOp s i.c none .st ((i.v 0).setWidth 56) false (.depadd ((i.v 1).setWidth 16))

/-- TSELF (R242). -/
def execTself (d : Reg) (s : State) : Out :=
  aluOp s noHints [] d true fun i => i.c.task.setWidth 64

/-- Bring the executing context to a suspension point (R214). -/
def suspendWith (s : State) (c : Ctx) (k : SuspKind) : Out :=
  .next ((s.setMe { c with hold := .suspending k }).due (.suspensionPoint s.cur.1 s.cur.2))

/-- SUSPEND (R239): PROT in a task without a record (R215). -/
def execSuspend (s : State) : Out :=
  issueWord s noHints [] [] true false false fun i =>
    if i.c.task = 0 then .next (s.trap causeProt 0) else suspendWith s i.c (.suspend (i.c.pc + 4))

/-- EXIT (R240); in a trap handler it ends the task's fault domain (R252), with sys.epc and sys.faddr as they
were at the trap's entry (R253). -/
def execExit (a : Reg) (s : State) : Out :=
  issueWord s noHints [a] [] true false false fun i =>
    if i.c.tact then suspendWith s i.c (.ending false i.c.cause i.c.tepc i.c.tfaddr i.c.fstep)
    else suspendWith s i.c (.exit ((i.v 0).setWidth 32))

/-- YIELD (R241): one query to the district pool; then a suspension point, or nothing. -/
def execYield (s : State) : Out :=
  issueWord s noHints [] [] true false false fun i =>
    match s.me.hold with
    | .yield => .next s
    | .yieldDone true => suspendWith s i.c (.yields (i.c.pc + 4))
    | .yieldDone false => .next (s.setMe i.c.advance)
    | _ => .next ((s.setMe { s.me with hold := .yield }).due (.yieldQuery s.cur.1 s.cur.2))

/-- An entry that a pool reserved for a context that does not take it returns to the pool (R224, R241, R260). -/
def State.unreserve (s : State) (site n : Nat) : State :=
  match s.partAt site, s.lcnOf site with
  | some p, some l =>
    let d := l / 64
    let q := Tbl.get Pool.new p.pools d
    match q.entries.find? fun e => e.reserved == some (site, n) with
    | some e =>
      let q1 := { q with
        entries := q.entries.filter fun x => x.seq != e.seq, sent := q.sent ++ [(site, { e with reserved := none })] }
      ((s.setPart p.lead { p with pools := Tbl.put p.pools d q1 }).due (.poolPull site)).due (.entryReturn p.lead d)
    | none => s
  | _, _ => s

/-! ## Suspension points -/

/-- The record operation of a suspension point (R239, R240, R216); none for a task without a record and for a domain's
end. -/
def SuspKind.recOp (k : SuspKind) (c : Ctx) (lcn : Nat) : Option RecOp :=
  if c.task = 0 then none
  else
    match k with
    | .suspend pc | .yields pc => some (.suspend pc (Vector.ofFn fun (i : Fin 6) => c.x[i.val + 4]))
    | .exit _ => some .exit
    | .convert => some (.convert (BitVec.ofNat 16 lcn))
    | .ending .. => none

/-- Step 6 of R214: the record operation, then the task is left when it has completed. -/
def State.writeBack (s : State) (site n : Nat) (k : SuspKind) : State :=
  let c := s.ctx site n
  match k.recOp c (s.lcn site) with
  | none => s.leaveTask site n k
  | some o =>
    let remote := fun (dep : Nat) (t : Target) (p : State) =>
      let c1 := { c.startOp .no c.task false true .writeback with hold := .writeback k }
      (p.setCtx site n c1).sendFromCore site dep n c.issued 0 c.vintage (.recop t c.task o)
    match s.recHome site c.vintage c.task with
    | .here off => (s.recAtScr site c.vintage off o (s.lcn site) 0).1.leaveTask site n k
    | .core lcn off => remote lcn (.core off) s
    | .rim ppa =>
      match s.partAt site with
      | some p => remote (p.slotEp ppa) (.rim ppa) s
      | Option.none => s.leaveTask site n k
    | .none => s.leaveTask site n k

/-- Whether tile commands of a context are left in the queue that will finish: its MACLRs and MRELs too, which no counter counts
(R309, R330). A stopped one is discarded with its tile, and those behind it go with it. -/
def Core.tileWork (c : Core) (n : Nat) : Bool :=
  let mine := c.tq.filter fun t => t.ctx == n && t.held.isNone
  !mine.isEmpty && !mine.any fun t => t.state == .stopped

/-- Whether the counters and the engine work of a context let a suspension point proceed (R214, R290, R309). -/
def State.quiet (s : State) (site n : Nat) : Bool :=
  let c := s.ctx site n
  let core := s.core site
  c.ld == 0 && c.st == 0 && ((c.tl == 0 && !core.tileWork n) || c.tileFault.isSome) && !(core.vq.any fun e => e.ctx == n)

/-- SUSPENSION_POINT (R214, R252, R360): once the counters are zero, a posted fault or an observed abort traps instead; a
domain's end takes neither: a fault posted during its wait is dropped, and the record keeps the cause and the nested bit of the
EXIT or trap that ended the domain (R252 step 1 names no other; DESIGN CHOICE, log entry 70). On a context without a task the deliveries are applied (R115) and converted tasks of the core look at
their conditions (R216). -/
def execSuspensionPoint (site ctx : Nat) (s0 : State) : Out :=
  let s := match (s0.ctx site ctx).hold with
    | .suspending (.ending ..) => s0.discardTiles site ctx
    | _ => s0
  let c := s.ctx site ctx
  match c.hold with
  | .suspending k =>
    if c.occ ≠ .running ∨ !s.quiet site ctx then .next s
    else
      let ends := match k with
        | .ending .. => true
        | _ => false
      let c0 := { c with hold := .none }
      let back := fun (t : State) => match k with
        | .yields _ => t.unreserve site ctx
        | _ => t
      match (if ends then none else c.oldestPosted fun _ => true) with
      | some p =>
        let c1 := { c0 with posted := c.posted.erase p }
        .next (back ((s.setCtx site ctx c1).trapAt site ctx p.cause p.faddr p.fstep))
      | none =>
        if !ends && c.abortMask != 0 then
          .next (back ((s.setCtx site ctx c0.abortRaised).trapAt site ctx causeCopyAbort 0 0))
        else
          let s1 := ((s.deliveryPoint site ctx).endStreams site ctx).releaseTiles site ctx
          let s2 := (s1.detachCopies site ctx).wakeImages site
          .next (s2.writeBack site ctx k)
  | _ => .next ((if c.free then s.deliveryPoint site ctx else s).wakeImages site)

/-- STALL_CONVERSION (R208, R216, R372): a stalled task with a record leaves its context as a full image, its record
counting one dependence more. The event names a stall that still stands; its 4,096 cc are not modelled. It does not fall inside
an open word group (R67). -/
def execStallConversion (site ctx : Nat) (s : State) : Out :=
  let c := s.ctx site ctx
  match s.partAt site, c.stall with
  | some p, some _ =>
    match p.freeSlot (s.lcn site) with
    | none => .next s
    | some slot =>
      if c.occ ≠ .running ∨ !c.issues ∨ c.inGroup ∨ c.task = 0 ∨ !s.quiet site ctx then .next s
      else
        match c.oldestPosted fun _ => true with
        | some q => .next ((s.setCtx site ctx { c with posted := c.posted.erase q }).trapAt site ctx q.cause q.faddr q.fstep)
        | none =>
          if c.abortMask ≠ 0 then
            .next ((s.setCtx site ctx c.abortRaised).trapAt site ctx causeCopyAbort 0 0)
          else
            let drop := fun (k : Core) => { k with tiles := k.tiles.map fun t => { t with waiters := t.waiters.filter (· != ctx) } }
            let s1 := ((s.deliveryPoint site ctx).updCtx site ctx Ctx.drainScalar).saveImage site ctx slot .continuation
            .next ((s1.updCore site drop).writeBack site ctx .convert)
  | _, _ => .next s

/-! ## Carriages at routers -/

/-- The first carriage of a list that the router's core has not been offered, with its place. -/
def unseen (site : Nat) (l : List Flit) : Option (Nat × Flit × Carr) :=
  l.zipIdx.findSome? fun e =>
    match e.1.body with
    | .carriage k => if k.seen = some site then none else some (e.2, e.1, k)
    | _ => none

/-- Where a router holds a carriage: a place at an input or in an offered list. -/
inductive Held where
  | port (i j : Nat) (f : Flit) (k : Carr)
  | core (j : Nat) (f : Flit) (k : Carr)
  | rim (j : Nat) (f : Flit) (k : Carr)
  deriving DecidableEq, Repr

/-- The carriage of a router that is to be offered next. -/
def Router.carriage (r : Router) (site : Nat) : Option Held :=
  let ports := (r.inReq.toList.zipIdx).filterMap fun e => (unseen site e.1).map fun q => Held.port e.2 q.1 q.2.1 q.2.2
  match ports, unseen site r.offCoreReq, unseen site r.offRimReq with
  | h :: _, _, _ => some h
  | [], some (j, f, k), _ => some (.core j f k)
  | [], none, some (j, f, k) => some (.rim j f k)
  | [], none, none => none

/-- The router without the carriage, or with it marked as offered here. -/
def Router.settleCarriage (r : Router) (h : Held) (site : Nat) (keep : Bool) : Router :=
  let put := fun (l : List Flit) (j : Nat) (f : Flit) (k : Carr) =>
    if keep then l.set j { f with body := Body.carriage { k with seen := some site } } else l.eraseIdx j
  match h with
  | .port i j f k => { r with inReq := r.inReq.setIfInBounds i (put (r.inReq[i]?.getD []) j f k) }
  | .core j f k => { r with offCoreReq := put r.offCoreReq j f k }
  | .rim j f k => { r with offRimReq := put r.offRimReq j f k }

/-- The carriage, as it stands at the router: one that is offered takes its destination from the tables (R398). -/
def State.heldCarriage (s : State) (p : Part) (site : Nat) : Held → Flit × Carr
  | .port _ _ f k => (f, k)
  | .core _ f k | .rim _ f k => (if f.park then f else { f with dsite := s.dsiteOf p site f.dep }, k)

/-- A carriage reaches the pool of its hint's district (R222). -/
def State.toPool (s : State) (lead : Nat) (k : Carr) : State :=
  let d := k.r.hint.toNat / 64
  let put := fun (q : Pool) => { q with arriving := q.arriving ++ [k] }
  (s.updPart lead fun p => { p with pools := Tbl.upd Pool.new p.pools d put }).due (.poolEntry lead d)

/-- Whether a carriage's fault domain has ended (R254). -/
def Part.domainOver (p : Part) (k : Carr) : Bool :=
  match p.launch? k.vint with
  | some l => l.domains.contains (p.domainOf k.vint (k.r.region.setWidth 32))
  | none => false

/-- CARRIAGE (R220-R222, R254, R266): the router offers a carriage to its core, which accepts it; at the hint's site an
unaccepted one goes to the district's pool, or is counted ended when its domain is over; a killed vintage's is dropped. -/
def execCarriage (plane : Plane) (site : Nat) (s : State) : Out :=
  let r := s.router site
  match (if plane = .request then r.carriage site else none), s.partAt site with
  | some h, some p =>
    let f := (s.heldCarriage p site h).1
    let k := (s.heldCarriage p site h).2
    let gone := s.setRouter site (r.settleCarriage h site false)
    if r.discard.contains k.vint then .next gone
    else if s.eligible site none k then
      match (s.core site).idleCtx with
      | some n => .next (gone.accept site n k)
      | none => .next s
    else if f.dsite = site ∧ !f.park then
      if p.domainOver k then .next (gone.updCore site fun c => c.endedOne k.vint 0)
      else .next (gone.toPool p.lead k)
    else .next ((s.setRouter site (r.settleCarriage h site true)).due (.flitRouting .request site))
  | _, _ => .next s

end Sys2Proof.Machine
end

