-- ==== Sys2Proof/Machine/Homes.lean ====
section
/-!
DEFINITION. The requests that reach a home: loads (R114, R138, R443), stores (R114, R441, R459, R460), atomics (R132,
R136, R137, R200), active messages (R194, R195), record operations (R211) and the draining of write queues (R122).
-/

namespace Sys2Proof.Machine

open Sys2Proof

/-! ## Rim homes -/

/-- How an atomic fared at a rim home. -/
inductive AtomRim where
  | done (s : State) (a : Answer)
  | wait (s : State)
  deriving DecidableEq, Repr

/-- The reduction of a RED.f32 at its home (R136, R137): a slot of the allocated address is fed; an allocation beyond the
launch's number is refused with UNDECLARED. -/
def State.reduce (s : State) (p : Part) (v : BitVec 32) (ppa : Nat) (a : Atom) : State × Answer :=
  let chan := p.chanOf (p.slotOf ppa)
  let r := s.rim chan
  let feed := fun (x : RedAddr) => x.feed a.lcn (a.b.setWidth 32)
  if r.reds.any fun x => x.vint == v && x.ppa == ppa then
    (s.setRim chan { r with reds := r.reds.map fun x => if x.vint = v ∧ x.ppa = ppa then feed x else x }, {})
  else
    match p.launch? v with
    | none => (s, { refused := some causeUndeclared })
    | some l =>
      if l.reductions ≤ l.redUsed then (s, { refused := some causeUndeclared })
      else
        let base := BitVec.ofNat 32 (leNat (s.viewRead p v false ppa 4))
        let s1 := s.updPart p.lead fun q => q.updLaunch v fun k => { k with redUsed := k.redUsed + 1 }
        (s1.setRim chan { r with reds := r.reds ++ [feed ⟨v, ppa, base, []⟩] }, {})

/-- An atomic at a rim home (R127, R130, R132, R136-R138, R200). -/
def State.atomicAtRim (s : State) (p : Part) (v : BitVec 32) (ppa : Nat) (a : Atom) : AtomRim :=
  let chan := p.chanOf (p.slotOf ppa)
  let isRed := match a.k with
    | .amo .fadd => !a.ret
    | _ => false
  let finish := fun (q : State) =>
    let rm := q.rim chan
    q.setRim chan { rm with rels := keepRelease rm.rels v ppa a }
  if isRed then
    let r := s.reduce p v ppa a
    .done (if r.2.refused.isSome then r.1 else finish r.1) r.2
  else if !((s.rim chan).redsIn v ppa (a.w / 8)).isEmpty then .done s { refused := some causeProt }
  else
    let n := a.w / 8
    let bytes := (s.homeLoad p v false ppa n).1
    let r := a.apply (leNat bytes)
    let rels := (s.rim chan).rels
    let t := acquireTest rels v ppa a
    let off := ppa % 64
    match r.1 with
    | none => .done (finish s) { bytes := bytes, sticky := r.2, miss := t.1, sync := t.2 }
    | some nw =>
      let data := List.replicate off 0 ++ leBytes n nw ++ List.replicate (64 - off - n) 0
      match s.homeStore p v (ppa - off) (lineMask off n) data with
      | .done q => .done (finish q) { bytes := bytes, sticky := r.2, miss := t.1, sync := t.2, status := nw }
      | .full q => .done q { refused := some causeKilled }
      | .wait q => .wait q

/-- The lines that bytes at a PPA reach: line, mask, the line's 64 bytes. At most `fuel` lines. -/
def linePieces : Nat → Nat → List Byte → List (Nat × Nat × List Byte)
  | 0, _, _ => []
  | fuel + 1, ppa, data =>
    if data.isEmpty then []
    else
      let off := ppa % 64
      let n := min (64 - off) data.length
      (ppa - off, lineMask off n, padTo 64 (List.replicate off 0 ++ data.take n))
        :: linePieces fuel (ppa + n) (data.drop n)

/-- Write lines at their home one after the other; the first that is refused ends it. -/
def State.homeStoreSeq (s : State) (p : Part) (v : BitVec 32) : List (Nat × Nat × List Byte) → WResult
  | [] => .done s
  | (line, m, d) :: t =>
    match s.homeStore p v line m d with
    | .done q => q.homeStoreSeq p v t
    | r => r

/-- Write lines at their home: when one of them must wait for the switch, none is written (R460), nor when one is refused (R459). -/
def State.homeStoreAll (s : State) (p : Part) (v : BitVec 32) (l : List (Nat × Nat × List Byte)) : WResult :=
  match s.homeStoreSeq p v l with
  | .wait _ =>
    .wait ((s.updPart p.lead fun q => q.updLaunch v fun k => { k with switchAsked := true }).later (.vintageSwitch p.lead v.toNat))
  | .full _ => .full (s.startKill p.lead v ⟨4, 0, 0, false⟩)
  | r => r

/-- Hold a request at its rim home until the switch (R460). -/
def State.holdAtRim (s : State) (chan : Nat) (f : Flit) : State :=
  s.setRim chan { s.rim chan with waiting := (s.rim chan).waiting ++ [f] }

/-- Serve a request that writes at a rim home, and answer it; or hold it there (R132, R195, R211, R441, R460). -/
def State.serveRim (s : State) (p : Part) (f : Flit) : State :=
  match f.body with
  | .store (.rim line) data mask =>
    match s.homeStore p f.vint line mask data with
    | .done t => t.answer f (.ack none 0)
    | .full t => t.answer f (.ack (some causeKilled) 0)
    | .wait t => t.holdAtRim (p.chanOf (p.slotOf line)) f
  | .puta (.rim ppa) data =>
    match s.homeStoreAll p f.vint (linePieces 8 ppa data) with
    | .done t => t.answer f (.ack none 0)
    | .full t => t.answer f (.ack (some causeKilled) 0)
    | .wait t => t.holdAtRim (p.chanOf (p.slotOf ppa)) f
  | .atomic (.rim ppa) a =>
    match (s.checkAtHome p f.vint ppa (a.w / 8)).atomicAtRim p f.vint ppa a with
    | .done t r =>
      if a.valued then t.answer f (.data r.bytes r.sticky r.miss r.sync r.refused)
      else t.answer f (.ack r.refused r.status)
    | .wait t => t.holdAtRim (p.chanOf (p.slotOf ppa)) f
  | .recop (.rim ppa) addr o =>
    match s.recAtRim p f.vint ppa addr o with
    | .done t r => t.answer f (.ack r.refused r.status)
    | .wait t => t.holdAtRim (p.chanOf (p.slotOf ppa)) f
  | _ => s

/-! ## Scratchpad homes -/

/-- Note that a core's port has applied a flit of a vintage (R452); system traffic counts for none. -/
def State.served (s : State) (site : Nat) (v : BitVec 32) : State :=
  if v = 0 then s else s.updCore site fun c => c.serve v

/-- A remote read at a scratchpad port: bytes or a refusal, or nothing while it stands behind a copy that lands here (R114,
R370). -/
def State.portRead (s : State) (site : Nat) (v : BitVec 32) (laddr n : Nat) : Option (Except (BitVec 5) (List Byte)) :=
  match placeOfLocal laddr with
  | .win w o =>
    let sp := winSpan w o n
    if s.openGate site sp.1 sp.2 then none else some (s.readWindow site v .rload w o n false)
  | _ => some (.error causeProt)

/-- The reads of a copy request at a scratchpad port: pieces of bytes by destination place, or a refusal, or nothing while
one of them must wait (R356, R370). -/
def State.portReads (s : State) (site : Nat) (v : BitVec 32) :
    List (Nat × Nat × Nat) → Option (Except (BitVec 5) (List (Nat × List Byte)))
  | [] => some (.ok [])
  | (a, n, dst) :: t =>
    match s.portRead site v a n with
    | none => none
    | some (.error c) => some (.error c)
    | some (.ok b) =>
      match s.portReads site v t with
      | some (.ok l) => some (.ok ((dst, b) :: l))
      | r => r

/-- Send the landing of a copy request from its source home (R362, R389). -/
def State.sendLanding (s : State) (f : Flit) (dep : Nat) (k : LandKey) (pieces : List (Nat × List Byte)) : State :=
  match s.part? f.part with
  | none => s
  | some p => s.send f.part (p.siteOf f.dep) (isRimEp f.dep) f.dep dep 9 0 0 f.vint (.landing pieces k)

/-- Serve a remote load, GETA or copy request at a scratchpad port; nothing while it must wait. -/
def State.servePort (s : State) (site : Nat) (f : Flit) : Option State :=
  let go := fun (laddr n : Nat) =>
    match s.portRead site f.vint laddr n with
    | none => none
    | some (.ok b) => some (s.answer f (.data b 0 false false none))
    | some (.error c) => some (s.answer f (.data [] 0 false false (some c)))
  match f.body with
  | .load (.core a) n _ _ => go a n
  | .geta (.core a) n => go a n
  | .copyRead reads _ dep k =>
    match s.portReads site f.vint reads with
    | none => none
    | some (.ok pieces) => some (s.sendLanding f dep k pieces)
    | some (.error c) => some (s.answer f (.landAck k [f.dep] [] (some c)))
  | _ => some s

/-- Serve a remote read at a port, or keep it there. -/
def State.readAtPort (s : State) (site : Nat) (f : Flit) : State :=
  match (s.served site f.vint).servePort site f with
  | some t => t
  | none => s.updCore site fun c => { c with waitReads := c.waitReads ++ [f] }

/-- Serve again the reads that wait at a port (R370). -/
def State.retryReads (s : State) (site : Nat) : State :=
  let l := (s.core site).waitReads
  l.foldl (fun t f => t.readAtPort site f) (s.updCore site fun c => { c with waitReads := [] })

/-! ## Events -/

/-- LOAD_REQUEST (R114, R138, R443, R508): a home reads and replies: the bytes asked for or their whole line, with the sticky bits of
the folds among the bytes asked for. -/
def execLoadRequest (part ep : Nat) (s : State) : Out :=
  match s.takeIn part ep .request with
  | some (f, s1) =>
    match f.body, s1.part? part with
    | .load (.rim ppa) n committed line, some p =>
      let from' := if line then ppa / 64 * 64 else ppa
      let len := if line then 64 else n
      let s2 := s1.readAtHome p f.vint from' len
      .next (s2.answer f (.data (s2.homeLoad p f.vint committed from' len).1 (s2.homeLoad p f.vint committed ppa n).2 false false none))
    | .load (.core _) .., some p => .next (s1.readAtPort (p.siteOf ep) f)
    | _, _ => .next s
  | none => .next s

/-- STORE_REQUEST (R114, R179, R441, R459, R460). -/
def execStoreRequest (part ep : Nat) (s : State) : Out :=
  match s.takeIn part ep .request with
  | some (f, s1) =>
    match f.body, s1.part? part with
    | .store (.rim _) .., some p => .next (s1.serveRim p f)
    | .row off data nmask, some p =>
      let site := p.siteOf ep
      .next ((s1.served site f.vint).arriveWrite site f.vint (.remote f) (.row off data nmask) false)
    | .store (.core off) data _, some p =>
      let site := p.siteOf ep
      .next ((s1.served site f.vint).arriveWrite site f.vint (.remote f) (.store off data) false)
    | _, _ => .next s
  | none => .next s

/-- ATOMIC_REQUEST (R114, R132, R136, R205). -/
def execAtomicRequest (part ep : Nat) (s : State) : Out :=
  match s.takeIn part ep .request with
  | some (f, s1) =>
    match f.body, s1.part? part with
    | .atomic (.rim _) _, some p => .next (s1.serveRim p f)
    | .atomic (.core off) a, some p =>
      let site := p.siteOf ep
      .next ((s1.served site f.vint).arriveWrite site f.vint (.remote f) (.atomic off a) a.valued)
    | _, _ => .next s
  | none => .next s

/-- ACTIVE_MESSAGE (R194, R195): a GETA is read in one piece, a PUTA is delivered or enters the cask. -/
def execActiveMessage (part ep : Nat) (s : State) : Out :=
  match s.takeIn part ep .request with
  | some (f, s1) =>
    match f.body, s1.part? part with
    | .geta (.rim ppa) n, some p =>
      let s2 := s1.readAtHome p f.vint ppa n
      let r := s2.homeLoad p f.vint false ppa n
      .next (s2.answer f (.data r.1 r.2 false false none))
    | .geta (.core _) _, some p => .next (s1.readAtPort (p.siteOf ep) f)
    | .puta (.rim _) _, some p => .next (s1.serveRim p f)
    | .puta (.core off) data, some p =>
      let site := p.siteOf ep
      .next ((s1.served site f.vint).arriveWrite site f.vint (.remote f) (.store off data) false)
    | _, _ => .next s
  | none => .next s

/-- RECORD_OPERATION (R210, R211): a home performs an operation of another party. A record outside every declared buffer
is refused. -/
def execRecordOperation (part ep : Nat) (s : State) : Out :=
  match s.takeIn part ep .request with
  | some (f, s1) =>
    match f.body, s1.part? part with
    | .recop (.rim _) .., some p => .next (s1.serveRim p f)
    | .recop (.core off) _ o, some p =>
      let site := p.siteOf ep
      if ((s1.core site).bufAt f.vint off 64).isNone then .next (s1.answer f (.ack (some causeProt) 0))
      else
        let r := (s1.served site f.vint).recAtScr site f.vint off o f.sep f.seq
        .next (r.1.answer f (.ack r.2.refused r.2.status))
    | _, _ => .next s
  | none => .next s

/-- WRITE_QUEUE_DRAIN (R122): the oldest unsent entry of a context goes to its home. -/
def execWriteQueueDrain (site ctx : Nat) (s : State) : Out :=
  let c := s.core site
  match c.wq.find? fun e => e.ctx == ctx && !e.sent, s.partAt site with
  | some e, some p =>
    let dep := p.slotEp e.line
    if !s.coreCanSend site dep then .next s
    else
      let s1 := s.setCore site { c with wq := c.wq.map fun x => if x = e then { x with sent := true } else x }
      .next (s1.sendFromCore site dep ctx (e.ids.headD 0) 0 e.vint (.store (.rim e.line) e.data e.mask))
  | _, _ => .next s

/-- The acknowledgement of a queued write (R121, R122): its operations complete, the cached copy of the line is updated,
the entry leaves. -/
def State.wqAnswered (s : State) (site ctx : Nat) (e : WqEntry) (refused : Option (BitVec 5)) : State :=
  let c := s.core site
  let c1 := { c with wq := c.wq.erase e }
  let c2 := if refused.isSome then c1 else c1.updateLine e.vint e.line e.mask e.data
  let s1 := e.ids.foldl (fun t id => t.complete site ctx id { refused := refused }) (s.setCore site c2)
  s1.due (.writeQueueDrain site ctx)

end Sys2Proof.Machine
end

