-- ==== Sys2Proof/Machine/Channels.lean ====
section
/-!
DEFINITION. The memory channels: the choice of the stored code (R507) and the retirement of a channel (R513-R515).
-/

namespace Sys2Proof.Machine

open Sys2Proof

/-- The transitions of a code in a window. -/
def Rim.cost (r : Rim) (code : Nat) : Nat := if code = 0 then r.trans.1 else if code = 1 then r.trans.2.1 else r.trans.2.2

/-- The code for the next window (R507): the one with the fewest transitions when it saves at least 1/16 of the count of the
code in use. -/
def Rim.bestCode (r : Rim) : Nat :=
  let u := r.code.toNat
  let best := [0, 1, 2].foldl (fun m k => if r.cost k < r.cost m then k else m) u
  if best ≠ u ∧ r.cost u ≤ 16 * (r.cost u - r.cost best) then best else u

/-- CODE_WINDOW_END (R507): after 2^20 write bursts a channel in automatic mode picks the code for new writes. -/
def execCodeWindowEnd (chan : Nat) (s : State) : Out :=
  let r := s.rim chan
  if r.bursts < codeWindow then .next s
  else
    let code := if r.mode = 0 then BitVec.ofNat 2 r.bestCode else r.code
    .next (s.setRim chan { r with code := code, bursts := 0, trans := (0, 0, 0) })

/-- The blocks of a slot (R513), and the spare blocks of a channel (R512). -/
def slotBlocks : Nat := 31744
def spareBlocks : Nat := 1024

/-- The module channels of a partition. -/
def Part.chans (p : Part) : List Nat := (List.range p.slots).map p.chanOf

/-- The table entries of other slots whose spare block lies on a channel, oldest slot first: slot's channel and block. -/
def State.lentBy (s : State) (p : Part) (chan : Nat) : List (Nat × Nat) :=
  p.chans.flatMap fun c => if c = chan then [] else ((s.rim c).blocks.filter fun e => e.2.1 == chan).map fun e => (c, e.1)

/-- The free spare blocks of a partition's channels in service other than one. -/
def State.freeSpares (s : State) (p : Part) (chan : Nat) : Nat :=
  p.chans.foldl (fun n c =>
    if c = chan || (s.rim c).chState != 0 then n else n + (spareBlocks - (s.rim c).spares.length)) 0

/-- CHANNEL_RETIREMENT_REQUEST (R513, R514): a channel in service whose rq bit is written, or whose uncorrectable count has
reached 4, begins to retire; without room for its blocks the request is refused. -/
def execChannelRetirementRequest (chan : Nat) (s : State) : Out :=
  let r := s.rim chan
  if r.chState ≠ 0 ∨ (!r.rq && decide (r.uncorr.toNat < 4)) then .next s
  else
    match s.partOfBand (chan / 128) with
    | none => .next (s.setRim chan { r with rq := false })
    | some p =>
      let need := (slotBlocks - r.blocks.length) + (s.lentBy p chan).length
      if s.freeSpares p chan < need then .next (s.setRim chan { r with rq := false })
      else .next ((s.setRim chan { r with chState := 1, nextBlock := 0, donor := chan }).later (.blockMove chan))

/-- The donors of a partition in their cycle after a channel: in service, with a free spare block (R513). -/
def State.donors (s : State) (p : Part) (chan after : Nat) : List Nat :=
  let l := p.chans
  let order := l.filter (fun c => decide (after < c)) ++ l.filter fun c => decide (c ≤ after)
  order.filter fun c => c != chan && (s.rim c).chState == 0 && decide ((s.rim c).spares.length < spareBlocks)

/-- The next donor after a channel (R513). -/
def State.nextDonor (s : State) (p : Part) (chan after : Nat) : Option Nat := (s.donors p chan after).head?

/-- The lowest free spare block of a channel. -/
def Rim.freeSpare (r : Rim) : Nat := ((List.range spareBlocks).find? fun k => (Tbl.find? r.spares k).isNone).getD 0

/-- 64 KiB moved from one channel place to another: the bytes, and the code bytes of their bursts in the donor's code
(R506, R515). -/
def State.moveBlock (s : State) (c a d b : Nat) : State :=
  let lo := hbmAddr c a
  let mine := s.mem.filter fun e => decide (lo ≤ e.1) && decide (e.1 < lo + 65536)
  let dst := hbmAddr d b
  let rest := s.mem.filter fun e =>
    !(decide (lo ≤ e.1) && decide (e.1 < lo + 65536)) && !(decide (dst ≤ e.1) && decide (e.1 < dst + 65536))
  let s1 := { s with mem := mine.foldl (fun m (e : Host.Cell) => memSet m (dst + (e.1 - lo)) e.2) rest }
  let bursts := mine.foldl (fun (l : List Nat) e => if l.getLast? = some ((e.1 - lo) / 32) then l else l ++ [(e.1 - lo) / 32]) []
  let away := fun (first k : Nat) => decide (k < first) || decide (first + 2048 ≤ k)
  let drop := fun (r : Rim) (first : Nat) =>
    { r with burstCode := r.burstCode.filter fun e => away first e.1, weak := r.weak.filter fun e => away first e.1 }
  let s2 := s1.setRim c (drop (s1.rim c) (a / 32))
  let put := fun (r : Rim) (k : Nat) => r.burst (b / 32 + k) (memRead s1.mem (dst + 32 * k) 32)
  s2.setRim d (bursts.foldl put (drop (s2.rim d) (b / 32)))

/-- The channel byte of a spare block (R512). -/
def spareAt (k : Nat) : Nat := 0x7C000000 + 65536 * k

/-- The granules of block n of a slot that its copy from a channel byte cannot read: they join the lost list (R519). -/
def State.loseBlock (s : State) (p : Part) (slotChan n chan a : Nat) : State :=
  let bad := (s.rim chan).weak.filter fun e => e.2 && decide (a / 32 ≤ e.1) && decide (e.1 < a / 32 + 2048)
  let rows := bad.map fun e => 256 * n + (e.1 - a / 32) / 8
  let gs := (rows.filter fun r => decide (r < p.nrow)).map fun r => (r * p.slots + (slotChan - 128 * p.lead)) * 256
  if bad.isEmpty then s
  else
    (s.setRim chan ((s.rim chan).meet bad)).updPart p.lead fun q =>
      { q with lost := gs.foldl (fun l g => if l.contains g then l else l ++ [g]) q.lost }

/-- Block n of a slot goes from a channel byte to a donor's lowest free spare block (R513, R515). -/
def State.giveBlock (s : State) (p : Part) (slotChan n chan a d : Nat) : State :=
  let k := (s.rim d).freeSpare
  let t := (s.loseBlock p slotChan n chan a).moveBlock chan a d (spareAt k)
  let t1 := t.setRim d { t.rim d with spares := Tbl.put (t.rim d).spares k () }
  let q := t1.rim slotChan
  t1.setRim slotChan { q with blocks := Tbl.put q.blocks n (d, k), moved := Tbl.put q.moved n () }

/-- Where a block of a slot lies: channel and byte (R513, R515). -/
def Rim.blockPlace (r : Rim) (slotChan n : Nat) : Nat × Nat :=
  match Tbl.find? r.moved n, Tbl.find? r.blocks n with
  | some _, some (c, k) => (c, spareAt k)
  | _, _ => (slotChan, 65536 * n)

/-- The first of a slot's blocks that wait to be rebound goes to a spare block, as a retirement of one block (R519). -/
def State.rebindBlock (s : State) (p : Part) (chan n : Nat) (rest : List Nat) : State :=
  let s0 := s.setRim chan { s.rim chan with rebind := rest }
  let pl := (s.rim chan).blockPlace chan n
  let ds := s0.donors p chan chan
  match ds[n % ds.length]? with
  | none => s0
  | some d => (s0.giveBlock p chan n pl.1 pl.2 d).later (.blockMove chan)

/-- BLOCK_MOVE (R513, R515, R519): a block that waits to be rebound is moved; else the next block of a retiring channel goes to the
next donor's lowest free spare block; after the slot's own blocks, those it held for earlier retirements; with the last the channel
is retired. -/
def execBlockMove (chan : Nat) (s : State) : Out :=
  let r := s.rim chan
  match s.partOfBand (chan / 128) with
  | none => .next s
  | some p =>
    match r.rebind with
    | n :: rest => .next (s.rebindBlock p chan n rest)
    | [] =>
      if r.chState ≠ 1 then .next s
      else
        match s.nextDonor p chan r.donor with
        | none => .next s
        | some d =>
          if r.nextBlock < slotBlocks then
            let n := r.nextBlock
            let t := if (Tbl.find? r.blocks n).isSome then s else s.giveBlock p chan n chan (65536 * n) d
            .next ((t.setRim chan { t.rim chan with nextBlock := n + 1, donor := d }).later (.blockMove chan))
          else
            match s.lentBy p chan with
            | [] => .next (s.setRim chan { r with chState := 2, rq := false, spares := [] })
            | (c, n) :: _ =>
              let old := ((Tbl.find? (s.rim c).blocks n).map (·.2)).getD 0
              let t := s.giveBlock p c n chan (spareAt old) d
              .next ((t.setRim chan { t.rim chan with donor := d }).later (.blockMove chan))

/-- nrow of a partition (R512): the largest multiple of 256 within its bound that leaves enough free spare blocks for one further
retirement. -/
def State.nrowOf (s : State) (p : Part) : Nat :=
  let free := p.chans.foldl (fun n c => if (s.rim c).chState != 0 then n else n + (spareBlocks - (s.rim c).spares.length)) 0
  let room := free - spareBlocks
  min 7405568 (256 * (room - (slotBlocks - 7405568 / 256)))

end Sys2Proof.Machine
end

