-- ==== Sys2Proof/Machine/Shape.lean ====
section
/-!
DEFINITION. Shape records: their fields (R268, R276), the checks on a record that enters a slot (R270), slicing (R271), the
elements of an operand and the stored bytes they lie at (R269, R101-R105), and the spans that accesses compare by (R280,
R285).
-/

namespace Sys2Proof.Machine

open Sys2Proof

/-! ## Fields -/

/-- Word i of a record. -/
def Shape.word (k : Shape) (i : Nat) : Word :=
  match i with
  | 0 => k.w0 | 1 => k.w1 | 2 => k.w2 | 3 => k.w3 | 4 => k.w4 | 5 => k.w5 | 6 => k.w6 | _ => k.w7

/-- The record with another word i. -/
def Shape.setWord (k : Shape) (i : Nat) (v : Word) : Shape :=
  match i with
  | 0 => { k with w0 := v } | 1 => { k with w1 := v } | 2 => { k with w2 := v } | 3 => { k with w3 := v }
  | 4 => { k with w4 := v } | 5 => { k with w5 := v } | 6 => { k with w6 := v } | _ => { k with w7 := v }

/-- Where a field lies (R268, R276): its word, lowest bit, width and whether it is signed. -/
def shapeField : Nat → Nat × Nat × Nat × Bool
  | 0 => (0, 0, 56, false) | 1 => (0, 56, 5, false) | 2 => (0, 61, 1, false)
  | 3 => (1, 0, 16, false) | 4 => (1, 16, 16, false) | 5 => (1, 32, 16, false) | 6 => (1, 48, 16, false)
  | 7 => (2, 0, 32, true) | 8 => (2, 32, 32, true) | 9 => (3, 0, 32, true) | 10 => (3, 32, 32, true)
  | 11 => (4, 0, 32, true) | 12 => (4, 32, 1, false) | 13 => (4, 33, 2, false) | 14 => (4, 40, 16, false)
  | 15 => (5, 0, 32, false) | 16 => (5, 32, 16, false)
  | 17 => (6, 0, 8, false) | 18 => (6, 8, 8, false) | 19 => (6, 16, 4, false) | 20 => (6, 20, 4, false)
  | 21 => (6, 24, 4, false) | 22 => (6, 28, 4, false) | 23 => (6, 32, 8, false) | 24 => (6, 40, 8, false)
  | 25 => (6, 48, 8, false) | 26 => (6, 56, 8, false)
  | 27 => (7, 0, 32, false) | 28 => (7, 32, 16, false) | _ => (7, 48, 1, false)

/-- A field's unsigned contents. -/
def Shape.fld (k : Shape) (f : Nat) : Nat :=
  let p := shapeField f
  (k.word p.1).toNat / 2 ^ p.2.1 % 2 ^ p.2.2.1

/-- A field as SHGET delivers it: the signed ones sign-extended (R276). -/
def Shape.fldWord (k : Shape) (f : Nat) : Word :=
  let p := shapeField f
  let v := k.fld f
  if p.2.2.2 ∧ 2 ^ (p.2.2.1 - 1) ≤ v then BitVec.ofInt 64 ((v : Int) - 2 ^ p.2.2.1) else BitVec.ofNat 64 v

/-- The record with a field replaced by the low bits of a value. -/
def Shape.setFld (k : Shape) (f : Nat) (v : Nat) : Shape :=
  let p := shapeField f
  let w := (k.word p.1).toNat
  let old := w / 2 ^ p.2.1 % 2 ^ p.2.2.1
  k.setWord p.1 (BitVec.ofNat 64 (w - old * 2 ^ p.2.1 + v % 2 ^ p.2.2.1 * 2 ^ p.2.1))

/-- Whether a value of x[a] equals its truncation to a field (R276). -/
def fitsField (f : Nat) (v : Word) : Bool :=
  let p := shapeField f
  if p.2.2.2 then decide (-(2 ^ (p.2.2.1 - 1) : Int) ≤ v.toInt) && decide (v.toInt < 2 ^ (p.2.2.1 - 1))
  else decide (v.toNat < 2 ^ p.2.2.1)

/-- base. -/
def Shape.base (k : Shape) : Nat := k.fld 0
/-- cplx. -/
def Shape.cplx (k : Shape) : Bool := k.fld 2 == 1
/-- size_d. -/
def Shape.size (k : Shape) (d : Nat) : Nat := k.fld (3 + d)
/-- stride_d. -/
def Shape.stride (k : Shape) (d : Nat) : Int := (k.fldWord (7 + d)).toInt
/-- lstride. -/
def Shape.lstride (k : Shape) : Int := (k.fldWord 11).toInt
/-- tabv. -/
def Shape.tabv (k : Shape) : Bool := k.fld 29 == 1
/-- Whether the slot is empty (R274). -/
def Shape.isEmpty (k : Shape) : Bool := k.base == 0
/-- The number of elements. -/
def Shape.count (k : Shape) : Nat := k.size 0 * k.size 1 * k.size 2 * k.size 3

/-- A record from its 64 bytes. -/
def shapeOf (l : List Byte) : Shape :=
  let w := fun i => BitVec.ofNat 64 (wordAt l i)
  ⟨w 0, w 1, w 2, w 3, w 4, w 5, w 6, w 7, 0, 0, false, false⟩

/-- A record's 64 bytes (R278). -/
def Shape.bytes (k : Shape) : List Byte := (List.range 8).flatMap fun i => leBytes 8 (k.word i).toNat

/-! ## Validity and slicing -/

/-- Whether the reserved bits of R268 are zero. -/
def Shape.reservedZero (k : Shape) : Bool :=
  k.w0.toNat / 2 ^ 62 == 0 && k.w4.toNat / 2 ^ 35 % 2 ^ 5 == 0 && k.w4.toNat / 2 ^ 56 == 0 && k.w5.toNat / 2 ^ 48 == 0
    && k.w7.toNat / 2 ^ 49 == 0

/-- Whether size_d is 0 by the slicing of R271, which leaves pdim and a pchunk of at least 1. -/
def Shape.slicedAway (k : Shape) (d : Nat) : Bool := k.size d == 0 && k.fld 13 == d && decide (1 ≤ k.fld 14)

/-- The checks of R270; `excused` lists the dimensions whose size may be 0. -/
def Shape.valid (k : Shape) (excused : List Nat) : Bool :=
  k.reservedZero && decide (k.fld 1 ≤ 0x0E)
    && (List.range 4).all (fun d => k.size d != 0 || excused.contains d)
    && decide (k.count ≤ 4194304) && (k.fld 12 == 0 || decide (1 ≤ k.fld 14))

/-- A record as it enters the slots of a core (R271). -/
def Shape.slice (k : Shape) (lcn : Nat) : Shape :=
  if k.fld 12 = 1 then
    let d := k.fld 13
    let s := k.size d
    let porg := min (lcn * k.fld 14) s
    ((k.setFld 15 porg).setFld (3 + d) (min (k.fld 14) (s - porg))).setFld 12 0
  else k

/-! ## Operands -/

/-- The place of an operand's base: its local address (R268). -/
def Shape.place (k : Shape) (lcn : Nat) : Place :=
  let a := ownLocal lcn (BitVec.ofNat 56 k.base)
  match spaceOf a with
  | .loc => placeOfLocal a.toNat
  | _ => .bad

/-- Whether the base is an alias window other than raw. -/
def Shape.aliased (k : Shape) (lcn : Nat) : Bool :=
  match k.place lcn with
  | .win w _ => w != 0
  | _ => false

/-- The delivered type of an operand (R281); a raw or private cb4 has none. -/
def Shape.dtype (k : Shape) (lcn : Nat) : Option DType :=
  match k.place lcn with
  | .win 0 _ | .priv _ | .param _ _ | .bad =>
    match dtypeOf (k.fld 1) with
    | .ok .cb4 | .ok .acc96 | .error _ => none
    | .ok t => some t
  | .win w _ => some (if w = 2 then .f16 else .bf16)

/-- The element offset of an index, a dimension of size 1 taken as 0, in a repetition (R269, R282). -/
def Shape.offset (k : Shape) (idx : List Nat) (r : Nat) : Int :=
  (List.range 4).foldl (fun (o : Int) d => if k.size d = 1 then o else o + (idx.getD d 0 : Int) * k.stride d)
    ((r : Int) * k.lstride)

/-- The unit offset of component c of an element (R269). -/
def Shape.unit (k : Shape) (idx : List Nat) (r c : Nat) : Int :=
  let o := k.offset idx r
  if k.cplx then 2 * o + c else o

/-- The index of the n-th element in visiting order, i0 fastest (R269). -/
def Shape.index (k : Shape) (n : Nat) : List Nat :=
  [n % k.size 0, n / k.size 0 % k.size 1, n / (k.size 0 * k.size 1) % k.size 2,
    n / (k.size 0 * k.size 1 * k.size 2) % k.size 3]

/-- The components of an element. -/
def Shape.comps (k : Shape) : Nat := if k.cplx then 2 else 1

/-- The bytes of the delivered elements' storage: the element width of a raw or private base in bits. -/
def Shape.width (k : Shape) : Nat :=
  match dtypeOf (k.fld 1) with
  | .ok t => t.width
  | .error _ => 8

/-- The chunk U of a swizzle in bytes (R319). -/
def Shape.swzUnit (k : Shape) : Nat := 16 * 2 ^ (k.fld 16 % 4)

/-- The XOR bits of a swizzle (R319). -/
def Shape.swzBits (k : Shape) : Nat := k.fld 16 / 4 % 8

/-- The span z of a swizzle: one row of the operand (R319). -/
def Shape.swzSpan (k : Shape) : Nat := k.swzUnit * 2 ^ k.swzBits

/-- A byte offset from the base, remapped by the swizzle when there is one (R319). -/
def Shape.remap (k : Shape) (o : Int) : Int :=
  if k.fld 16 = 0 then o
  else
    let z := (k.swzSpan : Int)
    let q := o / z
    let c := (o % z).toNat / k.swzUnit
    q * z + ((c ^^^ (q % 2 ^ k.swzBits).toNat) * k.swzUnit : Nat) + (o % k.swzUnit)

/-- The address of a unit, as an exact integer (R269, R319). -/
def Shape.unitAddr (k : Shape) (lcn : Nat) (u : Int) : Int :=
  let b := ((ownLocal lcn (BitVec.ofNat 56 k.base)).toNat : Int)
  if k.aliased lcn then b + 2 * u
  else if k.width = 4 then b + u.fdiv 2
  else b + k.remap (u * (k.width / 8 : Nat))

/-- The cause at a base outside the local space, where no operand lies (R268, R113). -/
def Shape.outside (k : Shape) (lcn : Nat) : BitVec 5 :=
  match spaceOf (ownLocal lcn (BitVec.ofNat 56 k.base)) with
  | .loc | .peer | .reserved => causeXlate
  | .remote | .global | .committed => causeProt

/-- The stored bytes of a unit, as scratchpad offsets of the core (R101, R104, R109, R110): XLATE where nothing is mapped,
PROT where the address leaves the window of the base or names a reserved sub-view. -/
def Shape.stored (k : Shape) (lcn n : Nat) (u : Int) : Except (BitVec 5) (List Nat) :=
  let a := k.unitAddr lcn u
  let len := if k.width = 4 then 1 else k.width / 8
  if a < 0 then .error causeXlate
  else
    match k.place lcn, placeOfLocal a.toNat with
    | .bad, _ => .error (k.outside lcn)
    | _, .bad => .error causeXlate
    | .priv _, .priv o =>
      if o + len ≤ 0x4000 then .ok ((List.range len).map (privBase n + o + ·)) else .error causeXlate
    | .win 0 _, .win 0 o => .ok ((List.range len).map (o + ·))
    | .win w _, .win w' o =>
      if w ≠ w' then .error causeProt
      else
        let sub := if w = 7 then o / 2 ^ 24 else 0
        match winStored w sub ((if w = 7 then o % 2 ^ 24 else o) / 2) with
        | some l => .ok l
        | none => .error causeProt
    | _, _ => .error causeProt

/-- The least and greatest unit offset of a repetition; none when there is no element. -/
def Shape.unitRange (k : Shape) (r : Nat) : Option (Int × Int) :=
  if k.count = 0 then none
  else
    let e := extents ((List.range 4).map fun d => (k.size d, k.stride d))
    let o := (r : Int) * k.lstride
    if k.cplx then some (2 * (e.1 + o), 2 * (e.2 + o) + 1) else some (e.1 + o, e.2 + o)

/-- Whether reading a unit reads a table at the start of the buffer that holds its code (R105): a unit of window 6, or of
sub-view 4 of window 7. -/
def Shape.tabledAt (k : Shape) (lcn : Nat) (u : Int) : Bool :=
  match k.place lcn, placeOfLocal (k.unitAddr lcn u).toNat with
  | .win 6 _, .win 6 _ => true
  | .win 7 _, .win 7 o => o / 2 ^ 24 == 4
  | _, _ => false

/-- The bytes of a table (R90). -/
def tableBytes : Nat := 32

/-- Every stored byte that a unit needs, its table's among them (R102, R105, R106): PROT where its code lies in no declared
buffer. -/
def Shape.reach (k : Shape) (c : Core) (v : BitVec 32) (lcn n : Nat) (u : Int) : Except (BitVec 5) (List Nat) :=
  match k.stored lcn n u with
  | .error x => .error x
  | .ok l =>
    if k.tabledAt lcn u then
      match c.bufAt v (l.getLastD 0) 1 with
      | some (_, q) => .ok (l ++ (List.range tableBytes).map (q.base + ·))
      | none => .error causeProt
    else .ok l

/-- The units of every element in a repetition. -/
def Shape.units (k : Shape) (r : Nat) : List Int :=
  (List.range k.count).flatMap fun e => (List.range k.comps).map fun q => k.unit (k.index e) r q

/-- The units whose stored bytes are lowest and highest: those of the extreme offsets, or, where a swizzle reorders the
bytes, those of the extreme addresses. -/
def Shape.extremeUnits (k : Shape) (lcn r : Nat) : Option (Int × Int) :=
  if k.fld 16 = 0 then k.unitRange r
  else
    match k.units r with
    | [] => none
    | u :: t => some (t.foldl (fun (m : Int × Int) v =>
        (if k.unitAddr lcn v < k.unitAddr lcn m.1 then v else m.1, if k.unitAddr lcn m.2 < k.unitAddr lcn v then v else m.2))
        (u, u))

/-- The sub-view of window 7 that a unit lies in; none elsewhere (R104). -/
def Shape.subView (k : Shape) (lcn : Nat) (u : Int) : Option Nat :=
  match k.place lcn, placeOfLocal (k.unitAddr lcn u).toNat with
  | .win 7 _, .win 7 o => some (o / 2 ^ 24)
  | _, _ => none

/-- The units that bound an operand's stored bytes: the two extreme ones, or every one where the operand reaches several
sub-views of window 7, each of which begins again at scratchpad offset 0 (R104). -/
def Shape.spanUnits (k : Shape) (lcn r : Nat) : List Int :=
  match k.extremeUnits lcn r with
  | none => []
  | some (lo, hi) => if k.subView lcn lo = k.subView lcn hi then [lo, hi] else k.units r

/-- How the span of an operand stands: no element, a fault of an address, or the offsets from lowest to end. -/
inductive Spans where
  | none
  | fault (cause : BitVec 5)
  | ok (lo hi : Nat)
  deriving DecidableEq, Repr

/-- A span with the bytes of one more unit; of two faults XLATE comes first (R119). -/
def Spans.join (sp : Spans) (x : Except (BitVec 5) (List Nat)) : Spans :=
  match sp, x with
  | .none, .error e => .fault e
  | .ok _ _, .error e => .fault e
  | .fault f, .error e => .fault (if f = causeXlate ∨ e = causeXlate then causeXlate else f)
  | .fault f, .ok _ => .fault f
  | .none, .ok l => .ok (l.foldl min (l.headD 0)) (l.foldl max 0 + 1)
  | .ok lo hi, .ok l => .ok (l.foldl min lo) (max hi (l.foldl max 0 + 1))

/-- The span of an operand in a repetition: from the lowest to the highest stored byte that its elements reach (R280). -/
def Shape.span (k : Shape) (c : Core) (v : BitVec 32) (lcn n r : Nat) : Spans :=
  (k.spanUnits lcn r).foldl (fun sp u => sp.join (k.reach c v lcn n u)) .none

/-- The local address of a stored byte: in the private window of context n, or raw. -/
def localOf (priv : Bool) (n off : Nat) : Addr :=
  if priv then BitVec.ofNat 56 (0x8000000 + (off - privBase n)) else BitVec.ofNat 56 (0x10000000 + off)

/-- Whether the base lies in the private window. -/
def Shape.isPriv (k : Shape) (lcn : Nat) : Bool :=
  match k.place lcn with
  | .priv _ => true
  | _ => false

/-- The address that a data fault of an operand reports: the lowest stored byte of its span, or, where none of its bounding
units has a stored byte, its lowest address (R280). -/
def Shape.faddr (k : Shape) (c : Core) (v : BitVec 32) (lcn n r : Nat) : Addr :=
  let stored := (k.spanUnits lcn r).filterMap fun u => (k.reach c v lcn n u).toOption
  match stored.flatten, k.extremeUnits lcn r with
  | a :: t, _ => localOf (k.isPriv lcn) n (t.foldl min a)
  | [], some (lo, _) => BitVec.ofInt 56 (k.unitAddr lcn lo)
  | [], Option.none => BitVec.ofNat 56 k.base

/-- The size that the base of an operand is aligned to (R280). -/
def Shape.align (k : Shape) (lcn : Nat) : Nat := if k.aliased lcn then 2 else if k.width = 4 then 1 else k.width / 8

/-- The data checks of an operand in one repetition, in the order of R119 with R273 and R284: a cause, or none. A `write`
is a destination. -/
def Shape.dataCheck (k : Shape) (c : Core) (v : BitVec 32) (lcn n r : Nat) (write : Bool) : Option (BitVec 5) :=
  if k.count = 0 then Option.none
  else if k.base % k.align lcn ≠ 0 then some causeMisalign
  else
    match k.span c v lcn n r with
    | .none => Option.none
    | .fault cause => some cause
    | .ok lo hi =>
      let inPriv := k.isPriv lcn
      let b := c.bufAt v lo (hi - lo)
      if write && k.aliased lcn then some causeProt
      else if k.tabv && (decide ((localOf inPriv n lo).toNat < k.lo.toNat) || decide (k.hi.toNat < (localOf inPriv n (hi - 1)).toNat)
          || !(if write then k.wr else k.rd)) then some causeProt
      else if inPriv then Option.none
      else
        match b with
        | Option.none => some causeProt
        | some (_, q) =>
          if (if write then q.ownerWrites n else q.admits (.engine n)) then Option.none else some causeBufstate

/-- The stored bytes that the elements of an operand reach in one repetition, their tables' among them, as offsets (R105,
R283). -/
def Shape.byteSet (k : Shape) (c : Core) (v : BitVec 32) (lcn n r : Nat) : List Nat :=
  (k.units r).flatMap fun u =>
    match k.reach c v lcn n u with
    | .ok l => l
    | .error _ => []

/-- Whether two operands share a stored byte in a repetition (R283): by their spans, then byte by byte. -/
def Shape.shares (a b : Shape) (c : Core) (v : BitVec 32) (lcn n r : Nat) : Bool :=
  match a.span c v lcn n r, b.span c v lcn n r with
  | .ok al ah, .ok bl bh =>
    decide (al < bh) && decide (bl < ah) &&
      (let s := b.byteSet c v lcn n r
       (a.byteSet c v lcn n r).any fun x => s.contains x)
  | _, _ => false

/-- Whether a destination aliases itself (R283). -/
def Shape.aliasesItself (k : Shape) : Bool :=
  (List.range 4).any fun d => decide (1 < k.size d) &&
    decide (k.stride d < 1 + (List.range d).foldl (fun (e : Int) q => e + k.stride q * ((k.size q : Int) - 1)) 0)

/-- Whether two records describe the same elements in a repetition (R283). -/
def Shape.sameAs (a b : Shape) (r : Nat) : Bool :=
  a.base == b.base && a.fld 1 == b.fld 1 && a.cplx == b.cplx
    && (List.range 4).all (fun d => a.size d == b.size d && a.stride d == b.stride d)
    && (r : Int) * a.lstride == (r : Int) * b.lstride

/-! ## Reading and writing elements -/

/-- The delivered pattern of a unit of an operand (R101-R106, R269); 0 where nothing lies. -/
def State.unitRead (s : State) (site : Nat) (v : BitVec 32) (n : Nat) (k : Shape) (u : Int) (ftz : Bool) : Nat :=
  let lcn := (s.lcnOf site).getD 0
  let rd := fun (o : Nat) => memGet s.mem (scrAddr site o)
  match k.stored lcn n u with
  | .error _ => 0
  | .ok l =>
    match k.place lcn with
    | .win 0 _ | .priv _ | .param _ _ | .bad =>
      let bytes := leNat (l.map rd)
      if k.width = 4 then bytes / (if u % 2 = 1 then 16 else 1) % 16 else bytes
    | .win w _ =>
      let o := (k.unitAddr lcn u).toNat - (if w = 7 then 0x18000000 else 0x10000000 + 0x1000000 * w)
      let sub := if w = 7 then o / 2 ^ 24 else 0
      let table := match (s.core site).bufAt v (l.getLastD 0) 1 with
        | some (_, b) => b.base
        | none => 0
      winElem rd w sub ((if w = 7 then o % 2 ^ 24 else o) / 2) table ftz

/-- Write a unit of a raw or private operand, an i4 into its nibble (R83, R269). -/
def State.unitWrite (s : State) (site : Nat) (v : BitVec 32) (n : Nat) (k : Shape) (u : Int) (bits : Nat) : State :=
  match k.stored ((s.lcnOf site).getD 0) n u with
  | .error _ => s
  | .ok l =>
    let off := l.headD 0
    if k.width = 4 then
      let old := (memGet s.mem (scrAddr site off)).toNat
      let nw := if u % 2 = 1 then old % 16 + 16 * (bits % 16) else old / 16 * 16 + bits % 16
      s.scrStore site v off [BitVec.ofNat 8 nw]
    else s.scrStore site v off (leBytes (k.width / 8) bits)

end Sys2Proof.Machine
end

