-- ==== Sys2Proof/Machine/VecMath.lean ====
section
/-!
DEFINITION. The element arithmetic of the vector sequencer (R294-R297), the transcendentals with their tables
(R298-R303), conversion (R304), and the lane order of VRSUM (R306).
-/

namespace Sys2Proof.Machine

open Sys2Proof

/-! ## FP32 steps (R298) -/

/-- The FP32 value nearest to a value, no flush, no sticky bit. -/
def near32 (v : Val) : Val := f32Val (encodeFloat fmtF32 v .rne false false 0).bits

/-- add32. -/
def add32 (a b : Val) : Val := near32 (addVal false a b).val
/-- mul32. -/
def mul32 (a b : Val) : Val := near32 (mulVal a b).val
/-- fma32. -/
def fma32 (p q s : Val) : Val := near32 (fmaVal false p q s).val

/-- A value times 2^m. -/
def shiftVal (v : Val) (m : Int) : Val :=
  match v with
  | .fin n a e ab => .fin n a (e + m) ab
  | .inf n => .inf n
  | .nan => .nan

/-- An FP32 constant of a table. -/
def tab32 (t : List Nat) (j : Nat) : Val := f32Val (t.getD j 0)

/-- TEXP[j]: 2^(j/16) (R299). -/
def tExp : List Nat :=
  [0x3F800000, 0x3F85AAC3, 0x3F8B95C2, 0x3F91C3D3, 0x3F9837F0, 0x3F9EF532, 0x3FA5FED7, 0x3FAD583F, 0x3FB504F3, 0x3FBD08A4,
    0x3FC5672A, 0x3FCE248C, 0x3FD744FD, 0x3FE0CCDF, 0x3FEAC0C7, 0x3FF5257D]

/-- TLOG[j]: log2(1 + j/16) (R299). -/
def tLog : List Nat :=
  [0x00000000, 0x3DB31FB8, 0x3E2E00D2, 0x3E7DE0B6, 0x3EA4D3C2, 0x3EC8DDD4, 0x3EEB3A9F, 0x3F060828, 0x3F15C01A, 0x3F24D3C2,
    0x3F335004, 0x3F41404F, 0x3F4EAED0, 0x3F5BA4A4, 0x3F6829FB, 0x3F744636]

/-- TINV[j]: 1 / (1 + j/16) (R299). -/
def tInv : List Nat :=
  [0x3F800000, 0x3F70F0F1, 0x3F638E39, 0x3F579436, 0x3F4CCCCD, 0x3F430C31, 0x3F3A2E8C, 0x3F321643, 0x3F2AAAAB, 0x3F23D70A,
    0x3F1D89D9, 0x3F17B426, 0x3F124925, 0x3F0D3DCB, 0x3F088889, 0x3F042108]

/-- TSEED[j]: 1 / (1 + (2j + 1)/32) (R299). -/
def tSeed : List Nat :=
  [0x3F783E10, 0x3F6A0EA1, 0x3F5D67C9, 0x3F520D21, 0x3F47CE0C, 0x3F3E82FA, 0x3F360B61, 0x3F2E4C41, 0x3F272F05, 0x3F20A0A1,
    0x3F1A90E8, 0x3F14F209, 0x3F0FB824, 0x3F0AD8F3, 0x3F064B8A, 0x3F020821]

/-- TRSQ[j]: 1 / sqrt(q) (R299). -/
def tRsq : List Nat :=
  [0x3F785B42, 0x3F6AEBF5, 0x3F5F7483, 0x3F5584CD, 0x3F4CCCCD, 0x3F4511A3, 0x3F3E26EB, 0x3F37EA74, 0x3F2F9D53, 0x3F261D5F,
    0x3F1E01B3, 0x3F16FB06, 0x3F10D0C3, 0x3F0B5948, 0x3F067532, 0x3F020C52]

/-- A nonzero magnitude as e and F with |x| = 2^e·(1 + F/2^23) (R299); an operand of class F has at most 24 bits. -/
def splitVal (m : Nat) (e : Int) : Int × Nat :=
  let l := Nat.log2 m
  (e + l, (m * 2 ^ (23 - l) / 2 ^ (l - 23)) - 2 ^ 23)

/-- The value f = 1 + F/2^23. -/
def fracVal (fr : Nat) : Val := .fin false (2 ^ 23 + fr) (-23) false

/-- 1, as a value. -/
def oneVal : Val := .fin false 1 0 false

/-- VEXP2 (R300). -/
def exp2Val (x : Val) : Res :=
  match x with
  | .nan => ⟨.nan, false⟩
  | .inf n => ⟨if n then .zero false else .inf false, false⟩
  | .fin n m e _ =>
    if leVal (.fin false 128 0 false) x then ⟨.fin false 1 128 false, false⟩
    else if ltVal x (.fin true 160 0 false) then ⟨.fin false 1 (-160) false, false⟩
    else
      let a : Int := if n then -(m : Int) else m
      let k : Int := if 0 ≤ e + 4 then a * 2 ^ (e + 4).toNat else a.fdiv (2 ^ (-(e + 4)).toNat)
      let j := (k % 16).toNat
      let mm := (k - k % 16) / 16
      let t := add32 x (.fin (decide (0 < k)) k.natAbs (-4) false)
      let p := mul32 (fma32 (fma32 (f32Val 0x3D635847) t (f32Val 0x3E75FDF0)) t (f32Val 0x3F317218)) t
      ⟨shiftVal (fma32 (tab32 tExp j) p (tab32 tExp j)) mm, false⟩

/-- VLOG2 (R301). -/
def log2Val (x : Val) : Res :=
  match x with
  | .nan => ⟨.nan, false⟩
  | .inf n => if n then ⟨.nan, true⟩ else ⟨.inf false, false⟩
  | .fin n m e _ =>
    if m = 0 then ⟨.inf true, false⟩
    else if n then ⟨.nan, true⟩
    else
      let s := splitVal m e
      let j := (s.2 + 2 ^ 18) / 2 ^ 19
      let e' := if j = 16 then s.1 + 1 else s.1
      let f := if j = 16 then shiftVal (fracVal s.2) (-1) else fracVal s.2
      let j' := if j = 16 then 0 else j
      let t := fma32 f (tab32 tInv j') (negVal oneVal)
      let p := mul32 (fma32 (fma32 (f32Val 0x3EF6384F) t (f32Val 0xBF38AA3B)) t (f32Val 0x3FB8AA3B)) t
      ⟨add32 (add32 (valOfInt e') (tab32 tLog j')) p, false⟩

/-- VRCP (R302). -/
def rcpVal (x : Val) : Res :=
  match x with
  | .nan => ⟨.nan, false⟩
  | .inf n => ⟨.zero n, false⟩
  | .fin n m e _ =>
    if m = 0 then ⟨.inf n, false⟩
    else
      let s := splitVal m e
      let f := fracVal s.2
      let seed := tab32 tSeed (s.2 / 2 ^ 19)
      let t := fma32 f seed (negVal oneVal)
      let p := fma32 (fma32 (fma32 (f32Val 0xBF800000) t (f32Val 0x3F800000)) t (f32Val 0xBF800000)) t (f32Val 0x3F800000)
      let y := mul32 seed p
      let g := fma32 (negVal f) y oneVal
      ⟨shiftVal (withSignVal n (fma32 y g y)) (-s.1), false⟩

/-- VRSQRT (R303). -/
def rsqrtVal (x : Val) : Res :=
  match x with
  | .nan => ⟨.nan, false⟩
  | .inf n => if n then ⟨.nan, true⟩ else ⟨.zero false, false⟩
  | .fin n m e _ =>
    if m = 0 then ⟨.inf n, false⟩
    else if n then ⟨.nan, true⟩
    else
      let s := splitVal m e
      let odd := s.1 % 2 == 1
      let e' := if odd then s.1 - 1 else s.1
      let f := if odd then shiftVal (fracVal s.2) 1 else fracVal s.2
      let q := tab32 tRsq (s.2 / 2 ^ 20 + (if odd then 8 else 0))
      let t := fma32 (mul32 f q) q (negVal oneVal)
      let p := fma32 (fma32 (fma32 (f32Val 0xBEA00000) t (f32Val 0x3EC00000)) t (f32Val 0xBF000000)) t (f32Val 0x3F800000)
      let y := mul32 q p
      let g := fma32 (negVal (mul32 f y)) y oneVal
      ⟨shiftVal (fma32 (mul32 y (f32Val 0x3F000000)) g y) (-(e' / 2)), false⟩

/-! ## One result (R294-R298, R304, R305) -/

/-- The value of an element, flushed when ftz is set (R294). -/
def elemVal (t : DType) (ftz : Bool) (w : Nat) : Val := flushIf ftz (decodeElem t w)

/-- The canonical NaN of a floating type (R87). -/
def nanOf (t : DType) : Nat := ((floatFmt t).map (·.nanBits)).getD 0

/-- The sign bit's weight of a type. -/
def signWeight (t : DType) : Nat := 2 ^ (t.width - 1)

/-- VABS of a pattern (R159, R295). -/
def absElem (t : DType) (w : Nat) : Nat :=
  if t.isFloat then (if isNanVal (decodeElem t w) then nanOf t else w % signWeight t)
  else wrapInt t.width (intOfBits t.signed t.width w).natAbs

/-- VNEG of a pattern (R159, R295). -/
def negElem (t : DType) (w : Nat) : Nat :=
  if t.isFloat then (if isNanVal (decodeElem t w) then nanOf t else w ^^^ signWeight t)
  else wrapInt t.width (-(intOfBits t.signed t.width w))

/-- All ones of a type's width, or 0 (R305). -/
def maskElem (t : DType) (b : Bool) : Nat := if b then 2 ^ t.width - 1 else 0

/-- The shift count n, capped where nothing more changes (R296). -/
def shiftCount (w : Nat) : Nat := min w 128

/-- VSHR of a pattern (R296). -/
def shrElem (a n : Nat) : Nat := a / 2 ^ shiftCount n

/-- VSRA of a pattern (R296). -/
def sraElem (t : DType) (a n : Nat) : Nat := wrapInt t.width ((intOfBits true t.width a).fdiv (2 ^ shiftCount n))

/-- An element-wise form on one component: its operands' types and patterns, c the old destination's (R295, R298, R304,
R305). -/
def VOp.elem (o : VOp) (ta tb : DType) (a b c : Nat) (draw : Word) : Enc :=
  let va := elemVal ta o.ftz a
  let vb := elemVal tb o.ftz b
  let vc := elemVal o.ty o.ftz c
  let down := o.rnd == .rd
  let enc := fun (r : Res) => r.encode o.ty o.rnd o.sat o.ftz draw
  let bits := fun (w : Nat) => (⟨w, 0⟩ : Enc)
  let exact := fun (v : Val) => bits (encodeElem o.ty v .rne false false 0).bits
  match o.fn with
  | .add => enc (addVal down va vb)
  | .sub => enc (addVal down va (negVal vb))
  | .mul => enc (mulVal va vb)
  | .fma => enc (fmaVal down va vb vc)
  | .fms => enc (fmaVal down va vb (negVal vc))
  | .min => exact (minVal va vb)
  | .max => exact (maxVal va vb)
  | .abs => bits (absElem o.ty a)
  | .neg => bits (negElem o.ty a)
  | .and => bits (a &&& b)
  | .or => bits (a ||| b)
  | .xor => bits (a ^^^ b)
  | .shl => enc ⟨shiftVal va (shiftCount b), false⟩
  | .shr => bits (shrElem a b)
  | .sra => bits (sraElem o.ty a b)
  | .exp2 => enc (exp2Val va)
  | .log2 => enc (log2Val va)
  | .rcp => enc (rcpVal va)
  | .rsqrt => enc (rsqrtVal va)
  | .cvt => enc ⟨va, false⟩
  | .ceq => bits (maskElem o.ty (eqVal va vb))
  | .clt => bits (maskElem o.ty (ltVal va vb))
  | .cle => bits (maskElem o.ty (leVal va vb))
  | .sel => bits (if c ≠ 0 then a else b)
  | .mov | .cmul | .cmac | .conj | .rsum | .rmax | .rmin | .perm | .bcast | .zip | .unzip | .rev => bits a

/-- Component q of a complex product, added to the old component when there is one (R297). -/
def cmulVal (down : Bool) (q : Nat) (ar ai br bi : Val) (c : Option Val) : Res :=
  let x := if q = 0 then mulVal ar br else mulVal ar bi
  let y := if q = 0 then mulVal ai bi else mulVal ai br
  if isNanVal ar || isNanVal ai || isNanVal br || isNanVal bi || (c.map isNanVal).getD false then ⟨.nan, false⟩
  else if x.invalid || y.invalid then ⟨.nan, true⟩
  else
    let t := addVal down x.val (if q = 0 then negVal y.val else y.val)
    match c with
    | none => t
    | some v => if t.invalid then t else addVal down t.val v

/-! ## Reductions (R305, R306) -/

/-- Lanes summed pairwise at distance h: lane i takes lane i + h where it is present. -/
def foldLanes (h : Nat) (l : List (Val × Word)) : List (Val × Word) :=
  (l.take h).zipIdx.map fun e =>
    match l[e.2 + h]? with
    | some b => add e.1 b
    | none => e.1
where
  /-- add32 with its sticky bits. -/
  add (a b : Val × Word) : Val × Word :=
    let r := addVal false a.1 b.1
    let e := r.encode .f32 .rne false false 0
    (f32Val e.bits, a.2 ||| b.2 ||| e.flags)

/-- The sum of one group of at most 64 elements (R306). -/
def groupSum (l : List (Val × Word)) : Option (Val × Word) :=
  ([32, 16, 8, 4, 2, 1].foldl (fun acc h => foldLanes h acc) l).head?

/-- The groups of 64 in order, added from the first on (R306); at most `fuel` groups. -/
def laneSum : Nat → Option (Val × Word) → List (Val × Word) → Option (Val × Word)
  | 0, acc, _ => acc
  | fuel + 1, acc, l =>
    if l.isEmpty then acc
    else
      let g := groupSum (l.take 64)
      let acc' := match acc, g with
        | some a, some b => some (foldLanes.add a b)
        | none, x => x
        | x, none => x
      laneSum fuel acc' (l.drop 64)

/-- VRSUM of the values along dimension 0 (R306); `free` stands for the sum of no element in class F, which the spec does
not state. -/
def VOp.rsum (o : VOp) (l : List Val) (draw : Word) (free : Nat) : Enc :=
  if o.ty.isFloat then
    match laneSum (l.length / 64 + 1) none (l.map fun v => (v, 0)) with
    | some (v, f) =>
      let e := encodeElem o.ty v o.rnd o.sat o.ftz draw
      ⟨e.bits, e.flags ||| f⟩
    | none => ⟨free % 2 ^ o.ty.width, 0⟩
  else
    let v := l.foldl (fun acc x => (addVal false acc x).val) (.zero false)
    encodeElem o.ty v .rne o.sat false 0

/-- VRMAX and VRMIN of the values along dimension 0 (R305). -/
def VOp.rpick (o : VOp) (l : List Val) (free : Nat) : Enc :=
  match l with
  | [] => ⟨free % 2 ^ o.ty.width, 0⟩
  | v :: t =>
    let m := t.foldl (fun a b => if o.fn = .rmax then maxVal a b else minVal a b) v
    ⟨(encodeElem o.ty m .rne false false 0).bits, 0⟩

end Sys2Proof.Machine
end

