-- ==== Sys2Proof/Machine/Vector.lean ====
section
/-!
DEFINITION. The vector sequencer: the shape instructions (R275-R278), the checks of a vector word (R280-R284), its entry and
the retained window (R279, R292), the instructions of opcodes 0x23-0x26, and VECTOR_FINISH (R288).
-/

namespace Sys2Proof.Machine

open Sys2Proof

/-! ## Shape instructions -/

/-- Slot k of a context. -/
def Ctx.slot (c : Ctx) (k : Slot) : Shape := c.k[k.toNat]?.getD Shape.empty

/-- The context with another record in slot k, which becomes dirty (R257). -/
def Ctx.setSlot (c : Ctx) (k : Slot) (x : Shape) : Ctx :=
  { c with k := c.k.setIfInBounds k.toNat x, dirtyK := c.dirtyK ||| (1 <<< k.toNat) }

/-- The launch of a context. -/
def State.launchOf (s : State) (site : Nat) (v : BitVec 32) : Option Launch := (s.partAt site).bind fun p => p.launch? v

/-- Whether a launch binds slots by the object table (R273). -/
def State.tableMode (s : State) (site : Nat) (v : BitVec 32) : Bool := ((s.launchOf site v).map (·.table)).getD false

/-- The record of the core's shape store at an address of the launch's .shape section (R272). -/
def State.storedShape (s : State) (site : Nat) (v : BitVec 32) (a : Addr) : Option (List Byte) :=
  match s.launchOf site v with
  | none => none
  | some l =>
    if l.cmd.shvirt ≤ a.toNat ∧ a.toNat < l.cmd.shvirt + 64 * l.cmd.shn then
      (Tbl.get [] (s.core site).shapes v.toNat)[(a.toNat - l.cmd.shvirt) / 64]?
    else none

/-- Place a loaded record in a slot, or fault (R270, R271). -/
def placeShape (s : State) (c : Ctx) (k : Slot) (l : List Byte) : Out :=
  let x := shapeOf l
  if x.valid [] && x.fld 28 == 0 && !x.tabv then
    .next (s.setMe (c.setSlot k (x.slice (s.lcn s.cur.1))).advance)
  else .next (s.trap causeIllegal 0)

/-- SHLD (R272, R273, R277). -/
def execShld (k : Slot) (a : Reg) (s : State) : Out :=
  issueWord s noHints [a] [] false false false fun i =>
    let c := i.c
    let addr : Addr := (i.v 0).truncate 56
    if s.tableMode s.cur.1 c.vintage then .next (s.trap causeProt addr)
    else if !aligned addr 64 then .next (s.trap causeMisalign addr)
    else
      match s.storedShape s.cur.1 c.vintage addr with
      | some l => placeShape s c k l
      | none =>
        gated s (rangeOf (s.lcn s.cur.1) s.cur.2 (ownLocal (s.lcn s.cur.1) addr) 64) false
          (withBlock s c addr 64 fun l => placeShape s c k l)

/-- An entry of the object table, from its 128 bytes, as a slot bound to it holds it (R273). -/
def boundShape (idx : Nat) (l : List Byte) : Shape :=
  let x := shapeOf l
  let w := fun i => BitVec.ofNat 64 (wordAt l i)
  { (x.setFld 28 idx).setFld 29 1 with
    lo := (w 8).truncate 56, hi := (w 9).truncate 56, rd := (w 10).getLsbD 0, wr := (w 10).getLsbD 1 }

/-- SHOBJ (R272, R273). An entry whose stored record breaks R270, or holds an obj or tabv that R273's table calls zero, faults
ILLEGAL: the model's choice (log entry 68). -/
def execShobj (k : Slot) (a : Reg) (s : State) : Out :=
  issueWord s noHints [a] [] false false false fun i =>
    let c := i.c
    let idx := (i.v 0).toNat % 65536
    match s.tableMode s.cur.1 c.vintage, s.partAt s.cur.1 with
    | true, some p =>
      if p.objn ≤ idx then .next (s.trap causeProt 0)
      else
        let l := s.viewRead p 0 true (p.objtab + 128 * idx) 128
        let x := shapeOf l
        if x.valid [] && x.fld 28 == 0 && !x.tabv then
          .next (s.setMe (c.setSlot k ((boundShape idx l).slice (s.lcn s.cur.1))).advance)
        else .next (s.trap causeIllegal 0)
    | _, _ => .next (s.trap causeProt 0)

/-- SHST (R273, R278). -/
def execShst (k : Slot) (a : Reg) (s : State) : Out :=
  issueWord s noHints [a] [] false false false fun i =>
    let addr : Addr := (i.v 0).truncate 56
    if s.tableMode s.cur.1 i.c.vintage && (i.c.slot k).tabv then .next (s.trap causeProt addr)
    else storeAt s i.c addr (i.c.slot k).bytes

/-- SHSET (R270, R273, R276). -/
def execShset (k : Slot) (a : Reg) (field : BitVec 8) (s : State) : Out :=
  issueWord s noHints [a] [] false false false fun i =>
    let old := i.c.slot k
    let f := field.toNat
    let new := old.setFld f (i.v 0).toNat
    let excused := (List.range 4).filter fun d => old.slicedAway d && 3 + d != f
    if s.tableMode s.cur.1 i.c.vintage && old.tabv then .next (s.trap causeProt 0)
    else if fitsField f (i.v 0) && new.valid excused then .next (s.setMe (i.c.setSlot k new).advance)
    else .next (s.trap causeIllegal 0)

/-- SHGET (R276, R278). -/
def execShget (k : Slot) (b : Reg) (field : BitVec 8) (s : State) : Out :=
  issueWord s noHints [] [b] true false false fun i =>
    .next (finishScalar s i.c b ((i.c.slot k).fldWord field.toNat) 0)

/-! ## The forms (R281, R282, R295, R298, R305) -/

/-- The unary forms (R60). -/
def VFn.unary : VFn → Bool
  | .abs | .neg | .conj | .mov | .exp2 | .log2 | .rcp | .rsqrt | .cvt | .rsum | .rmax | .rmin | .bcast | .rev => true
  | .add | .sub | .mul | .fma | .fms | .min | .max | .and | .or | .xor | .shl | .shr | .sra | .cmul | .cmac | .ceq | .clt
  | .cle | .sel | .perm | .zip | .unzip => false

/-- The forms that use rnd (R60). -/
def VFn.rounds : VFn → Bool
  | .add | .sub | .mul | .fma | .fms | .cmul | .cmac | .exp2 | .log2 | .rcp | .rsqrt | .cvt | .rsum => true
  | .min | .max | .abs | .neg | .and | .or | .xor | .shl | .shr | .sra | .conj | .mov | .rmax | .rmin | .ceq | .clt | .cle
  | .sel | .perm | .bcast | .zip | .unzip | .rev => false

/-- Whether a form of a type accepts ftz (R295, R298, R304, R305). -/
def VFn.ftzOk (f : VFn) (t : DType) : Bool :=
  match f with
  | .add | .sub | .mul | .fma | .fms | .cmul | .cmac | .min | .max | .rsum | .rmax | .rmin => t.isFloat
  | .exp2 | .log2 | .rcp | .rsqrt | .cvt | .ceq | .clt | .cle => true
  | .abs | .neg | .and | .or | .xor | .shl | .shr | .sra | .conj | .mov | .sel | .perm | .bcast | .zip | .unzip | .rev =>
    false

/-- The element-wise forms: opcodes 0x23, 0x24 and VCEQ to VSEL (R282). -/
def VFn.elementwise : VFn → Bool
  | .rsum | .rmax | .rmin | .perm | .bcast | .zip | .unzip | .rev => false
  | .add | .sub | .mul | .fma | .fms | .min | .max | .abs | .neg | .and | .or | .xor | .shl | .shr | .sra | .cmul | .cmac
  | .conj | .mov | .exp2 | .log2 | .rcp | .rsqrt | .cvt | .ceq | .clt | .cle | .sel => true

/-- Whether the operands' cplx suits a form (R282). -/
def VFn.cplxOk (f : VFn) (cplx : Bool) : Bool :=
  match f with
  | .add | .sub | .neg | .mov | .cvt => true
  | .cmul | .cmac | .conj => cplx
  | .mul | .fma | .fms | .min | .max | .abs | .and | .or | .xor | .shl | .shr | .sra | .exp2 | .log2 | .rcp | .rsqrt
  | .rsum | .rmax | .rmin | .ceq | .clt | .cle | .sel | .perm | .bcast | .zip | .unzip | .rev => !cplx

/-- Two types of one class. -/
def sameClass (t u : DType) : Bool := (t.isFloat && u.isFloat) || (t.isInt && u.isInt)

/-- Whether the source types suit a form (R281, R295, R298, R304, R305); a unary form's b is its a. -/
def VFn.typesOk (f : VFn) (t a b : DType) : Bool :=
  match f with
  | .add | .sub | .mul | .fma | .fms | .cmul | .cmac | .shl | .rsum => sameClass t a && sameClass t b
  | .min | .max | .abs | .neg | .conj | .mov | .rmax | .rmin | .sel | .bcast | .zip | .unzip | .rev => t == a && t == b
  | .and | .or | .xor => a.width == t.width && b.width == t.width
  | .shr | .sra => a.width == t.width && sameClass t b
  | .exp2 | .log2 | .rcp | .rsqrt => a.isFloat
  | .cvt => true
  | .ceq | .clt | .cle => sameClass a b
  | .perm => t == a && b.isInt

/-- Whether a source's sizes from dimension `first` on equal the destination's or 1 (R282). -/
def fitsFrom (first : Nat) (x d : Shape) : Bool :=
  (List.range 4).all fun q => decide (q < first) || x.size q == d.size q || x.size q == 1

/-- Whether the sizes suit a form (R282, R305); a unary form names no b. -/
def VOp.sizesOk (o : VOp) : Bool :=
  match o.fn with
  | .rsum | .rmax | .rmin => o.d.size 0 == 1 && (List.range 3).all fun q => o.a.size (q + 1) == o.d.size (q + 1)
  | .perm => fitsFrom 1 o.a o.d && (List.range 4).all fun q => o.b.size q == o.d.size q
  | .bcast => fitsFrom 1 o.a o.d
  | .zip => o.d.size 0 == 2 * o.a.size 0 && o.b.size 0 == o.a.size 0 && fitsFrom 1 o.a o.d && fitsFrom 1 o.b o.d
  | .unzip => o.a.size 0 == o.d.size 0 && o.b.size 0 == o.d.size 0 && fitsFrom 1 o.a o.d && fitsFrom 1 o.b o.d
  | .rev => o.a.size 0 == o.d.size 0 && fitsFrom 1 o.a o.d
  | _ => fitsFrom 0 o.a o.d && (o.fn.unary || fitsFrom 0 o.b o.d)

/-- Whether a form takes draws (R94). -/
def VOp.draws (o : VOp) : Bool := o.fn.rounds && o.rnd == .rs

/-- The operands in the order of their checks, ak, bk, dk, each with whether it is the destination. -/
def VOp.operands (o : VOp) : List (Shape × Bool) :=
  if o.fn.unary then [(o.a, false), (o.d, true)] else [(o.a, false), (o.b, false), (o.d, true)]

/-- The sources of a form. -/
def VOp.sources (o : VOp) : List Shape := if o.fn.unary then [o.a] else [o.a, o.b]

/-- Step 2 of R280: the slots, the types, the shapes and cplx. -/
def VOp.legal (o : VOp) (lcn : Nat) : Bool :=
  let ops := o.operands.map (·.1)
  ops.all (fun k => !k.isEmpty) && ops.all (fun k => k.cplx == o.d.cplx) && o.fn.cplxOk o.d.cplx && o.sizesOk
    && (match o.a.dtype lcn, (if o.fn.unary then o.a else o.b).dtype lcn, o.d.dtype lcn with
      | some ta, some tb, some td => td == o.ty && o.fn.typesOk o.ty ta tb
      | _, _, _ => false)

/-- Step 4 of R280: the destination's aliases (R283). -/
def VOp.aliased (o : VOp) (c : Core) (v : BitVec 32) (lcn n r : Nat) : Bool :=
  o.d.aliasesItself
    || o.sources.any fun x => !(o.fn.elementwise && x.sameAs o.d r) && o.d.shares x c v lcn n r

/-- The first of a list of data checks that fails (R280). -/
def firstData (c : Core) (v : BitVec 32) (lcn n r : Nat) : List (Shape × Bool) → Option (BitVec 5 × Addr)
  | [] => none
  | (k, w) :: t =>
    match k.dataCheck c v lcn n r w with
    | some cause => some (cause, k.faddr c v lcn n r)
    | none => firstData c v lcn n r t

/-- Steps 2 to 5 of R280 on one repetition: the cause and sys.faddr of the first check that fails. -/
def VOp.check (o : VOp) (c : Core) (v : BitVec 32) (lcn n r : Nat) : Option (BitVec 5 × Addr) :=
  if !o.legal lcn then some (causeIllegal, 0)
  else if o.operands.any fun e => e.1.fld 16 != 0 then some (causeLayout, 0)
  else if o.aliased c v lcn n r then some (causeOverlap, 0)
  else firstData c v lcn n r o.operands

/-- The checks of every instruction of a body on a repetition. -/
def bodyCheck (c : Core) (v : BitVec 32) (lcn n r : Nat) : List VOp → Option (BitVec 5 × Addr)
  | [] => none
  | o :: t =>
    match o.check c v lcn n r with
    | some e => some e
    | none => bodyCheck c v lcn n r t

/-- The checks of `k` repetitions from r on (R292). -/
def loopCheck (c : Core) (v : BitVec 32) (lcn n : Nat) (body : List VOp) : Nat → Nat → Option (BitVec 5 × Addr)
  | _, 0 => none
  | r, k + 1 =>
    match bodyCheck c v lcn n r body with
    | some e => some e
    | none => loopCheck c v lcn n body (r + 1) k

/-! ## Entries (R279, R285, R292) -/

/-- The spans of operands, from the first repetition to the last: they move linearly, so the two bound them all, but for an
alias window, whose sub-views and tables do not (R104, R105, R292). -/
def hullOf (c : Core) (v : BitVec 32) (lcn n first last : Nat) (l : List Shape) : List (Nat × Nat) :=
  l.filterMap fun k =>
    let reps := if k.aliased lcn then (List.range (last + 1 - first)).map (first + ·) else [first, last]
    reps.foldl (fun (h : Option (Nat × Nat)) r =>
      match h, k.span c v lcn n r with
      | some (a, b), .ok a' b' => some (min a a', max b b')
      | none, .ok a' b' => some (a', b')
      | h, _ => h) none

/-- An entry of a body (R279). -/
def entryOf (s : State) (c : Ctx) (body : List VOp) (first last : Nat) : VEntry :=
  let h := hullOf s.myCore c.vintage (s.lcn s.cur.1) s.cur.2 first last
  { ctx := s.cur.2, vint := c.vintage, body := body, first := first, last := last, seq := c.issued,
    reads := body.flatMap fun o => h o.sources, writes := body.flatMap fun o => h [o.d] }

/-- The sequencer's entries (R279). -/
def vectorEntries : Nat := 16

/-- The first span of an entry that an unfinished copy holds (R371). -/
def VEntry.heldBy (s : State) (e : VEntry) : Option (Nat × Nat × Bool) :=
  let key := 1 + s.lcn s.cur.1
  let waits := fun (sp : Nat × Nat) (w : Bool) =>
    match s.copyGate s.cur.1 s.cur.2 ⟨key, sp.1, sp.2⟩ w with
    | .held plain _ => plain
    | _ => false
  match List.find? (fun sp => waits sp false) e.reads, List.find? (fun sp => waits sp true) e.writes with
  | some sp, _ => some (sp.1, sp.2, false)
  | none, some sp => some (sp.1, sp.2, true)
  | none, none => none

/-- Give an entry to the sequencer: it waits for room, for an acquire on its way (R132) and for copies (R371). `window` is
the retained window that the word leaves. -/
def enterVector (s : State) (c : Ctx) (e : VEntry) (window : List VOp) : Out :=
  if vectorEntries ≤ s.myCore.vq.length ∨ c.acquiring then .next s
  else
    match e.heldBy s with
    | some (lo, hi, w) =>
      .next (s.setMe { s.me with stall := some (.span (1 + s.lcn s.cur.1) lo hi w []) })
    | none =>
      let core := s.myCore
      .next ((((s.setMyCore { core with vq := core.vq ++ [e] }).setMe { c.advance with window := window })).due
        (.vectorFinish s.cur.1))

/-- A vector word of opcodes 0x23-0x25 (R280, R292). -/
def vecWord (s : State) (fn : VFn) (ty : DType) (rnd : Rnd) (sat : Bool) (dk ak bk : Slot) : Out :=
  issueWord s { mod := true, ftz := fn.ftzOk ty } [] [] false false false fun i =>
    let c := i.c
    let o : VOp := ⟨fn, ty, rnd, sat, c.hintFtz, c.slot dk, c.slot ak, if fn.unary then Shape.empty else c.slot bk⟩
    match o.check s.myCore c.vintage (s.lcn s.cur.1) s.cur.2 0 with
    | some (cause, fa) => .next (s.trap cause fa)
    | none =>
      if o.draws && s.myCore.tileDraws s.cur.2 then .next s.drawWait else
      let w := c.window ++ [o]
      enterVector s c (entryOf s c [o] 0 0) (w.drop (w.length - 16))

/-- VLOOP (R292). -/
def execVloop (a : Reg) (n : BitVec 5) (s : State) : Out :=
  issueWord s noHints [a] [] false false false fun i =>
    let c := i.c
    let cnt := (i.v 0).toNat % 2 ^ 32
    let body := c.window.drop (c.window.length - n.toNat)
    if c.window.length < n.toNat then .next (s.trap causeIllegal 0)
    else if cnt = 0 then .next (s.setMe { c.advance with window := [] })
    else
      match loopCheck s.myCore c.vintage (s.lcn s.cur.1) s.cur.2 body 1 cnt with
      | some (cause, fa) => .next (s.trap cause fa)
      | none =>
        if body.any VOp.draws && s.myCore.tileDraws s.cur.2 then .next s.drawWait
        else enterVector s c (entryOf s c body 1 cnt) []

/-- VSYNC (R293). -/
def execVsync (s : State) : Out :=
  issueWord s noHints [] [] false false false fun i =>
    if s.myCore.vq.any fun e => e.ctx == s.cur.2 then .next s
    else .next (s.setMe { i.c.advance with window := [] })

/-! ## Finishing (R279, R288, R294) -/

/-- What the elements of an instruction are computed with: where, for whom, and in which repetition. -/
structure VRun where
  site : Nat
  vint : BitVec 32
  n : Nat
  lcn : Nat
  r : Nat
  o : VOp
  deriving DecidableEq, Repr

/-- The pattern of a component of a source or old destination element. -/
def VRun.read (x : VRun) (s : State) (k : Shape) (idx : List Nat) (q : Nat) : Nat :=
  s.unitRead x.site x.vint x.n k (k.unit idx x.r q) x.o.ftz

/-- One result: component q of the destination element at an index (R294-R306). -/
def VRun.result (x : VRun) (s : State) (idx : List Nat) (q : Nat) (draw : Word) : Enc :=
  let o := x.o
  let ta := (o.a.dtype x.lcn).getD o.ty
  let tb := (o.b.dtype x.lcn).getD o.ty
  let a := fun (i : List Nat) (q : Nat) => x.read s o.a i q
  let b := fun (i : List Nat) (q : Nat) => x.read s o.b i q
  let at0 := fun (i0 : Nat) => i0 :: idx.drop 1
  let free := (Config.freeBits 64 (s.tick * 2 ^ 160 + o.d.base * 2 ^ 96 + x.r * 2 ^ 48 + idx.getD 1 0 + 2 ^ 16 * idx.getD 2 0
    + 2 ^ 32 * idx.getD 3 0)).toNat
  let bits := fun (w : Nat) => (⟨w, 0⟩ : Enc)
  let along := fun (_ : Unit) => (List.range (o.a.size 0)).map fun j => elemVal ta o.ftz (a (at0 j) 0)
  match o.fn with
  | .cmul | .cmac =>
    let va := fun q => elemVal ta o.ftz (a idx q)
    let vb := fun q => elemVal tb o.ftz (b idx q)
    let c := if o.fn = .cmac then some (elemVal o.ty o.ftz (x.read s o.d idx q)) else none
    (cmulVal (o.rnd == .rd) q (va 0) (va 1) (vb 0) (vb 1) c).encode o.ty o.rnd o.sat o.ftz draw
  | .conj =>
    if q = 1 then bits (negElem o.ty (a idx 1))
    else if o.ty.isFloat && isNanVal (decodeElem o.ty (a idx 0)) then bits (nanOf o.ty)
    else bits (a idx 0)
  | .rsum => o.rsum (along ()) draw free
  | .rmax | .rmin => o.rpick (along ()) free
  | .perm =>
    let j := intOfBits tb.signed tb.width (b idx 0)
    if j < 0 ∨ (o.a.size 0 : Int) ≤ j then bits 0 else bits (s.unitRead x.site x.vint x.n o.a (permUnit j.toNat) o.ftz)
  | .bcast => if o.a.count = 0 then bits (free % 2 ^ o.ty.width) else bits (a [0, 0, 0, 0] 0)
  | .zip => if idx.headD 0 % 2 = 0 then bits (a (at0 (idx.headD 0 / 2)) 0) else bits (b (at0 (idx.headD 0 / 2)) 0)
  | .unzip =>
    let p := 2 * idx.headD 0
    if p < o.a.size 0 then bits (a (at0 p) 0) else bits (b (at0 (p - o.a.size 0)) 0)
  | .rev => bits (a (at0 (o.a.size 0 - 1 - idx.headD 0)) 0)
  | _ =>
    o.elem ta tb (a idx q) (if o.fn.unary then 0 else b idx q) (x.read s o.d idx q) draw
where
  /-- The unit of a(j, i1, i2, i3). -/
  permUnit (j : Nat) : Int := x.o.a.unit (j :: idx.drop 1) x.r 0

/-- What a run over elements carries: the state, the generator and the sticky bits so far. -/
structure VAcc where
  s : State
  gen : Word
  flags : Word
  deriving DecidableEq, Repr

/-- Compute component q of the element at an index from the state `s0`, and write it. -/
def VRun.unit (x : VRun) (s0 : State) (idx : List Nat) (acc : VAcc) (q : Nat) : VAcc :=
  let dr := if x.o.fn.rounds then drawIf x.o.rnd acc.gen else (acc.gen, 0)
  let e := x.result s0 idx q dr.2
  ⟨acc.s.unitWrite x.site x.vint x.n x.o.d (x.o.d.unit idx x.r q) e.bits, dr.1, acc.flags ||| e.flags⟩

/-- Compute and write the components of one element, each from the sources as they were before it, so that a source updated in
place (R283) gives VCMUL and VCMAC both its components. -/
def VRun.element (x : VRun) (acc : VAcc) (idx : List Nat) : VAcc :=
  (List.range x.o.d.comps).foldl (x.unit acc.s idx) acc

/-- Compute and write the elements of one instruction in one repetition, in the order of R269. -/
def VRun.all (x : VRun) (acc : VAcc) : VAcc :=
  (List.range x.o.d.count).foldl (fun acc u => x.element acc (x.o.d.index u)) acc

/-- Run a body in one repetition. -/
def runBody (site : Nat) (e : VEntry) (lcn r : Nat) (acc : VAcc) : VAcc :=
  e.body.foldl (fun acc o => VRun.all ⟨site, e.vint, e.ctx, lcn, r, o⟩ acc) acc

/-- Run `k` repetitions from r on. -/
def runReps (site : Nat) (e : VEntry) (lcn : Nat) : Nat → Nat → VAcc → VAcc
  | _, 0, acc => acc
  | r, k + 1, acc => runReps site e lcn (r + 1) k (runBody site e lcn r acc)

/-- Whether an entry may not run yet: an earlier store or atomic of its context on scratchpad has not been written (R285), a
source lies above the watermark of an unfinished copy (R287, R370), or an earlier tile command has not read what it writes
(R312). Nothing runs while the core stands still or its cellar is full (R478, R496). -/
def State.vectorWaits (s : State) (site : Nat) (e : VEntry) : Bool :=
  let c := s.core site
  let key := 1 + (s.lcnOf site).getD 0
  s.still site
    || (s.ctx site e.ctx).ops.any (fun o => decide (o.id < e.seq) && o.isWrite && !o.global && o.cnt != .cp && o.cnt != .tl)
    || e.reads.any (fun sp => s.readBehind site e.ctx e.seq ⟨key, sp.1, sp.2⟩)
    || c.tq.any fun t =>
      let earlier := t.ctx == e.ctx && t.held.isNone && decide (t.seq < e.seq)
      earlier && e.writes.any fun sp => spansMeet t.reads sp.1 sp.2

/-- VECTOR_FINISH (R279, R288, R291): the oldest entry of a core computes and writes its results, its entry is freed and
its sticky bits join sys.sticky. -/
def execVectorFinish (site : Nat) (s : State) : Out :=
  match (s.core site).vq with
  | [] => .next s
  | e :: rest =>
    if s.vectorWaits site e then .next s
    else
      let acc := runReps site e ((s.lcnOf site).getD 0) e.first (e.last + 1 - e.first) ⟨s, (s.ctx site e.ctx).srstate, 0⟩
      let t := acc.s.updCore site fun c => { c with vq := rest }
      let u := t.updCtx site e.ctx fun c => { c.orSticky acc.flags with srstate := acc.gen }
      .next ((u.wakeContext site e.ctx).wakeEngines site)

/-! ## The instructions -/

/-- VADD (R295). -/
def execVadd (dk : Slot) (ak : Slot) (bk : Slot) (ty : DType) (rnd : Rnd) (sat : Bool) (s : State) : Out :=
  vecWord s .add ty rnd sat dk ak bk

/-- VSUB (R295). -/
def execVsub (dk : Slot) (ak : Slot) (bk : Slot) (ty : DType) (rnd : Rnd) (sat : Bool) (s : State) : Out :=
  vecWord s .sub ty rnd sat dk ak bk

/-- VMUL (R295). -/
def execVmul (dk : Slot) (ak : Slot) (bk : Slot) (ty : DType) (rnd : Rnd) (sat : Bool) (s : State) : Out :=
  vecWord s .mul ty rnd sat dk ak bk

/-- VFMA (R295). -/
def execVfma (dk : Slot) (ak : Slot) (bk : Slot) (ty : DType) (rnd : Rnd) (sat : Bool) (s : State) : Out :=
  vecWord s .fma ty rnd sat dk ak bk

/-- VFMS (R295). -/
def execVfms (dk : Slot) (ak : Slot) (bk : Slot) (ty : DType) (rnd : Rnd) (sat : Bool) (s : State) : Out :=
  vecWord s .fms ty rnd sat dk ak bk

/-- VMIN (R295). -/
def execVmin (dk : Slot) (ak : Slot) (bk : Slot) (ty : DType) (s : State) : Out :=
  vecWord s .min ty .rne false dk ak bk

/-- VMAX (R295). -/
def execVmax (dk : Slot) (ak : Slot) (bk : Slot) (ty : DType) (s : State) : Out :=
  vecWord s .max ty .rne false dk ak bk

/-- VABS (R295). -/
def execVabs (dk : Slot) (ak : Slot) (ty : DType) (s : State) : Out :=
  vecWord s .abs ty .rne false dk ak 0

/-- VNEG (R295). -/
def execVneg (dk : Slot) (ak : Slot) (ty : DType) (s : State) : Out :=
  vecWord s .neg ty .rne false dk ak 0

/-- VAND (R295). -/
def execVand (dk : Slot) (ak : Slot) (bk : Slot) (ty : DType) (s : State) : Out :=
  vecWord s .and ty .rne false dk ak bk

/-- VOR (R295). -/
def execVor (dk : Slot) (ak : Slot) (bk : Slot) (ty : DType) (s : State) : Out :=
  vecWord s .or ty .rne false dk ak bk

/-- VXOR (R295). -/
def execVxor (dk : Slot) (ak : Slot) (bk : Slot) (ty : DType) (s : State) : Out :=
  vecWord s .xor ty .rne false dk ak bk

/-- VSHL (R295, R296). -/
def execVshl (dk : Slot) (ak : Slot) (bk : Slot) (ty : DType) (sat : Bool) (s : State) : Out :=
  vecWord s .shl ty .rne sat dk ak bk

/-- VSHR (R295, R296). -/
def execVshr (dk : Slot) (ak : Slot) (bk : Slot) (ty : DType) (s : State) : Out :=
  vecWord s .shr ty .rne false dk ak bk

/-- VSRA (R295, R296). -/
def execVsra (dk : Slot) (ak : Slot) (bk : Slot) (ty : DType) (s : State) : Out :=
  vecWord s .sra ty .rne false dk ak bk

/-- VCMUL (R295, R297). -/
def execVcmul (dk : Slot) (ak : Slot) (bk : Slot) (ty : DType) (rnd : Rnd) (sat : Bool) (s : State) : Out :=
  vecWord s .cmul ty rnd sat dk ak bk

/-- VCMAC (R295, R297). -/
def execVcmac (dk : Slot) (ak : Slot) (bk : Slot) (ty : DType) (rnd : Rnd) (sat : Bool) (s : State) : Out :=
  vecWord s .cmac ty rnd sat dk ak bk

/-- VCONJ (R295). -/
def execVconj (dk : Slot) (ak : Slot) (ty : DType) (s : State) : Out :=
  vecWord s .conj ty .rne false dk ak 0

/-- VMOV (R295). -/
def execVmov (dk : Slot) (ak : Slot) (ty : DType) (s : State) : Out :=
  vecWord s .mov ty .rne false dk ak 0

/-- VEXP2 (R298, R300). -/
def execVexp2 (dk : Slot) (ak : Slot) (ty : DType) (rnd : Rnd) (sat : Bool) (s : State) : Out :=
  vecWord s .exp2 ty rnd sat dk ak 0

/-- VLOG2 (R298, R301). -/
def execVlog2 (dk : Slot) (ak : Slot) (ty : DType) (rnd : Rnd) (sat : Bool) (s : State) : Out :=
  vecWord s .log2 ty rnd sat dk ak 0

/-- VRCP (R298, R302). -/
def execVrcp (dk : Slot) (ak : Slot) (ty : DType) (rnd : Rnd) (sat : Bool) (s : State) : Out :=
  vecWord s .rcp ty rnd sat dk ak 0

/-- VRSQRT (R298, R303). -/
def execVrsqrt (dk : Slot) (ak : Slot) (ty : DType) (rnd : Rnd) (sat : Bool) (s : State) : Out :=
  vecWord s .rsqrt ty rnd sat dk ak 0

/-- VCVT (R304). -/
def execVcvt (dk : Slot) (ak : Slot) (ty : DType) (rnd : Rnd) (sat : Bool) (s : State) : Out :=
  vecWord s .cvt ty rnd sat dk ak 0

/-- VRSUM (R305, R306). -/
def execVrsum (dk : Slot) (ak : Slot) (ty : DType) (rnd : Rnd) (sat : Bool) (s : State) : Out :=
  vecWord s .rsum ty rnd sat dk ak 0

/-- VRMAX (R305). -/
def execVrmax (dk : Slot) (ak : Slot) (ty : DType) (s : State) : Out :=
  vecWord s .rmax ty .rne false dk ak 0

/-- VRMIN (R305). -/
def execVrmin (dk : Slot) (ak : Slot) (ty : DType) (s : State) : Out :=
  vecWord s .rmin ty .rne false dk ak 0

/-- VCEQ (R305). -/
def execVceq (dk : Slot) (ak : Slot) (bk : Slot) (ty : DType) (s : State) : Out :=
  vecWord s .ceq ty .rne false dk ak bk

/-- VCLT (R305). -/
def execVclt (dk : Slot) (ak : Slot) (bk : Slot) (ty : DType) (s : State) : Out :=
  vecWord s .clt ty .rne false dk ak bk

/-- VCLE (R305). -/
def execVcle (dk : Slot) (ak : Slot) (bk : Slot) (ty : DType) (s : State) : Out :=
  vecWord s .cle ty .rne false dk ak bk

/-- VSEL (R305). -/
def execVsel (dk : Slot) (ak : Slot) (bk : Slot) (ty : DType) (s : State) : Out :=
  vecWord s .sel ty .rne false dk ak bk

/-- VPERM (R305). -/
def execVperm (dk : Slot) (ak : Slot) (bk : Slot) (ty : DType) (s : State) : Out :=
  vecWord s .perm ty .rne false dk ak bk

/-- VBCAST (R305). -/
def execVbcast (dk : Slot) (ak : Slot) (ty : DType) (s : State) : Out :=
  vecWord s .bcast ty .rne false dk ak 0

/-- VZIP (R305). -/
def execVzip (dk : Slot) (ak : Slot) (bk : Slot) (ty : DType) (s : State) : Out :=
  vecWord s .zip ty .rne false dk ak bk

/-- VUNZIP (R305). -/
def execVunzip (dk : Slot) (ak : Slot) (bk : Slot) (ty : DType) (s : State) : Out :=
  vecWord s .unzip ty .rne false dk ak bk

/-- VREV (R305). -/
def execVrev (dk : Slot) (ak : Slot) (ty : DType) (s : State) : Out :=
  vecWord s .rev ty .rne false dk ak 0

end Sys2Proof.Machine
end

