-- ==== Sys2Proof/Machine/Matrix.lean ====
section
/-!
DEFINITION. The matrix engine: weight images (R316-R318), swizzles (R319), the issue checks (R325), the tile instructions
(R309, R327-R334), the tile command queue (R311-R313), the sums (R315, R320, R321) and the epilogue (R332-R337).
-/

namespace Sys2Proof.Machine

open Sys2Proof

/-! ## Weight images (R316-R318) -/

/-- A field of an image header. -/
def imgFld (h : List Byte) (lo w : Nat) : Nat := leNat (h.take 16) / 2 ^ lo % 2 ^ w

/-- fmt. -/
def imgFmt (h : List Byte) : Nat := imgFld h 0 2
/-- cplx. -/
def imgCplx (h : List Byte) : Bool := imgFld h 2 1 == 1
/-- scaled. -/
def imgScaled (h : List Byte) : Bool := imgFld h 3 1 == 1
/-- K. -/
def imgK (h : List Byte) : Nat := imgFld h 16 16
/-- N. -/
def imgN (h : List Byte) : Nat := imgFld h 32 7
/-- size. -/
def imgSize (h : List Byte) : Nat := imgFld h 64 32

/-- The type of an image, when its code is one. -/
def imgType (h : List Byte) : Option DType :=
  match dtypeOf (imgFld h 4 5) with
  | .ok t => some t
  | .error _ => none

/-- The stored columns Nc (R317). -/
def imgCols (h : List Byte) : Nat := if imgCplx h then 2 * imgN h else imgN h

/-- The row pitch of the values (R317). -/
def imgPitch (h : List Byte) (w : Nat) : Nat := 8 * ((imgCols h * w + 63) / 64)

/-- The rows of the values (R317). -/
def imgRows (h : List Byte) : Nat := if imgFmt h = 1 then imgK h / 2 else imgK h

/-- The byte of the image at which the metadata starts, and that at which the scales start (R317). -/
def imgParts (h : List Byte) (w : Nat) : Nat × Nat :=
  let meta' := 64 + imgRows h * imgPitch h w
  (meta', meta' + (if imgFmt h = 1 then imgK h / 4 * (8 * ((imgN h + 15) / 16)) else 0))

/-- The row pitch of the scales (R317). -/
def imgScalePitch (h : List Byte) : Nat := 8 * ((imgCols h + 7) / 8)

/-- The length of the image (R317). -/
def imgLength (h : List Byte) (w : Nat) : Nat :=
  (imgParts h w).2 + (if imgScaled h then (imgK h + 63) / 64 * imgScalePitch h else 0)

/-- Whether an image header is valid (R316). -/
def imgValid (h : List Byte) : Bool :=
  match imgType h with
  | none => false
  | some t =>
    let fmt := imgFmt h
    imgFld h 9 7 == 0 && imgFld h 39 25 == 0 && imgFld h 96 32 == 0 && leNat ((h.drop 48).take 16) == 0
      && decide (fmt ≤ 2)
      && (fmt != 0 || [DType.bf16, .f16, .e4m3, .e5m2, .i8, .i4].contains t)
      && (fmt != 1 || ([DType.bf16, .f16, .e4m3, .e5m2, .i8].contains t && imgK h % 4 == 0 && !imgCplx h))
      && (fmt != 2 || t == .cb4)
      && (!imgScaled h || [DType.e4m3, .e5m2, .i8, .i4, .cb4].contains t)
      && decide (1 ≤ imgK h) && decide (1 ≤ imgN h) && decide (imgN h ≤ (if imgCplx h then 32 else 64))
      && (fmt == 2 || leNat ((h.drop 16).take 32) == 0)
      && imgSize h == imgLength h t.width && decide (imgSize h ≤ 65536)

/-- The stored pattern of row r, column c of the values (R83, R317). -/
def imgPattern (l : List Byte) (w r c : Nat) : Nat :=
  let at' := 64 + r * imgPitch l w
  if w = 4 then nibble (l.getD (at' + c / 2) 0) c else leNat ((l.drop (at' + c * (w / 8))).take (w / 8))

/-- The value of a stored pattern, a cb4 code through the image's table (R90, R318). -/
def imgDecode (l : List Byte) (t : DType) (p : Nat) : Val :=
  if t = .cb4 then decodeElem .bf16 (leNat ((l.drop (16 + 2 * p)).take 2)) else decodeElem t p

/-- The value that a slot gives position (k, c), if it gives one (R318). -/
def imgValue (l : List Byte) (k c : Nat) : Option Val :=
  match imgType l with
  | none => none
  | some t =>
    let w := t.width
    let parts := imgParts l w
    let row : Option Nat :=
      if imgFmt l = 1 then
        let m := nibble (l.getD (parts.1 + k / 4 * (8 * ((imgN l + 15) / 16)) + c / 2) 0) c
        if m / 4 = k % 4 then some (2 * (k / 4) + 1) else if m % 4 = k % 4 then some (2 * (k / 4)) else none
      else some k
    row.map fun r =>
      let v := imgDecode l t (imgPattern l w r c)
      if imgScaled l then scaleVal (l.getD (parts.2 + k / 64 * imgScalePitch l + c) 0).toNat v else v

/-! ## Operands and checks -/

/-- Whether the reserved values of a swizzle are avoided (R319). -/
def Shape.swzLegal (k : Shape) : Bool :=
  let z := k.fld 16
  z == 0 || (z % 4 != 3 && decide (1 ≤ k.swzBits) && decide (k.swzBits ≤ 6) && z / 32 == 0)

/-- Whether an operand matches its swizzle (R319). -/
def Shape.swzMatches (k : Shape) (lcn : Nat) : Bool :=
  k.fld 16 == 0 ||
    (!k.aliased lcn && (match k.place lcn with
        | .priv _ | .win .. => true
        | _ => false)
      && decide (8 ≤ k.width) && k.base % k.swzSpan == 0 && k.stride 0 == 1
      && k.stride 1 * (k.width / 8 : Nat) == (k.swzSpan : Int))

/-- Where a MACRD or MEPI writes when its base is remote (R113, R332): the LCN and the local part of the base. -/
def Shape.remote (k : Shape) (lcn : Nat) : Option (Nat × Nat) :=
  let a := ownLocal lcn (BitVec.ofNat 56 k.base)
  if spaceOf a = .remote then some (remoteLcn a, remoteLocal a) else none

/-- The type of a tile operand: a remote base has its etype. -/
def Shape.tileType (k : Shape) (lcn : Nat) : Option DType :=
  match k.remote lcn with
  | some _ => match dtypeOf (k.fld 1) with
    | .ok t => some t
    | .error _ => none
  | none => k.dtype lcn

/-- Whether A's type and base suit an array command (R314). -/
def Shape.aTypeOk (k : Shape) (lcn : Nat) : Bool :=
  let raw := match k.place lcn with
    | .win 0 _ => true
    | _ => false
  match k.dtype lcn with
  | some .bf16 | some .f16 => true
  | some .e4m3 | some .e5m2 | some .i8 | some .i4 => raw
  | _ => false

/-- A two-dimensional operand of at most 64 by 64 elements that is not complex (R331, R332). -/
def Shape.isTile (k : Shape) : Bool :=
  !k.cplx && decide (1 ≤ k.size 0) && decide (k.size 0 ≤ 64) && decide (1 ≤ k.size 1) && decide (k.size 1 ≤ 64)
    && k.size 2 == 1 && k.size 3 == 1

/-- The byte range of row i of a remote destination in the target's raw window, as exact offsets from its base. -/
def Shape.rowUnits (k : Shape) (i : Nat) : List Int := (List.range (k.size 0)).map fun j => k.unit [j, i, 0, 0] 0 0

/-- The data checks of a remote destination (R113, R332): MISALIGN, XLATE, then PROT outside the raw window or the bounds
of a bound slot. -/
def Shape.remoteCheck (k : Shape) (ncores lcn dest laddr : Nat) : Option (BitVec 5) :=
  let len : Int := if k.width = 4 then 1 else (k.width / 8 : Nat)
  match k.extremeUnits lcn 0 with
  | none => none
  | some (lo, hi) =>
    let a := k.unitAddr lcn lo - (k.base : Int) + laddr
    let b := k.unitAddr lcn hi - (k.base : Int) + laddr + len
    if laddr % k.align lcn ≠ 0 then some causeMisalign
    else if ncores ≤ dest then some causeXlate
    else if a < 0x10000000 ∨ 0x11000000 < b then some causeProt
    else if k.tabv && (decide (k.unitAddr lcn lo < k.lo.toNat) || decide ((k.hi.toNat : Int) < k.unitAddr lcn hi + len - 1)
        || !k.wr) then some causeProt
    else none

/-- The data check of a destination, local or remote. -/
def destCheck (s : State) (v : BitVec 32) (lcn n : Nat) (k : Shape) : Option (BitVec 5 × Addr) :=
  match k.remote lcn with
  | some (dest, laddr) =>
    (k.remoteCheck (s.ncores s.cur.1) lcn dest laddr).map fun c =>
      (c, match k.extremeUnits lcn 0 with
        | some (lo, _) => BitVec.ofInt 56 (k.unitAddr lcn lo)
        | none => BitVec.ofNat 56 k.base)
  | none => firstData s.myCore v lcn n 0 [(k, true)]

/-- Check a range of the scratchpad that an engine reads for a context: raw or private (R111, R178, R284). -/
def rangeCheck (c : Core) (v : BitVec 32) (n : Nat) (a : Addr) (len : Nat) : Except (BitVec 5) Nat :=
  match (if spaceOf a = .loc then placeOfLocal a.toNat else .bad) with
  | .bad => .error (if spaceOf a = .global ∨ spaceOf a = .committed ∨ spaceOf a = .remote then causeProt else causeXlate)
  | .priv o => if o + len ≤ 0x4000 then .ok (privBase n + o) else .error causeXlate
  | .win 0 o =>
    match c.bufAt v o len with
    | none => .error causeProt
    | some (_, b) => if b.admits (.engine n) then .ok o else .error causeBufstate
  | _ => .error causeProt

/-- The offset of a local raw or private address, without a check of its buffer. -/
def offsetOfLocal (n : Nat) (a : Addr) : Nat :=
  match placeOfLocal a.toNat with
  | .priv o => privBase n + o
  | .win _ o => o
  | _ => 0

/-- The span of an operand as a list of at most one range. -/
def Shape.spanList (k : Shape) (c : Core) (v : BitVec 32) (lcn n : Nat) : List (Nat × Nat) :=
  match k.span c v lcn n 0 with
  | .ok lo hi => [(lo, hi)]
  | _ => []

/-- The first of a list of checks that fails. -/
def firstFail : List (Option (BitVec 5 × Addr)) → Option (BitVec 5 × Addr)
  | [] => none
  | some e :: _ => some e
  | none :: t => firstFail t

/-- A check that fails with a cause at sys.faddr 0. -/
def failIf (b : Bool) (cause : BitVec 5) : Option (BitVec 5 × Addr) := if b then some (cause, 0) else none

/-- Whether a context holds a tile (R309). -/
def Core.holds (c : Core) (t n : Nat) : Bool := (c.tile t).holder == some n

/-- The image of a weight slot. -/
def Core.image (c : Core) (w : Nat) : List Byte := (c.wslots[w]?.getD none).getD []

/-- The header of the image that a command issued now finds in a weight slot (R311, R325): that of the last unfinished MWLD of the
slot, else of the image that it holds; none when the slot is empty. -/
def Core.slotHeader (c : Core) (w : Nat) : Option (List Byte) :=
  match (c.tq.filter fun t => t.fn == .mwld && t.w == w).getLast? with
  | some t => some t.rec'
  | none => c.wslots[w]?.getD none

/-! ## Issue -/

/-- The entries of the tile command queue (R311). -/
def tileEntries : Nat := 8

/-- The accesses of a context that are not performed at a scope yet (R134, R135). -/
def Ctx.notPerformed (c : Ctx) (sc : Scope) : List Nat :=
  (c.ops.filter fun o => (o.cnt == .ld || o.cnt == .st) && !(sc == .cx && o.global && o.what == .store)).map (·.id)

/-- A tile command of the executing context with empty fields. -/
def newTCmd (s : State) (c : Ctx) (fn : TFn) (tile : Nat) : TCmd where
  fn := fn
  tile := tile
  w := 0
  ty := .f32
  rnd := .rne
  sat := false
  clr := false
  ctx := s.cur.2
  held := none
  vint := c.vintage
  region := c.region
  ftz := c.hintFtz
  a := Shape.empty
  kk := Shape.empty
  d := Shape.empty
  rec' := []
  recAt := 0
  seq := c.issued
  opId := none
  state := .queued
  step := 0
  acqWait := []
  relWait := []
  reads := []
  writes := []
  sent := []
  answers := []
  refusedRow := none

/-- The first span of a command that an unfinished copy holds (R371). -/
def TCmd.heldBy (s : State) (t : TCmd) : Option (Nat × Nat × Bool) :=
  VEntry.heldBy s ⟨t.ctx, t.vint, [], 0, 0, t.seq, t.reads, t.writes⟩

/-- Give a command to the queue, counted in tl when `counts` (R311, R327-R331): it waits for room, for an acquire on its way
(R132) and for copies (R371). -/
def enterTile (s : State) (c : Ctx) (t : TCmd) (counts : Bool) : Out :=
  if tileEntries ≤ s.myCore.tq.length ∨ c.acquiring ∨ (counts ∧ !c.canCount .tl) then .next s
  else
    match t.heldBy s with
    | some (lo, hi, w) =>
      .next (s.setMe { s.me with stall := some (.span (1 + s.lcn s.cur.1) lo hi w []) })
    | none =>
      let core := s.myCore
      let t1 := if counts then { t with opId := some c.issued } else t
      let c1 := if counts then c.startOp .tl 0 false true (.tile t.tile) else c
      .next (((s.setMyCore { core with tq := core.tq ++ [t1] }).setMe c1.advance).due
        (.tileCommandStart s.cur.1 core.tq.length))

/-- A tile word whose checks are made: its first failure traps, else the command enters the queue (R325). -/
def tileWord (s : State) (c : Ctx) (checks : List (Option (BitVec 5 × Addr))) (t : TCmd) (counts : Bool) : Out :=
  match firstFail checks with
  | some (cause, fa) => .next (s.trap cause fa)
  | none => enterTile s c t counts

/-- The HINTs of the array commands and of MACRD and MEPI (R68). -/
def ftzHints : HintUse := { mod := true, ftz := true }

/-- Whether a kk slot gives a legal window and output tile (R321). -/
def Shape.windowOk (k : Shape) : Bool :=
  [17, 18, 19, 20, 21, 22].all (fun f => decide (1 ≤ k.fld f)) && decide (1 ≤ k.size 0 * k.size 1)
    && decide (k.size 0 * k.size 1 ≤ 64) && k.size 2 == 1 && k.size 3 == 1

/-- An array command (R320, R321, R325, R327, R328). -/
def arrayWord (s : State) (fn : TFn) (acc : Tile) (ak : Slot) (w : WSlot) (ty : DType) (kk : Option Slot)
    (acq rel : Bool) (scope : Scope) (clr : Bool) : Out :=
  issueWord s ftzHints [] [] false false false fun i =>
    let c := i.c
    let core := s.myCore
    let lcn := s.lcn s.cur.1
    let n := s.cur.2
    let a := c.slot ak
    let k := (kk.map c.slot).getD Shape.empty
    let head := core.slotHeader w.toNat
    let img := head.getD []
    let cx := decide (fn = .mmcx)
    let shapeOk := match fn with
      | .mconv =>
        !a.cplx && a.size 3 == 1 && k.windowOk && !imgCplx img && imgK img == k.fld 17 * k.fld 18 * a.size 0
      | _ =>
        a.cplx == cx && imgCplx img == cx && a.size 0 == imgK img && decide (1 ≤ a.size 1) && decide (a.size 1 ≤ 64)
          && a.size 2 == 1 && a.size 3 == 1
    let legal := !a.isEmpty && (kk.isNone || !k.isEmpty) && head.isSome && imgType img == some ty && a.aTypeOk lcn && shapeOk && a.swzLegal
    tileWord s c
      [failIf (!legal) causeIllegal, failIf (!core.holds acc.toNat n) causeBufstate,
        (if a.swzMatches lcn then none else some (causeLayout, BitVec.ofNat 56 a.base)),
        firstData core c.vintage lcn n 0 [(a, false)]]
      { newTCmd s c fn acc.toNat with
        w := w.toNat, ty := ty, clr := clr, a := a, kk := k,
        acqWait := if acq then c.notPerformed scope else [], relWait := if rel then c.notPerformed scope else [],
        reads := a.spanList core c.vintage lcn n } true

/-- MMA (R320, R327). -/
def execMma (acc : Tile) (ak : Slot) (w : WSlot) (ty : DType) (acq rel : Bool) (scope : Scope) (clr : Bool) (s : State) :
    Out :=
  arrayWord s .mma acc ak w ty none acq rel scope clr

/-- MMCX (R320, R327). -/
def execMmcx (acc : Tile) (ak : Slot) (w : WSlot) (ty : DType) (acq rel : Bool) (scope : Scope) (clr : Bool) (s : State) :
    Out :=
  arrayWord s .mmcx acc ak w ty none acq rel scope clr

/-- MCONV (R321, R328). -/
def execMconv (acc : Tile) (ak : Slot) (w : WSlot) (ty : DType) (kk : Slot) (acq rel : Bool) (scope : Scope) (clr : Bool)
    (s : State) : Out :=
  arrayWord s .mconv acc ak w ty (some kk) acq rel scope clr

/-- MWLD (R329): the header is read and judged, then the whole image is checked as a source. -/
def execMwld (w : WSlot) (a : Reg) (ty : DType) (s : State) : Out :=
  issueWord s noHints [a] [] false false false fun i =>
    let c := i.c
    let n := s.cur.2
    let x : Addr := (i.v 0).setWidth 56
    let at' := ownLocal (s.lcn s.cur.1) x
    let raw := match (if spaceOf at' = .loc then placeOfLocal at'.toNat else .bad) with
      | .win 0 _ => true
      | _ => false
    if !aligned x 64 then .next (s.trap causeMisalign x)
    else if !raw then .next (s.trap causeProt x)
    else
      gated s (rangeOf (s.lcn s.cur.1) n at' 64) false
        (match rangeCheck s.myCore c.vintage n at' 64 with
        | .error cause => .next (s.trap cause x)
        | .ok off =>
          let h := s.scrRead s.cur.1 off 64
          let size := imgSize h
          tileWord s c
            [failIf (!imgValid h || imgType h != some ty) causeIllegal,
              (match rangeCheck s.myCore c.vintage n at' size with
                | .error cause => some (cause, x)
                | .ok _ => none)]
            { newTCmd s c .mwld 0 with
              w := w.toNat, ty := ty, rec' := h, recAt := off, reads := [(off, off + size)] } true)

/-- MACLR (R330). -/
def execMaclr (acc : Tile) (s : State) : Out :=
  issueWord s noHints [] [] false false false fun i =>
    tileWord s i.c [failIf (!s.myCore.holds acc.toNat s.cur.2) causeBufstate] (newTCmd s i.c .maclr acc.toNat) false

/-- MACRD (R332, R333, R337). -/
def execMacrd (acc : Tile) (ks : Slot) (ty : DType) (rnd : Rnd) (sat : Bool) (s : State) : Out :=
  issueWord s ftzHints [] [] false false false fun i =>
    let c := i.c
    let lcn := s.lcn s.cur.1
    let d := c.slot ks
    let legal := !d.isEmpty && d.isTile && d.tileType lcn == some ty && d.swzLegal
      && !(rnd == .rs && (d.remote lcn).isSome)
    tileWord s c
      [failIf (!legal) causeIllegal, failIf (!s.myCore.holds acc.toNat s.cur.2) causeBufstate,
        (if d.swzMatches lcn then none else some (causeLayout, BitVec.ofNat 56 d.base)),
        destCheck s c.vintage lcn s.cur.2 d]
      { newTCmd s c .macrd acc.toNat with
        ty := ty, rnd := rnd, sat := sat, d := d, writes := d.spanList s.myCore c.vintage lcn s.cur.2 } true

/-- MACWR (R331). -/
def execMacwr (acc : Tile) (ks : Slot) (ty : DType) (s : State) : Out :=
  issueWord s noHints [] [] false false false fun i =>
    let c := i.c
    let lcn := s.lcn s.cur.1
    let a := c.slot ks
    let legal := !a.isEmpty && a.isTile && a.dtype lcn == some ty && a.swzLegal
    tileWord s c
      [failIf (!legal) causeIllegal, failIf (!s.myCore.holds acc.toNat s.cur.2) causeBufstate,
        (if a.swzMatches lcn then none else some (causeLayout, BitVec.ofNat 56 a.base)),
        firstData s.myCore c.vintage lcn s.cur.2 0 [(a, false)]]
      { newTCmd s c .macwr acc.toNat with
        ty := ty, a := a, reads := a.spanList s.myCore c.vintage lcn s.cur.2 } true

/-- The bias and scale addresses of an epilogue record, none when 0 (R334). -/
def epiVector (l : List Byte) (i : Nat) : Option Addr :=
  let w := wordAt l i
  if w % 2 ^ 56 = 0 then none else some (BitVec.ofNat 56 w)

/-- Whether an epilogue record is valid (R334). -/
def epiValid (l : List Byte) : Bool :=
  wordAt l 0 / 2 ^ 56 == 0 && wordAt l 1 / 2 ^ 56 == 0 && decide (wordAt l 2 ≤ 2) && leNat (l.drop 32) == 0

/-- The check of a bias or scale vector of n f32 values (R325, R334). -/
def epiCheck (s : State) (v : BitVec 32) (n len : Nat) (a : Option Addr) : Option (BitVec 5 × Addr) :=
  match a with
  | none => none
  | some x =>
    if !aligned x 4 then some (causeMisalign, x)
    else
      match rangeCheck s.myCore v n (ownLocal (s.lcn s.cur.1) x) (4 * len) with
      | .error cause => some (cause, x)
      | .ok _ => none

/-- The span of a vector of n f32 values. -/
def epiSpan (s : State) (n len : Nat) (a : Option Addr) : List (Nat × Nat) :=
  match a with
  | none => []
  | some x => let o := offsetOfLocal n (ownLocal (s.lcn s.cur.1) x); [(o, o + 4 * len)]

/-- The scratchpad span of an epilogue record at a local address. -/
def recSpan (n : Nat) (a : Addr) : List (Nat × Nat) :=
  match placeOfLocal a.toNat with
  | .param _ _ | .bad => []
  | .priv _ | .win .. => let o := offsetOfLocal n a; [(o, o + 64)]

/-- MEPI (R334, R337): the record is read and judged, then the operands are checked. -/
def execMepi (acc : Tile) (ks : Slot) (a : Reg) (ty : DType) (rnd : Rnd) (sat : Bool) (s : State) : Out :=
  issueWord s ftzHints [a] [] false false false fun i =>
    let c := i.c
    let lcn := s.lcn s.cur.1
    let n := s.cur.2
    let x : Addr := (i.v 0).setWidth 56
    let at' := ownLocal lcn x
    let ok := match (if spaceOf at' = .loc then placeOfLocal at'.toNat else .bad) with
      | .priv _ | .win 0 _ | .param _ _ => true
      | _ => false
    if !aligned x 64 then .next (s.trap causeMisalign x)
    else if !ok then .next (s.trap causeProt x)
    else
      gated s (rangeOf lcn n at' 64) false
        (withBlock s c x 64 fun l =>
          let d := c.slot ks
          let legal := !d.isEmpty && d.isTile && d.tileType lcn == some ty && d.swzLegal
            && !(rnd == .rs && (d.remote lcn).isSome) && epiValid l
          let bias := epiVector l 0
          let scale := epiVector l 1
          tileWord s c
            [failIf (!legal) causeIllegal, failIf (!s.myCore.holds acc.toNat n) causeBufstate,
              (if d.swzMatches lcn then none else some (causeLayout, BitVec.ofNat 56 d.base)),
              epiCheck s c.vintage n (d.size 0) bias, epiCheck s c.vintage n (d.size 0) scale,
              destCheck s c.vintage lcn n d]
            { newTCmd s c .mepi acc.toNat with
              ty := ty, rnd := rnd, sat := sat, d := d, rec' := l,
              reads := recSpan n at' ++ epiSpan s n (d.size 0) bias ++ epiSpan s n (d.size 0) scale,
              writes := d.spanList s.myCore c.vintage lcn n } true)

/-- Whether an MREL of a tile is pending for a context. -/
def Core.relPending (c : Core) (t n : Nat) : Bool :=
  c.tq.any fun q => q.fn == .mrel && q.tile == t && q.ctx == n && q.held.isNone

/-- Whether a tile command of a context has not started yet; none behind a stopped one starts (R311, R323). -/
def Core.unstarted (c : Core) (n : Nat) : Bool :=
  let mine := c.tq.filter fun q => q.ctx == n && q.held.isNone
  mine.any (fun q => q.state == .queued) && !mine.any fun q => q.state == .stopped

/-- MACQ (R309): the tile becomes the context's, or the word stalls until it is free. It takes effect in queue order (R330): every
earlier tile command of the context has started, and a pending MREL of its own on the tile is done (R311). -/
def execMacq (acc : Tile) (s : State) : Out :=
  issueWord s noHints [] [] false false false fun i =>
    let t := acc.toNat
    let n := s.cur.2
    let x := s.myCore.tile t
    if tileEntries ≤ s.myCore.tq.length ∨ s.myCore.relPending t n ∨ s.myCore.unstarted n then .next s
    else if x.holder = some n then .next (s.setMe i.c.advance)
    else if x.holder.isNone && x.image.isNone && x.waiters.isEmpty then
      .next ((s.setMe i.c.advance).takeTile s.cur.1 t n i.c.vintage)
    else
      let ws := if x.waiters.contains n then x.waiters else x.waiters ++ [n]
      .next ((s.setMe { s.me with stall := some (.tile t) }).updCore s.cur.1 fun c => c.setTile t { x with waiters := ws })

/-- MREL (R309, R337): a stopped command on the tile is discarded; the release takes effect in queue order. -/
def execMrel (acc : Tile) (s : State) : Out :=
  issueWord s noHints [] [] false false false fun i =>
    let t := acc.toNat
    let n := s.cur.2
    let keep := fun (q : TCmd) => !(q.ctx == n && q.held.isNone && q.state == .stopped && q.tile == t)
    if !s.myCore.holds t n then .next (s.setMe i.c.advance)
    else
      let core := s.myCore
      enterTile (s.setMyCore { core with tq := core.tq.filter keep }) i.c (newTCmd s i.c .mrel t) false

/-! ## Starting (R311) -/

/-- The units of the engine: the loader, the array, the port unit, and none for what the queue performs itself (R311). -/
def TFn.unit : TFn → Nat
  | .mwld => 1
  | .mma | .mmcx | .mconv => 2
  | .macrd | .macwr | .mepi => 3
  | .maclr | .mrel => 0

/-- Whether a form names a tile. -/
def TFn.hasTile : TFn → Bool
  | .mwld => false
  | .mma | .mmcx | .mconv | .macrd | .macwr | .mepi | .maclr | .mrel => true

/-- Whether a form names a weight slot. -/
def TFn.hasSlot : TFn → Bool
  | .mwld | .mma | .mmcx | .mconv => true
  | .macrd | .macwr | .mepi | .maclr | .mrel => false

/-- Whether two commands name a tile or a weight slot in common (R311). -/
def TCmd.clashes (a b : TCmd) : Bool :=
  (a.fn.hasTile && b.fn.hasTile && a.tile == b.tile) || (a.fn.hasSlot && b.fn.hasSlot && a.w == b.w)

/-- Whether an MREL discards an earlier command: a stopped one of its context on its tile (R309). -/
def TCmd.discards (t e : TCmd) : Bool :=
  t.fn == .mrel && e.state == .stopped && e.ctx == t.ctx && e.held == t.held && e.tile == t.tile && e.fn.hasTile

/-- Whether the k-th command of the queue may start (R311, R323). -/
def Core.mayStart (c : Core) (k : Nat) : Bool :=
  match c.tq[k]? with
  | none => false
  | some t =>
    let before := (c.tq.take k).filter fun e => !t.discards e
    t.state == .queued && t.held.isNone
      && before.all (fun e => !(e.ctx == t.ctx && e.held.isNone) || e.state == .running)
      && !before.any (fun e => e.clashes t)
      && !(t.fn.unit != 0 && c.tq.any fun e => e.state == .running && e.fn.unit == t.fn.unit)

/-- The first command of a queue that may start. -/
def Core.firstStart (c : Core) : Option Nat := (List.range c.tq.length).find? fun k => c.mayStart k

/-- Change the command at a place of the queue. -/
def Core.setCmd (c : Core) (k : Nat) (t : TCmd) : Core := { c with tq := c.tq.set k t }

/-- Whether a core starts no tile command: it stands still (R496), or is in step 0 of a boundary: one is asked for, and no copy of an earlier
interval stands in its way (R475, R477). -/
def State.boundaryNear (s : State) (site : Nat) : Bool :=
  (s.core site).paused || match s.keepAt site with
    | some (_, _, k) => k.want && k.copy.isNone
    | none => false

/-! ## Sums (R315, R320, R321) -/

/-- An element of a tile. -/
def TileSt.elem (t : TileSt) (i j : Nat) : Acc := Tbl.get 0 t.elems (64 * i + j)

/-- A tile with another element; +0 is unlisted. -/
def TileSt.setElem (t : TileSt) (i j : Nat) (v : Acc) : TileSt :=
  { t with elems := if v = 0 then Tbl.del t.elems (64 * i + j) else Tbl.put t.elems (64 * i + j) v }

/-- One accumulation: round_acc96_RNE(acc + a·b) (R315). -/
def accumulate (acc : Acc) (a b : Val) : Acc := encodeAcc (fmaVal false a b (decodeAcc acc)).val

/-- The sum of R315 over k, from position k on, with A and B as functions. -/
def accSum (a : Nat → Val) (b : Nat → Option Val) : Nat → Nat → Acc → Acc
  | _, 0, acc => acc
  | k, n + 1, acc =>
    accSum a b (k + 1) n (match b k with
      | some v => accumulate acc (a k) v
      | none => acc)

/-- The complex sum of MMCX over k (R320): real and imaginary parts, four roundings each step. -/
def accSumCx (a b : Nat → Nat → Val) : Nat → Nat → Acc × Acc → Acc × Acc
  | _, 0, acc => acc
  | k, n + 1, (re, im) =>
    let re1 := accumulate (accumulate re (a k 0) (b k 0)) (negVal (a k 1)) (b k 1)
    let im1 := accumulate (accumulate im (a k 0) (b k 1)) (a k 1) (b k 0)
    accSumCx a b (k + 1) n (re1, im1)

/-- The output extent along one axis (R321): size, padding, dilation, window and stride. -/
def convExtent (w p q dl kw sw : Nat) : Int := ((w : Int) + p + q - dl * (kw - 1) - 1).fdiv sw + 1

/-- The value of the implicit A of MCONV at row i and position k (R321). -/
def convValue (rd : List Nat → Val) (pad : Val) (x kk : Shape) (ox oy : Int) (k : Nat) : Val :=
  let c := k % x.size 0
  let kx := k / x.size 0 % kk.fld 18
  let ky := k / x.size 0 / kk.fld 18
  let ix := ox * kk.fld 20 - kk.fld 25 + kx * kk.fld 22
  let iy := oy * kk.fld 19 - kk.fld 23 + ky * kk.fld 21
  if 0 ≤ ix ∧ ix < x.size 1 ∧ 0 ≤ iy ∧ iy < x.size 2 then rd [c, ix.toNat, iy.toNat, 0] else pad

/-- The rows of a command and, for each, the value of A at k and a component; a row that MCONV leaves out is none. -/
def TCmd.aRow (t : TCmd) (rd : List Nat → Nat → Val) (i : Nat) : Option (Nat → Nat → Val) :=
  match t.fn with
  | .mconv =>
    let kk := t.kk
    let ox := kk.stride 0 + (i % kk.size 0 : Nat)
    let oy := kk.stride 1 + (i / kk.size 0 : Nat)
    let ow := convExtent (t.a.size 1) (kk.fld 25) (kk.fld 26) (kk.fld 22) (kk.fld 18) (kk.fld 20)
    let oh := convExtent (t.a.size 2) (kk.fld 23) (kk.fld 24) (kk.fld 21) (kk.fld 17) (kk.fld 19)
    let pad := flushIf t.ftz (f32Val (kk.fld 27))
    if 0 ≤ ox ∧ ox < ow ∧ 0 ≤ oy ∧ oy < oh then some fun k _ => convValue (fun ix => rd ix 0) pad t.a kk ox oy k
    else none
  | _ => some fun k q => rd [k, i, 0, 0] q

/-- The number of rows of a command. -/
def TCmd.rows (t : TCmd) : Nat :=
  match t.fn with
  | .mconv => t.kk.size 0 * t.kk.size 1
  | .macwr => t.a.size 1
  | .macrd | .mepi => t.d.size 1
  | _ => t.a.size 1

/-- Update one row of a tile by `kn` positions of an array command from `k0` on (R315, R320). -/
def TCmd.sumRow (t : TCmd) (img : List Byte) (rd : List Nat → Nat → Val) (k0 kn : Nat) (x : TileSt) (i : Nat) : TileSt :=
  match t.aRow rd i with
  | none => x
  | some a =>
    let float := match imgType img with
      | some ty => ty.isFloat || ty == .cb4
      | none => false
    let b := fun (k c : Nat) => (imgValue img k c).map (flushIf (t.ftz && float))
    if t.fn = .mmcx then
      (List.range (imgN img)).foldl (fun y j =>
        let r := accSumCx a (fun k q => (b k (2 * j + q)).getD (.zero false)) k0 kn (x.elem i (2 * j), x.elem i (2 * j + 1))
        (y.setElem i (2 * j) r.1).setElem i (2 * j + 1) r.2) x
    else
      (List.range (imgN img)).foldl (fun y j => y.setElem i j (accSum (fun k => a k 0) (fun k => b k j) k0 kn (x.elem i j))) x

/-- The reader of a command's operand: decoded values, flushed under ftz (R315). -/
def TCmd.reader (t : TCmd) (s : State) (site : Nat) (idx : List Nat) (q : Nat) : Val :=
  let ty := (t.a.dtype ((s.lcnOf site).getD 0)).getD .f32
  elemVal ty t.ftz (s.unitRead site t.vint t.ctx t.a (t.a.unit idx 0 q) t.ftz)

/-- The chunks or rows of a command (R322). -/
def TCmd.steps (t : TCmd) (s : State) (site : Nat) : Nat :=
  match t.fn with
  | .mma | .mmcx | .mconv => (imgK ((s.core site).image t.w) + 63) / 64
  | .macwr => t.a.size 1
  | .macrd | .mepi => t.d.size 1
  | .mwld | .maclr | .mrel => 0

/-- The tile after an array command has made its rank-1 updates from its step up to position `k1` (R315, R322). -/
def TCmd.sumsUpTo (t : TCmd) (s : State) (site k1 : Nat) : TileSt :=
  let c := s.core site
  let img := c.image t.w
  let x := c.tile t.tile
  let x0 := if t.clr ∧ t.step = 0 then { x with elems := [] } else x
  let k0 := 64 * t.step
  (List.range t.rows).foldl (t.sumRow img (t.reader s site) k0 (min k1 (imgK img) - k0)) x0

/-- The tile after an array command has done its chunks from its step up to `hi` (R315, R322). -/
def TCmd.sumsTo (t : TCmd) (s : State) (site hi : Nat) : TileSt := t.sumsUpTo s site (64 * hi)

/-- The tile after an array command (R315), from its step on (R323). -/
def TCmd.sums (t : TCmd) (s : State) (site : Nat) : TileSt := t.sumsTo s site (t.steps s site)

/-- The tile after a MACWR has written its rows from its step up to `hi` (R322, R331). -/
def TCmd.writtenTo (t : TCmd) (s : State) (site hi : Nat) : TileSt :=
  ((List.range (min hi (t.a.size 1))).drop t.step).foldl (fun x i =>
    (List.range (t.a.size 0)).foldl (fun y j => y.setElem i j (encodeAcc (t.reader s site [j, i, 0, 0] 0))) x)
    ((s.core site).tile t.tile)

/-- The tile after a MACWR (R331), from its step on (R323). -/
def TCmd.written (t : TCmd) (s : State) (site : Nat) : TileSt := t.writtenTo s site (t.a.size 1)

/-! ## The epilogue (R332-R335) -/

/-- The j-th f32 value of a bias or scale vector. -/
def State.epiValue (s : State) (site n : Nat) (a : Addr) (j : Nat) : Val :=
  f32Val (leNat (s.scrRead site (offsetOfLocal n (ownLocal ((s.lcnOf site).getD 0) a) + 4 * j) 4))

/-- A step of the epilogue: the rounded value, and INVALID for an invalid one (R334). -/
def epiStep (r : Res) : Val × Word := (decodeAcc (encodeAcc r.val), r.flags)

/-- The value that a MACRD or MEPI narrows for column j, with the sticky bits of its steps (R333, R334). -/
def TCmd.epilogue (t : TCmd) (s : State) (site : Nat) (v : Val) (j : Nat) : Val × Word :=
  if t.fn = .macrd then (v, 0)
  else
    let sc := match epiVector t.rec' 1 with
      | some a => epiStep (mulVal v (s.epiValue site t.ctx a j))
      | none => (v, 0)
    let bi := match epiVector t.rec' 0 with
      | some a => epiStep (addVal false sc.1 (s.epiValue site t.ctx a j))
      | none => (sc.1, 0)
    let act := wordAt t.rec' 2
    let lo := f32Val (wordAt t.rec' 3)
    let hi := f32Val (wordAt t.rec' 3 / 2 ^ 32)
    let w := bi.1
    let out := if act = 1 then (if ltVal w (.zero false) then .zero false else w)
      else if act = 2 then (if isNanVal w then w else minVal (maxVal w lo) hi) else w
    (out, sc.2 ||| bi.2)

/-- One element of the destination: its bits and sticky bits (R333, R334). -/
def TCmd.narrow (t : TCmd) (s : State) (site i j : Nat) (draw : Word) : Enc :=
  let e := t.epilogue s site (decodeAcc (((s.core site).tile t.tile).elem i j)) j
  let r := encodeElem t.ty (flushIf t.ftz e.1) t.rnd t.sat t.ftz draw
  ⟨r.bits, r.flags ||| e.2⟩

/-- Compute a row: the patterns, the generator and the sticky bits after it. -/
def TCmd.row (t : TCmd) (s : State) (site i : Nat) (gen : Word) : List Nat × Word × Word :=
  (List.range (t.d.size 0)).foldl (fun (acc : List Nat × Word × Word) j =>
    let dr := drawIf t.rnd acc.2.1
    let e := t.narrow s site i j dr.2
    (acc.1 ++ [e.bits], dr.1, acc.2.2 ||| e.flags)) ([], gen, 0)

/-- Compute the rows from a step up to `hi`: the rows' patterns, the generator, the sticky bits. -/
def TCmd.rowsTo (t : TCmd) (s : State) (site hi : Nat) (gen : Word) : List (Nat × List Nat) × Word × Word :=
  ((List.range (min hi (t.d.size 1))).filter fun i => decide (t.step ≤ i)).foldl (fun (acc : List (Nat × List Nat) × Word × Word) i =>
    let r := t.row s site i acc.2.1
    (acc.1 ++ [(i, r.1)], r.2.1, acc.2.2 ||| r.2.2)) ([], gen, 0)

/-- Compute every row from a step on, before the first write (R335). -/
def TCmd.allRows (t : TCmd) (s : State) (site : Nat) (gen : Word) : List (Nat × List Nat) × Word × Word :=
  t.rowsTo s site (t.d.size 1) gen

/-- Write a row of a local destination (R332). -/
def TCmd.writeRow (t : TCmd) (site : Nat) (s : State) (r : Nat × List Nat) : State :=
  r.2.zipIdx.foldl (fun q e => q.unitWrite site t.vint t.ctx t.d (t.d.unit [e.2, r.1, 0, 0] 0 0) e.1) s

/-- A row of a remote destination as one packet: the first offset in the target's raw window, the bytes from it, and a mask
bit for each nibble that is written (R332). -/
def TCmd.packet (t : TCmd) (lcn laddr : Nat) (i : Nat) (bits : List Nat) : Nat × List Byte × Nat :=
  let w := t.d.width
  let us : List Int := t.d.rowUnits i
  let nib : List Int := us.map fun u => u * ((w / 4 : Nat) : Int)
  let lo := nib.foldl min (nib.headD 0) / 2 * 2
  let at' := fun (u : Int) => (u * ((w / 4 : Nat) : Int) - lo).toNat
  let sum := (us.zip bits).foldl (fun (acc : Nat × Nat) e =>
    (acc.1 ||| (e.2 % 2 ^ w) * 2 ^ (4 * at' e.1), acc.2 ||| (2 ^ (w / 4) - 1) * 2 ^ at' e.1)) (0, 0)
  let len := (nib.foldl max (nib.headD 0) - lo).toNat / 2 + (w + 7) / 8
  let base := t.d.unitAddr lcn 0 - (t.d.base : Int) + laddr - 0x10000000
  ((base + lo / 2).toNat, leBytes len sum.1, sum.2)

/-! ## Finishing (R313, R335-R338) -/

/-- Whether a command's memory work must wait: for the context's stores and atomics on scratchpad (R285), its acquire and
release (R327), its vector instructions and tile commands whose spans conflict (R312), a copy's watermark (R370), earlier
draws (R313). Nothing runs while the core stands still or its cellar is full (R478, R496). -/
def State.tileWaits (s : State) (site k : Nat) (t : TCmd) : Bool :=
  let c := s.core site
  let x := s.ctx site t.ctx
  let key := 1 + (s.lcnOf site).getD 0
  let open' := fun (l : List Nat) => x.ops.any fun o => l.contains o.id
  s.still site
    || x.ops.any (fun o => decide (o.id < t.seq) && o.isWrite && !o.global && (o.cnt == .ld || o.cnt == .st))
    || open' t.acqWait || open' t.relWait
    || c.vq.any (fun e => e.ctx == t.ctx && decide (e.seq ≤ t.seq)
      && (t.reads.any (fun sp => spansMeet e.writes sp.1 sp.2)
        || t.writes.any (fun sp => spansMeet e.writes sp.1 sp.2 || spansMeet e.reads sp.1 sp.2)
        || (t.drains && t.rnd == .rs && e.body.any VOp.draws)))
    || (c.tq.take k).any (fun e => e.ctx == t.ctx && e.held.isNone
      && t.writes.any fun (sp : Nat × Nat) => spansMeet e.reads sp.1 sp.2)
    || t.reads.any (fun (sp : Nat × Nat) => s.readBehind site t.ctx t.seq ⟨key, sp.1, sp.2⟩)

/-- The started array command of a core. -/
def Core.arrayCmd (c : Core) : Option TCmd :=
  List.find? (fun (t : TCmd) => t.state == .running && t.held.isNone && t.fn.unit == 2) c.tq

/-- Whether the started array command of a site has an update that can be made (R343). -/
def State.canUpdate (s : State) (site : Nat) : Bool :=
  let c := s.core site
  !c.paused && (List.range c.tq.length).any fun k =>
    match c.tq[k]? with
    | some t => t.state == .running && t.held.isNone && t.fn.unit == 2 && !s.tileWaits site k t
    | none => false

/-- Whether an array wants to rise (R343). -/
def wantsRise (cap : Nat) (can : Bool) (x : SlewArray) : Bool := can && decide (x.level < 4) && decide (x.level < cap)

/-- Whether an array wants to fall (R343, R344). -/
def wantsFall (cap : Nat) (can : Bool) (x : SlewArray) : Bool := decide (cap < x.level) || (!can && decide (0 < x.level))

/-- An array's wants at a cycle (R343-R345): a want that stands keeps its cycle; the request age stays while a command runs. -/
def SlewArray.wants (x : SlewArray) (cap : Nat) (can runs : Bool) (now : Nat) : SlewArray :=
  { x with
    rise := if wantsRise cap can x then some (x.rise.getD now) else if runs then x.rise else none,
    fall := if wantsFall cap can x then some (x.fall.getD now) else none }

/-- The wants of a site's array as they stand now (R343). -/
def State.wantRise (s : State) (site : Nat) : State :=
  s.setSlew site ((s.slew site).wants (s.limiter site).cap (s.canUpdate site) (s.core site).arrayCmd.isSome s.module.fc)

/-- TILE_COMMAND_START (R311, R313, R343): the first command that may start does; at a checkpoint boundary a core starts none
(R323, R475). -/
def execTileCommandStart (site k : Nat) (s : State) : Out :=
  let c := s.core site
  match c.tq[k]? with
  | none => .next s
  | some t =>
    if c.firstStart ≠ some k ∨ s.boundaryNear site then .next s
    else
      let s1 := s.setCore site (c.setCmd k { t with state := .running })
      let s2 := s1.wantRise site
      .next (s2.due (.tileCommandFinish site k))

/-- A command leaves the queue and tl; what waited for it looks again, and its writes can make the high water (R478). -/
def State.tileDone (s : State) (site k : Nat) (t : TCmd) : State :=
  let s1 := s.updCore site fun c => { c with tq := c.tq.eraseIdx k }
  let s2 := match t.opId with
    | some id => s1.updCtx site t.ctx fun x => x.dropOp id
    | none => s1
  ((s2.wakeContext site t.ctx).wakeEngines site).noteHigh site

/-- Replace a tile's elements, its lines dirty and tagged (R308, R474). -/
def State.putTile (s : State) (site : Nat) (t : TCmd) (x : TileSt) : State :=
  s.updCore site fun c => (c.setTile t.tile x).markLines (tileLine t.tile) t.vint 768

/-- The first dirty-map line of a weight slot (R474). -/
def slotLine (w : Nat) : Nat := 131072 + 1024 * w

/-- A running command does its chunks, or its rows at a local place, from its step up to `hi` (R322). -/
def State.runSteps (s : State) (site : Nat) (t : TCmd) (hi : Nat) : State :=
  match t.fn with
  | .mma | .mmcx | .mconv => s.putTile site t (t.sumsTo s site hi)
  | .macwr => s.putTile site t (t.writtenTo s site hi)
  | .macrd | .mepi =>
    let r := t.rowsTo s site hi (s.ctx site t.ctx).srstate
    let s1 := r.1.foldl (t.writeRow site) s
    s1.updCtx site t.ctx fun x => { x.orSticky r.2.2 with srstate := r.2.1 }
  | .mwld | .maclr | .mrel => s

/-- Whether a running command can have made no step by itself: it is held back, has no grant (R324) or sends its rows elsewhere. -/
def State.heldBack (s : State) (site k : Nat) (t : TCmd) : Bool :=
  s.tileWaits site k t || (t.fn.unit == 2 && (s.slew site).level == 0)
    || (t.drains && (t.d.remote ((s.lcnOf site).getD 0)).isSome)

/-- The step at which a running command has come to its interruption point (R322, R323): how many of its steps lie behind it
is open, but for one that is held back, has no grant (R324) or sends its rows elsewhere. -/
def State.stoppedAt (s : State) (site k : Nat) (t : TCmd) (free : Nat) : Nat :=
  if s.heldBack site k t then t.step else t.step + free % (t.steps s site - t.step)

/-- Send the next row of a remote destination (R332, R337); none follows a refusal, or a pre-emption of the context (R260). -/
def State.sendRow (s : State) (site k : Nat) (t : TCmd) (dest laddr : Nat) : State :=
  if s.preempting site t.ctx then s.due (.preemption site t.ctx)
  else if t.refusedRow.isSome || decide (t.d.size 1 ≤ t.step) || !s.coreCanSend site dest then s
  else
    let r := t.row s site t.step 0
    let pk := t.packet ((s.lcnOf site).getD 0) laddr t.step r.1
    let s1 := s.sendFromCore site dest 10 t.step t.tile t.vint (.row pk.1 pk.2.1 pk.2.2)
    let s2 := s1.updCore site fun c => c.setCmd k { t with step := t.step + 1, sent := t.sent ++ [t.step] }
    (s2.updCtx site t.ctx fun x => x.orSticky r.2.2).due (.tileCommandFinish site k)

/-- TILE_COMMAND_FINISH (R309, R315, R330-R338): a started command does its work and leaves the queue; one with a remote
destination sends its rows first and finishes with their acknowledgements; an array command needs a grant of the limiter
(R324). -/
def execTileCommandFinish (site k : Nat) (s : State) : Out :=
  let c := s.core site
  match c.tq[k]? with
  | none => .next s
  | some t =>
    if t.state ≠ .running ∨ t.held.isSome ∨ s.tileWaits site k t then .next s
    else
      match t.fn with
      | .mma | .mmcx | .mconv =>
        if (s.slew site).level = 0 then .next (s.wantRise site)
        else .next (((s.putTile site t (t.sums s site)).wantFall site).tileDone site k t)
      | .mwld =>
        let img := s.scrRead site t.recAt (imgSize t.rec')
        let s1 := s.updCore site fun q =>
          { (q.markLines (slotLine t.w) t.vint ((img.length + 63) / 64)) with
            wslots := q.wslots.setIfInBounds t.w (some img) }
        .next (s1.tileDone site k t)
      | .maclr => .next ((s.putTile site t { c.tile t.tile with elems := [] }).tileDone site k t)
      | .macwr => .next ((s.putTile site t (t.written s site)).tileDone site k t)
      | .mrel =>
        let drop := fun (q : Core) => { q with tq := q.tq.filter fun e => !(t.discards e) }
        let s1 := s.tileDone site k t
        .next (if c.holds t.tile t.ctx then (s1.updCore site drop).freeTile site t.tile t.ctx else s1)
      | .macrd | .mepi =>
        match t.d.remote ((s.lcnOf site).getD 0) with
        | none =>
          let r := t.allRows s site (s.ctx site t.ctx).srstate
          let s1 := r.1.foldl (t.writeRow site) s
          let s2 := s1.updCtx site t.ctx fun x => { x.orSticky r.2.2 with srstate := r.2.1 }
          .next (s2.tileDone site k t)
        | some (dest, laddr) =>
          if t.d.size 1 ≤ t.step ∧ t.sent.isEmpty ∧ t.refusedRow.isNone then .next (s.tileDone site k t)
          else .next (s.sendRow site k t dest laddr)

/-- The command becomes stopped (R337): it leaves tl, and its refusal is posted with cause BUFSTATE and the lowest refused
row. -/
def State.stopTile (s : State) (site k : Nat) (t : TCmd) (row : Nat) : State :=
  let lcn := (s.lcnOf site).getD 0
  let fa := BitVec.ofInt 56 (t.d.unitAddr lcn ((t.d.rowUnits row).headD 0))
  let s1 := s.updCore site fun c => c.setCmd k { t with state := .stopped, opId := none, step := row }
  let s2 := match t.opId with
    | some id => s1.updCtx site t.ctx fun x =>
      match x.endOp id with
      | some (o, y) => y.post o causeBufstate fa (BitVec.ofNat 32 (2 * 2 ^ 30 + row))
      | none => x
    | none => s1
  (s2.wakeContext site t.ctx).wakeEngines site

/-- TILE_WRITE_ACK (R336, R337): the acknowledgement or refusal of a remote row; with the last one after a refusal the
command stops on its tile. -/
def execTileWriteAck (site tile : Nat) (s : State) : Out :=
  let c := s.core site
  match c.tq.findIdx? fun t => t.tile == tile && t.drains && t.held.isNone && !t.answers.isEmpty with
  | none => .next s
  | some k =>
    match c.tq[k]? with
    | none => .next s
    | some t =>
      match t.answers with
      | [] => .next s
      | (row, ans) :: rest =>
        let low := match ans, t.refusedRow with
          | some _, some r => some (min r row)
          | some _, none => some row
          | none, r => r
        let t1 := { t with answers := rest, sent := t.sent.erase row, refusedRow := low }
        match low with
        | some r =>
          if t1.sent.isEmpty then .next (s.stopTile site k t1 r)
          else .next (s.setCore site (c.setCmd k t1))
        | none => .next ((s.setCore site (c.setCmd k t1)).due (.tileCommandFinish site k))

/-! ## The slew limiter (R340-R348) -/

/-- The arrays that a limiter ranks (R340): those that hold a level or a want, and those of the domain's cores that run an array
command. -/
def State.slewArrays (s : State) (dom : Nat) : List (Nat × SlewArray) :=
  let d := Tbl.get Domain.reset s.doms dom
  let more := (s.cores.filter fun e => domOf e.1 == dom && e.2.arrayCmd.isSome && (Tbl.find? d.arrays e.1).isNone).map fun e =>
    (e.1, (⟨0, none, none⟩ : SlewArray))
  d.arrays ++ more

/-- SLEW_STEP_BOUNDARY (R342-R345): a new cap takes effect; the limiter of a power domain grants the first `up` rises by priority,
request age and site, and the first `down` falls by age and site. -/
def execSlewStepBoundary (dom : Nat) (s0 : State) : Out :=
  let d0 := Tbl.get Domain.reset s0.doms dom
  let d := { d0 with cap := d0.capNext.getD d0.cap, capNext := none }
  let s1 := if d0.capNext.isSome then { s0 with doms := Tbl.put s0.doms dom d } else s0
  let now := fun (e : Nat × SlewArray) =>
    (e.1, e.2.wants d.cap (s1.canUpdate e.1) (s1.core e.1).arrayCmd.isSome s1.module.fc)
  let arrays := (s1.slewArrays dom).map now
  let s := arrays.foldl (fun t e => t.setSlew e.1 e.2) s1
  let rises := arrays.filter fun e => wantsRise d.cap (s.canUpdate e.1) e.2
  let key := fun (e : Nat × SlewArray) => (((s.core e.1).arrayCmd).map fun t => (s.ctx e.1 t.ctx).prio.toNat).getD 0
  let first := fun (a b : Nat × SlewArray) =>
    decide (key b < key a) || (key a == key b && (decide (a.2.rise.getD 0 < b.2.rise.getD 0)
      || (a.2.rise.getD 0 == b.2.rise.getD 0 && decide (a.1 ≤ b.1))))
  let falls := arrays.filter fun e => wantsFall d.cap (s.canUpdate e.1) e.2
  let older := fun (a b : Nat × SlewArray) =>
    decide (a.2.fall.getD 0 < b.2.fall.getD 0) || (a.2.fall.getD 0 == b.2.fall.getD 0 && decide (a.1 ≤ b.1))
  let up := ((sortBy first rises).take d.up.toNat).map (·.1)
  let down := ((sortBy older falls).take d.down.toNat).map (·.1)
  let s2 := up.foldl (fun t site => (t.setSlew site { t.slew site with level := (t.slew site).level + 1 }).wakeEngines site) s
  .next (down.foldl (fun t site =>
    let y := { t.slew site with level := (t.slew site).level - 1 }
    t.setSlew site { y with fall := if wantsFall d.cap (s.canUpdate site) y then y.fall else none }) s2)

end Sys2Proof.Machine
end

