-- ==== Sys2Proof/Machine/CopyIssue.lean ====
section
/-!
DEFINITION. The issue of COPY, GATHER, SCATTER, STRM and STRMW (R350-R361, R376, R380-R383): their records, the checks in
the order of R361, and the transfer that they queue on a channel.
-/

namespace Sys2Proof.Machine

open Sys2Proof

/-! ## Records -/

/-- The record of the core's pattern store at an address of the launch's .pattern section (R355). -/
def State.storedPat (s : State) (site : Nat) (v : BitVec 32) (a : Addr) : Option (List Byte) :=
  match s.launchOf site v with
  | none => none
  | some l =>
    if l.cmd.patvirt ≤ a.toNat ∧ a.toNat < l.cmd.patvirt + 64 * l.cmd.patn then
      (Tbl.get [] (s.core site).pats v.toNat)[(a.toNat - l.cmd.patvirt) / 64]?
    else none

/-- Go on with the pattern record at an address: from the store, or read as an LD of 64 bytes (R355, R361 step 2). -/
def withRecord (s : State) (c : Ctx) (a : Addr) (k : Pat → Out) : Out :=
  if !aligned a 64 then .next (s.trap causeMisalign a)
  else
    match s.storedPat s.cur.1 c.vintage a with
    | some l => k (patOf l)
    | none =>
      gated s (rangeOf (s.lcn s.cur.1) s.cur.2 (ownLocal (s.lcn s.cur.1) a) 64) false
        (withBlock s c a 64 fun l => k (patOf l))

/-- Go on with n bytes at an address, read in pieces that end at 64-byte lines. At most `fuel` pieces. -/
def withBytes (s : State) (c : Ctx) : Nat → Addr → Nat → List Byte → (List Byte → Out) → Out
  | 0, _, _, acc, k => k acc
  | fuel + 1, a, n, acc, k =>
    if n = 0 then k acc
    else
      let m := min n (64 - a.toNat % 64)
      gated s (rangeOf (s.lcn s.cur.1) s.cur.2 (ownLocal (s.lcn s.cur.1) a) m) false
        (withBlock s c a m fun l => withBytes s c fuel (a + BitVec.ofNat 56 m) (n - m) (acc ++ l) k)

/-! ## Data checks (R356, R361 step 5) -/

/-- The roles of a span (R356). -/
inductive Role where
  /-- A source of a COPY, GATHER or SCATTER, and whether it may be a peer address. -/
  | source (peer : Bool)
  /-- The source of a read stream. -/
  | stream
  | dest
deriving DecidableEq, Repr

/-- Whether a role reads. -/
def Role.reads : Role → Bool
  | .source _ | .stream => true
  | .dest => false

/-- The ports of a mask that belong to a partition, in increasing number (R538, R553). -/
def Part.peerPorts (p : Part) (mask : Nat) : List Nat :=
  (List.range 24).filter fun q => decide (mask / 2 ^ q % 2 = 1) && decide (p.lead ≤ q / 2) && decide (q / 2 < p.lead + p.nb)

/-- A peer entry of a partition as a transfer keeps it (R550, R553); none when it is not in use. -/
def Part.peerRef (p : Part) (e : Nat) : Option PeerRef :=
  let l := (Tbl.get ⟨[]⟩ p.peers e).w
  let w0 := leNat (l.take 8)
  if w0 % 2 = 0 then none
  else some ⟨e, w0 / 2 ^ 32 % 2 ^ 16, w0 / 2 ^ 8 % 2 ^ 8, w0 / 2 ^ 16 % 2 ^ 4, leNat ((l.drop 8).take 8) % 2 ^ 24,
    leNat ((l.drop 16).take 8) % 2 ^ 40⟩

/-- The peer entry that a source names (R551). -/
def State.peerOf (s : State) (site : Nat) (a : Addr) : Option PeerRef :=
  if spaceOf a = .peer then (s.partAt site).bind fun p => p.peerRef (a.toNat / 2 ^ 40 % 256) else none

/-- Whether a span of a peer window may be pulled (R552 step 5). -/
def State.peerOk (s : State) (site : Nat) (a : Addr) (n : Nat) : Bool :=
  match s.peerOf site a, s.partAt site with
  | some r, some p => !(p.peerPorts r.mask).isEmpty && decide (a.toNat % 2 ^ 40 + n ≤ r.length)
  | _, _ => false

/-- The check of a span in a local window (R111, R178, R356). -/
def Core.spanCheck (c : Core) (v : BitVec 32) (n w off len esize : Nat) (role : Role) : Option (BitVec 5) :=
  let sp := winSpan w off len
  if (w ≠ 0 ∧ (esize ≠ 1 ∨ !role.reads)) ∨ (winStored w (if w = 7 then off / 2 ^ 24 else 0) 0).isNone ∧ w ≠ 0 then
    some causeProt
  else
    match c.bufAt v sp.1 (sp.2 - sp.1) with
    | none => some causeProt
    | some (_, b) =>
      let ok : Bool := match role with
        | .source _ => b.admits (.engine n)
        | .stream => b.state == .full || b.state == .draining
        | .dest => b.ownerWrites n
      if ok then none else some causeBufstate

/-- The data checks of R119 on a record's span for its role, but for its translation (R356, R361 step 5). -/
def State.patCheck (s : State) (c : Ctx) (p : Pat) (role : Role) : Option (BitVec 5) :=
  let site := s.cur.1
  let lcn := s.lcn site
  let sp := p.spanI
  let len := (sp.2 - sp.1).toNat
  let lo := ownLocal lcn (BitVec.ofInt 56 sp.1)
  let base := ownLocal lcn p.base
  if p.base.toNat % p.elem ≠ 0 then some causeMisalign
  else
    match spaceOf base with
    | .reserved => some causeXlate
    | .peer =>
      match role with
      | .source true | .stream => if s.peerOk site lo len then none else some causeProt
      | .source false | .dest => some causeXlate
    | .loc =>
      match placeOfLocal base.toNat with
      | .bad => some causeXlate
      | .priv _ => some causeProt
      | .param w _ =>
        if !p.stays || !role.reads then some causeProt
        else if (s.paramOf site c.vintage c.region w).isNone then some causeParamUnbound else none
      | .win w _ =>
        if !p.stays then some causeProt
        else s.myCore.spanCheck c.vintage s.cur.2 w
          (match placeOfLocal lo.toNat with
            | .win _ o => o
            | _ => 0) len p.esize role
    | .remote =>
      if s.ncores site ≤ remoteLcn base then some causeXlate
      else
        match placeOfLocal (remoteLocal base) with
        | .win w _ => if p.stays && (w == 0 || (p.esize == 1 && role.reads)) then none else some causeProt
        | _ => some causeProt
    | .global | .committed =>
      if !p.stays || (role == .dest && spaceOf base == .committed) then some causeProt
      else
        match declaredAt (s.regsOf site c) lo len with
        | none => some causeUndeclared
        | some (_, r) =>
          let ok : Bool := match role with
            | .dest => intentAllows r.intent .store
            | .stream => r.intent == 1 || (r.intent == 3 && spaceOf base == .committed)
            | .source _ => intentAllows r.intent .load
          if ok then none else some causeProt

/-- The check of a flag word: aligned to 8, in a space where an AMO is allowed (R199, R361). -/
def State.flagCheck (s : State) (c : Ctx) (a0 : Addr) : Option (BitVec 5) :=
  let site := s.cur.1
  let a := ownLocal (s.lcn site) a0
  if !aligned a 8 then some causeMisalign
  else
    match spaceOf a with
    | .peer | .reserved => some causeXlate
    | .loc =>
      match placeOfLocal a.toNat with
      | .bad => some causeXlate
      | .priv _ => none
      | .win 0 o =>
        match s.myCore.bufAt c.vintage o 8 with
        | none => some causeProt
        | some (_, b) => if b.ownedBy s.cur.2 && b.state != .filling then some causeBufstate else none
      | .win _ _ | .param _ _ => some causeProt
    | .remote =>
      if s.ncores site ≤ remoteLcn a then some causeXlate
      else
        match placeOfLocal (remoteLocal a) with
        | .win 0 _ => none
        | _ => some causeProt
    | .committed => some causeProt
    | .global =>
      match declaredAt (s.regsOf site c) a 8 with
      | none => some causeUndeclared
      | some (_, r) => if intentAllows r.intent .atom then none else some causeProt

/-- A record's check with the lowest byte of its span (R361). -/
def State.patFail (s : State) (c : Ctx) (p : Pat) (role : Role) : Option (BitVec 5 × Addr) :=
  (s.patCheck c p role).map fun cause => (cause, BitVec.ofInt 56 p.spanI.1)

/-- The flag word's check, made of a destination record of a release (R361). -/
def State.flagFail (s : State) (c : Ctx) (p : Pat) (rel : Bool) : Option (BitVec 5 × Addr) :=
  if rel && p.flag != 0 then (s.flagCheck c p.flag).map fun cause => (cause, p.flag) else none

/-- Whether two spans meet in the same memory (R361 step 4). -/
def State.spansShare (s : State) (a b : Pat) : Bool :=
  let lcn := s.lcn s.cur.1
  match a.range lcn s.cur.2, b.range lcn s.cur.2 with
  | some x, some y => x.meets y
  | _, _ => false

/-- Whether a record is dense: each stride is its dense value (R350, R552). -/
def denseFrom : Int → List (Nat × Int) → Bool
  | _, [] => true
  | want, (n, st) :: t => decide (st = want) && denseFrom (want * n) t

/-- A dense record. -/
def Pat.dense (p : Pat) : Bool := denseFrom 1 (p.sizes.zip p.strides)

/-! ## Channels (R357, R383) -/

/-- The unfinished transfers of a channel (R358). -/
def Chan.live (k : Chan) : List Xfer := k.xfers.filter fun x => !x.aborted

/-- The stream a channel carries, until it is ended (R383, R385); its drain is then an unfinished transfer only. -/
def Chan.stream (k : Chan) : Option Xfer := List.find? (fun (x : Xfer) => x.isStream && !x.ended) k.live

/-- Whether a transfer belongs to the task in a context. -/
def Xfer.mine (x : Xfer) (n : Nat) : Bool := x.ctx == n && x.held.isNone && !x.detached

/-- A transfer of the executing context with every field of progress at its start. -/
def newXfer (s : State) (c : Ctx) (ch : Nat) (kind : XKind) (src dst : Pat) : Xfer where
  id := (s.myCore.chan ch).next
  kind := kind
  ctx := s.cur.2
  held := none
  vint := c.vintage
  region := c.region
  opId := none
  detached := false
  wm := false
  src := src
  dst := dst
  idx := []
  rel := none
  acqWait := []
  seq := c.issued
  age := s.tick
  peer := s.peerOf s.cur.1 src.base
  pos := 0
  count := dst.count
  reqs := []
  nextReq := 0
  openSent := false
  landN := 0
  joining := []
  got := []
  fed := 0
  frozen := false
  aborted := false
  flagState := .todo
  ended := false
  pushed := []

/-- Queue a transfer on its channel (R357, R358). -/
def Core.queueXfer (c : Core) (ch : Nat) (x : Xfer) : Core :=
  let k := c.chan ch
  c.setChan ch { k with next := k.next + 1, xfers := k.xfers ++ [x] }

/-- The acquire and release scopes of an engine command. -/
def scopeIf (b : Bool) (sc : Scope) : Option Scope := if b then some sc else none

/-- The accesses that an engine command's acquire waits for (R134). -/
def Ctx.acquireWaits (c : Ctx) (acq : Bool) (sc : Scope) : List Nat := if acq then c.notPerformed sc else []

/-- Queue a COPY, GATHER or SCATTER whose checks are made: it counts in cp and x[d] takes its id (R376). -/
def startCopy (s : State) (c : Ctx) (d : Reg) (ch : Nat) (flags : Word) (x : Xfer) : Out :=
  if !c.canCount .cp || c.acquiring then .next s
  else
    let x1 := { x with opId := some c.issued }
    let s1 := s.setMyCore (s.myCore.queueXfer ch x1)
    let c1 := c.startOp .cp (BitVec.ofInt 56 x.dst.spanI.1) false true (.copy ch x.id.toNat)
    .next ((finishScalar s1 c1 d (x.id.setWidth 64) flags).due (.copyRequest s.cur.1 ch))

/-- Pass the channel rules of a COPY, GATHER or SCATTER (R357, R383); `k` learns whether its channel carries a stream of
the context, which faults ILLEGAL. -/
def chanWord (s : State) (ch : Nat) (k : Bool → Out) : Out :=
  let chan := s.myCore.chan ch
  if 4 ≤ chan.live.length then .next s
  else
    match chan.stream with
    | some x => if x.mine s.cur.2 then k true else .next s
    | none => k false

/-- The record addresses of a copy instruction. -/
def Issued.addr (i : Issued) (n : Nat) : Addr := (i.v n).setWidth 56

/-- COPY (R361, R376, R552). -/
def execCopy (d a b : Reg) (ch : BitVec 3) (wm acq rel : Bool) (scope : Scope) (s : State) : Out :=
  issueWord s ntHints [a, b] [d] true false false fun i =>
    chanWord s ch.toNat fun mine =>
      withRecord s i.c (i.addr 0) fun src =>
        withRecord s i.c (i.addr 1) fun dst =>
          let bad := !src.valid || !dst.valid || src.esize != dst.esize || src.count != dst.count
            || (wm && !dst.canonical) || (spaceOf src.base == .peer && !src.dense) || mine
          match firstFail [failIf bad causeIllegal, failIf (!dst.once || s.spansShare src dst) causeOverlap,
              s.patFail i.c src (.source true), s.patFail i.c dst .dest, s.flagFail i.c dst rel] with
          | some (cause, fa) => .next (s.trap cause fa)
          | none =>
            let x := newXfer s i.c ch.toNat .copy src dst
            startCopy s i.c d ch.toNat 0 { x with
              wm := wm, rel := scopeIf rel scope, acqWait := i.c.acquireWaits acq scope }

/-! ## GATHER and SCATTER (R380, R381) -/

/-- The bytes of an index by its type. -/
def idxBytes (hdr : Nat) : Nat := 2 * 2 ^ (hdr / 2 ^ 9 % 4)

/-- Whether an index-list header is legal (R380). -/
def idxHeaderOk (hdr : Nat) : Bool :=
  let n := hdr % 512
  decide (1 ≤ n) && decide (n ≤ 256) && decide (hdr / 2 ^ 9 % 4 ≠ 3) && decide (hdr / 2 ^ 11 = 0)

/-- The indices of a list: the sentinel and those at or above the row count as none; and the position of the first one
that is out of range (R381). -/
def idxOf (rows w : Nat) (l : List Byte) (n : Nat) : List (Option Nat) × Option Nat :=
  let vals := (List.range n).map fun p => leNat ((l.drop (w * p)).take w)
  let sentinel := 2 ^ (8 * w) - 1
  (vals.map fun v => if v = sentinel ∨ rows ≤ v then none else some v,
   vals.findIdx? fun v => v != sentinel && decide (rows ≤ v))

/-- Whether a table record is legal (R380). -/
def Pat.tableOk (p : Pat) : Bool := p.valid && (p.sizes.drop 2).all (· == 1)

/-- GATHER and SCATTER past their records and index list. -/
def startIndexed (s : State) (c : Ctx) (d : Reg) (ch : Nat) (mine scatter oobf acq rel : Bool) (scope : Scope)
    (list : Addr) (tab lin : Pat) (hdr : Nat) (idx : List Byte) : Out :=
  let n := hdr % 512
  let r := idxOf (tab.sizes.getD 1 1) (idxBytes hdr) idx n
  let dst := if scatter then tab else lin
  let src := if scatter then lin else tab
  let bad := !tab.tableOk || !lin.valid || tab.esize != lin.esize || lin.count != n * rowLen tab || mine
    || !idxHeaderOk hdr
  let oob := match r.2 with
    | some p => if oobf then some (causeProt, list + BitVec.ofNat 56 (8 + idxBytes hdr * p)) else none
    | none => none
  match firstFail [failIf bad causeIllegal, failIf (!dst.once || s.spansShare src dst) causeOverlap,
      s.patFail c src (.source false), s.patFail c dst .dest, s.flagFail c dst rel, oob] with
  | some (cause, fa) => .next (s.trap cause fa)
  | none =>
    let x := newXfer s c ch (if scatter then .scatter else .gather) src dst
    startCopy s c d ch (if r.2.isSome then stickyGoob else 0) { x with
      idx := r.1, count := n * rowLen tab, rel := scopeIf rel scope, acqWait := c.acquireWaits acq scope }

/-- Read the records and the index list of a GATHER or SCATTER (R361 step 2, R380). An illegal header ends the reading. -/
def indexedWord (d a b : Reg) (ch : BitVec 3) (scatter oobf acq rel : Bool) (scope : Scope) (s : State) : Out :=
  issueWord s ntHints [a, b] [d] true false false fun i =>
    chanWord s ch.toNat fun mine =>
      withRecord s i.c (i.addr 0) fun tab =>
        withRecord s i.c (i.addr 0 + 64) fun lin =>
          let list := i.addr 1
          if !aligned list 8 then .next (s.trap causeMisalign list)
          else
            withBytes s i.c 1 list 8 [] fun h =>
              let hdr := leNat h
              let len := if idxHeaderOk hdr then hdr % 512 * idxBytes hdr else 0
              withBytes s i.c 40 (list + 8) len [] fun l =>
                startIndexed s i.c d ch.toNat mine scatter oobf acq rel scope list tab lin hdr l

/-- GATHER (R361, R380, R381). -/
def execGather (d a b : Reg) (ch : BitVec 3) (oobf acq rel : Bool) (scope : Scope) (s : State) : Out :=
  indexedWord d a b ch false oobf acq rel scope s

/-- SCATTER (R361, R380, R381). -/
def execScatter (d a b : Reg) (ch : BitVec 3) (oobf acq rel : Bool) (scope : Scope) (s : State) : Out :=
  indexedWord d a b ch true oobf acq rel scope s

/-! ## Streams (R382-R385) -/

/-- The bytes of one pop or push (R382). -/
def Pat.popBytes (p : Pat) : Nat := if p.pack then 8 else p.elem

/-- The pops or pushes of a whole stream (R382). -/
def Pat.pops (p : Pat) : Nat := (p.count * p.elem + p.popBytes - 1) / p.popBytes

/-- STRM and STRMW (R361, R382, R383). -/
def streamWord (write : Bool) (d a : Reg) (ch : BitVec 3) (s : State) : Out :=
  issueWord s noHints [a] [] false false false fun i =>
    let chan := s.myCore.chan ch.toNat
    let n := s.cur.2
    if !i.c.clear d || decide (4 ≤ chan.live.length) || i.c.acquiring then .next s
    else
      withRecord s i.c (i.addr 0) fun p =>
        let mine := chan.live.any fun x => x.mine n
        let bad := !p.valid || decide (3 < p.esize) || p.flag != 0 || (p.ext && p.pack) || (write && !p.canonical)
          || (spaceOf p.base == .peer && !p.dense) || i.c.mode d != .off || mine
        match firstFail [failIf bad causeIllegal, failIf (write && !p.once) causeOverlap,
            s.patFail i.c p (if write then .dest else .stream)] with
        | some (cause, fa) => .next (s.trap cause fa)
        | none =>
          if !chan.live.isEmpty then .next s
          else
            let x := { newXfer s i.c ch.toNat (if write then .wstream else .rstream) p p with wm := write }
            let q : StreamReg := ⟨ch.toNat, [], [], p.pops, false⟩
            let c1 := { i.c with
              issued := i.c.issued + 1,
              smode := i.c.smode.setIfInBounds (streamIx d) (if write then .write else .read),
              spos := i.c.spos.setIfInBounds (streamIx d) 0,
              strm := i.c.strm.setIfInBounds (streamIx d) q }
            let s1 := (s.setMyCore (s.myCore.queueXfer ch.toNat x)).setMe c1.advance
            .next (if write then s1 else s1.due (.streamRefill s.cur.1 ch.toNat))

/-- STRM (R382, R383). -/
def execStrm (d a : Reg) (ch : BitVec 3) (s : State) : Out := streamWord false d a ch s

/-- STRMW (R382, R383). -/
def execStrmw (d a : Reg) (ch : BitVec 3) (s : State) : Out := streamWord true d a ch s

/-- STRMEND (R385): x[d] leaves stream mode and keeps no value: what it reads as is free. -/
def execStrmend (d : Reg) (ch : BitVec 3) (s : State) : Out :=
  issueWord s noHints [] [] false false false fun i =>
    let n := s.cur.2
    if i.c.mode d = .off ∨ (i.c.strm[streamIx d]?.getD StreamReg.off).ch ≠ ch.toNat then .next (s.trap causeIllegal 0)
    else
      let s1 := s.endStream s.cur.1 n (streamIx d)
      .next (s1.setMe (s1.me.put d (Config.freeBits 64 s.tick)).advance)

end Sys2Proof.Machine
end

