-- ==== Sys2Proof/Machine/Landing.lean ====
section
/-!
DEFINITION. Landings and the ends of transfers: the reorder stores (R363), the conditions of a landing (R364-R367), its
acknowledgement (R363, R369), abort (R374, R375), completion (R135, R358) and what these let go on (R370-R372).
-/

namespace Sys2Proof.Machine

open Sys2Proof

/-! ## Helpers -/

/-- The unfinished transfer of a channel with an id, an aborted one whose packets are out included. -/
def Core.xfer (c : Core) (ch : Nat) (id : BitVec 32) : Option Xfer :=
  List.find? (fun (x : Xfer) => x.id == id) (c.chan ch).xfers

/-- Change one transfer. -/
def Core.updXfer (c : Core) (ch : Nat) (id : BitVec 32) (f : Xfer → Xfer) : Core :=
  c.updXfers ch fun x => if x.id = id then f x else x

/-- Apply the deliveries that wait for contexts without a task of a core. -/
def State.retryDeliveries (s : State) (site : Nat) : State :=
  (List.range 8).foldl (fun t n => if (t.ctx site n).free then t.deliveryPoint site n else t) s

/-- Everything at a core that may wait for copies looks again (R370-R372). -/
def State.wakeCopies (s : State) (site : Nat) : State :=
  ((((s.retryReads site).retryDeliveries site).wakeEngines site).wakeImages site)

/-! ## The landing store (R363) -/

/-- Replace the landings held at an endpoint. -/
def State.setLands (s : State) (p : Part) (ep : Nat) (l : List Land) : State :=
  if isSlot ep then s.setRim (p.chanOf (ep - 0x8000)) { s.rim (p.chanOf (ep - 0x8000)) with lands := l }
  else s.updCore (p.siteOf ep) fun c => { c with lands := l }

/-- Whether two keys name one transfer, and one landing of it. -/
def LandKey.sameXfer (a b : LandKey) : Bool := a.lcn == b.lcn && a.ch == b.ch && a.xfer == b.xfer
def LandKey.same (a b : LandKey) : Bool := a.sameXfer b && a.n == b.n

/-- Whether the reorder store of a core's port has room for a landing of the core's own engine (R363). -/
def State.landRoom (s : State) (site : Nat) : Bool :=
  match s.partAt site, s.lcnOf site with
  | some p, some l => decide (s.storeUsed p l .reply < storeSize l)
  | _, _ => false

/-- A landing arrives at its destination. -/
def State.addLand (s : State) (p : Part) (ep : Nat) (k : LandKey) (v : BitVec 32) (pieces : List (Nat × List Byte))
    (srcs : List Nat) : State :=
  s.setLands p ep (s.landsAt p ep ++ [⟨k, 1, pieces, v, srcs⟩])

/-- The open of a transfer at a core's port. -/
def Core.openOf (c : Core) (k : LandKey) : Option OpenRec := c.opens.find? fun o => o.key.sameXfer k

/-! ## The conditions (R364, R365, R367) -/

/-- Whether an earlier transfer of the core holds back a landing of a later one: it has not landed the bytes where they meet (R367). -/
def Xfer.holdsBack (e : Xfer) (lcn : Nat) (r : Range) : Bool :=
  if e.aborted || e.kind == .rstream then false
  else
    match e.dst.range lcn e.ctx with
    | none => false
    | some d => d.meets r && (!e.wm || e.aboveMark d r)

/-- Whether a landing at an endpoint may be written now (R364, R365): at a core's port one of a WM transfer in its order, and one of
another core once its transfer's open has been taken. One of a transfer that was aborted, or closed at the port, is dropped. R367 is kept by
the issuing engine, which sends a request only when no earlier transfer holds its landing back. -/
def State.mayLand (s : State) (p : Part) (ep : Nat) (l : Land) : Bool :=
  if isSlot ep then true
  else if ep = l.key.lcn then
    match (s.core (p.siteOf ep)).xfer l.key.ch l.key.xfer with
    | none => true
    | some x => x.aborted || x.kind == .rstream || !x.wm || x.landN == l.key.n
  else
    match (s.core (p.siteOf ep)).openOf l.key with
    | none => false
    | some o => o.gone.isSome || !o.wm || o.landN == l.key.n

/-- The endpoints of a partition that hold a landing which may be written. -/
def State.landable (s : State) (p : Part) : List Nat :=
  let cores := s.cores.filterMap fun e => if e.2.lands.isEmpty then none else indexOf p.bound e.1
  let slots := s.rims.filterMap fun e =>
    if e.2.lands.isEmpty || decide (e.1 < 128 * p.lead) || decide (128 * p.lead + p.slots ≤ e.1) then none
    else some (0x8000 + e.1 - 128 * p.lead)
  (cores ++ slots).filter fun ep => (s.landsAt p ep).any fun l => s.mayLand p ep l

/-- Let the landings of a partition that may be written now be written. -/
def State.dueLandings (s : State) (lead : Nat) : State :=
  match s.part? lead with
  | none => s
  | some p => (s.landable p).foldl (fun t ep => t.due (.landing lead ep)) s

/-! ## Ends of transfers -/

/-- Advance done over the ids that have completed (R358). -/
def Chan.advance (k : Chan) : Nat → Chan
  | 0 => k
  | fuel + 1 =>
    if k.early.contains k.done then ({ k with done := k.done + 1, early := k.early.erase k.done }).advance fuel else k

/-- A transfer of a channel completes, aborted or not (R357, R358); an aborted one stays while its packets are out. -/
def Chan.finish (k : Chan) (x : Xfer) (aborted : Bool) : Chan :=
  let rest := if aborted && !x.reqs.isEmpty then k.xfers else k.xfers.filter fun y => y.id != x.id
  let k1 := { k with
    xfers := rest, early := k.early ++ [x.id], lastAborted := aborted,
    wm := if x.wm then BitVec.ofInt 56 x.dst.spanI.2 else k.wm,
    abortedIds := if aborted then k.abortedIds ++ [x.id] else k.abortedIds }
  k1.advance k1.early.length

/-- Change the context of a transfer, wherever its task stands: in its context or in an image (R261). -/
def State.updOwner (s : State) (site : Nat) (x : Xfer) (f : Ctx → Ctx) : State :=
  match x.held with
  | none => s.updCtx site x.ctx f
  | some slot =>
    match s.partAt site, s.lcnOf site with
    | some p, some l =>
      let put := fun (i : Image) => if i.slot = slot then { i with c := f i.c } else i
      s.setPart p.lead { p with images := Tbl.upd [] p.images l (List.map put) }
    | _, _ => s

/-- The destination LCN of a transfer whose destination is another core's scratchpad (R365). -/
def Xfer.remoteDest (x : Xfer) (lcn : Nat) : Option Nat :=
  let a := ownLocal lcn x.dst.base
  if x.kind ≠ .rstream ∧ spaceOf a = .remote then some (remoteLcn a) else none

/-- Close a transfer at the port of its remote scratchpad destination (R374): the port learns which of its landings are still out. A
transfer that completes is closed too (DESIGN CHOICE, log entry 71). -/
def State.closeRemote (s : State) (site ch : Nat) (x : Xfer) : State :=
  let lcn := (s.lcnOf site).getD 0
  match x.remoteDest lcn with
  | some d =>
    if x.openSent then
      let outs := (x.reqs.filter fun r => r.landing).map fun r => r.n
      s.sendFromCore site d 9 0 0 x.vint (.close ⟨lcn, ch, x.id, 0, 0, 0, x.age⟩ outs)
    else s
  | none => s

/-- The context of a transfer, wherever its task stands. -/
def State.ownerCtx (s : State) (site : Nat) (x : Xfer) : Ctx :=
  match x.held with
  | none => s.ctx site x.ctx
  | some slot =>
    match s.partAt site, s.lcnOf site with
    | some p, some l => ((List.find? (fun (i : Image) => i.slot == slot) (p.imagesOf l)).map fun (i : Image) => i.c).getD Ctx.reset
    | _, _ => Ctx.reset

/-- A transfer of a core has completed: its operation leaves cp, done advances, and what waited for it looks again
(R174, R358, R371). -/
def State.xferDone (s : State) (site ch : Nat) (x : Xfer) : State :=
  let s1 := s.updCore site fun c => c.setChan ch ((c.chan ch).finish x false)
  let s2 := match x.opId with
    | some id => s1.updOwner site x fun c => c.dropOp id
    | none => s1
  match s2.partAt site with
  | none => s2
  | some p =>
    ((((s2.closeRemote site ch x).wakeCopies site).due (.copyRequest site ch)).due (.transferComplete site ch)).dueLandings p.lead

/-- A detached transfer that is aborted (R375): a fault record and a fold, nothing ended. -/
def State.detachedAbort (s : State) (site : Nat) (x : Xfer) : State :=
  match s.partAt site with
  | none => s
  | some p =>
    let r : FaultRec :=
      { cause := causeCopyAbort, nested := false, ctx := x.ctx, lcn := (s.lcnOf site).getD 0, site := site, epc := 0,
        faddr := 0, fstep := 0, vint := x.vint, task := 0, region := x.region, domain := p.domainOf x.vint x.region,
        time := s.timeAt site }
    (s.setPart p.lead (p.addFault r)).updCore site fun k => k.updTally x.vint fun t => { t with s := foldStatus t.s 0xF0000200 }

/-- Note an abort in the stream register that a transfer feeds or drains (R374). -/
def Ctx.markStream (c : Ctx) (ch : Nat) : Ctx :=
  { c with strm := c.strm.map fun q => if q.ch = ch then { q with aborted := true } else q }

/-- The flits that a landing's acknowledgement answers (R389, R399): the copy requests to its source homes and the
landings that these sent to the destination. -/
def State.landAnswered (s : State) (lead lcn dep : Nat) (v : BitVec 32) : List Nat → State
  | [] => s
  | src :: t =>
    let s1 := if src = lcn then s.answered lead lcn dep v else (s.answered lead lcn src v).answered lead src dep v
    s1.landAnswered lead lcn dep v t

/-- A request with some packets fewer out; none when that was the last. -/
def Req.less (r : Req) (n m : Nat) : Option Req :=
  if r.n ≠ n then some r else if r.out ≤ m then none else some { r with out := r.out - m }

/-- Abort an unfinished transfer (R360, R374, R375). `mask`: the abort bit of its context is set. -/
def State.abortXfer (s : State) (site ch : Nat) (id : BitVec 32) (mask : Bool) : State :=
  match (s.core site).xfer ch id, s.partAt site with
  | some x, some p =>
    if x.aborted then s
    else
      let x1 := { x with
        aborted := true, frozen := false, joining := [],
        reqs := x.joining.foldl (fun l e => l.filterMap fun r => r.less e.key.n e.got) x.reqs }
      let lcn := (s.lcnOf site).getD 0
      let s0 := x.joining.foldl (fun t e => t.landAnswered p.lead lcn lcn e.vint e.srcs) s
      let s1 := s0.updCore site fun c =>
        let c1 := c.updXfer ch id fun _ => x1
        c1.setChan ch ((c1.chan ch).finish x1 true)
      let s2 := if x.detached then s1.detachedAbort site x
        else s1.updOwner site x fun c =>
          let c1 := match x.opId with
            | some o => c.dropOp o
            | none => c
          let c2 := if x.isStream && !x.ended then c1.markStream ch else c1
          if mask && !(x.isStream && x.ended) then { c2 with abortMask := c2.abortMask ||| (1 <<< ch) } else c2
      ((((s2.closeRemote site ch x).wakeCopies site).due (.copyRequest site ch)).due (.transferComplete site ch)).dueLandings p.lead
  | _, _ => s

/-- Abort every unfinished transfer of a vintage on a core (R265, R374). -/
def State.abortVintage (s : State) (site : Nat) (v : BitVec 32) : State :=
  (((s.core site).xfers.filter fun e => e.2.vint == v && !e.2.aborted)).foldl
    (fun t e => t.abortXfer site e.1 e.2.id false) s

/-- A refusal that a transfer meets (R117, R356, R365): posted for its operation, a stream's for its place in the order of issue, and the
transfer is aborted. A detached one has no context to post to (R375). -/
def State.refuseXfer (s : State) (site ch : Nat) (id : BitVec 32) (cause : BitVec 5) (faddr : Addr) : State :=
  match (s.core site).xfer ch id with
  | none => s
  | some x =>
    if x.aborted then s
    else
      let s1 := if x.detached then s
        else s.updOwner site x fun c => { c with posted := c.posted ++ [(⟨.cp, x.opId.getD x.seq, cause, faddr, 0⟩ : Posted)] }
      s1.abortXfer site ch id true

/-! ## Acknowledgements (R363, R369) -/

/-- The cached lines of a core take the bytes that a landing wrote at a granule (R369). -/
def Core.landLines (c : Core) (v : BitVec 32) (pieces : List (Nat × List Byte)) : Core :=
  (pieces.flatMap fun e => linePieces 8 e.1 e.2).foldl (fun k l => k.updateLine v l.1 l.2.1 l.2.2) c

/-- The issuing channel takes the acknowledgement of a landing, or of `m` parts of one: they leave the window, or the transfer is aborted
when one was refused; an aborted transfer is forgotten with its last packet (R356, R363, R374). -/
def State.ackLanding (s : State) (site : Nat) (k : LandKey) (m : Nat) (pieces : List (Nat × List Byte)) (refused : Option (BitVec 5)) :
    State :=
  match (s.core site).xfer k.ch k.xfer with
  | none => s
  | some x =>
    let faddr := ((List.find? (fun (r : Req) => r.n == k.n) x.reqs).map fun r => BitVec.ofNat 56 r.lo).getD 0
    let x1 := { x with reqs := x.reqs.filterMap fun r => r.less k.n m }
    let s1 := s.updCore site fun c => (c.updXfer k.ch k.xfer fun _ => x1).landLines x.vint pieces
    if x.aborted then
      if x1.reqs.isEmpty then
        let gone := fun (c : Core) => c.setChan k.ch { c.chan k.ch with xfers := (c.chan k.ch).xfers.filter fun y => y.id != k.xfer }
        (s1.updCore site gone).wakeLaunches site
      else s1
    else
      match refused with
      | some cause => s1.refuseXfer site k.ch k.xfer cause faddr
      | none =>
        let s2 := if x.kind = .rstream then s1.due (.streamRefill site k.ch) else s1.due (.copyRequest site k.ch)
        (s2.wakeCopies site).due (.transferComplete site k.ch)

/-! ## Landing -/

/-- The bytes of a read stream from a place on, as far as they have come without a hole. At most `fuel` pieces. -/
def streamRun (got : List (Nat × List Byte)) : Nat → Nat → List Byte
  | 0, _ => []
  | fuel + 1, at' =>
    match List.find? (fun (e : Nat × List Byte) => e.1 == at') got with
    | some (_, b) => if b.isEmpty then [] else b ++ streamRun got fuel (at' + b.length)
    | none => []

/-- One pop's value from its bytes (R382). -/
def popValue (p : Pat) (b : List Byte) : Word :=
  if p.pack then BitVec.ofNat 64 (leNat b) else extend p.ext b

/-- Bytes of a read stream have come: the pops that are whole join the register's queue in order (R384). -/
def State.feedStream (s : State) (site ch : Nat) (x : Xfer) (pieces : List (Nat × List Byte)) : State :=
  if x.ended then s
  else
    let got := x.got ++ pieces
    let pb := x.src.popBytes
    let total := x.count * x.src.elem
    let run := streamRun got got.length (x.fed * pb)
    let whole := if x.fed * pb + run.length = total then (run.length + pb - 1) / pb else run.length / pb
    let vals := (List.range whole).map fun i => popValue x.src ((run.drop (i * pb)).take pb)
    let x1 := { x with fed := x.fed + whole, got := got.filter fun e => decide ((x.fed + whole) * pb ≤ e.1 + e.2.length - 1) }
    let give := fun (q : StreamReg) =>
      if q.ch = ch ∧ !q.aborted then { q with landed := q.landed ++ vals, left := q.left - whole } else q
    let s1 := s.updCore site fun c => c.updXfer ch x.id fun _ => x1
    s1.updOwner site x fun c =>
      { c with strm := Vector.ofFn fun (i : Fin 8) => if c.smode[i] = .read then give c.strm[i] else c.strm[i] }

/-- How a landing fared. -/
inductive Landed where
  | done (s : State) (pieces : List (Nat × List Byte)) (refused : Option (BitVec 5))
  | wait (s : State)
  deriving DecidableEq, Repr

/-- A port notes a landing that it has written (R364, R370): the own engine's transfer its number, an open its number and mark. -/
def State.noteLanding (s : State) (site : Nat) (own : Bool) (k : LandKey) : State :=
  s.updCore site fun c =>
    if own then c.updXfer k.ch k.xfer fun y => { y with landN := y.landN + 1 }
    else { c with opens := c.opens.map fun o =>
      if o.key.sameXfer k then { o with mark := k.nextLo % 2 ^ 24, landN := o.landN + 1 } else o }

/-- Write a landing at its destination (R363, R366, R369). -/
def State.writeLanding (s : State) (p : Part) (ep : Nat) (l : Land) : Landed :=
  let site := p.siteOf ep
  let src := l.srcs.headD 0xFFFF
  let payload := l.pieces.flatMap (·.2)
  let own := if ep = l.key.lcn then (s.core site).xfer l.key.ch l.key.xfer else none
  if isSlot ep then
    match s.homeStoreAll p l.vint (l.pieces.flatMap fun e => linePieces 8 e.1 e.2) with
    | .done t => .done t l.pieces none
    | .full t => .done t [] (some causeKilled)
    | .wait t => .wait t
  else
    let at' : Addr := BitVec.ofNat 56 (0x10000000 + (l.pieces.headD (0, [])).1)
    let log := fun (t : State) (a : Addr) => (t.noteLanding site own.isSome l.key).logEv site 3 0 (l.key.xfer.setWidth 64) a src l.key.n payload
    let write := log (l.pieces.foldl (fun t e => t.scrStore site l.vint e.1 e.2) (s.served site l.vint)) at'
    match own with
    | some x => .done (if x.kind = .rstream then log (s.feedStream site l.key.ch x l.pieces) 0 else write) [] none
    | none => .done write [] none

/-- Acknowledge a landing to the issuing core (R363): at once there, else by a flit. -/
def State.sendLandAck (s : State) (p : Part) (ep : Nat) (l : Land) (pieces : List (Nat × List Byte))
    (refused : Option (BitVec 5)) : State :=
  if ep = l.key.lcn then (s.landAnswered p.lead l.key.lcn ep l.vint l.srcs).ackLanding (p.siteOf ep) l.key l.got pieces refused
  else s.send p.lead (p.siteOf ep) (isRimEp ep) ep l.key.lcn 9 0 0 l.vint (.landAck l.key l.srcs pieces refused)

/-- The landing that an endpoint writes next: of those that may be written, one of the oldest-issued transfer (R363); none at a core that
stands still or whose cellar is full (R478, R496). -/
def State.nextLanding (s : State) (p : Part) (ep : Nat) : Option Land :=
  match if !isRimEp ep && s.still (p.siteOf ep) then [] else (s.landsAt p ep).filter fun l => s.mayLand p ep l with
  | [] => none
  | a :: t => some (t.foldl (fun b l => if l.key.age < b.key.age then l else b) a)

/-- Whether a landing at a core's port is dropped: its transfer was aborted, or closed here (R374). -/
def State.dropsLanding (s : State) (p : Part) (ep : Nat) (l : Land) : Bool :=
  let c := s.core (p.siteOf ep)
  if isSlot ep then false
  else if ep = l.key.lcn then ((c.xfer l.key.ch l.key.xfer).map fun x => x.aborted).getD true
  else ((c.openOf l.key).map fun o => o.gone.isSome).getD true

/-- A closed transfer's landing that a port has dropped is no longer out (R374). -/
def Core.dropLanding (c : Core) (k : LandKey) : Core :=
  let less := fun (o : OpenRec) => if o.key.sameXfer k then { o with gone := o.gone.map fun l => l.erase k.n } else o
  { c with opens := (c.opens.map less).filter fun o => o.gone != some [] }

/-! ## Requests whose bytes come from several homes (R362) -/

/-- The landing of a request goes to its destination: to the own port when that has room, else by a flit. -/
def State.forwardLanding (s : State) (p : Part) (site dep : Nat) (l : Land) : Option State :=
  let lcn := (s.lcnOf site).getD 0
  let k := { l.key with parts := 1 }
  let out := fun (r : Req) => if r.n = k.n then { r with out := 1, landing := true } else r
  let gone := fun (t : State) => t.updCore site fun c => c.updXfer k.ch k.xfer fun y =>
    { y with joining := y.joining.filter fun e => !e.key.same l.key, reqs := y.reqs.map out }
  if dep ≠ lcn then some ((gone (s.landAnswered p.lead lcn lcn l.vint l.srcs)).sendFromCore site dep 9 0 0 l.vint (.landing l.pieces k))
  else if s.landRoom site then
    some (((gone (s.landAnswered p.lead lcn lcn l.vint l.srcs)).addLand p lcn k l.vint l.pieces []).due (.landing p.lead lcn))
  else none

/-- The joined landings of a core's transfers go on, as far as the own port has room. -/
def State.forwardJoined (s : State) (p : Part) (site : Nat) : State :=
  (s.core site).xfers.foldl (fun t e => e.2.joining.foldl (fun u l =>
    let dep := ((List.find? (fun (r : Req) => r.n == l.key.n) e.2.reqs).map fun r => r.dep).getD 0
    if l.key.parts ≤ l.got ∧ !e.2.aborted then (u.forwardLanding p site dep l).getD u else u) t) s

/-- A part of a landing arrives at the issuing engine, which joins it to the others; one of an aborted transfer is dropped. -/
def State.joinPart (s : State) (p : Part) (site : Nat) (l : Land) : State :=
  let lcn := (s.lcnOf site).getD 0
  match (s.core site).xfer l.key.ch l.key.xfer with
  | none => s.landAnswered p.lead lcn lcn l.vint l.srcs
  | some x =>
    if x.aborted then s.sendLandAck p lcn l [] none
    else
      let join := fun (e : Land) =>
        if e.key.same l.key then { e with got := e.got + 1, pieces := e.pieces ++ l.pieces, srcs := e.srcs ++ l.srcs } else e
      let joined := if x.joining.any fun e => e.key.same l.key then x.joining.map join else x.joining ++ [l]
      (s.updCore site fun c => c.updXfer l.key.ch l.key.xfer fun y => { y with joining := joined }).forwardJoined p site

/-! ## Events -/

/-- An endpoint writes one landing (R363-R366). -/
def State.landOne (s : State) (p : Part) (ep : Nat) : State :=
  let site := p.siteOf ep
  match s.nextLanding p ep with
  | none => s
  | some l =>
    let gone := fun (t : State) => t.setLands p ep ((t.landsAt p ep).filter fun e => !e.key.same l.key)
    let after := fun (t : State) => (if isSlot ep then t else (t.forwardJoined p site).wakeCopies site).dueLandings p.lead
    if s.dropsLanding p ep l then after (((gone s).updCore site fun c => c.dropLanding l.key).sendLandAck p ep l [] none)
    else
      match s.writeLanding p ep l with
      | .wait t => t
      | .done t pieces refused => after ((gone t).sendLandAck p ep l pieces refused)

/-- LANDING (R362-R369): a landing arrives, or a part of one at the issuing engine, and the destination writes one that may be
written. -/
def execLanding (part ep : Nat) (s : State) : Out :=
  match s.part? part with
  | none => .next s
  | some p =>
    match s.takeIn part ep .reply with
    | some (f, s1) =>
      match f.body with
      | .landing pieces k =>
        if k.parts ≤ 1 then .next ((s1.addLand p ep k f.vint pieces [f.sep]).landOne p ep)
        else .next (s1.joinPart p (p.siteOf ep) ⟨k, 1, pieces, f.vint, [f.sep]⟩)
      | _ => .next (s.landOne p ep)
    | none => .next (s.landOne p ep)

/-- LANDING_ACK (R363, R369, R372). Logged (R483). -/
def execLandingAck (part ep : Nat) (s : State) : Out :=
  match s.takeIn part ep .reply with
  | some (f, s1) =>
    match f.body, s1.part? part with
    | .landAck k srcs pieces refused, some p =>
      let s2 := if refused.isSome && srcs == [f.sep] && !isSlot f.sep then s1.answered part ep f.sep f.vint
        else s1.landAnswered part ep f.sep f.vint srcs
      .next ((s2.logAnswer (p.siteOf ep) 0 0 f 0 refused []).ackLanding (p.siteOf ep) k 1 pieces refused)
    | _, _ => .next s
  | none => .next s

/-! ## Completion -/

/-- Whether a transfer's writes are all performed (R358, R384, R385). -/
def Xfer.written (x : Xfer) : Bool :=
  !x.aborted && x.reqs.isEmpty &&
    match x.kind with
    | .rstream => x.ended
    | .wstream => x.ended && (x.pushed.isEmpty || decide (x.count ≤ x.pos))
    | _ => decide (x.count ≤ x.pos)

/-- Start the addition of 1 to a transfer's flag word, a release write of its context (R135, R358). -/
def State.addFlag (s : State) (site ch : Nat) (x : Xfer) : State :=
  let lcn := (s.lcnOf site).getD 0
  let a : Atom := ⟨.amo .add, 64, 1, 0, false, none, x.rel, lcn, x.ctx⟩
  let va := ownLocal lcn x.dst.flag
  let tag := ch + 8 * x.id.toNat
  let s1 := s.updCore site fun c => c.updXfer ch x.id fun y => { y with flagState := .sent }
  match spaceOf va with
  | .loc =>
    match placeOfLocal va.toNat with
    | .priv o =>
      let r := s1.atomicAtScr site x.vint (privBase x.ctx + o) a
      r.1.flagAdded site ch x.id none
    | .win _ o =>
      match (s.core site).bufAt x.vint o 8 with
      | none => s1.flagAdded site ch x.id (some causeProt)
      | some (_, b) =>
        if b.ownerWrites x.ctx && x.held.isNone then
          let r := s1.atomicAtScr site x.vint o a
          r.1.flagAdded site ch x.id none
        else s1.arriveWrite site x.vint (.engine ch x.id) (.atomic o a) false
    | _ => s1.flagAdded site ch x.id (some causeProt)
  | .remote =>
    match placeOfLocal (remoteLocal va) with
    | .win _ o =>
      if s.coreCanSend site (remoteLcn va) then s1.sendFromCore site (remoteLcn va) 9 tag 1 x.vint (.atomic (.core o) a) else s
    | _ => s1.flagAdded site ch x.id (some causeProt)
  | _ =>
    match s.translate site x.vint (pageOf va), s.partAt site with
    | .hit m, some p =>
      let ppa := m.ppa + va.toNat % 65536
      if !m.wr then s1.flagAdded site ch x.id (some causeProt)
      else if s.coreCanSend site (p.slotEp ppa) then
        s1.sendFromCore site (p.slotEp ppa) 9 tag 1 x.vint (.atomic (.rim ppa) a)
      else s
    | .miss, _ => (s.due (.translationMiss site (pageOf va))).due (.transferComplete site ch)
    | _, _ => s1.flagAdded site ch x.id (some causeXlate)

/-- TRANSFER_COMPLETE (R135, R358): a transfer whose writes are performed adds its flag, if it carries release, and then
completes. -/
def execTransferComplete (site ch : Nat) (s : State) : Out :=
  let ready := fun (x : Xfer) => x.written && x.flagState != .sent
  match List.find? ready ((s.core site).chan ch).xfers with
  | none => .next s
  | some x =>
    if x.rel.isSome && x.dst.flag != 0 && x.flagState == .todo then .next (s.addFlag site ch x)
    else .next (s.xferDone site ch x)

end Sys2Proof.Machine
end

