-- ==== Sys2Proof/Machine/Copy.lean ====
section
/-!
DEFINITION. The copy engine at work: requests (R356, R362, R365, R373), source homes, read-stream refills and write-stream
drains (R384), faults of a running transfer (R373), and CWAIT, CDONE, CWM, CNEXT, CHSTAT and CABORT (R377-R379).
-/

namespace Sys2Proof.Machine

open Sys2Proof

/-! ## Where a running transfer's bytes lie -/

/-- Where bytes of a transfer lie: zeros, a window of the own scratchpad, another core, a home, or a fault of translation
(R373), or a translation to fetch. -/
inductive XPlace where
  | zeros
  | here (w off : Nat)
  | core (lcn laddr : Nat)
  | rim (ppa : Nat)
  | bad
  | miss (page : Nat)
  deriving DecidableEq, Repr

/-- A global address of a transfer (R361, R373). -/
def State.xlatPlace (s : State) (site : Nat) (v : BitVec 32) (va : Addr) (write : Bool) : XPlace :=
  match s.translate site v (pageOf va) with
  | .hit m => if (if write then m.wr else m.rd) then .rim (m.ppa + va.toNat % 65536) else .bad
  | .miss => .miss (pageOf va)
  | .bad => .bad

/-- The places of n source bytes at an address, with their counts: a parameter window's bytes beyond its bound are zeros
(R356). -/
def State.srcPlaces (s : State) (site : Nat) (x : Xfer) (a n : Nat) : List (XPlace × Nat) :=
  let b := ownLocal ((s.lcnOf site).getD 0) (BitVec.ofNat 56 a)
  match spaceOf b with
  | .loc =>
    match placeOfLocal b.toNat with
    | .win w o => [(.here w o, n)]
    | .param w o =>
      match s.paramOf site x.vint x.region w with
      | none => [(.zeros, n)]
      | some (base, bound) =>
        let m := min n (bound - o)
        if m = 0 then [(.zeros, n)]
        else (s.xlatPlace site x.vint (BitVec.ofNat 56 (base + o)) false, m) :: (if m < n then [(.zeros, n - m)] else [])
    | _ => [(.bad, n)]
  | .remote => [(.core (remoteLcn b) (remoteLocal b), n)]
  | .global | .committed => [(s.xlatPlace site x.vint b false, n)]
  | .peer => [(.zeros, n)]
  | .reserved => [(.bad, n)]

/-- The address that a source element's translation is made for: that of the bound block for a parameter window (R356, R373). -/
def State.srcVa (s : State) (site : Nat) (x : Xfer) (a : Nat) : Nat :=
  let b := ownLocal ((s.lcnOf site).getD 0) (BitVec.ofNat 56 a)
  match (if spaceOf b = .loc then placeOfLocal b.toNat else .bad) with
  | .param w o => ((s.paramOf site x.vint x.region w).map fun e => e.1 + o).getD a
  | _ => a

/-- Whether a transfer's source is read in the committed view (R356). -/
def State.srcCommitted (s : State) (site : Nat) (x : Xfer) : Bool :=
  let b := ownLocal ((s.lcnOf site).getD 0) x.src.base
  match spaceOf b with
  | .committed => true
  | .loc =>
    match placeOfLocal b.toNat with
    | .param w _ =>
      ((s.paramOf site x.vint x.region w).map fun e => spaceOf (BitVec.ofNat 56 e.1) == .committed).getD false
    | _ => false
  | _ => false

/-- The place of a destination address. -/
def State.dstPlace (s : State) (site : Nat) (x : Xfer) (a : Nat) : XPlace :=
  let b := ownLocal ((s.lcnOf site).getD 0) (BitVec.ofNat 56 a)
  match spaceOf b with
  | .loc =>
    match placeOfLocal b.toNat with
    | .win w o => .here w o
    | _ => .bad
  | .remote =>
    match placeOfLocal (remoteLocal b) with
    | .win _ o => .core (remoteLcn b) o
    | _ => .bad
  | .global | .committed => s.xlatPlace site x.vint b true
  | _ => .bad

/-! ## Requests (R362) -/

/-- The elements of a transfer's next request: from element n on, those whose destinations lie in one 256-byte block, at
most `lim` bytes; elements that are not written pass. The element after them, and source and destination of each. -/
def Xfer.nextReqFrom (x : Xfer) (lim : Nat) : Nat → Nat → Option Nat → Nat → List (Option Nat × Nat) → Nat × List (Option Nat × Nat)
  | 0, n, _, _, acc => (n, acc)
  | fuel + 1, n, block, bytes, acc =>
    if x.count ≤ n then (n, acc)
    else
      match x.dstAt n with
      | none => x.nextReqFrom lim fuel (n + 1) block bytes acc
      | some d =>
        if (block.isNone || block == some (d / 256)) && decide (bytes + x.dst.elem ≤ lim) then
          x.nextReqFrom lim fuel (n + 1) (some (d / 256)) (bytes + x.dst.elem) (acc ++ [(x.srcAt n, d)])
        else (n, acc)

/-- The elements of a refill: from element n on, m of them, their destinations their places in the stream (R384). -/
def Xfer.refillReq (x : Xfer) (n m : Nat) : List (Option Nat × Nat) :=
  (List.range m).map fun i => (some (x.src.addr (n + i)), (n + i) * x.src.elem)

/-- A piece to read: its place, its bytes and its destination place. -/
abbrev Piece := XPlace × Nat × Nat

/-- The pieces of elements: sources by destination place, when the element with destination address `first` goes to `base` (R351). -/
def State.piecesOf (s : State) (site : Nat) (x : Xfer) (base first : Nat) (els : List (Option Nat × Nat)) : List Piece :=
  els.flatMap fun e =>
    let at' := base + e.2 - first
    match e.1 with
    | none => [(.zeros, x.src.elem, at')]
    | some a =>
      ((s.srcPlaces site x a x.src.elem).foldl (fun (acc : Nat × List Piece) q =>
        (acc.1 + q.2, acc.2 ++ [(q.1, q.2, acc.1)])) (at', [])).2

/-- The first element that cannot be read, for a fault of translation or a translation to fetch, with the address concerned (R373). -/
def State.blockedAt (s : State) (site : Nat) (x : Xfer) (els : List (Option Nat × Nat)) : Option (XPlace × Nat) :=
  els.findSome? fun e => e.1.bind fun a =>
    (List.find? (fun (q : XPlace × Nat) => match q.1 with
      | .bad | .miss _ => true
      | _ => false) (s.srcPlaces site x a x.src.elem)).map fun q => (q.1, s.srcVa site x a)

/-- Bytes of the own scratchpad as an engine reads them through a window: raw, or decoded with ftz 0 (R101, R356). -/
def State.windowBytes (s : State) (site : Nat) (v : BitVec 32) (w off n : Nat) : List Byte :=
  if w = 0 then s.scrRead site off n
  else
    let sub := if w = 7 then off / 2 ^ 24 else 0
    let e0 := (if w = 7 then off % 2 ^ 24 else off) / 2
    let table := (((s.core site).bufAt v (((winStored w sub e0).getD []).headD 0) 1).map fun b => b.2.base).getD 0
    let rd := fun (o : Nat) => memGet s.mem (scrAddr site o)
    (List.range (n / 2)).flatMap fun i => leBytes 2 (winElem rd w sub (e0 + i) table false)

/-- The bytes of the pieces that the issuing core has itself. -/
def State.ownPieces (s : State) (site : Nat) (v : BitVec 32) : List Piece → List (Nat × List Byte)
  | [] => []
  | (.zeros, n, d) :: t => (d, List.replicate n 0) :: s.ownPieces site v t
  | (.here w o, n, d) :: t => (d, s.windowBytes site v w o n) :: s.ownPieces site v t
  | _ :: t => s.ownPieces site v t

/-- Add a read to its source home's list. -/
def addRead (ep : Nat) (r : Nat × Nat × Nat) : List (Nat × List (Nat × Nat × Nat)) → List (Nat × List (Nat × Nat × Nat))
  | [] => [(ep, [r])]
  | (e, l) :: t => if e = ep then (e, l ++ [r]) :: t else (e, l) :: addRead ep r t

/-- The reads of the pieces that lie elsewhere, by source home: source, bytes, destination. -/
def Part.readsOf (p : Part) : List Piece → List (Nat × List (Nat × Nat × Nat))
  | [] => []
  | (.core lcn a, n, d) :: t => addRead lcn (a, n, d) (p.readsOf t)
  | (.rim ppa, n, d) :: t => addRead (p.slotEp ppa) (ppa, n, d) (p.readsOf t)
  | _ :: t => p.readsOf t

/-- The home of a piece: that of the issuing core for what it has itself. -/
def Part.homeOf (p : Part) (lcn : Nat) : XPlace → Nat
  | .core l _ => l
  | .rim ppa => p.slotEp ppa
  | _ => lcn

/-- How many homes the pieces of elements have: the parts of their request (R362). -/
def State.partsOf (s : State) (p : Part) (site : Nat) (x : Xfer) (els : List (Option Nat × Nat)) : Nat :=
  let pieces := s.piecesOf site x 0 0 els
  (p.readsOf pieces).length + if (s.ownPieces site x.vint pieces).isEmpty then 0 else 1

/-- The landing window of a transfer (R362). -/
def landingWindow : Nat := 32

/-- The packets of a transfer that are sent and not acknowledged (R362). -/
def Xfer.packetsOut (x : Xfer) : Nat := x.reqs.foldl (fun n r => n + r.out) 0

/-- The first request, of halving sizes, whose sources have no more homes than the window has packets. At most `fuel` halvings. -/
def State.fitting (s : State) (p : Part) (site : Nat) (x : Xfer) (els : Nat → Nat × List (Option Nat × Nat)) :
    Nat → Nat → Nat × List (Option Nat × Nat)
  | 0, lim => els lim
  | fuel + 1, lim => if s.partsOf p site x (els lim).2 ≤ landingWindow then els lim else s.fitting p site x els fuel (lim / 2)

/-- The next request of a COPY, GATHER or SCATTER (R362). -/
def State.nextReq (s : State) (p : Part) (site : Nat) (x : Xfer) : Nat × List (Option Nat × Nat) :=
  s.fitting p site x (fun lim => x.nextReqFrom lim 512 x.pos none 0 []) 3 256

/-- The bytes of a request that the issuing core has itself: alone they are its landing, else a part of it (R362). -/
def State.landFrom (s : State) (p : Part) (site dep : Nat) (v : BitVec 32) (k : LandKey) (pieces : List (Nat × List Byte)) : State :=
  let lcn := (s.lcnOf site).getD 0
  if 1 < k.parts then s.joinPart p site ⟨k, 1, pieces, v, []⟩
  else if dep = lcn then (s.addLand p dep k v pieces []).due (.landing p.lead dep)
  else s.sendFromCore site dep 9 0 0 v (.landing pieces k)

/-- Send the flits of a request: a copy request to each source home. -/
def State.sendReads (s : State) (site dep : Nat) (v : BitVec 32) (committed : Bool) (k : LandKey) :
    List (Nat × List (Nat × Nat × Nat)) → State
  | [] => s
  | (ep, l) :: t => (s.sendFromCore site ep 9 0 0 v (.copyRead l committed dep k)).sendReads site dep v committed k t

/-- A global translation fault (R373): the transfer freezes, and a fault message goes to the supervisor of the core's
band. -/
def State.freezeXfer (s : State) (site ch : Nat) (x : Xfer) (va : Nat) (write : Bool) : State :=
  let s1 := s.updCore site fun c => c.updXfer ch x.id fun y => { y with frozen := true }
  s1.sendFromCore site (0xC000 + bandOf site) 9 0 0 0 (.faultMsg ch x.id.toNat (BitVec.ofNat 56 va) write x.vint)

/-- Whether a global store that a context had queued before a fence has not drained: reads of the context's later engine commands
follow it (R122, R133). -/
def Core.fencedStore (c : Core) (n seq : Nat) : Bool :=
  c.wq.any fun e => e.ctx == n && e.closed && e.ids.any fun i => decide (i < seq)

/-- Whether earlier work holds a request back: the acquire (R134), stores before a fence (R133), the context's earlier vector
instructions (R285), the reads of its earlier tile commands (R312), the destination of an earlier copy that it would read (R370, R371) or
land on (R367), or an open taken at the port (R370). -/
def State.reqWaits (s : State) (site : Nat) (x : Xfer) (srcs dsts : List Range) : Bool :=
  let c := s.core site
  let lcn := (s.lcnOf site).getD 0
  let own := fun (l : List Range) => l.filter fun r => r.key == 1 + lcn
  let early := c.xfers.filter fun e => decide (e.2.age < x.age)
  let busy := fun (reads writes : List (Nat × Nat)) =>
    (own srcs).any (fun r => spansMeet writes r.lo r.hi)
      || (own dsts).any fun r => spansMeet writes r.lo r.hi || spansMeet reads r.lo r.hi
  (x.mine x.ctx && ((s.ctx site x.ctx).ops.any (fun o => x.acqWait.contains o.id) || c.fencedStore x.ctx x.seq))
    || (x.mine x.ctx && (c.vq.any (fun e => e.ctx == x.ctx && decide (e.seq ≤ x.seq) && busy e.reads e.writes)
      || c.tq.any fun t => t.ctx == x.ctx && t.held.isNone && decide (t.seq ≤ x.seq)
        && (own dsts).any fun r => spansMeet t.reads r.lo r.hi))
    || (own srcs).any (fun r => s.openGate site r.lo r.hi)
    || srcs.any (fun r => early.any fun e => e.2.gate lcn x.ctx e.1 r false != .free)
    || dsts.any fun r => early.any fun e => e.2.holdsBack lcn r

/-- The ranges of n bytes at addresses. -/
def rangesAt (lcn ctx n : Nat) (l : List Nat) : List Range := l.filterMap fun a => rangeOf lcn ctx (BitVec.ofNat 56 a) n

/-- Send the request of a peer source (R553): one flit to a port engine. -/
def State.sendPull (s : State) (p : Part) (site dep : Nat) (x : Xfer) (r : PeerRef) (k : LandKey) (src : Nat)
    (dsts : List (Nat × Nat)) : State :=
  let ports := p.peerPorts r.mask
  let port := ports.getD (k.n % ports.length) 0
  s.sendFromCore site (portEp port) 9 0 0 x.vint (.pull r (src % 2 ^ 40) dsts dep k)

/-- Note a request as sent (R362). -/
def Xfer.sentReq (x : Xfer) (next : Nat) (r : Req) : Xfer := { x with pos := next, reqs := x.reqs ++ [r], nextReq := x.nextReq + 1 }

/-- Whether a request of some packets may go to an endpoint now: the landing window has room (R362), the own port has room for a
landing (R363), and one of a WM transfer to global memory has none before it that is not acknowledged, since its blocks have several
homes and each lands only after those below it (R364). -/
def State.mayRequest (s : State) (site : Nat) (x : Xfer) (dep m : Nat) (ownLanding : Bool) : Bool :=
  decide (x.packetsOut + m ≤ landingWindow) && (!ownLanding || dep != (s.lcnOf site).getD 0 || s.landRoom site)
    && !(x.wm && isSlot dep && !x.reqs.isEmpty)

/-- Send one request of a transfer: its elements, the element after them, the destination endpoint, and the destination
place of the first element. Bytes from several homes come back to the engine, which joins them to one landing (R362). -/
def State.sendReq (s : State) (p : Part) (site ch : Nat) (x : Xfer) (next : Nat) (els : List (Option Nat × Nat))
    (dep base : Nat) : State :=
  let lcn := (s.lcnOf site).getD 0
  let first := (els.headD (none, 0)).2
  let lo := els.foldl (fun m e => min m e.2) first
  let hi := els.foldl (fun m e => max m e.2) first + x.dst.elem
  let again : Instr := if x.kind = .rstream then .streamRefill site ch else .copyRequest site ch
  let nextLo := if x.kind = .rstream then 0 else if next < x.count then (x.dstAt next).getD 0 else x.dst.spanI.2.toNat
  let done := fun (t : State) (r : Req) => (t.updCore site fun c => c.updXfer ch x.id fun y => y.sentReq next r).due again
  let srcs := rangesAt lcn x.ctx x.src.elem (els.filterMap (·.1))
  let dsts := if x.kind = .rstream then [] else rangesAt lcn x.ctx x.dst.elem (els.map (·.2))
  if s.reqWaits site x srcs dsts then s
  else
    match x.peer with
    | some r =>
      let k : LandKey := ⟨lcn, ch, x.id, x.nextReq, 1, nextLo, x.age⟩
      let ports := p.peerPorts r.mask
      if s.coreCanSend site (portEp (ports.getD (k.n % ports.length) 0)) && s.mayRequest site x dep 1 false then
        done (s.sendPull p site dep x r k ((els.headD (none, 0)).1.getD 0) (els.map fun e => (x.src.elem, base + e.2 - first)))
          ⟨x.nextReq, lo, hi, dep, [], 1, true⟩
      else s
    | none =>
      match s.blockedAt site x els with
      | some (.miss q, _) => (s.due (.translationMiss site q)).due again
      | some (_, va) => s.freezeXfer site ch x va false
      | none =>
        let pieces := s.piecesOf site x base first els
        let own := s.ownPieces site x.vint pieces
        let reads := p.readsOf pieces
        let m := reads.length + (if own.isEmpty then 0 else 1)
        if !s.mayRequest site x dep m (reads.isEmpty && !own.isEmpty) || reads.any fun e => !s.coreCanSend site e.1 then s
        else
          let k : LandKey := ⟨lcn, ch, x.id, x.nextReq, m, nextLo, x.age⟩
          let away := els.filterMap fun e => e.1.filter fun a =>
            (s.srcPlaces site x a x.src.elem).any fun q => p.homeOf lcn q.1 != lcn
          let past := els.any fun e => e.1.any fun a => (s.srcPlaces site x a x.src.elem).any fun q => q.1 == .zeros
          let s1 := if past then s.updOwner site x fun c => c.orSticky stickyPwoob else s
          let s2 := done s1 ⟨x.nextReq, lo, hi, dep, away, m, decide (m ≤ 1)⟩
          let s3 := if own.isEmpty then s2 else s2.landFrom p site dep x.vint k own
          s3.sendReads site (if m ≤ 1 then dep else lcn) x.vint (s.srcCommitted site x) k reads

/-- The endpoint and place of a destination address, or why there is none. -/
def State.destOf (s : State) (p : Part) (site : Nat) (x : Xfer) (a : Nat) : Except XPlace (Nat × Nat) :=
  match s.dstPlace site x a with
  | .here _ o => .ok ((s.lcnOf site).getD 0, o)
  | .core lcn o => .ok (lcn, o)
  | .rim ppa => .ok (p.slotEp ppa, ppa)
  | r => .error r

/-- Send the open of a remote destination (R365). -/
def State.sendOpen (s : State) (site ch : Nat) (x : Xfer) (dest : Nat) : State :=
  let lcn := (s.lcnOf site).getD 0
  let lo := x.dst.spanI.1.toNat % 2 ^ 24
  let hi := lo + (x.dst.spanI.2 - x.dst.spanI.1).toNat
  if s.coreCanSend site dest then
    let s1 := s.updCore site fun c => c.updXfer ch x.id fun y => { y with openSent := true }
    (s1.sendFromCore site dest 9 (ch + 8 * x.id.toNat) 0 x.vint (.open lo hi ⟨lcn, ch, x.id, 0, 0, 0, x.age⟩ x.wm)).due
      (.copyRequest site ch)
  else s

/-! ## Write streams (R382, R384) -/

/-- The pushes of a write stream that wait. -/
def State.pushesOf (s : State) (site ch : Nat) (x : Xfer) : List Word :=
  if x.ended then x.pushed
  else
    let c := s.ownerCtx site x
    ((List.find? (fun (e : SMode × StreamReg) => e.1 == .write && e.2.ch == ch && !e.2.aborted) (c.smode.toList.zip c.strm.toList)).map fun e =>
      e.2.pushed).getD []

/-- Replace the pushes that wait. -/
def State.setPushes (s : State) (site ch : Nat) (x : Xfer) (l : List Word) : State :=
  if x.ended then s.updCore site fun c => c.updXfer ch x.id fun y => { y with pushed := l }
  else s.updOwner site x fun c => { c with
    strm := Vector.ofFn fun (i : Fin 8) =>
      if c.smode[i] = .write ∧ c.strm[i].ch = ch ∧ !c.strm[i].aborted then { c.strm[i] with pushed := l } else c.strm[i] }

/-- The elements of one push or pop. -/
def Pat.perPop (p : Pat) : Nat := if p.pack then 8 / p.elem else 1

/-- Element j of a push. -/
def pushElem (p : Pat) (w : Word) (j : Nat) : List Byte := ((leBytes 8 w.toNat).drop (j * p.elem)).take p.elem

/-- Drain pushes of a write stream as one landing (R384): the elements that lie in one destination block. Pushes past the
last element are discarded. -/
def State.drainPushes (s : State) (p : Part) (site ch : Nat) (x : Xfer) : State :=
  let l := s.pushesOf site ch x
  if l.isEmpty then s
  else if x.count ≤ x.pos then
    (s.setPushes site ch x []).due (.transferComplete site ch)
  else
    let per := x.dst.perPop
    let off := x.pos % per
    let avail := min (l.length * per - off) (x.count - x.pos)
    let r := { x with count := x.pos + avail }.nextReqFrom 256 avail x.pos none 0 []
    let first := x.dst.addr x.pos
    match s.destOf p site x first with
    | .error (.miss q) => (s.due (.translationMiss site q)).due (.copyRequest site ch)
    | .error _ => s.freezeXfer site ch x first true
    | .ok (dep, base) =>
      let lcn := (s.lcnOf site).getD 0
      if (dep ≠ lcn ∧ !s.coreCanSend site dep) ∨ !s.mayRequest site x dep 1 true
          ∨ s.reqWaits site x [] (rangesAt lcn x.ctx x.dst.elem (r.2.map (·.2))) then s
      else
        let pieces := (List.range r.2.length).map fun i =>
          (base + (r.2.getD i (none, first)).2 - first, pushElem x.dst (l.getD ((off + i) / per) 0) ((off + i) % per))
        let gone := if r.1 = x.count then l.length else r.1 / per - x.pos / per
        let nextLo := if r.1 < x.count then x.dst.addr r.1 else x.dst.spanI.2.toNat
        let k : LandKey := ⟨lcn, ch, x.id, x.nextReq, 1, nextLo, x.age⟩
        let last := (r.2.getLastD (none, first)).2
        let s1 := s.setPushes site ch x (l.drop gone)
        let s2 := s1.updCore site fun c => c.updXfer ch x.id fun y =>
          y.sentReq r.1 ⟨x.nextReq, first, last + x.dst.elem, dep, [], 1, true⟩
        (s2.landFrom p site dep x.vint k pieces).due (.copyRequest site ch)

/-! ## Events of the engine -/

/-- The transfer of a channel that sends next: the oldest unfinished one that has not sent its last request (R358); an ended
write stream has sent it when no push is left to drain (R385). -/
def Chan.sender (k : Chan) : Option Xfer :=
  List.find? (fun (x : Xfer) => match x.kind with
    | .rstream => false
    | .wstream => !x.ended || (!x.pushed.isEmpty && decide (x.pos < x.count))
    | _ => decide (x.pos < x.count)) k.live

/-- COPY_REQUEST (R358, R362, R365, R373, R384): the channel sends its next request, or the open that comes first. -/
def execCopyRequest (site ch : Nat) (s : State) : Out :=
  match ((s.core site).chan ch).sender, s.partAt site with
  | some x, some p =>
    if x.frozen || decide (landingWindow ≤ x.packetsOut) then .next s
    else
      match x.remoteDest ((s.lcnOf site).getD 0), x.openSent with
      | some d, false => .next (s.sendOpen site ch x d)
      | _, _ =>
        if x.kind = .wstream then .next (s.drainPushes p site ch x)
        else
          let r := s.nextReq p site x
          match r.2 with
          | [] =>
            .next (((s.updCore site fun c => c.updXfer ch x.id fun y => { y with pos := r.1 }).due
              (.copyRequest site ch)).due (.transferComplete site ch))
          | (_, first) :: _ =>
            match s.destOf p site x first with
            | .error (.miss q) => .next ((s.due (.translationMiss site q)).due (.copyRequest site ch))
            | .error _ => .next (s.freezeXfer site ch x first true)
            | .ok (dep, base) => .next (s.sendReq p site ch x r.1 r.2 dep base)
  | _, _ => .next s

/-- STREAM_REFILL (R261, R384): a read stream with fewer than 32 pops landed or on their way asks for more, up to 64, while an image holds
its task too. -/
def execStreamRefill (site ch : Nat) (s : State) : Out :=
  let x? := List.find? (fun (x : Xfer) => x.kind == .rstream && !x.ended) ((s.core site).chan ch).live
  match x?, s.partAt site with
  | some x, some p =>
    let c := s.ownerCtx site x
    let have' := ((List.find? (fun (e : SMode × StreamReg) => e.1 == .read && e.2.ch == ch && !e.2.aborted)
      (c.smode.toList.zip c.strm.toList)).map fun e => e.2.landed.length).getD 0
    let per := x.src.perPop
    let asked := (x.pos + per - 1) / per - x.fed
    if x.frozen || decide (32 ≤ have' + asked) || decide (x.count ≤ x.pos) then .next s
    else
      let pops := min (64 - (have' + asked)) (256 / x.src.popBytes)
      let r := s.fitting p site x (fun m => (x.pos + m, x.refillReq x.pos m)) 3 (min (pops * per) (x.count - x.pos))
      .next (s.sendReq p site ch x r.1 r.2 ((s.lcnOf site).getD 0) (x.pos * x.src.elem))
  | _, _ => .next s

/-- COPY_READ_REQUEST (R114, R356, R362): a source home reads a request's bytes and sends the landing, or refuses it. -/
def execCopyReadRequest (part ep : Nat) (s : State) : Out :=
  match s.takeIn part ep .request with
  | some (f, s1) =>
    match f.body, s1.part? part with
    | .copyRead reads committed dep k, some p =>
      if isSlot ep then
        let r := reads.foldl (fun (acc : State × List (Nat × List Byte)) e =>
          let t := acc.1.readAtHome p f.vint e.1 e.2.1
          (t, acc.2 ++ [(e.2.2, (t.homeLoad p f.vint committed e.1 e.2.1).1)])) (s1, [])
        .next (r.1.sendLanding f dep k r.2)
      else .next (s1.readAtPort (p.siteOf ep) f)
    | .pull .., _ => .next (s.later (.peerRequest (ep - 0xC010)))
    | _, _ => .next s
  | none => .next s

/-- REMOTE_OPEN (R179, R365): the open of a remote destination becomes a delivery to the buffer's owner. -/
def execRemoteOpen (part ep : Nat) (s : State) : Out :=
  match s.takeIn part ep .request with
  | some (f, s1) =>
    match f.body, s1.part? part with
    | .open lo hi k wm, some p =>
      let site := p.siteOf ep
      .next ((s1.served site f.vint).arriveWrite site f.vint (.remote f) (.open lo hi k wm) false)
    | _, _ => .next s
  | none => .next s

/-- An open that waits is closed before it is taken: it is taken without a span (R374). -/
def Delivery.closed (k : LandKey) (d : Delivery) : Delivery :=
  match d.what with
  | .open lo hi q wm => if q.sameXfer k then { d with what := .open lo lo q wm } else { d with what := .open lo hi q wm }
  | _ => d

/-- A port ends its comparisons for a transfer, and drops those of its landings that are still out as they come (R374). -/
def Core.closeOpen (c : Core) (k : LandKey) (v : BitVec 32) (outs : List Nat) : Core :=
  let rest := c.opens.filter fun o => !o.key.sameXfer k
  { c with
    opens := if outs.isEmpty then rest else rest ++ [⟨k, v, 0, 0, false, 0, 0, some outs⟩],
    deliv := c.deliv.map (Delivery.closed k) }

/-- The same for the opens that wait with the held images of an LCN (R261). -/
def State.closeHeld (s : State) (p : Part) (l : Nat) (k : LandKey) : State :=
  s.updPart p.lead fun q => { q with
    images := Tbl.upd [] q.images l (List.map fun (i : Image) => { i with waiting := i.waiting.map (Delivery.closed k) }) }

/-- CLOSE_PACKET (R374): a destination port ends its comparisons for an aborted or completed transfer. Logged. -/
def execClosePacket (part ep : Nat) (s : State) : Out :=
  match s.takeIn part ep .request with
  | some (f, s1) =>
    match f.body, s1.part? part with
    | .close k outs, some p =>
      let site := p.siteOf ep
      let s2 := (s1.updCore site fun c => c.closeOpen k f.vint outs).closeHeld p ep k
      .next (((s2.logEv site 4 0 2 0 f.sep f.seq []).wakeCopies site).dueLandings part)
    | _, _ => .next s
  | none => .next s

/-- FAULT_MESSAGE (R373): the band supervisor walks the launch's page tables and answers with a resume or an abort
packet, system traffic as the message is (R388). -/
def execFaultMessage (part ep : Nat) (s : State) : Out :=
  match s.takeIn part ep .request with
  | some (f, s1) =>
    match f.body, s1.part? part with
    | .faultMsg ch id va write v, some p =>
      let m := (p.launch? v).bind fun l => s1.walkFrom p l.cmd.ptroot (pageOf va)
      let ok := match m with
        | some m => if write then m.wr else m.rd
        | none => false
      let body : Body := if ok then .resume ch id v else .abort ch id (if m.isSome then causeProt else causeXlate)
      .next ((s1.readWalk p v (pageOf va)).send part (p.siteOf ep) false ep f.sep 9 0 0 0 body)
    | _, _ => .next s
  | none => .next s

/-- RESUME_PACKET (R373): the transfer continues from its faulting request. -/
def execResumePacket (part ep : Nat) (s : State) : Out :=
  match s.takeIn part ep .request with
  | some (f, s1) =>
    match f.body, s1.part? part with
    | .resume ch id v, some p =>
      let site := p.siteOf ep
      let s2 := s1.updCore site fun c =>
        { c.updXfer ch (BitVec.ofNat 32 id) fun y => { y with frozen := false } with
          xlat := c.xlat.filter fun e => e.vint != v }
      .next ((s2.due (.copyRequest site ch)).due (.streamRefill site ch))
    | _, _ => .next s
  | none => .next s

/-- ABORT_PACKET (R373-R375): the transfer is aborted. -/
def execAbortPacket (part ep : Nat) (s : State) : Out :=
  match s.takeIn part ep .request with
  | some (f, s1) =>
    match f.body, s1.part? part with
    | .abort ch id _, some p => .next (s1.abortXfer (p.siteOf ep) ch (BitVec.ofNat 32 id) true)
    | _, _ => .next s
  | none => .next s

/-! ## CWAIT, the queries and CABORT -/

/-- Whether an id has passed in a channel (R359). -/
def Chan.passed (k : Chan) (id : BitVec 32) : Bool :=
  let d := (k.done - id).toNat
  decide (1 ≤ d) && decide (d < 2 ^ 31)

/-- CWAIT (R359, R372, R374, R377). -/
def execCwait (a : Reg) (ch : BitVec 3) (s : State) : Out :=
  issueWord s noHints [a] [] false false false fun i =>
    let id : BitVec 32 := (i.v 0).setWidth 32
    if !(s.myCore.chan ch.toNat).passed id then .next (s.setMe { s.me with stall := some (.done ch.toNat id) })
    else if i.c.abortMask.getLsbD ch.toNat then
      .next ((s.setMe { s.me with abortMask := s.me.abortMask &&& ~~~((1 : BitVec 8) <<< ch.toNat) }).trap causeCopyAbort 0)
    else .next (s.setMe i.c.advance)

/-- A channel query: x[d] takes a value of the channel (R378). Logged. -/
def chanQuery (d : Reg) (ch : BitVec 3) (f : Chan → Word) (s : State) : Out :=
  issueWord s noHints [] [d] false false false fun i =>
    let v := f (s.myCore.chan ch.toNat)
    .next ((finishScalar s i.c d v 0).logEv s.cur.1 9 s.cur.2 v 0 0xFFFF 0 [])

/-- The channel's watermark: that of its oldest unfinished WM transfer, else the end of the last one (R357). -/
def Chan.watermark (k : Chan) : Addr :=
  match List.find? (fun (x : Xfer) => x.wm) k.live with
  | some x => BitVec.ofNat 56 x.mark
  | none => k.wm

/-- The status word of a channel (R378). -/
def Chan.status (k : Chan) : Word :=
  let l := k.live
  BitVec.ofNat 64 ((if l.isEmpty then 0 else 1) + (if k.stream.isSome then 2 else 0)
    + (if l.any (·.frozen) then 4 else 0) + (if k.lastAborted then 8 else 0) + 2 ^ 8 * l.length
    + (match l with
      | [] => 0
      | x :: _ => 2 ^ 12 * (x.ctx % 8) + (if x.wm then 2 ^ 15 else 0)))

/-- CDONE (R378). -/
def execCdone (d : Reg) (ch : BitVec 3) (s : State) : Out := chanQuery d ch (fun k => k.done.setWidth 64) s

/-- CWM (R378). -/
def execCwm (d : Reg) (ch : BitVec 3) (s : State) : Out := chanQuery d ch (fun k => k.watermark.setWidth 64) s

/-- CNEXT (R378). -/
def execCnext (d : Reg) (ch : BitVec 3) (s : State) : Out := chanQuery d ch (fun k => k.next.setWidth 64) s

/-- CHSTAT (R378). -/
def execChstat (d : Reg) (ch : BitVec 3) (s : State) : Out := chanQuery d ch Chan.status s

/-- End the streams of contexts whose transfers a CABORT aborts on a channel: the registers leave stream mode, their
elements and pushes discarded (R379). -/
def State.cutStreams (s : State) (site ch : Nat) (l : List Xfer) : State :=
  let cut := fun (c : Ctx) =>
    { c with
      smode := Vector.ofFn fun (i : Fin 8) => if c.smode[i] ≠ .off ∧ c.strm[i].ch = ch then .off else c.smode[i],
      strm := Vector.ofFn fun (i : Fin 8) => if c.smode[i] ≠ .off ∧ c.strm[i].ch = ch then StreamReg.off else c.strm[i] }
  (l.filter fun x => x.isStream && !x.ended).foldl (fun t x => t.updOwner site x cut) s

/-- CABORT (R374, R375, R379): every unfinished transfer of the task's vintage on the channel is aborted; the word ends when
no packet of theirs is out. -/
def execCabort (ch : BitVec 3) (s : State) : Out :=
  issueWord s noHints [] [] false false false fun i =>
    let site := s.cur.1
    let v := i.c.vintage
    let wait := fun (t : State) =>
      if (t.myCore.chan ch.toNat).xfers.any fun x => x.vint == v && x.aborted then
        Host.Outcome.next (t.setMe { t.me with hold := .cabort })
      else .next (t.setMe t.me.advance)
    match s.me.hold with
    | .cabort => wait s
    | _ =>
      let l := (s.myCore.chan ch.toNat).live.filter fun x => x.vint == v
      let s1 := l.foldl (fun t x => t.abortXfer site ch.toNat x.id (!x.mine s.cur.2)) s
      wait (s1.cutStreams site ch.toNat l)

end Sys2Proof.Machine
end

