-- ==== Sys2Proof/Machine/Fabric.lean ====
section
/-!
DEFINITION. The routers: output allocation, detours, ejection and the siding (R393-R397, R400-R406), and the arrival of
flits at endpoints (R400, R571).
-/

namespace Sys2Proof.Machine

open Sys2Proof

/-! ## Ports -/

/-- The neighbour of a site in a direction: 0 north, 1 east, 2 south, 3 west (R393). -/
def neighbour (site dir : Nat) : Option Nat :=
  let x := site % 120
  let y := site / 120
  match dir with
  | 0 => if y = 0 then none else some (site - 120)
  | 1 => if x = 119 then none else some (site + 1)
  | 2 => if y = 75 then none else some (site + 120)
  | 3 => if x = 0 then none else some (site - 1)
  | _ => none

/-- Whether a port can ever be taken (R393): its link is live, neither router is fenced, and both ends lie in one partition
(R10, R16). The neighbour's site. -/
def State.port (s : State) (site dir : Nat) : Option Nat :=
  match neighbour site dir with
  | none => none
  | some n =>
    let a := (s.partAt site).map (·.lead)
    let b := (s.partAt n).map (·.lead)
    if a.isNone || a != b || (s.router site).fenced || (s.router n).fenced || (s.router site).deadLinks[dir]?.getD true
        || (s.router n).deadLinks[(dir + 2) % 4]?.getD true then none
    else some n

/-- The flits that have come in on a plane. -/
def Router.inputs (r : Router) : Plane → Vector (List Flit) 4
  | .request => r.inReq
  | .reply => r.inRep

/-- A router with other flits at an input. -/
def Router.setInput (r : Router) (pl : Plane) (i : Nat) (l : List Flit) : Router :=
  match pl with
  | .request => { r with inReq := r.inReq.setIfInBounds i l }
  | .reply => { r with inRep := r.inRep.setIfInBounds i l }

/-- A flit enters a router at an input, behind those of earlier fabric cycles. -/
def Router.enter (r : Router) (pl : Plane) (i : Nat) (f : Flit) : Router := r.setInput pl i ((r.inputs pl)[i]?.getD [] ++ [f])

/-- The ports of a site that a turn has not taken yet (R395). -/
def State.freePorts (s : State) (site : Nat) (taken : List Nat) : List Nat :=
  [0, 1, 2, 3].filter fun d => (s.port site d).isSome && !taken.contains d

/-! ## Choosing an output (R395, R397) -/

/-- The site that a destination counts as (R390). -/
def destSite (dsite : Nat) : Nat := if dsite < 9120 then dsite else portSite dsite

/-- The productive directions toward a site, in the order of R395. -/
def productive (site dst : Nat) : List Nat :=
  let x := site % 120
  let y := site / 120
  let dx := dst % 120
  let dy := dst / 120
  let h : List Nat := if x < dx then [1] else if dx < x then [3] else []
  let v : List Nat := if y < dy then [2] else if dy < y then [0] else []
  let lh := if x < dx then dx - x else x - dx
  let lv := if y < dy then dy - y else y - dy
  if lh < lv then v ++ h else h ++ v

/-- The Manhattan distance of two sites. -/
def hops (a b : Nat) : Nat :=
  let dx := if a % 120 ≤ b % 120 then b % 120 - a % 120 else a % 120 - b % 120
  let dy := if a / 120 ≤ b / 120 then b / 120 - a / 120 else a / 120 - b / 120
  dx + dy

/-- The output of a flit at a router, and the flit as it leaves: the productive ports, the detour of R397, a deflection,
and the input port last. `free` lists the ports that can be taken now, `up` those that are not permanently busy. -/
def route (f : Flit) (site : Nat) (inPort : Option Nat) (free up : List Nat) : Option (Nat × Flit) :=
  let dst := destSite f.dsite
  let dist := hops site dst
  let prod := productive site dst
  let f0 := if f.det && decide (dist < f.ddist) then { f with det := false } else f
  let first := prod.headD 0
  let start := if inPort.isNone then { f0 with last := first } else f0
  let blocked := !prod.isEmpty && prod.all fun d => !up.contains d
  let f1 := if !start.det && blocked then { start with det := true, ddist := dist } else start
  let wanted : List Nat :=
    if !start.det && blocked then [(first + 1) % 4, (first + 2) % 4, (first + 3) % 4]
    else if start.det then [(start.last + 3) % 4, start.last, (start.last + 1) % 4, (start.last + 2) % 4]
    else prod
  let others := ([0, 1, 2, 3].filter fun d => some d != inPort) ++ inPort.toList
  match (wanted ++ others).find? fun d => free.contains d with
  | some d => some (d, { f1 with last := d })
  | none => none

/-! ## Ejection -/

/-- Whether an endpoint with some entries in use accepts a flit into its input store: in order with one entry free, early with
eight, a duplicate always (R400). -/
def Endpoint.accepts (e : Endpoint) (ep used : Nat) (f : Flit) : Bool :=
  let w := (f.seq + 4096 - Tbl.get 0 e.expct f.sep) % 4096
  let room := storeSize ep - used
  if w = 0 then decide (1 ≤ room) else if w < 2048 then decide (8 ≤ room) else true

/-- The age of a flit (R396). -/
def State.age (s : State) (f : Flit) : Nat := min 8191 ((s.module.fc + 2 ^ 14 - f.inj) % 2 ^ 14)

/-- The flit with its age held at 8,191 (R396). -/
def State.aged (s : State) (f : Flit) : Flit :=
  if 8191 < (s.module.fc + 2 ^ 14 - f.inj) % 2 ^ 14 then { f with inj := (s.module.fc + 2 ^ 14 - 8191) % 2 ^ 14 } else f

/-- A flit marked for the siding and redirected to its column's rim port (R403). -/
def parkFlit (site : Nat) (f : Flit) : Flit :=
  { f with park := true, dsite := if site / 120 ≤ 37 then 9120 + site % 120 else 9240 + site % 120, det := false }

/-- Where a router holds a flit: at the head of an input, or in a place of the flits that its rim port or its core offers. -/
inductive Slot' where
  | port (i : Nat)
  | rim (j : Nat)
  | core (j : Nat)
deriving DecidableEq, Repr

/-- The offered lists of a plane: from the rim port, then from the core. -/
def Router.offered (r : Router) : Plane → List Flit × List Flit
  | .request => (r.offRimReq, r.offCoreReq)
  | .reply => (r.offRimRep, r.offCoreRep)

/-- Whether a flit that waits for its injection has still to wait, since too many of its pair await their answer (R399). Of the
unanswered flits of the pair those still offered are not yet injected. -/
def Part.heldBack (p : Part) (r : Router) (f : Flit) : Bool :=
  let waits := fun (g : Flit) => g.last == 4 && g.body.awaits && g.sep == f.sep && g.dep == f.dep
  let offered := ((r.offCoreReq ++ r.offCoreRep ++ r.offRimReq ++ r.offRimRep).filter waits).length
  waits f && decide (pairLimit ≤ p.pairOut f.sep f.dep - offered)

/-- The first offered flit that may be injected, with its place. -/
def Part.injectable (p : Part) (r : Router) (l : List Flit) : Option (Nat × Flit) :=
  (List.find? (fun (e : Flit × Nat) => !p.heldBack r e.1) l.zipIdx).map fun e => (e.2, e.1)

/-- The flits that a router may handle in a turn on a plane, in the order of R395: the heads of its inputs, then one that the rim
port and one that the core offers. -/
def State.ranked (s : State) (pl : Plane) (p : Part) (r : Router) : List (Slot' × Flit) :=
  let transit := sortBy (fun (a b : Slot' × Flit) => decide (s.age b.2 ≤ s.age a.2))
    (((r.inputs pl).toList.zipIdx).filterMap fun e => e.1.head?.map fun f => (Slot'.port e.2, f))
  let o := r.offered pl
  transit ++ ((p.injectable r o.1).map fun e => (Slot'.rim e.1, e.2)).toList ++ ((p.injectable r o.2).map fun e => (Slot'.core e.1, e.2)).toList

/-- A router without the flit of a place. -/
def Router.take (r : Router) (pl : Plane) (k : Slot') : Router :=
  match k, pl with
  | .port i, _ => r.setInput pl i (((r.inputs pl)[i]?.getD []).drop 1)
  | .rim j, .request => { r with offRimReq := r.offRimReq.eraseIdx j }
  | .rim j, .reply => { r with offRimRep := r.offRimRep.eraseIdx j }
  | .core j, .request => { r with offCoreReq := r.offCoreReq.eraseIdx j }
  | .core j, .reply => { r with offCoreRep := r.offCoreRep.eraseIdx j }

/-- A router with another flit in the same place. -/
def Router.replace (r : Router) (pl : Plane) (k : Slot') (f : Flit) : Router :=
  match k, pl with
  | .port i, _ => r.setInput pl i (f :: ((r.inputs pl)[i]?.getD []).drop 1)
  | .rim j, .request => { r with offRimReq := r.offRimReq.set j f }
  | .rim j, .reply => { r with offRimRep := r.offRimRep.set j f }
  | .core j, .request => { r with offCoreReq := r.offCoreReq.set j f }
  | .core j, .reply => { r with offCoreRep := r.offCoreRep.set j f }

/-- A flit of a killed vintage at a router (R266, R571): made void; a carriage is nothing more. -/
def voided (r : Router) (f : Flit) : Option Flit :=
  if !r.discard.contains f.vint then some f
  else
    match f.body with
    | .carriage _ => none
    | _ => some { f with body := .void }

/-- Whether a flit's endpoint entry is parked at a site (R402). -/
def State.parkedAt (s : State) (p : Part) (site : Nat) (f : Flit) : Bool :=
  match s.bindAt p site f.dep with
  | some (_, .parked) => true
  | _ => false

/-- Whether a carriage still has to be offered to the core of a site (R220). -/
def Flit.unoffered (f : Flit) (site : Nat) : Bool :=
  match f.body with
  | .carriage k => k.seen != some site && !f.park
  | _ => false

/-- Whether a flit's place is a core's injection port that is busy: the site is dead or fenced (R393). -/
def State.closed (s : State) (site : Nat) : Slot' → Bool
  | .core _ => (s.core site).fenced || (s.core site).dead
  | _ => false

/-- A flit as a router handles it: in transit with its age held (R396); offered, with the cycle of its injection and the
destination that the tables give then (R388, R398). -/
def State.atRouter (s : State) (p : Part) (site : Nat) (k : Slot') (f : Flit) : Flit :=
  match k with
  | .port _ => s.aged f
  | _ => { f with
      inj := s.module.fc % 2 ^ 14,
      dsite := if f.park then f.dsite else s.dsiteOf p site f.dep }

/-- The entries of a band's siding area (R401). -/
def sidingSize : Nat := 1677721

/-- The band whose task engine holds a district's pool: that of the site of LCN 64k at partition creation (R14). -/
def Part.poolBand (p : Part) (d : Nat) : Nat := bandOf (p.cores.getD (64 * d) 0)

/-- The entries of a band's area that the parking lists and the overflow of its pools use (R223, R401). -/
def Part.sidingUsed (p : Part) (band : Nat) : Nat :=
  let parked := p.siding.foldl (fun n l => if l.band = band then n + l.flits.length else n) 0
  p.pools.foldl (fun n e => if p.poolBand e.1 = band then n + (e.2.entries.length - poolSize) else n) parked

/-- The replies that wait for room in the full reply queues of a band's cores (R192, R402). -/
def State.repliesParked (s : State) (band : Nat) : Nat :=
  s.cores.foldl (fun n e => if bandOf e.1 = band ∧ replyEntries ≤ e.2.replies.length then n + e.2.repliesWait.length else n) 0

/-- The words of collective messages of later rounds that wait on the group lists of a band's routers (R420). -/
def State.groupsParked (s : State) (band : Nat) : Nat :=
  s.routers.foldl (fun n e =>
    if bandOf e.1 = band then e.2.groups.foldl (fun m g => g.2.parked.foldl (fun k x => k + max 1 x.2.words.length) m) n else n) 0

/-- The entries in use of a band's area (R401): parking lists, reply queues, pools and groups. -/
def State.sidingUsed (s : State) (p : Part) (band : Nat) : Nat :=
  p.sidingUsed band + s.repliesParked band + s.groupsParked band

/-- Whether the area of a site's band has room (R404). -/
def State.sidingRoom (s : State) (p : Part) (site : Nat) : Bool := decide (s.sidingUsed p (bandOf site) < sidingSize)

/-- A flit that entered a router is due there: to be offered to the core, or to be routed. -/
def State.entered (s : State) (pl : Plane) (n : Nat) (f : Flit) : State :=
  s.due (if f.unoffered n then .carriage pl n else .flitRouting pl n)

/-- What becomes of one flit at a router in its turn, and the port that it takes: parked, ejected, handed to the siding, moved on;
nothing when it stays. A parked flit whose area is full travels on (R404). -/
def State.handle (s : State) (pl : Plane) (site : Nat) (p : Part) (taken : List Nat) (k : Slot') (f0 : Flit) : Option (State × List Nat) :=
  let r := s.router site
  if s.closed site k then none
  else
  match voided r (s.atRouter p site k f0) with
  | none => some (s.setRouter site (r.take pl k), [])
  | some f1 =>
    if f1.unoffered site then none
    else
      let f := if !f1.park && s.parkedAt p site f1 then parkFlit site f1 else f1
      let here := destSite f.dsite = site
      if f.park ∧ here ∧ s.sidingRoom p site then
        some ((s.setRouter site (r.replace pl k f)).due (.sidingAppend pl site), [])
      else
        let e := p.ep f.dep
        let carriage := f.body.kind = 6
        let c := s.core site
        let host := ((Tbl.find? p.keeps f.dep).bind (·.host)).map fun h => s.hostEp p h.1
        let room := !isPortEp f.dep || decide ((s.link (f.dep - 0xC010)).held.length < 4096)
        let open' := (isRimEp f.dep && room) || !isRimEp f.dep && !c.fenced && !c.dead && (!c.drained || host == some f.sep)
        if here ∧ !carriage ∧ !f.park ∧ open' ∧ e.accepts f.dep (s.storeUsed p f.dep pl) f then
          let e1 := e.setPlane pl (e.arr pl ++ [f]) (e.store pl) (e.ins pl)
          some (((s.setPart p.lead (p.setEp f.dep e1)).setRouter site (r.take pl k)).due (.flitArrival pl p.lead f.dep), [])
        else
          let g := if here ∧ !carriage ∧ !f.park ∧ s.age f = 8191 then parkFlit site f else f
          let inPort := match k with
            | .port i => some i
            | _ => none
          match route g site inPort (s.freePorts site taken) (s.freePorts site []) with
          | none => none
          | some (d, h) =>
            match s.port site d with
            | none => none
            | some n =>
              let s1 := s.setRouter site (r.take pl k)
              some ((s1.setRouter n ((s1.router n).enter pl ((d + 2) % 4) h)).entered pl n h, [d])

/-- The ranked flits of a router take their outputs one after the other, each of the ports that those before it left (R395). -/
def State.allocate (s : State) (pl : Plane) (site lead : Nat) : List Nat → List (Slot' × Flit) → State
  | _, [] => s
  | taken, (k, f) :: t =>
    match (s.part? lead).bind fun p => s.handle pl site p taken k f with
    | some (s1, d) => s1.allocate pl site lead (taken ++ d) t
    | none => s.allocate pl site lead taken t

/-- Whether a flit of a router can be handled in its next turn: it has been offered to the core, and waits for no siding. -/
def State.moves (s : State) (site : Nat) (e : Slot' × Flit) : Bool :=
  !e.2.unoffered site && !s.closed site e.1 && !(e.2.park && destSite e.2.dsite == site)

/-- FLIT_ROUTING (R395-R397, R402, R403): one fabric cycle of a router on a plane. Each flit in transit, and one that the rim port
and one that the core offers, is ejected, parked or given an output. -/
def execFlitRouting (plane : Plane) (site : Nat) (s : State) : Out :=
  match s.partAt site with
  | none => .next s
  | some p =>
    if (s.router site).fenced then .next s
    else
      let s1 := s.allocate plane site p.lead [] (s.ranked plane p (s.router site))
      let left := ((s1.part? p.lead).map fun q => s1.ranked plane q (s1.router site)).getD []
      .next (if left.any fun e => s1.moves site e then s1.dueOnce (.flitRouting plane site) else s1)

/-- FLIT_ARRIVAL (R400): an endpoint takes a flit from its store's entrance: in order it is applied next, early it is held,
a duplicate is dropped. -/
def execFlitArrival (plane : Plane) (part ep : Nat) (s : State) : Out :=
  match s.part? part with
  | none => .next s
  | some p =>
    let e := p.ep ep
    match e.arr plane with
    | [] => .next s
    | f :: t =>
      let w := (f.seq + 4096 - Tbl.get 0 e.expct f.sep) % 4096
      let known := (e.ins plane ++ e.store plane).any fun g => g.sep == f.sep && g.seq == f.seq
      let put := fun (x : Endpoint) => s.setPart part (p.setEp ep x)
      if known || decide (2048 ≤ w) then .next (put (e.setPlane plane t (e.store plane) (e.ins plane)))
      else if w = 0 then
        .next ((put (e.setPlane plane t (e.store plane) (e.ins plane ++ [f]))).due (eventOf part ep plane f.body))
      else .next (put (e.setPlane plane t (e.store plane ++ [f]) (e.ins plane)))

/-- VOID_FLIT (R571): the endpoint passes over a void flit's number. -/
def execVoidFlit (plane : Plane) (part ep : Nat) (s : State) : Out :=
  match s.takeIn part ep plane with
  | some (f, s1) =>
    match f.body with
    | .void => .next s1
    | _ => .next s
  | none => .next s

/-! ## The siding -/

/-- The number of a flit's parking list (R401). -/
def Flit.list (f : Flit) : Nat := (match f.plane with
  | .request => 0
  | .reply => 65536) + f.dep

/-- Append a flit at the tail of its list in a band's area. -/
def Part.sidingAppend (p : Part) (band : Nat) (f : Flit) : Part :=
  if p.siding.any fun l => l.band == band && l.list == f.list then
    { p with siding := p.siding.map fun l =>
        if l.band = band ∧ l.list = f.list then { l with flits := l.flits ++ [f] } else l }
  else { p with siding := p.siding ++ [⟨band, f.list, [f]⟩] }

/-- A supervisor's report reaches the management controller; one that it has already is not repeated. -/
def State.notice (s : State) (n : Notice) : State :=
  let m := s.module.mgc
  if m.notices.contains n then s else { s with module := { s.module with mgc := { m with notices := m.notices ++ [n] } } }

/-- SIDING_APPEND (R403, R404): the rim at a site takes a parked flit into its band's area; when the area is full the flit
circulates, and the supervisor reports it. -/
def execSidingAppend (plane : Plane) (site : Nat) (s : State) : Out :=
  let r := s.router site
  match s.partAt site, ((s.partAt site).map fun p => s.ranked plane p r).bind fun l => l.find? fun e => e.2.park && destSite e.2.dsite == site with
  | some p, some (k, f) =>
    if !s.sidingRoom p site then .next ((s.notice (.sidingFull (bandOf site))).due (.flitRouting plane site))
    else
      let s1 := s.setRouter site (r.take plane k)
      .next ((s1.setPart p.lead (p.sidingAppend (bandOf site) { f with park := false })).later (.sidingRelease p.lead f.list))
  | _, _ => .next s

/-- The rim port of a band nearest to a flit's destination (R403). -/
def releasePort (dsite : Nat) : Nat :=
  let d := destSite dsite
  if d / 120 ≤ 37 then d % 120 else 9000 + d % 120

/-- The sparing of an endpoint of a partition, with its band. -/
def State.sparingOf (s : State) (p : Part) (ep : Nat) : Option (Nat × Sparing) :=
  (List.range p.nb).findSome? fun k =>
    match (s.band (p.lead + k)).sparing with
    | some x => if x.ep = ep then some (p.lead + k, x) else none
    | none => none

/-- Whether a band's area holds flits parked for an endpoint. -/
def Part.hasParked (p : Part) (band ep : Nat) : Bool :=
  p.siding.any fun l => l.band == band && l.list % 65536 == ep && decide (l.list < 131072) && !l.flits.isEmpty

/-- What the rebinding of an endpoint says of its lists (R403, R406): nothing, that they wait for step 3, or, in step 3, that they are
released whatever room the endpoint has. -/
def State.releaseStage (s : State) (p : Part) (ep : Nat) : Option Bool :=
  if !p.rebinding.contains ep then none
  else
    match s.sparingOf p ep with
    | some (_, x) => if x.step = .replay then none else some (x.step == .release)
    | none => some false

/-- SIDING_RELEASE (R403, R406): the head of a list whose endpoint has 16 free entries, or whose rebinding is in step 3, enters the grid
again at the rim port nearest to its destination. In step 3 the band whose last flit for the endpoint has gone is done. -/
def execSidingRelease (part list : Nat) (s : State) : Out :=
  match s.part? part with
  | none => .next s
  | some p =>
    match p.siding.find? fun l => l.list == list && !l.flits.isEmpty with
    | none => .next s
    | some l =>
      match l.flits with
      | [] => .next s
      | f :: t =>
        let site := releasePort (s.dsiteOf p (p.siteOf f.dep) f.dep)
        let stage := s.releaseStage p f.dep
        if (stage = none ∧ storeSize f.dep - s.storeUsed p f.dep f.plane < 16) ∨ stage = some false ∨ s.parkedAt p site f then .next s
        else if s.systemBadAt l.band then .next (s.due .warmReset)
        else
          let g := { f with dsite := s.dsiteOf p site f.dep, inj := s.module.fc % 2 ^ 14, det := false, last := 0 }
          let p1 := { p with siding := (p.siding.map fun x => if x = l then { x with flits := t } else x).filter fun x =>
            !x.flits.isEmpty }
          let s1 := ((s.setPart part p1).setRouter site ((s.router site).offer true g)).due (.flitRouting f.plane site)
          let s2 := if stage = some true ∧ !p1.hasParked l.band f.dep then s1.later (.rebindReleaseAck (10 * l.band) f.dep) else s1
          .next (if p1.siding.any fun x => x.list == list then s2.later (.sidingRelease part list) else s2)

end Sys2Proof.Machine
end

