-- ==== Sys2Proof/Machine/Timers.lean ====
section
/-!
DEFINITION. The collective timers (R421, R424, R426, R498): their counts, what they stand still for, and the entries and ports of
groups.
-/

namespace Sys2Proof.Machine

open Sys2Proof

/-! ## Entries and ports -/

/-- A router's entry of a group. -/
def State.gentry (s : State) (site grp : Nat) : Option GEntry := Tbl.find? (s.router site).groups grp

/-- Replace a router's entry of a group. -/
def State.setGentry (s : State) (site grp : Nat) (e : GEntry) : State :=
  s.setRouter site { s.router site with groups := Tbl.put (s.router site).groups grp e }

/-- A core's port for a group. -/
def State.cport (s : State) (site grp : Nat) : Option CPort := Tbl.find? (s.core site).ports grp

/-- Replace a core's port for a group. -/
def State.setCport (s : State) (site grp : Nat) (q : CPort) : State :=
  s.updCore site fun c => { c with ports := Tbl.put c.ports grp q }

/-! ## The clock of a partition's timers (R424) -/

/-- The fabric cycles that the timers of a partition can count by: they stand still from step 1 of a rebinding until its replay has
ended. -/
def State.timerClock (s : State) (p : Part) : Nat := p.stillFrom.getD s.module.fc - p.stillFc

/-- The rebinding of an endpoint begins. -/
def Part.startRebind (p : Part) (now ep : Nat) : Part :=
  { p with rebinding := p.rebinding ++ [ep], stillFrom := some (p.stillFrom.getD now) }

/-- The rebinding of an endpoint has ended; with the last the timers go on with the counts they had. -/
def Part.endRebind (p : Part) (now ep : Nat) : Part :=
  let l := p.rebinding.filter (· != ep)
  if l.isEmpty then { p with rebinding := l, stillFrom := none, stillFc := p.stillFc + (now - p.stillFrom.getD now) }
  else { p with rebinding := l }

/-- Whether the collective timers of the partition at a site stand still (R424). -/
def State.timersStill (s : State) (site : Nat) : Bool :=
  match s.partAt site with
  | none => true
  | some p => !p.rebinding.isEmpty

/-! ## A timer -/

/-- A timer that starts: it counts from now on, or is held. -/
def Timer.start (now : Nat) (held : Bool) : Timer := ⟨0, if held then none else some now⟩

/-- The count of a timer. -/
def Timer.count (t : Timer) (now : Nat) : Nat := t.ran + (t.since.map fun a => now - a).getD 0

/-- A timer that stands still with its count, and one that goes on. -/
def Timer.hold (t : Timer) (now : Nat) : Timer := ⟨t.count now, none⟩
def Timer.goOn (t : Timer) (now : Nat) : Timer := { t with since := some (t.since.getD now) }

/-! ## The timers that a scan pass holds (R498) -/

/-- The routers from one up to the root of a group, at most `fuel` of them. -/
def State.pathUp (s : State) (grp : Nat) : Nat → Nat → List Nat
  | 0, _ => []
  | fuel + 1, x =>
    x :: match s.gentry x grp with
      | some e => if e.parent = 0 then [] else
          match neighbour x (e.parent - 1) with
          | some y => s.pathUp grp fuel y
          | none => []
      | none => []

/-- The routers whose timers of a group a pass of a core holds: from its osite up to the root. -/
def State.heldBy (s : State) (x grp : Nat) : List Nat :=
  match s.cport x grp with
  | some q => if q.own then s.pathUp grp 200 q.osite else []
  | none => []

/-- Whether a pass of some core other than `but` holds a router's timer of a group. -/
def State.passHolds (s : State) (but : Option Nat) (site grp : Nat) : Bool :=
  match s.partAt site with
  | none => false
  | some p => p.bound.any fun x => (s.core x).drained && some x != but && (s.heldBy x grp).contains site

/-- The contributors of a chain group next to a core, below and above it (R425). -/
def State.chainBefore (s : State) (site grp : Nat) : Option Nat :=
  match s.partAt site, s.lcnOf site with
  | some p, some l => ((p.bound.take l).filter fun x => ((s.cport x grp).map (·.own)).getD false).getLast?
  | _, _ => none
def State.chainAfter (s : State) (site grp : Nat) : Option Nat :=
  match s.partAt site, s.lcnOf site with
  | some p, some l => ((p.bound.drop (l + 1)).filter fun x => ((s.cport x grp).map (·.own)).getD false).head?
  | _, _ => none

/-- Change the timers that a pass of a core holds: those of its groups' routers, and that of the CHAIN that waits for its beat. -/
def State.eachHeld (s : State) (site : Nat) (f : State → Nat → Nat → Timer → Timer) : State :=
  (s.core site).ports.foldl (fun t e =>
    let t1 := (t.heldBy site e.1).foldl (fun u x =>
      match u.gentry x e.1 with
      | some g => u.setGentry x e.1 { g with timer := f u x e.1 g.timer }
      | none => u) t
    match (if e.2.conf.chain then t1.chainAfter site e.1 else none) with
    | none => t1
    | some y =>
      match t1.cport y e.1 with
      | some q => t1.setCport y e.1 { q with wait := q.wait.map fun w => f t1 9120 e.1 w }
      | none => t1) s

/-- A pass of a core begins: the timers that it holds stand still. -/
def State.holdTimers (s : State) (site : Nat) : State :=
  match s.partAt site with
  | none => s
  | some p => s.eachHeld site fun _ _ _ w => w.hold (s.timerClock p)

/-- A pass of a core has ended: the timers that no other pass holds go on with their counts. -/
def State.freeTimers (s : State) (site : Nat) : State :=
  match s.partAt site with
  | none => s
  | some p => s.eachHeld site fun t x g w => if t.passHolds (some site) x g then w else w.goOn (s.timerClock p)

end Sys2Proof.Machine
end

