-- ==== Sys2Proof/Machine/Collect.lean ====
section
/-!
DEFINITION. The collective engine (R411-R437, R572): rounds at the routers and ports, CTB, CRD, CHAIN, GSTAT and CCFG,
timeouts, proxies of spared cores, and the standing tree.
-/

namespace Sys2Proof.Machine

open Sys2Proof

/-! ## Combining (R418) -/

/-- Combine two FP32 lanes (R87, R98, R157). -/
def combineF32 (op : COp) (a b : Nat) : Enc :=
  match op with
  | .max => ⟨(encodeFloat fmtF32 (maxVal (f32Val a) (f32Val b)) .rne false false 0).bits, 0⟩
  | .min => ⟨(encodeFloat fmtF32 (minVal (f32Val a) (f32Val b)) .rne false false 0).bits, 0⟩
  | _ => addF32 a b

/-- Combine two integer lanes of a width. -/
def combineInt (op : COp) (signed : Bool) (w a b : Nat) : Nat :=
  let less := if signed then decide (intOfBits true w a ≤ intOfBits true w b) else decide (a ≤ b)
  match op with
  | .add => (a + b) % 2 ^ w
  | .max => if less then b else a
  | .min => if less then a else b
  | .and => a &&& b
  | .or => a ||| b
  | .xor => a ^^^ b
  | .barrier => 0

/-- Combine two words of a group, with the sticky bits of their lanes (R418). -/
def GConf.combine (c : GConf) (a b : Word) : Word × Word :=
  if c.op = .barrier then (0, 0)
  else
  let x := a.toNat
  let y := b.toNat
  let two := fun (f : Nat → Nat → Nat) => BitVec.ofNat 64 (f (x % 2 ^ 32) (y % 2 ^ 32) + 2 ^ 32 * f (x / 2 ^ 32) (y / 2 ^ 32))
  match c.ty with
  | .f32 =>
    let lo := combineF32 c.op (x % 2 ^ 32) (y % 2 ^ 32)
    let hi := combineF32 c.op (x / 2 ^ 32) (y / 2 ^ 32)
    (BitVec.ofNat 64 (lo.bits + 2 ^ 32 * hi.bits), lo.flags ||| hi.flags)
  | .i32 => (two (combineInt c.op true 32), 0)
  | .n32 => (two (combineInt c.op false 32), 0)
  | .i64 => (BitVec.ofNat 64 (combineInt c.op true 64 x y), 0)
  | _ => (BitVec.ofNat 64 (combineInt c.op false 64 x y), 0)

/-- Combine two messages of a round word by word; the flags join, and the first report stands (R418, R422). -/
def GConf.join (c : GConf) (a b : CMsg) : CMsg :=
  let ws := (a.words.zip b.words).map fun e => c.combine e.1 e.2
  let f := ws.foldl (fun (m : Word) e => m ||| e.2) 0
  { a with
    words := ws.map (·.1),
    inexact := a.inexact || b.inexact || f &&& stickyInexact != 0,
    invalid := a.invalid || b.invalid || f &&& stickyInvalid != 0,
    report := a.report.or b.report }

/-- The status word of a completed round (R423). -/
def CMsg.status (m : CMsg) : Word :=
  let r := match m.report with
    | none => 0
    | some r => 2 + (if r.chain then 4 else 0) + 2 ^ 8 * r.mask + 2 ^ 16 * r.site
  BitVec.ofNat 64 (1 + r + (if m.inexact then 8 else 0) + (if m.invalid then 16 else 0) + 2 ^ 32 * m.round.toNat)

/-! ## Messages as beats (R414, R415) -/

/-- The header of a message of a kind and group: a tree message with `n` data beats, or a routed beat with its word (R414). -/
def CMsg.header (m : CMsg) (kind grp n : Nat) : BitVec 256 :=
  let flags := (if m.inexact then 2 ^ 29 else 0) + (if m.invalid then 2 ^ 30 else 0)
  let own := kind + 2 ^ 4 * grp + 2 ^ 10 * m.round.toNat + 2 ^ 26 * n + flags + 2 ^ 32 * (m.status.toNat % 2 ^ 32 - 1) + 2 ^ 128 * m.vint.toNat
  BitVec.ofNat 256 (match m.routed with
    | none => own
    | some r => own + 2 ^ 64 * r.dep + 2 ^ 80 * r.sep + 2 ^ 96 * r.dsite + 2 ^ 110 * r.inj + 2 ^ 124 * r.widx
        + 2 ^ 192 * (m.words.headD 0).toNat)

/-- The data beats of a message's words: four to a beat, word k at bit 64·(k mod 4) (R414). -/
def dataBeats : Nat → List Word → List (BitVec 256)
  | 0, _ => []
  | fuel + 1, l =>
    if l.isEmpty then []
    else BitVec.ofNat 256 (((l.take 4).zipIdx).foldl (fun n e => n + 2 ^ (64 * e.2) * e.1.toNat) 0) :: dataBeats fuel (l.drop 4)

/-- A message as the beats that a link moves, one in a fabric cycle (R414). -/
def CMsg.toBeats (m : CMsg) (kind grp : Nat) : List (BitVec 256) :=
  match m.routed with
  | some r => [m.header r.kind grp 0]
  | none => m.header kind grp ((m.words.length + 3) / 4) :: dataBeats 4 m.words

/-- A message as routed beats, one for each word, each with its index (R415); a result without words goes as one beat. -/
def CMsg.split (m : CMsg) (r : Routed) : List CMsg :=
  (List.range (max 1 m.words.length)).map fun k => { m with words := [m.words.getD k 0], routed := some { r with widx := k } }

/-- The whole message of a round among routed beats, of a number of words (R415). -/
def assemble (beats : List CMsg) (m : CMsg) (words : Nat) : Option CMsg :=
  let mine := beats.filter fun b => b.round == m.round
  let word := fun (k : Nat) => (List.find? (fun (b : CMsg) => (b.routed.map (·.widx)) == some k) mine).map fun b => b.words.headD 0
  let l := (List.range (max 1 words)).filterMap word
  if l.length = max 1 words then some { m with words := l.take words, routed := none } else none

/-- Whether a round number is at or after another, modulo 2^16. -/
def roundGe (a b : BitVec 16) : Bool := decide ((a - b).toNat < 2 ^ 15)

/-! ## Routers -/

/-- The inputs that a router expects: 0 own, 1 N, 2 E, 3 S, 4 W (R412, R418). -/
def GEntry.expects (e : GEntry) : List Nat :=
  (if e.own then [0] else []) ++ ((List.range 4).filter fun i => e.child.getLsbD i).map (· + 1)

/-- The expected inputs that are absent. -/
def GEntry.absent (e : GEntry) : List Nat := e.expects.filter fun i => (Tbl.find? e.inputs i).isNone

/-- The combination of the inputs present, in the order own, N, E, S, W, with a router's own report first (R418, R422). -/
def GEntry.total (e : GEntry) (own : Option Report) : Option CMsg :=
  match e.inputs with
  | [] => none
  | (_, m) :: t =>
    let acc := t.foldl (fun a x => e.conf.join a x.2) m
    let acc1 := if e.conf.op = .barrier then { acc with words := [] } else acc
    some { acc1 with report := own.or acc1.report }

/-- The siding list of the messages of later rounds of a group at a router (R420). -/
def groupList (grp site : Nat) : Nat := 2 ^ 24 * 0x02 + 2 ^ 18 * grp + 2 ^ 4 * site

/-- Put a message on the way to a router: a contribution or partial at a port, a chain total at 5, or a proxy beat at 6 (R415). -/
def State.sendUp (s : State) (site grp port : Nat) (m : CMsg) : State :=
  (s.setRouter site { s.router site with colUp := (s.router site).colUp ++ [(grp, port, m)] }).later
    (if port = 6 then .proxyContribution site grp else .ev (.contribution site grp))

/-- Put a result on the way to a router (R419). -/
def State.sendDown (s : State) (site grp : Nat) (m : CMsg) : State :=
  (s.setRouter site { s.router site with colDown := (s.router site).colDown ++ [(grp, m)] }).due (.result site grp)

/-- Send a router's total: to its parent as a partial, or at the root as the result (R418, R419). -/
def State.sendTotal (s : State) (site grp : Nat) (e : GEntry) (m : CMsg) : State :=
  if e.parent = 0 then s.sendDown site grp m
  else
    match neighbour site (e.parent - 1) with
    | none => s
    | some up => s.sendUp up grp ((e.parent - 1 + 2) % 4 + 1) m

/-- Close the open round of a router and send its total (R418, R421). -/
def State.closeRound (s : State) (site grp : Nat) (e : GEntry) (own : Option Report) : State :=
  match e.total own with
  | none => s
  | some m => (s.setGentry site grp { e with closed := true }).sendTotal site grp e m

/-- The timer of a round whose first input has come (R421), held while a pass holds it (R498). -/
def State.startTimer (s : State) (site grp : Nat) : Timer :=
  Timer.start (((s.partAt site).map s.timerClock).getD 0) (s.passHolds none site grp)

/-- A message reaches a router's entry (R420): taken, parked for a later round, or discarded. -/
def State.takeInput (s : State) (site grp port : Nat) (m : CMsg) : State :=
  match s.gentry site grp with
  | none => s
  | some e =>
    if m.round = e.round then
      if port = 5 then (if e.closed then s else (s.setGentry site grp { e with closed := true }).sendDown site grp { m with routed := none })
      else
        let other := match e.inputs with
          | [] => false
          | (_, x) :: _ => x.vint != m.vint
        if e.closed || (Tbl.find? e.inputs port).isSome || other || !e.expects.contains port then s
        else
          let e1 := { e with
            inputs := Tbl.put e.inputs port m,
            timer := if e.inputs.isEmpty then s.startTimer site grp else e.timer }
          if e1.absent.isEmpty then s.closeRound site grp e1 none else s.setGentry site grp e1
    else if roundGe m.round e.round then s.setGentry site grp { e with parked := e.parked ++ [(port, m)] }
    else s

/-- The first message of a group for which a condition on its port holds, and the others. -/
def takeUp (grp : Nat) (f : Nat → Bool) : List (Nat × Nat × CMsg) → Option (Nat × CMsg × List (Nat × Nat × CMsg))
  | [] => none
  | (g, q, m) :: t =>
    if g = grp ∧ f q then some (q, m, t) else (takeUp grp f t).map fun r => (r.1, r.2.1, (g, q, m) :: r.2.2)

/-- The first message of a tag, and the others. -/
def takeTag (tag : Nat) : List (Nat × CMsg) → Option (CMsg × List (Nat × CMsg))
  | [] => none
  | (g, m) :: t => if g = tag then some (m, t) else (takeTag tag t).map fun r => (r.1, (g, m) :: r.2)

/-! ## Ports -/

/-- The result that a port holds for round rr. -/
def CPort.current (q : CPort) : Option CMsg := List.find? (fun (m : CMsg) => m.round == q.rr) q.held

/-- Whether the port holds a contribution for round rr that has not been answered (R434, R436). -/
def CPort.contributed (q : CPort) : Bool := q.cr != q.rr || !q.words.isEmpty

/-- A result reaches a port (R419). -/
def CPort.take (q : CPort) (m : CMsg) : CPort :=
  let r := m.round
  if !roundGe r q.rr || q.held.any (fun h => h.round == r) then q
  else
    let q1 := if (r - q.rr).toNat < 2 then q
      else
        let held := q.held.filter fun h => roundGe h.round (r - 1)
        { q with held := held, rr := if held.any (fun h => h.round == r - 1) then r - 1 else r, rw := 0, tseen := false }
    let q2 := { q1 with held := q1.held ++ [m], last := m.status }
    if roundGe r q2.cr then
      let out := q2.out.filter fun o => o.1.round != r
      let preds := q2.preds.filter fun b => roundGe b.round (r + 1)
      { q2 with cr := r + 1, words := [], rel := [], out := out, preds := preds }
    else q2

/-- The side effect of an acquiring CTB whose round has come (R428): the core's cache drops every line of the regions bound
to a synchronisation object. -/
def State.acquireAll (s : State) (site : Nat) (c : Ctx) : State :=
  let core := s.core site
  let regs := ((s.regsOf site c).zipIdx.filter fun e => core.objectOf c.vintage e.2 e.1 != 0).map (·.1)
  s.setCore site { core with cache := core.cache.filter fun m =>
    !(m.vint == c.vintage && regs.any fun r => decide (r.base % 2 ^ 54 ≤ m.va) && decide (m.va < r.base % 2 ^ 54 + r.size)) }

/-- The rounds of a context that a result ends, and those that stay. -/
def Ctx.endRound (c : Ctx) (grp : Nat) (r : BitVec 16) : Ctx :=
  { c with rounds := c.rounds.filter fun e => !(e.1 == grp && roundGe r e.2) }

/-- Log a message that has come to a collective port, with its words (R483). -/
def State.logMsg (s : State) (site : Nat) (m : CMsg) : State :=
  s.logEv site 10 0 m.status 0 ((m.routed.map (·.sep)).getD 0xFFFF) 0 (m.words.flatMap fun w => leBytes 8 w.toNat)

/-- A result has come to a port, which logs it: contexts that an acquiring CTB held go on (R428), and converted tasks wake (R432). -/
def State.portResult (s : State) (site grp : Nat) (m : CMsg) : State :=
  match s.cport site grp with
  | none => s
  | some q =>
    let s1 := (s.setCport site grp (q.take m)).logMsg site m
    let one := fun (t : State) (n : Nat) =>
      let c := t.ctx site n
      let d := c.endRound grp m.round
      if d.rounds.length = c.rounds.length then t else (t.setCtx site n d).acquireAll site c
    let s2 := (List.range 8).foldl one s1
    let s3 := match s2.partAt site, s2.lcnOf site with
      | some p, some l =>
        let put := fun (i : Image) => { i with c := i.c.endRound grp m.round }
        s2.setPart p.lead { p with images := Tbl.upd [] p.images l (List.map put) }
      | _, _ => s2
    s3.wakeImages site

/-- Whether a contribution may leave its port: the accesses that its releases wait for are performed (R428). -/
def State.released (s : State) (site : Nat) (rel : List (Nat × Nat)) : Bool :=
  rel.all fun e => !((s.ctx site e.1).ops.any fun o => o.id == e.2)

/-- The routed header of a beat that a site sends now (R414, R415). -/
def State.routedTo (s : State) (kind dep sep dsite : Nat) : Routed := ⟨kind, dep, sep, dsite, s.module.fc % 2 ^ 14, 0⟩

/-- A port sends its oldest contribution to the router that holds the core's own bit: over the link, or as proxy beats when
that router stands elsewhere (R417, R429). -/
def State.portSend (s : State) (site grp : Nat) : State :=
  match s.cport site grp with
  | none => s
  | some q =>
    match q.out with
    | [] => s
    | (m, rel) :: t =>
      if s.released site rel then
        let s1 := s.setCport site grp { q with out := t }
        let l := (s.lcnOf site).getD 0xFFFF
        (if q.osite = site then s1.sendUp site grp 0 m
          else (m.split (s.routedTo 3 l l q.osite)).foldl (fun u b => u.sendUp q.osite grp 6 b) s1).wakeImages site
      else s

/-! ## Events of a round -/

/-- CONTRIBUTION (R415, R418-R420): a router takes the next contribution, partial or chain total of a group, combining when
it was the last; with none, the core's port sends its own. -/
def execContribution (site grp : Nat) (s : State) : Out :=
  let r := s.router site
  match takeUp grp (fun q => q != 6) r.colUp with
  | some (q, m, rest) => .next ((s.setRouter site { r with colUp := rest }).takeInput site grp q m)
  | none => .next (s.portSend site grp)

/-- The site at which the tables of a router say that the own contributor stands (R429). -/
def State.ownSite (s : State) (site : Nat) (e : GEntry) : Nat :=
  match s.partAt site with
  | none => site
  | some p => ((s.bindAt p site e.olcn).map (·.1)).getD site

/-- The tags of a core's arriving collective messages: a result of its router, a proxy result, a chain beat. -/
def tagResult (grp : Nat) : Nat := grp
def tagProxy (grp : Nat) : Nat := 64 + grp
def tagBeat (grp : Nat) : Nat := 128 + grp

/-- Put a message on the way to a core's port. -/
def State.toPort (s : State) (site tag : Nat) (m : CMsg) : State :=
  s.updCore site fun c => { c with colIn := c.colIn ++ [(tag, m)] }

/-- A router forwards a round's result to its children and its own contributor, and opens the next round (R419, R420). -/
def State.forward (s : State) (site grp : Nat) (m : CMsg) : State :=
  match s.gentry site grp with
  | none => s
  | some e =>
    if m.round ≠ e.round then s
    else
      let kids := ((List.range 4).filter fun i => e.child.getLsbD i).filterMap fun i => neighbour site i
      let s1 := kids.foldl (fun t k => t.sendDown k grp m) s
      let at' := s.ownSite site e
      let s2 := if !e.own then s1
        else if at' = site then (s1.toPort site (tagResult grp) m).due (.result site grp)
        else (m.split (s.routedTo 4 e.olcn e.olcn at')).foldl (fun u b => (u.toPort at' (tagProxy grp) b).later (.proxyResult at' grp)) s1
      let back := e.parked.map fun b => (grp, b.1, b.2)
      let e1 := { e with round := e.round + 1, inputs := [], closed := false, parked := [], timer := ⟨0, none⟩ }
      let s3 := s2.setGentry site grp e1
      let s4 := s3.setRouter site { s3.router site with colUp := back ++ (s3.router site).colUp }
      back.foldl (fun t _ => t.due (.contribution site grp)) s4

/-- Whether the port of a core takes no message: the core is stopped or replays, and what comes waits at the port (R493). -/
def State.portStill (s : State) (site : Nat) : Bool := (s.core site).paused

/-- RESULT (R419, R428): a router takes a round's result, or a core's port takes it from its router. -/
def execResult (site grp : Nat) (s : State) : Out :=
  let r := s.router site
  match takeTag grp r.colDown with
  | some (m, rest) => .next ((s.setRouter site { r with colDown := rest }).forward site grp m)
  | none =>
    match (if s.portStill site then none else takeTag (tagResult grp) (s.core site).colIn) with
    | some (m, rest) => .next ((s.updCore site fun c => { c with colIn := rest }).portResult site grp m)
    | none => .next s

/-- CHAIN_PARTIAL (R425): a predecessor's beat reaches a port; one of a round below cr is dropped. -/
def execChainPartial (site grp : Nat) (s : State) : Out :=
  match (if s.portStill site then none else takeTag (tagBeat grp) (s.core site).colIn) with
  | none => .next s
  | some (m, rest) =>
    let s0 := s.updCore site fun c => { c with colIn := rest }
    match s0.cport site grp with
    | none => .next s0
    | some q =>
      let s1 := s0.logMsg site m
      if roundGe m.round q.cr && !(q.preds.any fun b => b.round == m.round) then
        .next ((s1.setCport site grp { q with preds := q.preds ++ [m] }).wakeImages site)
      else .next s1

/-- PROXY_CONTRIBUTION (R415, R429): a beat of a spared core's contribution reaches its former router, which takes the contribution when
it is whole. -/
def execProxyContribution (site grp : Nat) (s : State) : Out :=
  let r := s.router site
  match takeUp grp (fun q => q == 6) r.colUp with
  | none => .next s
  | some (_, m, rest) =>
    let s1 := s.setRouter site { r with colUp := rest }
    match s1.gentry site grp with
    | none => .next s1
    | some e =>
      let beats := e.beats ++ [m]
      match assemble beats m e.conf.words with
      | none => .next (s1.setGentry site grp { e with beats := beats })
      | some w => .next ((s1.setGentry site grp { e with beats := beats.filter fun b => b.round != m.round }).takeInput site grp 0 w)

/-- PROXY_RESULT (R415, R429): a beat of a result reaches a spared core's port, which takes the result when it is whole. -/
def execProxyResult (site grp : Nat) (s : State) : Out :=
  match (if s.portStill site then none else takeTag (tagProxy grp) (s.core site).colIn) with
  | none => .next s
  | some (m, rest) =>
    let s1 := s.updCore site fun c => { c with colIn := rest }
    match s1.cport site grp with
    | none => .next s1
    | some q =>
      let beats := q.beats ++ [m]
      match assemble beats m (if q.conf.op = .barrier then 0 else q.conf.words) with
      | none => .next (s1.setCport site grp { q with beats := beats })
      | some w => .next ((s1.setCport site grp { q with beats := beats.filter fun b => b.round != m.round }).portResult site grp w)

/-- The fabric cycles after which a router stops waiting (R421). -/
def GEntry.allowance (e : GEntry) : Nat := e.conf.timeout * 256 * (e.ht + 1)

/-- COLLECTIVE_TIMER_EXPIRY (R421, R422, R424, R498): a router whose group has a timeout, and whose timer has reached its allowance, stops
waiting for the inputs that are absent from its open round and reports them. -/
def execCollectiveTimerExpiry (site grp : Nat) (s : State) : Out :=
  match s.gentry site grp with
  | none => .next s
  | some e =>
    let now := ((s.partAt site).map s.timerClock).getD 0
    if e.conf.timeout = 0 ∨ e.closed ∨ e.inputs.isEmpty ∨ e.absent.isEmpty ∨ s.timersStill site ∨ s.passHolds none site grp
        ∨ e.timer.count now < e.allowance then .next s
    else
      let mask := e.absent.foldl (fun m i => m + 2 ^ i) 0
      .next (s.closeRound site grp e (some ⟨false, mask, site⟩))

/-- CHAIN_TIMEOUT (R424, R426, R498): a CHAIN that has waited timeout · 256 fc for its predecessor traps COLL_TIMEOUT. -/
def execChainTimeout (site ctx : Nat) (s : State) : Out :=
  let c := s.ctx site ctx
  match c.stall with
  | some (.beat grp) =>
    match s.cport site grp with
    | none => .next s
    | some q =>
      let passing := ((s.chainBefore site grp).map fun x => (s.core x).drained).getD false
      let now := ((s.partAt site).map s.timerClock).getD 0
      if q.conf.timeout = 0 ∨ q.tseen ∨ c.occ ≠ .running ∨ s.timersStill site ∨ passing
          ∨ (q.wait.getD ⟨0, none⟩).count now < q.conf.timeout * 256 then .next s
      else .next ((s.setCport site grp { q with tseen := true, wait := none }).trapAt site ctx causeCollTimeout 0 0)
  | _ => .next s

/-! ## The instructions -/

/-- The checks of a collective word on a group (R411, R432): its port, or the fault. `chain` is the mode that the word
requires, if any. -/
def collWord (s : State) (grp : BitVec 6) (chain : Option Bool) (k : CPort → Out) : Out :=
  if 48 ≤ grp.toNat then .next (s.trap causeProt 0)
  else
    match s.cport s.cur.1 grp.toNat with
    | none => .next (s.trap causeIllegal 0)
    | some q => if !q.own || chain == some (!q.conf.chain) then .next (s.trap causeIllegal 0) else k q

/-- Note that a launch uses a group (R430). -/
def State.useGroup (s : State) (v : BitVec 32) (grp : Nat) : State :=
  match s.partAt s.cur.1 with
  | none => s
  | some p => s.updPart p.lead fun q => q.updLaunch v fun l =>
      if l.groups.contains grp then l else { l with groups := l.groups ++ [grp] }

/-- Log a collective word with the value that it returned (R429). -/
def State.logColl (s : State) (v : Word) : State := s.logEv s.cur.1 10 s.cur.2 v 0 0xFFFF 0 []

/-- CTB (R417, R428, R433): a releasing one closes the context's queued writes to joins (R122). -/
def execCtb (a : Reg) (grp : BitVec 6) (acq rel : Bool) (s : State) : Out :=
  issueWord s noHints [a] [] false false false fun i =>
    collWord s grp (some false) fun q0 =>
      let g := grp.toNat
      let begins := q0.words.isEmpty
      let full := begins && q0.cr == q0.rr + 2
      if begins && !q0.out.isEmpty then
        .next ((s.setMe { s.me with stall := some (.port g) }).due (.contribution s.cur.1 g))
      else if full && q0.current.isNone then .next (s.setMe { s.me with stall := some (.result g q0.rr.toNat) })
      else
        let q1 := if full then
            { q0 with held := q0.held.filter fun m => m.round != q0.rr, rr := q0.rr + 1, rw := 0, tseen := false }
          else q0
        let ids := if rel then (i.c.notPerformed .p).map fun o => (s.cur.2, o) else []
        let ws := q1.words ++ [i.v 0]
        let rels := q1.rel ++ ids
        let round := q1.cr
        let q2 := if ws.length < q1.conf.words then { q1 with words := ws, wvint := i.c.vintage, rel := rels }
          else { q1 with
            words := [], rel := [], cr := round + 1,
            out := q1.out ++ [(⟨round, i.c.vintage, ws, false, false, none, none⟩, rels)] }
        let c1 := if acq then { i.c with rounds := i.c.rounds ++ [(g, round)] } else i.c
        let s0 := if rel then s.setMyCore (s.myCore.closeWq s.cur.2) else s
        let s1 := ((s0.setCport s.cur.1 g q2).setMe c1.advance).useGroup i.c.vintage g
        .next ((s1.logColl (i.v 0)).due (.contribution s.cur.1 g))

/-- The lanes of a word narrowed to a type, low lane first: x[d], the sticky bits, the generator (R434). -/
def narrowLanes (oty : DType) (rnd : Rnd) (w gen : Word) : Word × Word × Word :=
  let one := fun (v : Nat) (g : Word) =>
    let dr := drawIf rnd g
    (encodeElem oty (f32Val v) rnd false false dr.2, dr.1)
  let lo := one (w.toNat % 2 ^ 32) gen
  let hi := one (w.toNat / 2 ^ 32) lo.2
  (BitVec.ofNat 64 (lo.1.bits + 2 ^ oty.width * hi.1.bits), lo.1.flags ||| hi.1.flags, hi.2)

/-- CRD (R427, R434). -/
def execCrd (d : Reg) (grp : BitVec 6) (rnd : Rnd) (s : State) : Out :=
  issueWord s noHints [] [d] true false false fun i =>
    collWord s grp none fun q =>
      let g := grp.toNat
      let site := s.cur.1
      if q.conf.op = .barrier ∨ (rnd ≠ .rne ∧ (q.conf.oty = .f32 ∨ q.conf.oty.isInt)) ∨ (q.current.isNone ∧ !q.contributed) then
        .next (s.trap causeIllegal 0)
      else
        match q.current with
        | none => .next (s.setMe { s.me with stall := some (.result g q.rr.toNat) })
        | some m =>
          if m.report.isSome && !q.tseen then
            .next ((s.setCport site g { q with tseen := true }).trap causeCollTimeout 0)
          else if rnd = .rs ∧ drawsBusy s then .next s.drawWait
          else
            let w := m.words.getD q.rw 0
            let r := if q.conf.ty = .f32 then narrowLanes q.conf.oty rnd w i.c.srstate else (w, 0, i.c.srstate)
            let flags := r.2.1 ||| (if m.inexact then stickyInexact else 0) ||| (if m.invalid then stickyInvalid else 0)
            let q1 := if q.rw + 1 < q.conf.words then { q with rw := q.rw + 1 }
              else { q with rr := q.rr + 1, rw := 0, tseen := false, held := q.held.filter fun h => h.round != q.rr }
            let s1 := s.setCport site g q1
            .next ((finishScalar s1 { i.c with srstate := r.2.2 } d r.1 flags).logColl r.1)

/-- GSTAT (R436). -/
def execGstat (d : Reg) (grp : BitVec 6) (s : State) : Out :=
  issueWord s noHints [] [d] true false false fun i =>
    collWord s grp none fun q =>
      match q.current with
      | some m => .next ((finishScalar s i.c d m.status 0).logColl m.status)
      | none =>
        if q.contributed then .next (s.setMe { s.me with stall := some (.result grp.toNat q.rr.toNat) })
        else .next ((finishScalar s i.c d q.last 0).logColl q.last)

/-- The LCNs of a group's own fields, in rising order (R425). -/
def State.chainLcns (s : State) (p : Part) (grp : Nat) : List Nat :=
  (List.range p.bound.length).filter fun l =>
    s.routers.any fun e => match Tbl.find? e.2.groups grp with
      | some x => x.own && x.olcn == l && decide (p.lead ≤ bandOf e.1) && decide (bandOf e.1 < p.lead + p.nb)
      | none => false

/-- CHAIN (R425, R426, R435). -/
def execChain (d a : Reg) (grp : BitVec 6) (s : State) : Out :=
  issueWord s noHints [a] [d] true false false fun i =>
    collWord s grp (some true) fun q =>
      let site := s.cur.1
      let g := grp.toNat
      match s.partAt site with
      | none => .next (s.trap causeIllegal 0)
      | some p =>
        let lcn := s.lcn site
        let l := s.chainLcns p g
        let first := !(l.any fun x => decide (x < lcn))
        let mine : CMsg := ⟨q.cr, i.c.vintage, [i.v 0], false, false, none, none⟩
        let total := if first then some mine
          else if q.tseen then some { mine with report := some ⟨true, 0, site⟩ }
          else (List.find? (fun (m : CMsg) => m.round == q.cr) q.preds).map fun m =>
            { (q.conf.join m mine) with vint := i.c.vintage }
        match total with
        | none =>
          let passing := ((s.chainBefore site g).map fun x => (s.core x).drained).getD false
          let w := if s.me.stall = some (.beat g) then q.wait.getD (Timer.start (s.timerClock p) passing) else Timer.start (s.timerClock p) passing
          .next ((s.setCport site g { q with wait := some w }).setMe { s.me with stall := some (.beat g) })
        | some m =>
          let v := m.words.headD 0
          let q1 := { q with
            cr := q.cr + 1, tseen := first && q.tseen, wait := none,
            preds := q.preds.filter fun b => b.round != q.cr }
          let s1 := ((finishScalar (s.setCport site g q1) i.c d v 0).useGroup i.c.vintage g).logColl v
          match List.find? (fun x => decide (lcn < x)) l with
          | none => .next (s1.sendUp q.root g 5 { m with routed := some (s.routedTo 2 0xFFFF lcn q.root) })
          | some next =>
            let at' := p.bound.getD next 0
            .next ((s1.toPort at' (tagBeat g) { m with routed := some (s.routedTo 2 next lcn at') }).due (.chainPartial at' g))

/-! ## Configuration (R437, R572) -/

/-- An operator by its code (R412). -/
def copOf : Nat → Option COp
  | 0 => some .add
  | 1 => some .max
  | 2 => some .min
  | 3 => some .and
  | 4 => some .or
  | 5 => some .xor
  | 6 => some .barrier
  | _ => none

/-- A type by its code. -/
def typeOf (n : Nat) : Option DType := (dtypeOf n).toOption

/-- The configuration of a group's header word, when it is legal (R437). -/
def confOf (w : Nat) : Option GConf :=
  match copOf (w % 8), typeOf (w / 2 ^ 3 % 32), typeOf (w / 2 ^ 8 % 32) with
  | some op, some ty, some oty =>
    let words := w / 2 ^ 13 % 16 + 1
    let chain := decide (w / 2 ^ 17 % 2 = 1)
    let isF := ty == .f32
    let tyOk := isF || ty == .i32 || ty == .n32 || ty == .i64 || ty == .n64
    let otyOk := if isF then oty == .f32 || oty == .f16 || oty == .bf16 || oty == .e4m3 || oty == .e5m2 else oty == ty
    let bitwise := op == .and || op == .or || op == .xor
    let ok := tyOk && otyOk && !(bitwise && isF) && !(op == .barrier && words != 1)
      && !(chain && (words != 1 || !(op == .add || op == .max || op == .min)))
      && decide (w / 2 ^ 18 % 2 ^ 14 = 0) && decide (w / 2 ^ 62 = 0)
    if ok then some ⟨op, ty, oty, words, chain, w / 2 ^ 32 % 2 ^ 16⟩ else none
  | _, _, _ => none

/-- A node entry's fields: site, parent, children, own, height, and whether its reserved bits are zero (R437). -/
structure GNode where
  site : Nat
  parent : Nat
  child : BitVec 4
  own : Bool
  ht : Nat
  ok : Bool
  deriving DecidableEq, Repr

/-- A node entry from its 64-bit word (R437). -/
def nodeOf (w : Nat) : GNode :=
  ⟨w % 2 ^ 14, w / 2 ^ 14 % 8, BitVec.ofNat 4 (w / 2 ^ 17), decide (w / 2 ^ 21 % 2 = 1), w / 2 ^ 24 % 2 ^ 8,
    decide (w / 2 ^ 22 % 4 = 0) && decide (w / 2 ^ 32 = 0)⟩

/-- The nodes of a subtree and its height, from a router down; no count where the links do not match. At most `fuel`
levels. -/
def subtree (nodes : Tbl GNode) : Nat → Nat → Option (Nat × Nat)
  | 0, _ => none
  | fuel + 1, site =>
    match Tbl.find? nodes site with
    | none => none
    | some x =>
      let kids := (List.range 4).filter fun i => x.child.getLsbD i
      let r := kids.foldl (fun (acc : Option (Nat × Nat)) i =>
        match acc, neighbour site i with
        | some (n, h), some k =>
          match Tbl.find? nodes k with
          | none => none
          | some y =>
            if y.parent = (i + 2) % 4 + 1 then
              (subtree nodes fuel k).map fun q => (n + q.1, max h (q.2 + 1))
            else none
        | _, _ => none) (some (1, 0))
      match r with
      | some (n, h) => if x.ht = min 255 h then some (n, h) else none
      | none => none

/-- The nodes of a list by site; none when a site appears twice. -/
def nodeTable : List GNode → Option (Tbl GNode)
  | [] => some []
  | x :: t =>
    match nodeTable t with
    | none => none
    | some m => if (Tbl.find? m x.site).isSome then none else some (Tbl.put m x.site x)

/-- The root of a legal tree of a partition's routers (R437). -/
def treeRoot (p : Part) (nodes : Tbl GNode) : Option Nat :=
  let legal := nodes.all fun e =>
    e.2.ok && decide (e.1 < 9120) && decide (p.lead ≤ bandOf e.1) && decide (bandOf e.1 < p.lead + p.nb)
      && decide (e.2.parent ≤ 4) && (!e.2.own || p.bound.contains e.1)
  match nodes.filter fun e => e.2.parent == 0 with
  | [(r, _)] =>
    match subtree nodes (nodes.length + 1) r with
    | some (n, _) => if legal && n == nodes.length then some r else none
    | none => none
  | _ => none

/-- A router's new entry (R437): round 0 and no input. -/
def newEntry (p : Part) (conf : GConf) (root : Nat) (x : GNode) : GEntry where
  conf := conf
  parent := x.parent
  child := x.child
  own := x.own
  ht := x.ht
  olcn := if x.own then (indexOf p.bound x.site).getD 0xFFFF else 0xFFFF
  root := root
  round := 0
  inputs := []
  closed := false
  parked := []
  beats := []
  timer := ⟨0, none⟩

/-- The entries that a configuration writes. -/
def entriesOf (p : Part) (conf : GConf) (root : Nat) (nodes : Tbl GNode) : Tbl GEntry :=
  nodes.map fun e => (e.1, newEntry p conf root e.2)

/-- A core's port just configured (R437). -/
def newPort (site : Nat) (e : GEntry) : CPort where
  conf := e.conf
  own := e.own
  root := e.root
  osite := site
  cr := 0
  rr := 0
  rw := 0
  words := []
  wvint := 0
  rel := []
  out := []
  held := []
  preds := []
  tseen := false
  last := 0
  beats := []
  wait := none

/-- One router takes a configuration: its entry is written or cleared, its group's messages and its core's port are reset
(R437). -/
def State.configureAt (s : State) (site grp : Nat) (e : Option GEntry) : State :=
  let r := s.router site
  let r1 := { r with
    groups := match e with
      | some x => Tbl.put r.groups grp x
      | none => Tbl.del r.groups grp,
    colUp := r.colUp.filter fun m => m.1 != grp, colDown := r.colDown.filter fun m => m.1 != grp }
  let c := s.core site
  let ports : Tbl CPort := match e with
    | some x => if x.own then Tbl.put c.ports grp (newPort site x) else Tbl.del c.ports grp
    | none => Tbl.del c.ports grp
  let ins : List (Nat × CMsg) := c.colIn.filter fun m => m.1 % 64 != grp
  let s1 := if r1 = r then s else s.setRouter site r1
  if c.ports = ports ∧ c.colIn = ins then s1 else s1.setCore site { c with ports := ports, colIn := ins }

/-- The sites of a partition's bands. -/
def Part.sites (p : Part) : List Nat :=
  (List.range 76).flatMap fun y => (List.range (10 * p.nb)).map fun x => 120 * y + 10 * p.lead + x

/-- CCFG past its record. -/
def startConfig (s : State) (c : Ctx) (p : Part) (grp w0 : Nat) (rest nodes : List Byte) : Out :=
  let n := w0 / 2 ^ 48 % 2 ^ 14
  let list := (List.range n).map fun i => nodeOf (leNat ((nodes.drop (8 * i)).take 8))
  let plain := rest.all (· == 0) && decide (1 ≤ n) && decide (n ≤ 9120)
  match (if plain then confOf w0 else none), nodeTable list with
  | some conf, some tab =>
    match treeRoot p tab with
    | none => .next (s.trap causeIllegal 0)
    | some root =>
      let left := p.sites.filter fun x => !(s.router x).fenced
      let m : GroupMsg := ⟨grp, some conf, entriesOf p conf root tab, s.cur.1, s.cur.2, left⟩
      let s1 := (s.setPart p.lead { p with cfgs := p.cfgs ++ [m] }).setMe { c with hold := .ccfg }
      .next (s1.due (.groupConfiguration (left.headD s.cur.1)))
  | _, _ => .next (s.trap causeIllegal 0)

/-- CCFG (R411, R432, R437, R572): held until every router has answered. -/
def execCcfg (a : Reg) (grp : BitVec 6) (s : State) : Out :=
  issueWord s noHints [a] [] false true false fun i =>
    let at' : Addr := (i.v 0).setWidth 56
    match s.me.hold with
    | .ccfg => .next s
    | .ccfgDone => .next (s.setMe i.c.advance)
    | _ =>
      if 48 ≤ grp.toNat then .next (s.trap causeProt 0)
      else if !aligned at' 64 then .next (s.trap causeMisalign at')
      else
        match s.partAt s.cur.1 with
        | none => .next (s.trap causeIllegal 0)
        | some p =>
          withBytes s i.c 1 at' 64 [] fun h =>
            let w0 := leNat (h.take 8)
            let n := min 9120 (w0 / 2 ^ 48 % 2 ^ 14)
            withBytes s i.c 1200 (at' + 64) (8 * n) [] fun l =>
              startConfig s { s.me with stall := none } p grp.toNat w0 (h.drop 8) l

/-- GROUP_CONFIGURATION (R437, R572): a router takes a configuration and answers. -/
def execGroupConfiguration (site : Nat) (s : State) : Out :=
  match s.partAt site with
  | none => .next s
  | some p =>
    match List.find? (fun (m : GroupMsg) => m.left.contains site) p.cfgs with
    | none => .next s
    | some m =>
      let m1 := { m with left := m.left.filter (· != site) }
      let s1 := (s.setPart p.lead { p with cfgs := p.cfgs.map fun x => if x = m then m1 else x }).configureAt site m.grp
        (Tbl.find? m.nodes site)
      .next (match m1.left with
        | [] => s1.due (.groupConfigurationAnswer m.site)
        | x :: _ => s1.due (.groupConfiguration x))

/-- GROUP_CONFIGURATION_ANSWER (R437, R572): the last answer has reached the issuing router, and the CCFG completes. -/
def execGroupConfigurationAnswer (site : Nat) (s : State) : Out :=
  match s.partAt site with
  | none => .next s
  | some p =>
    match List.find? (fun (m : GroupMsg) => m.site == site && m.left.isEmpty) p.cfgs with
    | none => .next s
    | some m =>
      let s1 := s.setPart p.lead { p with cfgs := p.cfgs.filter fun x => x != m }
      .next (s1.updCtx site m.ctx fun c => match c.hold with
        | .ccfg => { c with hold := .ccfgDone }
        | _ => c)

/-! ## The standing tree (R411) and resets (R430) -/

/-- The Manhattan distance of two sites. -/
def siteDistance (a b : Nat) : Nat :=
  let d := fun (x y : Nat) => (x - y) + (y - x)
  d (a % 120) (b % 120) + d (a / 120) (b / 120)

/-- The root of the standing tree (R411). -/
def State.standingRoot (s : State) (p : Part) : Option Nat :=
  let mid := 120 * 38 + 10 * p.lead + 5 * p.nb
  (p.sites.filter fun x => !(s.router x).fenced).foldl (fun (b : Option Nat) x =>
    match b with
    | none => some x
    | some y => if siteDistance x mid < siteDistance y mid then some x else some y) none

/-- The distances of a breadth-first search over the routers of a partition, a level at a time (R411). -/
def State.levels (s : State) : Nat → Nat → List Nat → Tbl Nat → Tbl Nat
  | 0, _, _, d => d
  | fuel + 1, n, frontier, d =>
    let step := fun (acc : List Nat × Tbl Nat) (x : Nat) =>
      (List.range 4).foldl (fun (acc : List Nat × Tbl Nat) i =>
        match s.port x i with
        | none => acc
        | some y => if (Tbl.find? acc.2 y).isSome then acc else (acc.1 ++ [y], Tbl.put acc.2 y (n + 1))) acc
    let r := frontier.foldl step ([], d)
    if r.1.isEmpty then d else s.levels fuel (n + 1) r.1 r.2

/-- The parent port of a router other than the root: the first neighbour whose distance is one less (R411). -/
def State.parentPort (s : State) (d : Tbl Nat) (x : Nat) : Nat :=
  let n := Tbl.get 0 d x
  match (List.range 4).find? fun i => match s.port x i with
    | some y => Tbl.find? d y == some (n - 1)
    | none => false with
  | some i => i + 1
  | none => 0

/-- The nodes of the standing tree: routers whose subtree holds a job core, deepest first (R411). -/
def State.standingNodes (s : State) (p : Part) (root : Nat) : Tbl GNode :=
  let d := s.levels 9120 0 [root] [(root, 0)]
  let order := (List.range 9120).reverse.flatMap fun n => if d.any (fun e => e.2 == n) then (d.filter fun e => e.2 == n).map (·.1) else []
  order.foldl (fun (acc : Tbl GNode) x =>
    let own := p.bound.contains x
    match Tbl.find? acc x with
    | none => if own then grow acc d ⟨x, s.parentPort d x, 0, true, 0, true⟩ root else acc
    | some y => grow acc d { y with own := own, parent := if x = root then 0 else s.parentPort d x } root) []
where
  /-- Put a node, and note it at its parent. -/
  grow (acc : Tbl GNode) (_d : Tbl Nat) (y : GNode) (root : Nat) : Tbl GNode :=
    let y1 := if y.site = root then { y with parent := 0 } else y
    let acc1 := Tbl.put acc y.site y1
    match (if y1.parent = 0 then none else neighbour y.site (y1.parent - 1)) with
    | none => acc1
    | some up =>
      let u := Tbl.get ⟨up, 0, 0, false, 0, true⟩ acc1 up
      let bit : BitVec 4 := 1 <<< ((y1.parent - 1 + 2) % 4)
      Tbl.put acc1 up { u with child := u.child ||| bit, ht := max u.ht (min 255 (y1.ht + 1)) }

/-- The configuration of g0 and of g1 (R411). -/
def confG0 : GConf := ⟨.add, .f32, .f32, 8, false, 0⟩
def confG1 : GConf := ⟨.barrier, .n64, .n64, 1, false, 0⟩

/-- Write a group's entries at every router of a partition at once, as the supervisor does at configuration (R411). -/
def State.layGroup (s : State) (p : Part) (grp : Nat) (entries : Tbl GEntry) : State :=
  p.sites.foldl (fun t x => t.configureAt x grp (Tbl.find? entries x)) s

/-- The standing groups of a partition (R411). -/
def State.standingGroups (s : State) (p : Part) : State :=
  match s.standingRoot p with
  | none => s
  | some root =>
    let nodes := s.standingNodes p root
    (s.layGroup p 0 (entriesOf p confG0 root nodes)).layGroup p 1 (entriesOf p confG1 root nodes)

/-- A port as a reset of its group leaves it (R430): its configuration, its osite and its last status stay. -/
def CPort.reset (q : CPort) : CPort :=
  { q with cr := 0, rr := 0, rw := 0, words := [], rel := [], out := [], held := [], preds := [], tseen := false, beats := [], wait := none }

/-- Reset a group at a router and at its core's port, the configuration kept (R430). -/
def State.resetGroupAt (s : State) (site grp : Nat) : State :=
  let r := s.router site
  let r1 := { r with
    groups := match Tbl.find? r.groups grp with
      | some e => Tbl.put r.groups grp { e with round := 0, inputs := [], closed := false, parked := [], beats := [], timer := ⟨0, none⟩ }
      | none => r.groups,
    colUp := r.colUp.filter fun m => m.1 != grp, colDown := r.colDown.filter fun m => m.1 != grp }
  let c := s.core site
  let ports : Tbl CPort := match Tbl.find? c.ports grp with
    | some q => Tbl.put c.ports grp q.reset
    | none => c.ports
  let ins : List (Nat × CMsg) := c.colIn.filter fun m => m.1 % 64 != grp
  let s1 := if r1 = r then s else s.setRouter site r1
  if c.ports = ports ∧ c.colIn = ins then s1 else s1.setCore site { c with ports := ports, colIn := ins }

/-- Whether a group holds anything of a vintage at a site (R430). -/
def State.groupHolds (s : State) (site grp : Nat) (v : BitVec 32) : Bool :=
  let r := s.router site
  (match Tbl.find? r.groups grp with
    | some e => e.inputs.any (fun m => m.2.vint == v) || e.parked.any (fun m => m.2.vint == v) || e.beats.any fun m => m.vint == v
    | none => false)
  || r.colUp.any (fun m => m.1 == grp && m.2.2.vint == v) || r.colDown.any (fun m => m.1 == grp && m.2.vint == v)
  || (s.core site).colIn.any (fun m => m.1 % 64 == grp && m.2.vint == v)
  || (match s.cport site grp with
    | some q => (!q.words.isEmpty && q.wvint == v) || q.out.any (fun m => m.1.vint == v) || q.held.any (fun m => m.vint == v) || q.preds.any (fun m => m.vint == v)
        || q.beats.any fun m => m.vint == v
    | none => false)

/-- The resets of a kill: every program group that holds anything of a vintage, at every router and port (R430). -/
def State.resetGroups (s : State) (p : Part) (v : BitVec 32) : State :=
  (List.range 48).foldl (fun t g =>
    if p.sites.any fun x => t.groupHolds x g v then p.sites.foldl (fun u x => u.resetGroupAt x g) t else t) s

end Sys2Proof.Machine
end

