-- ==== Sys2Proof/Machine/Numbering.lean ====
section
/-!
DEFINITION. The roles of a band's sites (R9), the numbering walk (R405) and the ring of a partition (R408, R409).
-/

namespace Sys2Proof.Machine

open Sys2Proof

/-! ## The walk (R405) -/

/-- The sign of an integer. -/
def sgn (a : Int) : Int := if 0 < a then 1 else if a < 0 then -1 else 0

/-- The cells of a line of n cells. -/
def lineCells : Nat → Int → Int → Int → Int → List (Int × Int)
  | 0, _, _, _, _ => []
  | n + 1, x, y, dx, dy => (x, y) :: lineCells n (x + dx) (y + dy) dx dy

/-- The generalised Hilbert walk, its depth bounded by fuel. -/
def hilbert : Nat → Int → Int → Int → Int → Int → Int → List (Int × Int)
  | 0, _, _, _, _, _, _ => []
  | n + 1, x, y, ax, ay, bx, by' =>
    let w := (ax + ay).natAbs
    let h := (bx + by').natAbs
    let dax := sgn ax
    let day := sgn ay
    let dbx := sgn bx
    let dby := sgn by'
    if h = 1 then lineCells w x y dax day
    else if w = 1 then lineCells h x y dbx dby
    else
      let ax2 := ax.fdiv 2
      let ay2 := ay.fdiv 2
      let bx2 := bx.fdiv 2
      let by2 := by'.fdiv 2
      let w2 := (ax2 + ay2).natAbs
      let h2 := (bx2 + by2).natAbs
      if 2 * w > 3 * h then
        let odd := w2 % 2 = 1 ∧ w > 2
        let ax2 := if odd then ax2 + dax else ax2
        let ay2 := if odd then ay2 + day else ay2
        hilbert n x y ax2 ay2 bx by' ++ hilbert n (x + ax2) (y + ay2) (ax - ax2) (ay - ay2) bx by'
      else
        let odd := h2 % 2 = 1 ∧ h > 2
        let bx2 := if odd then bx2 + dbx else bx2
        let by2 := if odd then by2 + dby else by2
        hilbert n x y bx2 by2 ax2 ay2 ++ hilbert n (x + bx2) (y + by2) ax ay (bx - bx2) (by' - by2)
          ++ hilbert n (x + (ax - dax) + (bx2 - dbx)) (y + (ay - day) + (by2 - dby)) (-bx2) (-by2) (-(ax - ax2)) (-(ay - ay2))

/-- The sites of a rectangle of nb bands from band lead on, in the order of the walk. -/
def walkSites (lead nb : Nat) : List Nat :=
  let wd : Int := 10 * nb
  let cells := if 76 ≤ wd then hilbert 24 0 0 wd 0 0 76 else hilbert 24 0 0 0 76 wd 0
  cells.map fun c => 120 * c.2.toNat + 10 * lead + c.1.toNat

/-! ## Roles (R9) -/

/-- Whether a site is live and not fenced. -/
def State.usable (s : State) (site : Nat) : Bool := !(s.core site).dead && !(s.core site).fenced && !(s.router site).fenced

/-- The supervisor of a band: of its sites that can take a role, the one with the lowest number. -/
def roleSup (ok : Nat → Bool) (b : Nat) : Nat := ((bandSites b).filter ok).headD (10 * b)

/-- The job cores of a band over the sites that can take a role. -/
def roleJobs (code : OrderingCode) (ok : Nat → Bool) (b : Nat) : List Nat :=
  let l := (walkSites b 1).filter fun x => ok x && x != roleSup ok b
  let j := jobCoresPerBand code
  if l.length ≤ j then l
  else
    let v := l.length - j
    (l.zipIdx.filter fun e => (e.2 + 1) * v / l.length == e.2 * v / l.length).map (·.1)

/-- The supervisor and the job cores of a band that no partition holds, as they were last assigned: what happens to a site since
then changes no role (R9). -/
def State.bandRoles (s : State) (b : Nat) : Nat × List Nat :=
  match (s.band b).roles with
  | .given out =>
    let ok := fun (x : Nat) => !out.contains x
    (roleSup ok b, roleJobs s.module.code ok b)
  | .kept sup jobs => (sup, jobs)

/-- The sites of a band that are dead or fenced now. -/
def State.outsOf (s : State) (b : Nat) : List Nat :=
  ((s.cores.filter fun e => bandOf e.1 == b && (e.2.dead || e.2.fenced)).map (·.1))
    ++ ((s.routers.filter fun e => bandOf e.1 == b && e.2.fenced).map (·.1))

/-- The roles of every band that no partition holds are assigned at a bring-up (R9). -/
def State.assignRoles (s : State) : State :=
  (List.range 12).foldl (fun t b =>
    if (t.partOfBand b).isSome then t else t.setBand b { t.band b with roles := .given (t.outsOf b) }) s

/-- The job cores of a partition in the order of their LCNs (R405). -/
def State.jobSites (s : State) (lead nb : Nat) : List Nat :=
  let jobs := (List.range nb).flatMap fun k => roleJobs s.module.code s.usable (lead + k)
  (walkSites lead nb).filter jobs.contains

/-- The supervisors of a partition, from its lead band. -/
def State.supSites (s : State) (lead nb : Nat) : List Nat := (List.range nb).map fun k => roleSup s.usable (lead + k)

/-- Whether a site of a partition is a reserve (R9). -/
def State.isReserve (s : State) (p : Part) (site : Nat) : Bool :=
  s.usable site && !(s.core site).retired && !p.bound.contains site && !p.sups.contains site

/-! ## The ring (R408) -/

/-- The serpentine cycle of a partition's rectangle. -/
def serpentine (lead nb : Nat) : List Nat :=
  let x0 := 10 * lead
  let w := 10 * nb
  let row := fun (y : Nat) =>
    let l := (List.range (w - 1)).map fun i => 120 * y + x0 + 1 + i
    if y % 2 = 1 then l.reverse else l
  (List.range w).map (x0 + ·) ++ (List.range 75).flatMap (fun y => row (y + 1))
    ++ ((List.range 75).map fun i => 120 * (75 - i) + x0)

/-- A flit that shows the path from one site to another. -/
def probeFlit (dsite : Nat) : Flit :=
  { plane := .request, part := 0, dsite := dsite, dep := 0, sep := 0, inj := 0, vint := 0, seq := 0, ctx := 0, id := 0,
    tag := 0, len := 0, det := false, ddist := 0, park := false, last := 0, body := .void }

/-- The sites strictly between two on the path that a flit takes with no other traffic (R395, R397). -/
def State.pathTo (s : State) : Nat → Flit → Nat → Option Nat → Option (List Nat)
  | 0, _, _, _ => none
  | n + 1, f, site, inPort =>
    let up := [0, 1, 2, 3].filter fun d => (s.port site d).isSome
    match route f site inPort up up with
    | none => none
    | some (d, g) =>
      match s.port site d with
      | none => none
      | some x => if x = f.dsite then some [] else (s.pathTo n g x (some ((d + 2) % 4))).map (x :: ·)

/-- Whether a usable link joins two sites. -/
def State.linked (s : State) (a b : Nat) : Bool := [0, 1, 2, 3].any fun d => s.port a d == some b

/-- The relays that join consecutive entries of a list, each entry followed by those after it. -/
def State.joinRing (s : State) (p : Part) : List Nat → Option (List RingEntry)
  | a :: b :: t =>
    let e : RingEntry := ⟨a, indexOf p.bound a⟩
    let between := if s.linked a b then some [] else s.pathTo 20000 (probeFlit b) a none
    match between, s.joinRing p (b :: t) with
    | some l, some r => some (e :: (l.map fun x => ⟨x, none⟩) ++ r)
    | _, _ => none
  | _ => some []

/-- A list turned so that it begins with an element that satisfies a condition. -/
def rotateTo (f : RingEntry → Bool) (l : List RingEntry) : List RingEntry :=
  l.dropWhile (fun e => !f e) ++ l.takeWhile fun e => !f e

/-- The ring of a partition, unless it cannot be built within its bound. -/
def State.ringOf (s : State) (p : Part) : Option (List RingEntry) :=
  let entries := (serpentine p.lead p.nb).filter fun x => !(s.router x).fenced
  match s.joinRing p (entries ++ entries.take 1) with
  | some r => if r.length ≤ 1520 * p.nb then some (rotateTo (fun e => e.lcn == some 0) r) else none
  | none => none

/-- Whether a ring is a Hamiltonian cycle of the job cores (R408, R409). -/
def ringHamiltonian (p : Part) (r : List RingEntry) : Bool := r.length == p.bound.length && r.all fun e => e.lcn.isSome

/-- The order in which the ring visits the job cores of a partition (R408, R410). -/
def Part.visits (p : Part) : List Nat :=
  let l := p.ring.filterMap fun e => if e.lcn.isSome then some e.site else none
  if l.isEmpty then p.bound else l

/-- The bytes of the ring table (R409). -/
def Part.ringBytes (p : Part) : List Byte :=
  leBytes 8 (p.ring.length % 65536 + (if ringHamiltonian p p.ring then 65536 else 0))
    ++ p.ring.flatMap fun e =>
      leBytes 8 (e.site + (if e.lcn.isSome then 2 ^ 14 else 0) + 65536 * e.lcn.getD 0xFFFF)

end Sys2Proof.Machine
end

