-- ==== Sys2Proof/Machine/Passes.lean ====
section
/-!
DEFINITION. The queue of scan passes (R496, R497): rotations, expedited passes, and the start of a pass.
-/

namespace Sys2Proof.Machine

open Sys2Proof

/-- The rotation that a site belongs to: its LCN's district, or 1,024 and its band's place in the partition for a supervisor or
reserve (R497). -/
def State.rotaOf (s : State) (p : Part) (site : Nat) : Nat :=
  match s.lcnOf site with
  | some l => l / 64
  | none => 1024 + (bandOf site - p.lead)

/-- The passes that a rotation's group runs at once (R497). -/
def rotaLimit (key : Nat) : Nat := if key < 1024 then 4 else 1

/-- A rotation of a partition. -/
def Part.rota (p : Part) (key : Nat) : Rota := Tbl.get Rota.new p.rotas key

/-- A pass begins (R496 step 1): the core is drained and takes a boundary, or is scanned at once when nothing keeps it. -/
def State.beginPass (s : State) (site : Nat) : State :=
  let s1 := (s.holdTimers site).updCore site fun c => { c with drained := true }
  match s1.keepAt site with
  | some (p, ep, _) => (s1.updKeep p.lead ep fun k => { k with want := true }).due (.checkpointBoundary site)
  | none => s1.later (.scanPass site)

/-- Queued passes begin while the limit allows. -/
def State.startPasses (s : State) (lead key : Nat) : State :=
  match s.part? lead with
  | none => s
  | some p =>
    let r := p.rota key
    let n := rotaLimit key - r.passing.length
    let go := r.queue.take n
    if go.isEmpty then s
    else
      let r1 := { r with queue := r.queue.drop n, passing := r.passing ++ go }
      go.foldl State.beginPass (s.setPart lead { p with rotas := Tbl.put p.rotas key r1 })

/-- Ask for an expedited pass of a core, at the tail or at the head (R482, R497). -/
def State.requestPass (s : State) (site : Nat) (head : Bool) : State :=
  match s.partAt site with
  | none => s
  | some p =>
    let key := s.rotaOf p site
    let r := p.rota key
    if r.queue.contains site || r.passing.contains site || (s.core site).retired then s
    else
      let r1 := { r with queue := if head then site :: r.queue else r.queue ++ [site] }
      (s.setPart p.lead { p with rotas := Tbl.put p.rotas key r1 }).startPasses p.lead key

/-- A pass of a core is over: its place is free, and the next ones begin. -/
def State.endPass (s0 : State) (site : Nat) : State :=
  let s := s0.freeTimers site
  match s.partAt site with
  | none =>
    let x := s.band (bandOf site)
    s.setBand (bandOf site) { x with rota := { x.rota with passing := x.rota.passing.filter (· != site), rot := none } }
  | some p =>
    let key := s.rotaOf p site
    let r := p.rota key
    let r1 := { r with passing := r.passing.filter (· != site), rot := if r.rot = some site then none else r.rot }
    (s.setPart p.lead { p with rotas := Tbl.put p.rotas key r1 }).startPasses p.lead key

/-- Whether a core is in a pass. -/
def State.inPass (s : State) (site : Nat) : Bool :=
  match s.partAt site with
  | none => (s.band (bandOf site)).rota.passing.contains site
  | some p => (p.rota (s.rotaOf p site)).passing.contains site

/-- The cores of a rotation in its order (R497). -/
def State.rotaSites (s : State) (p : Part) (key : Nat) : List Nat :=
  if key < 1024 then (p.bound.drop (64 * key)).take 64
  else (bandSites (p.lead + (key - 1024))).filter fun x => p.sups.contains x || s.isReserve p x

/-- The supervisor and the reserves of a band that no partition holds (R9, R10). -/
def State.spareSites (s : State) (b : Nat) : List Nat :=
  let jobs := (s.bandRoles b).2
  (bandSites b).filter fun x => s.usable x && !(s.core x).retired && !jobs.contains x

/-- The next core of a rotation over some sites, in their order from the place it has come to: one that neither waits for a pass
nor is in one. -/
def State.nextOf (s : State) (r : Rota) (sites : List Nat) : Option Nat :=
  let at' := r.next % sites.length
  let order := sites.drop at' ++ sites.take at'
  List.find? (fun x => !r.queue.contains x && !r.passing.contains x && !(s.core x).paused) order

/-- Whether a pass of a core is the first of a rotation. -/
def Rota.begins (r : Rota) (sites : List Nat) (x : Nat) : Bool :=
  let at' := r.next % sites.length
  at' == 0 || decide ((indexOf sites x).getD 0 < at')

/-- The fabric cycles of 1.2 ms (R497). -/
def rotationLimit : Nat := 1680000

/-- A rotation that took longer than 1.2 ms is reported with its delay when the next begins (R497). -/
def State.reportRotation (s : State) (part key : Nat) (r : Rota) (sites : List Nat) (x : Nat) : State :=
  match r.begun with
  | some t =>
    if r.begins sites x ∧ rotationLimit < s.module.fc - t then s.notice (.slowRotation part key (s.module.fc - t - rotationLimit)) else s
  | none => s

/-- A rotation that has come to a core. -/
def Rota.turn (r : Rota) (now : Nat) (sites : List Nat) (x : Nat) : Rota :=
  { r with begun := if r.begins sites x then some now else r.begun, next := ((indexOf sites x).getD 0 + 1) % sites.length, rot := some x, passing := r.passing ++ [x] }

/-- At the first core of a rotation the corrected errors of its cores count anew (R490). -/
def State.countAnew (s : State) (r : Rota) (sites : List Nat) (x : Nat) : State :=
  if r.begins sites x then
    sites.foldl (fun t y => if (s.core y).corr = 0 then t else t.updCore y fun c => { c with corr := 0 }) s
  else s

/-- ROTATION_PASS (R10, R490, R497): the next pass of a rotation, when none of its passes is under way and the limit allows; a
core that is queued or passing is left out. Corrected errors count anew in each rotation. Without a partition, the number is that
of an unassigned band, whose supervisor and reserves rotate. -/
def execRotationPass (part dist : Nat) (s : State) : Out :=
  match s.part? part with
  | none =>
    let r := (s.band part).rota
    let sites := s.spareSites part
    if 12 ≤ part ∨ (s.partOfBand part).isSome ∨ !r.passing.isEmpty ∨ sites.isEmpty then .next s
    else
      match s.nextOf r sites with
      | none => .next s
      | some x =>
        let s1 := (s.reportRotation part 0 r sites x).countAnew r sites x
        .next ((s1.setBand part { s1.band part with rota := r.turn s.module.fc sites x }).beginPass x)
  | some p =>
    let r := p.rota dist
    let sites := s.rotaSites p dist
    if r.rot.isSome ∨ rotaLimit dist ≤ r.passing.length ∨ sites.isEmpty then .next s
    else
      match s.nextOf r sites with
      | none => .next s
      | some x =>
        let s1 := (s.reportRotation part dist r sites x).countAnew r sites x
        .next ((s1.updPart part fun q => { q with rotas := Tbl.put q.rotas dist (r.turn s.module.fc sites x) }).beginPass x)

/-- The reply context of cellar traffic (R398). -/
def replyCellar : Nat := 11

/-- An acknowledgement of cellar traffic (R477, R485): the records sent leave the staging store, or a flit of the copy is
safe. Answers of a host that was left count for nothing. -/
def State.ackCellar (s : State) (site : Nat) (f : Flit) : State :=
  match s.keepAt site with
  | none => s
  | some (p, ep, k) =>
    if k.host.map (·.1) ≠ some f.tag then s
    else
      let s1 := if f.id = 0 then
          (s.updCore site fun c => { c with log := c.log.drop k.sent }).updKeep p.lead ep fun q => { q with sent := 0 }
        else s.updKeep p.lead ep fun q => { q with out := q.out - 1 }
      (s1.later (.cellarCopy site)).later (.intervalClose site)

end Sys2Proof.Machine
end

