-- ==== Sys2Proof/Machine/Ends.lean ====
section
/-!
DEFINITION. How a launch ends: done waves (R232-R234), gating waves (R452), the ends of fault domains (R254), the kill and
its drain wave (R264-R267, R571), the completion record (R530, R531) and the release of locks (R448).
-/

namespace Sys2Proof.Machine

open Sys2Proof

/-! ## Helpers -/

/-- The element after a given one in a list. -/
def nextAfter : List Nat → Nat → Option Nat
  | a :: b :: t, x => if a = x then some b else nextAfter (b :: t) x
  | _, _ => none

/-- The sessions of a broadcast that visits a list: the event for the element after one, if any. -/
def State.onward (s : State) (l : List Nat) (x : Nat) (f : Nat → State → State) : State :=
  match nextAfter l x with
  | some y => f y s
  | none => s

/-- Note the state of a vintage; the 4,096 most recently assigned are kept (R469). -/
def Part.setVState (p : Part) (v : BitVec 32) (x : VState) : Part :=
  let l := if p.vstates.any fun e => e.1 == v then p.vstates.map fun e => if e.1 = v then (v, x) else e else p.vstates ++ [(v, x)]
  { p with vstates := l.drop (l.length - 4096) }

/-- Bytes written at home at once as committed data, within one granule (R464, R530). -/
def State.committedWrite (s : State) (p : Part) (ppa : Nat) (data : List Byte) : State :=
  (linePieces 8 ppa data).foldl (fun t e => (t.mergeLine p e.1).homeWriteLine p e.1 e.2.1 e.2.2) s

/-- The time of the partition's lead band (R533). -/
def State.partNs (s : State) (lead : Nat) : Nat := s.bandNs lead

/-! ## The completion record (R530, R531) -/

/-- The words of a completion record. -/
def recordWords (late : Bool) (outcome queue : Nat) (v status : BitVec 32) (flog : Option Nat) (tag : Word)
    (tadmit tstart tend addr : Nat) : List Word :=
  [BitVec.ofNat 64 (1 + (if late then 2 else 0) + 16 * outcome + 256 * queue + 2 ^ 32 * v.toNat),
   BitVec.ofNat 64 (status.toNat + 2 ^ 32 * flog.getD 0 + (if flog.isSome then 2 ^ 40 else 0)),
   tag, timeWord tadmit, timeWord tstart, timeWord tend, BitVec.ofNat 64 addr, 0]

/-- The status of a record: the launch's, ABORT's or the fault's; for the other outcomes the spec states none, and it is
free. -/
def State.recordStatus (s : State) (outcome : Nat) (st : BitVec 32) : BitVec 32 :=
  if outcome = 0 ∨ outcome = 3 ∨ outcome = 5 then st else Config.freeBits 32 s.tick

/-- The message of a completion (R531). -/
def messageBytes (lead queue outcome : Nat) (cmd : Cmd) (v status : BitVec 32) : List Byte :=
  leBytes 8 (1 + 256 * lead + 4096 * queue + 65536 * outcome + 2 ^ 32 * cmd.sub.toNat) ++ leBytes 8 cmd.cmpl
    ++ leBytes 8 cmd.tag.toNat ++ leBytes 8 (v.toNat + 2 ^ 32 * status.toNat)

/-- Write a command's completion record as one 64-byte write, and queue its message (R530, R531). -/
def State.writeRecord (s : State) (lead : Nat) (cmd : Cmd) (words : List Word) (queue outcome : Nat) (v status : BitVec 32) :
    State :=
  match s.part? lead with
  | none => s
  | some p =>
    let s1 := s.committedWrite p cmd.cmpl (words.flatMap fun w => leBytes 8 w.toNat)
    if cmd.msg then
      (s1.updPart lead fun q => { q with messages := q.messages ++ [(cmd.port, messageBytes lead queue outcome cmd v status)] }).later
        (.completionMessage lead)
    else s1

/-- The record of a command that ends without having been admitted, with its addr field (R519, R529, R536). -/
def State.endCommandAt (s : State) (lead queue outcome : Nat) (cmd : Cmd) (v : BitVec 32) (addr : Nat) : State :=
  let st := s.recordStatus outcome 0
  s.writeRecord lead cmd (recordWords false outcome queue v st none cmd.tag 0 0 0 addr) queue outcome v st

/-- The record of a command that ends without having been admitted (R529, R536). -/
def State.endCommand (s : State) (lead queue outcome : Nat) (cmd : Cmd) (v : BitVec 32) : State :=
  s.endCommandAt lead queue outcome cmd v 0

/-- What the cores keep of a launch goes with it (R177). -/
def Core.forget (c : Core) (v : BitVec 32) : Core :=
  { c with
    bufs := Tbl.del c.bufs v.toNat, pats := Tbl.del c.pats v.toNat, shapes := Tbl.del c.shapes v.toNat,
    tally := Tbl.del c.tally v.toNat, sync := c.sync.filter fun b => b.vint != v,
    xlat := c.xlat.filter (fun x => x.vint != v), cache := c.cache.filter (fun l => l.vint != v),
    rels := forgetReleases v c.rels }

/-- Change every core bound to an LCN that differs from the reset one. -/
def State.updCores (s : State) (p : Part) (f : Core → Core) : State :=
  p.bound.foldl (fun t site => if (Tbl.find? t.cores site).isSome then t.updCore site f else t) s

/-- A launch's record is written, its completion group freed, and the release of its locks begins (R448, R455, R458). -/
def State.finishLaunch (s : State) (lead : Nat) (v : BitVec 32) (outcome : Nat) (status : BitVec 32) (addr : Nat)
    (relaunch : Bool) : State :=
  match s.part? lead with
  | none => s
  | some p =>
    match p.launch? v with
    | none => s
    | some l =>
      let now := s.partNs lead
      let st := s.recordStatus outcome status
      let words := recordWords l.late outcome l.queue v st l.flog l.cmd.tag l.tadmit l.tstart now addr
      let s1 := if relaunch then s else s.writeRecord lead l.cmd words l.queue outcome v st
      let s2 := match l.grp with
        | some g => s1.layGroup p g []
        | none => s1
      let past := fun (k : Launch) =>
        { k with phase := .unlocking, grp := none, todo := List.range p.slots, acks := List.range p.slots }
      let back := fun (q : LQueue) => { q with cmds := { l.cmd with keptDeadline := l.deadlineAt } :: q.cmds }
      let s3 := s2.updPart lead fun q =>
        let q1 := (q.updLaunch v past).setVState v (if relaunch then .relaunched else if outcome = 0 then .committed else .ended)
        if relaunch then { q1 with queues := q1.queues.modify l.queue back } else q1
      let s4 := s3.updCores p fun c => c.forget v
      (s4.due (.unlock lead 0 v.toNat)).examine lead

/-- UNLOCK (R448): a slot controller releases a launch's locks. -/
def execUnlock (part slot v : Nat) (s : State) : Out :=
  match s.part? part with
  | none => .next s
  | some p =>
    match p.launch? (BitVec.ofNat 32 v) with
    | some l =>
      if l.phase ≠ .unlocking ∨ !l.todo.contains slot then .next s
      else
        let ch := p.chanOf slot
        let r := s.rim ch
        let s1 := if r.locks.isEmpty then s
          else s.setRim ch { r with locks := r.locks.filter fun k => k.vint != l.vint }
        let s2 := s1.updPart part fun q => q.updLaunch l.vint fun k => { k with todo := k.todo.erase slot }
        .next ((s2.due (.unlockAck part slot v)).onward (List.range p.slots) slot fun y t => t.due (.unlock part y v))
    | none => .next s

/-- UNLOCK_ACK (R448): with the last one the launch is gone. -/
def execUnlockAck (part slot v : Nat) (s : State) : Out :=
  match s.part? part with
  | none => .next s
  | some p =>
    match p.launch? (BitVec.ofNat 32 v) with
    | some l =>
      if l.phase ≠ .unlocking ∨ l.todo.contains slot ∨ !l.acks.contains slot then .next s
      else
        let left := l.acks.erase slot
        if left.isEmpty then
          .next (s.setPart part { p with launches := p.launches.filter fun k => k.vint != l.vint })
        else .next (s.setPart part (p.updLaunch l.vint fun k => { k with acks := left }))
    | none => .next s

/-- COMPLETION_MESSAGE (R531): on the port that submitted the command, or on the other one when that link is down. -/
def execCompletionMessage (part : Nat) (s : State) : Out :=
  match s.part? part with
  | none => .next s
  | some p =>
    match p.messages with
    | [] => .next s
    | (port, bytes) :: rest =>
      let m := s.module
      let first := match port with
        | .sclB => m.upB
        | _ => m.upA
      let other := match port with
        | .sclB => m.upA
        | _ => m.upB
      let mate : Requester := if port = .sclB then .sclA else .sclB
      if !first && !other then .next s
      else
        let out := (if first then port else mate, bytes)
        let s1 := { s with module := { m with messages := m.messages ++ [out] } }
        let s2 := s1.setPart part { p with messages := rest }
        .next (if rest.isEmpty then s2 else s2.later (.completionMessage part))

/-- Whether a core is stopped by an error or replaying, so that it takes no message of a launch (R267, R493). -/
def State.halted (s : State) (site : Nat) : Bool := (s.core site).stopped || (s.core site).replaying

/-! ## Done waves (R232-R234) -/

/-- A done wave starts (R234). -/
def State.startWave (s : State) (p : Part) (v : BitVec 32) : State :=
  let out := fun (l : Launch) => { l with waveOut := true, todo := p.bound, acks := p.bound, answers := [] }
  (s.updPart p.lead fun q => q.updLaunch v out).due (.doneWave (p.bound.headD 0) v.toNat)

/-- Whether every write of a launch that a core issued is performed (R234). -/
def Core.writesDone (c : Core) (v : BitVec 32) : Bool :=
  (List.range 8).all (fun n =>
    let x := c.ctx n
    x.vintage != v || x.ops.all fun o => !o.isWrite)
  && c.wq.all (fun e => e.vint != v) && c.decrs.all (fun e => e.2.vint != v) && c.starts.all (fun e => e.2 != v)
  && c.vq.all (fun e => e.vint != v)
  && c.xfers.all fun e => e.2.vint != v

/-- DONE_WAVE (R234): a core answers with its counts once the launch's writes issued on it are performed. -/
def execDoneWave (site v : Nat) (s : State) : Out :=
  let vint := BitVec.ofNat 32 v
  match s.partAt site with
  | none => .next s
  | some p =>
    match p.launch? vint with
    | none => .next s
    | some l =>
      if l.phase ≠ .running ∨ !l.waveOut ∨ s.halted site then .next s
      else
        let c := s.core site
        let s1 := if l.todo.contains site && c.writesDone vint then
            let t := c.tallyOf vint
            let put := fun (k : Launch) => { k with todo := k.todo.erase site, answers := k.answers ++ [(site, t.made, t.ended, t.s)] }
            (s.setPart p.lead (p.updLaunch vint put)).due (.doneAnswer site v)
          else s
        .next (s1.onward p.bound site fun y t => if l.todo.contains y then t.due (.doneWave y v) else t)

/-- The totals of a wave: made with the seeds, ended, and the fold of the statuses (R232-R234). -/
def Launch.totals (l : Launch) : BitVec 32 × BitVec 32 × BitVec 32 :=
  l.answers.foldl (fun t a => (t.1 + a.2.1, t.2.1 + a.2.2.1, foldStatus t.2.2 a.2.2.2)) (BitVec.ofNat 32 l.seeds, 0, 0)

/-- A returned wave is judged at the root (R234): two consecutive ones with equal totals, made = ended in both, end the
launch's run and start its gating. -/
def State.judgeWave (s : State) (p : Part) (l : Launch) : State :=
  let t := l.totals
  let same : Bool := match l.lastTotals with
    | some u => u.1 == t.1 && u.2.1 == t.2.1
    | none => false
  if t.1 = t.2.1 ∧ same then
    let past := fun (k : Launch) =>
      { k with phase := .gating, status := t.2.2, waveOut := false, todo := [], acks := [], answers := [] }
    (s.updPart p.lead fun q => (q.updLaunch l.vint past).setVState l.vint .gating).due
      (.gatingWave (p.bound.headD 0) l.vint.toNat)
  else
    let s1 := s.updPart p.lead fun q => q.updLaunch l.vint fun k => { k with lastTotals := some t, waveOut := false, acks := [] }
    let moved := l.answers.any fun a =>
      let x := (s.core a.1).tallyOf l.vint
      x.made != a.2.1 || x.ended != a.2.2.1
    if t.1 = t.2.1 then s1.startWave p l.vint
    else if moved then s1.later (.doneWaveTimer p.lead l.vint.toNat) else s1

/-- DONE_ANSWER (R234): the answer of a core is summed up the completion tree; the last one is judged at the root. -/
def execDoneAnswer (site v : Nat) (s : State) : Out :=
  match s.partAt site with
  | none => .next s
  | some p =>
    match p.launch? (BitVec.ofNat 32 v) with
    | none => .next s
    | some l =>
      if l.phase ≠ .running ∨ !l.waveOut ∨ l.todo.contains site ∨ !l.acks.contains site then .next s
      else
        let left := l.acks.erase site
        let s1 := s.setPart p.lead (p.updLaunch l.vint fun k => { k with acks := left })
        .next (if left.isEmpty then s1.judgeWave p l else s1)

/-- DONE_WAVE_TIMER (R234): the next done wave of a running launch. -/
def execDoneWaveTimer (part v : Nat) (s : State) : Out :=
  match s.part? part with
  | none => .next s
  | some p =>
    match p.launch? (BitVec.ofNat 32 v) with
    | some l => .next (if l.phase = .running ∧ !l.waveOut then s.startWave p l.vint else s)
    | none => .next s

/-! ## Gating waves (R452) -/

/-- Whether a core has served a launch since its last pass, or adopted it with a restored list (R452, R493). -/
def Core.servedSince (c : Core) (v : BitVec 32) : Bool := c.prov.any fun e => e.1 == v && e.2 == c.pass
def Core.unscanned (c : Core) (v : BitVec 32) : Bool := c.servedSince v || c.adopted.contains v

/-- GATING_WAVE (R452): the first core starts the wave; a core that has served the launch since its last pass asks for a
closing scan, unless it has asked already, and answers 1. -/
def execGatingWave (site v : Nat) (s : State) : Out :=
  let vint := BitVec.ofNat 32 v
  match s.partAt site with
  | none => .next s
  | some p =>
    match p.launch? vint with
    | none => .next s
    | some l0 =>
      if l0.phase ≠ .gating then .next s
      else
        let l := if l0.acks.isEmpty then { l0 with todo := p.bound, acks := p.bound, answers := [] } else l0
        if !l.todo.contains site ∨ s.halted site then .next s
        else
          let c := s.core site
          let s1 := if c.servedSince vint && !c.scanAsked then (s.setCore site { c with scanAsked := true }).requestPass site false else s
          let l1 := { l with todo := l.todo.erase site, answers := l.answers ++ [(site, if c.unscanned vint then 1 else 0, 0, 0)] }
          let s2 := (s1.updPart p.lead fun q => q.updLaunch vint fun _ => l1).due (.gatingAnswer site v)
          .next (s2.onward p.bound site fun y t => t.due (.gatingWave y v))

/-- GATING_ANSWER (R452, R454): the answers are summed; a wave that returns 0 makes the launch ready. Otherwise a new wave starts, which
can differ once a core that answered 1 holds the launch no more: now, or when a pass has ended. -/
def execGatingAnswer (site v : Nat) (s : State) : Out :=
  match s.partAt site with
  | none => .next s
  | some p =>
    match p.launch? (BitVec.ofNat 32 v) with
    | none => .next s
    | some l =>
      if l.phase ≠ .gating ∨ l.todo.contains site ∨ !l.acks.contains site then .next s
      else
        let left := l.acks.erase site
        if !left.isEmpty then .next (s.setPart p.lead (p.updLaunch l.vint fun k => { k with acks := left }))
        else if l.answers.all fun a => a.2.1 == 0 then
          let past := fun (k : Launch) => { k with phase := .ready, acks := [], answers := [], readyAt := s.module.fc }
          .next ((s.setPart p.lead ((p.updLaunch l.vint past).setVState l.vint .ready)).later (.commitStart p.lead))
        else
          let s1 := s.setPart p.lead (p.updLaunch l.vint fun k => { k with acks := [], answers := [] })
          let past := l.answers.any fun a => a.2.1 == 1 && !(s.core a.1).unscanned l.vint
          .next (if past then s1.due (.gatingWave (p.bound.headD 0) v) else s1)

/-! ## Stopping tasks (R254, R265) -/

/-- The running tile commands of a context that stops run to the end of their current rank-1 update, or row (R265, R322, R323):
how far they have come is open, but for one that has no grant, is held back or sends its rows elsewhere. -/
def State.haltTiles (s : State) (site n : Nat) : State :=
  let free := (Config.freeBits 64 s.tick).toNat
  let run := fun (u : State) (k : Nat) => match (u.core site).tq[k]? with
    | some t =>
      if t.ctx != n || t.held.isSome || t.state != .running || u.heldBack site k t then u
      else
        let part := free / 2 ^ (16 * t.fn.unit) % 2 ^ 16
        match t.fn with
        | .mma | .mmcx | .mconv => u.putTile site t (t.sumsUpTo u site (64 * t.step + part % (64 * (t.steps u site - t.step) + 1)))
        | _ => u.runSteps site t (u.stoppedAt site k t part)
    | none => u
  (List.range (s.core site).tq.length).foldl run s

/-- A context stops at its word boundary (R145, R265): no trap; its queued vector and tile work goes, its running tile commands end
with their current update, its tiles are freed and its streams end. -/
def State.stopCtx (s0 : State) (site n : Nat) : State :=
  let s := s0.haltTiles site n
  let mine := fun (t : TCmd) => t.ctx == n && t.held.isNone
  let lost := ((s.core site).tq.filter fun t => mine t && t.fn == .mwld && t.state == .running).map (·.w)
  let s1 := s.updCore site fun c =>
    { c with vq := c.vq.filter (fun e => e.ctx != n), wslots := lost.foldl (fun w k => w.setIfInBounds k none) c.wslots }
  let s2 := ((s1.updCtx site n Ctx.drainScalar).releaseTiles site n).endStreams site n
  s2.updCtx site n fun c => { c with occ := .stopped, hold := .none, stall := none, window := [], tl := 0,
                                     ops := c.ops.filter fun o => o.cnt != .tl }

/-- The held images of a core that satisfy a condition are discarded, and what they hold is released (R254, R261, R265). -/
def State.dropImages (s : State) (site : Nat) (p : Part) (f : Image → Bool) : State :=
  match s.lcnOf site with
  | none => s
  | some l =>
    let gone := (p.imagesOf l).filter fun i => i.held && f i
    if gone.isEmpty then s
    else
      let s1 := s.updPart p.lead fun q => { q with images := Tbl.put q.images l ((q.imagesOf l).filter fun i => !(i.held && f i)) }
      gone.foldl (fun t i => t.releaseImage site i) s1

/-! ## The end of a fault domain (R254) -/

/-- Whether a context only awaits the answer of its write-back (R214): its task runs no more, and its record operation decides how
it counts. -/
def Ctx.leaving (c : Ctx) : Bool :=
  match c.hold with
  | .writeback _ => true
  | _ => false

/-- The pool entries of ended domains of a launch whose hint is a core's LCN leave their pool for that core, which counts them
ended (R254). -/
def State.endEntries (s : State) (lead lcn site : Nat) (past : Carr → Bool) : State :=
  match s.part? lead with
  | none => s
  | some p =>
    let q := Tbl.get Pool.new p.pools (lcn / 64)
    let mine := fun (k : Carr) => k.r.hint.toNat == lcn && past k
    let gone := ((q.entries.map (·.carr)) ++ q.arriving ++ q.sent.map (·.2.carr)).filter mine
    if gone.isEmpty then s
    else
      let q1 := { q with
        entries := q.entries.filter fun e => !mine e.carr, arriving := q.arriving.filter fun k => !mine k,
        sent := q.sent.filter fun e => !mine e.2.carr }
      gone.foldl (fun t k => t.updCore site fun c => c.endedOne k.vint 0)
        (s.setPart lead { p with pools := Tbl.put p.pools (lcn / 64) q1 })

/-- DOMAIN_END (R254): the tasks of a launch whose domain has ended stop on a core, their copies are aborted and they are
counted ended; held images are discarded and counted ended, and so are the pool entries that the core's LCN is the hint of. A task
whose write-back is under way stops no more. -/
def execDomainEnd (site v : Nat) (s : State) : Out :=
  let vint := BitVec.ofNat 32 v
  match s.partAt site with
  | none => .next s
  | some p =>
    match p.launch? vint with
    | none => .next s
    | some l =>
      if !l.domTodo.contains site ∨ s.halted site then .next s
      else
        let past := fun (region : BitVec 32) => l.domains.contains (p.domainOf vint region)
        let mine := fun (c : Ctx) =>
          (c.occ == .running || c.occ == .staged) && !c.leaving && c.vintage == vint && past c.region
        let stop := fun (t : State) (n : Nat) =>
          if mine (t.ctx site n) then
            let ids := (t.core site).xfers.filter fun e => e.2.ctx == n && e.2.held.isNone && !e.2.detached && !e.2.aborted
            let t1 := ids.foldl (fun u e => u.abortXfer site e.1 e.2.id false) (t.stopCtx site n)
            t1.updCore site fun c => c.endedOne vint 0
          else t
        let s1 := (List.range 8).foldl stop s
        let img := fun (i : Image) => i.held && i.c.vintage == vint && past i.c.region
        let held := ((p.imagesOf (s.lcn site)).filter img)
        let s2 := held.foldl (fun t i =>
          let ids := (t.core site).xfers.filter fun e => e.2.held == some i.slot && !e.2.detached && !e.2.aborted
          (ids.foldl (fun u e => u.abortXfer site e.1 e.2.id false) t).updCore site fun c => c.endedOne vint 0) s1
        let beyond := fun (k : Carr) => k.vint == vint && past (k.r.region.setWidth 32)
        let s3 := (s2.dropImages site p img).endEntries p.lead (s.lcn site) site beyond
        let s4 := s3.updPart p.lead fun q => q.updLaunch vint fun k => { k with domTodo := k.domTodo.erase site }
        .next ((s4.later (.domainEndAck site v)).onward p.bound site fun y t => t.later (.domainEnd y v))

/-- DOMAIN_END_ACK (R254): a core acknowledges once the operations of the stopped contexts have come; these become idle. A kill of
the launch keeps them until its step 5 (R265). -/
def execDomainEndAck (site v : Nat) (s : State) : Out :=
  let vint := BitVec.ofNat 32 v
  match s.partAt site with
  | none => .next s
  | some p =>
    match p.launch? vint with
    | none => .next s
    | some l =>
      let c := s.core site
      let stopped := (List.range 8).filter fun n => (c.ctx n).occ == .stopped && (c.ctx n).vintage == vint
      if !l.places ∨ l.domTodo.contains site ∨ !l.domAcks.contains site ∨ stopped.any (fun n => (c.ctx n).ops.any fun o => o.cnt != .cp) then
        .next s
      else
        let free := fun (t : State) (n : Nat) => ((t.deliveryPoint site n).updCtx site n Ctx.leave).due (.poolPull site)
        let s1 := stopped.foldl free s
        let s2 := s1.updPart p.lead fun q => q.updLaunch vint fun k => { k with domAcks := k.domAcks.erase site }
        .next (s2.later (.doneWaveTimer p.lead v))

/-! ## The kill (R265) -/

/-- KILL_MESSAGE (R265, step 1): a core stops what it runs of the vintage; its images of it are discarded. -/
def execKillMessage (site v : Nat) (s : State) : Out :=
  let vint := BitVec.ofNat 32 v
  match s.partAt site with
  | none => .next s
  | some p =>
    match p.launch? vint with
    | none => .next s
    | some l =>
      if l.phase ≠ .kill1 ∨ !l.todo.contains site ∨ s.halted site then .next s
      else
        let c := s.core site
        let mine := (List.range 8).filter fun n => (c.ctx n).occ != .idle && (c.ctx n).vintage == vint
        let s1 := mine.foldl (fun t n => t.stopCtx site n) s
        let s2 := s1.dropImages site p fun i => i.c.vintage == vint
        let s3 := s2.updPart p.lead fun q => q.updLaunch vint fun k => { k with todo := k.todo.erase site }
        .next ((s3.due (.killAck site v)).onward p.bound site fun y t => t.due (.killMessage y v))

/-- KILL_ACK (R265): the last acknowledgement ends step 1; step 2 aborts every transfer of the vintage. -/
def execKillAck (site v : Nat) (s : State) : Out :=
  let vint := BitVec.ofNat 32 v
  match s.partAt site with
  | none => .next s
  | some p =>
    match p.launch? vint with
    | none => .next s
    | some l =>
      if l.phase ≠ .kill1 ∨ l.todo.contains site ∨ !l.acks.contains site then .next s
      else
        let left := l.acks.erase site
        if !left.isEmpty then .next (s.setPart p.lead (p.updLaunch vint fun k => { k with acks := left }))
        else
          let s1 := s.setPart p.lead (p.updLaunch vint fun k => { k with phase := .kill2, acks := [] })
          let s2 := p.bound.foldl (fun t x => t.abortVintage x vint) s1
          .next (s2.due (.drainWave (p.bound.headD 0) v))

/-- A flit of a killed vintage in a queue (R265, R571): made void, a carriage discarded. -/
def voidFlits (v : BitVec 32) (l : List Flit) : List Flit :=
  l.filterMap fun f =>
    if f.vint ≠ v then some f
    else
      match f.body with
      | .carriage _ => none
      | _ => some { f with body := .void }

/-- A router discards and voids a vintage's flits, and keeps the vintage in its discard table (R265, R266). -/
def Router.drain (r : Router) (v : BitVec 32) : Router :=
  { r with
    inReq := r.inReq.map (voidFlits v), inRep := r.inRep.map (voidFlits v), lost := voidFlits v r.lost,
    offCoreReq := voidFlits v r.offCoreReq, offCoreRep := voidFlits v r.offCoreRep,
    offRimReq := voidFlits v r.offRimReq, offRimRep := voidFlits v r.offRimRep,
    discard := (v :: r.discard.filter fun u => u != v).take 17 }

/-- An endpoint voids a vintage's flits in its input stores and counts none of them among those that await an answer
(R265, R571). -/
def Endpoint.drain (e : Endpoint) (v : BitVec 32) : Endpoint :=
  { e with
    await := e.await.filter fun x => x.1 / 65536 != v.toNat
    reqArr := voidFlits v e.reqArr, repArr := voidFlits v e.repArr, reqStore := voidFlits v e.reqStore,
    repStore := voidFlits v e.repStore, reqIn := voidFlits v e.reqIn, repIn := voidFlits v e.repIn }

/-- A core port discards the deliveries and unperformed writes of a vintage (R265). -/
def Core.drain (c : Core) (v : BitVec 32) : Core :=
  { c with
    deliv := c.deliv.filter (fun d => d.vint != v), wq := c.wq.filter (fun e => e.vint != v),
    waitReads := c.waitReads.filter (fun f => f.vint != v), lands := c.lands.filter (fun l => l.vint != v),
    opens := c.opens.filter (fun o => o.vint != v), decrs := c.decrs.filter (fun e => e.2.vint != v),
    starts := c.starts.filter (fun e => e.2 != v) }

/-- A slot controller discards the unperformed writes of a vintage (R265). -/
def Rim.drain (r : Rim) (v : BitVec 32) : Rim :=
  { r with waiting := r.waiting.filter (fun f => f.vint != v), lands := r.lands.filter (fun l => l.vint != v) }

/-- The rim endpoints of a partition whose port stands at a site. -/
def Part.rimEpsAt (p : Part) (site : Nat) : List Nat :=
  ((List.range p.slots).map (0x8000 + ·) ++ (List.range 24).map portEp).filter fun ep => p.siteOf ep == site

/-- The drain of everything at a site: router, core port, rim controllers, and the band's siding and pools at its first site. -/
def State.drainSite (s : State) (p : Part) (site : Nat) (v : BitVec 32) : State :=
  let s1 := s.setRouter site ((s.router site).drain v)
  let s2 := if (Tbl.find? s1.cores site).isSome then s1.updCore site fun c => c.drain v else s1
  let eps := p.rimEpsAt site ++ (match s.lcnOf site with
    | some l => [l]
    | none => [])
  let clean := fun (t : State) (ep : Nat) =>
    let t1 := t.updPart p.lead fun q => if (Tbl.find? q.eps ep).isSome then q.setEp ep ((q.ep ep).drain v) else q
    let t2 := if isSlot ep && (Tbl.find? t1.rims (p.chanOf (ep - 0x8000))).isSome then
        t1.setRim (p.chanOf (ep - 0x8000)) ((t1.rim (p.chanOf (ep - 0x8000))).drain v) else t1
    match t2.part? p.lead with
    | none => t2
    | some q =>
      let isVoid := fun (f : Flit) => match f.body with
        | .void => f.vint == v
        | _ => false
      let a := ((q.ep ep).reqIn.filter isVoid).foldl (fun u _ => u.due (.voidFlit .request p.lead ep)) t2
      ((q.ep ep).repIn.filter isVoid).foldl (fun u _ => u.due (.voidFlit .reply p.lead ep)) a
  let drop := fun (t : State) (ep : Nat) =>
    if isPortEp ep && !(t.link (ep - 0xC010)).held.isEmpty then
      let x := t.link (ep - 0xC010)
      t.setLink (ep - 0xC010) { x with held := x.held.filter fun h => h.flit.vint != v }
    else t
  let s3 := eps.foldl drop (eps.foldl clean s2)
  if site = 10 * bandOf site then
    s3.updPart p.lead fun q =>
      let one := fun (l : SidingList) => if l.band = bandOf site then { l with flits := voidFlits v l.flits } else l
      let pool := fun (e : Nat × Pool) =>
        if q.poolBand e.1 ≠ bandOf site then e
        else (e.1, { e.2 with
          entries := e.2.entries.filter (fun x => x.carr.vint != v), arriving := e.2.arriving.filter (fun k => k.vint != v),
          sent := e.2.sent.filter (fun x => x.2.carr.vint != v) })
      { q with siding := q.siding.map one, pools := q.pools.map pool }
  else s3

/-- DRAIN_WAVE (R265, step 3; R430): it starts once every channel is idle for the vintage, with the resets of the groups; a
router, port or slot discards and voids what it holds. -/
def execDrainWave (site v : Nat) (s : State) : Out :=
  let vint := BitVec.ofNat 32 v
  match s.partAt site with
  | none => .next s
  | some p =>
    match p.launch? vint with
    | none => .next s
    | some l =>
      let sites := p.sites.filter fun x => !(s.router x).fenced
      if l.phase = .kill2 then
        if p.bound.any fun x => (s.core x).xfers.any fun e => e.2.vint == vint then .next s
        else
          let start := fun (k : Launch) => { k with phase := .kill3, todo := sites, acks := sites }
          let s1 := (s.setPart p.lead (p.updLaunch vint start)).resetGroups p vint
          .next (s1.due (.drainWave (sites.headD 0) v))
      else if l.phase ≠ .kill3 ∨ !l.todo.contains site then .next s
      else
        let s1 := s.drainSite p site vint
        let s2 := s1.updPart p.lead fun q => q.updLaunch vint fun k => { k with todo := k.todo.erase site }
        .next ((s2.due (.drainAck site v)).onward sites site fun y t => t.due (.drainWave y v))

/-- DRAIN_ACK (R265): the last acknowledgement ends step 3; what came to the site since is void as well. -/
def execDrainAck (site v : Nat) (s : State) : Out :=
  let vint := BitVec.ofNat 32 v
  match s.partAt site with
  | none => .next s
  | some p =>
    match p.launch? vint with
    | none => .next s
    | some l =>
      if l.phase ≠ .kill3 ∨ l.todo.contains site ∨ !l.acks.contains site then .next s
      else
        let left := l.acks.erase site
        let s1 := s.drainSite p site vint
        if !left.isEmpty then .next (s1.updPart p.lead fun q => q.updLaunch vint fun k => { k with acks := left })
        else
          let s2 := s1.updPart p.lead fun q => q.updLaunch vint fun k => { k with phase := .kill4, acks := [] }
          .next (s2.later (.caskDiscard p.lead v))

/-- A slot controller frees what it holds of a killed vintage: open entries and reductions go, undo entries are written
back to home first (R265, R463). -/
def State.discardAt (s : State) (p : Part) (chan : Nat) (v : BitVec 32) : State :=
  let undo := (s.rim chan).casks.filter fun e => e.state == .undo && e.vint == v
  let s1 := undo.foldl (fun t e => t.homeWriteLine p e.line e.mask e.data) s
  let r := s1.rim chan
  s1.setRim chan { r with
    casks := r.casks.filter (fun e => e.state == .committed || e.vint != v), reds := r.reds.filter (fun a => a.vint != v), rels := forgetReleases v r.rels,
    inPlace := r.inPlace.filter (fun u => u != v) }

/-- The listed slot controllers of a partition. -/
def State.rimsOf (s : State) (p : Part) : List Nat :=
  (s.rims.map (·.1)).filter fun c => decide (128 * p.lead ≤ c) && decide (c < 128 * p.lead + p.slots)

/-- CASK_DISCARD (R265, step 4; R463). -/
def execCaskDiscard (part v : Nat) (s : State) : Out :=
  let vint := BitVec.ofNat 32 v
  match s.part? part with
  | none => .next s
  | some p =>
    match p.launch? vint with
    | none => .next s
    | some l =>
      if l.phase ≠ .kill4 then .next s
      else
        let s1 := (s.rimsOf p).foldl (fun t c => t.discardAt p c vint) s
        let s2 := s1.updPart part fun q => q.updLaunch vint fun k => { k with phase := .kill5 }
        .next (s2.later (.killCleanup part v))

/-- A core's part of step 5 of R265: the scratchpad lines that the vintage wrote are zero, its buffers undeclared, its
contexts idle. -/
def State.cleanCore (s : State) (site : Nat) (v : BitVec 32) : State :=
  let c := s.core site
  let lines := (c.tags.filter fun e => e.2 == v && decide (e.1 < 65536)).map (·.1)
  let s1 := lines.foldl (fun t j => t.scrWrite site (64 * j) (List.replicate 64 0)) s
  let s2 := s1.updCore site fun k =>
    lines.foldl (fun u j => { u with dirty := Tbl.put u.dirty j (), tags := Tbl.del u.tags j }) (k.forget v)
  (List.range 8).foldl (fun t n =>
    if (t.ctx site n).occ = .stopped ∧ (t.ctx site n).vintage = v then (t.updCtx site n Ctx.leave).due (.poolPull site) else t) s2

/-- KILL_CLEANUP (R265, step 5; R451, R458). -/
def execKillCleanup (part v : Nat) (s : State) : Out :=
  let vint := BitVec.ofNat 32 v
  match s.part? part with
  | none => .next s
  | some p =>
    match p.launch? vint with
    | none => .next s
    | some l =>
      if l.phase ≠ .kill5 then .next s
      else
        let how := l.ending.getD ⟨1, 0, 0, false⟩
        let s1 := p.bound.foldl (fun t x => if (Tbl.find? t.cores x).isSome then t.cleanCore x vint else t) s
        .next (s1.finishLaunch part vint how.outcome how.status how.addr how.relaunch)

end Sys2Proof.Machine
end

