-- ==== Sys2Proof/Machine/Commit.lean ====
section
/-!
DEFINITION. The commit engine: commit order and commit (R454-R457), merging (R444), the switch to in-place writes (R460-R463)
and the instructions CASKUSE, PROVQ, IRREV, CMTQ and ABORT (R465-R470).
-/

namespace Sys2Proof.Machine

open Sys2Proof

/-! ## Commit order (R454) -/

/-- Whether a command of a queue that has not been committed or completed was given before a submission number (R454). -/
def Part.olderCommand (p : Part) (queue : Nat) (sub : BitVec 32) : Bool :=
  let before := fun (x : BitVec 32) => let d := (sub - x).toNat; decide (1 ≤ d) && decide (d < 2 ^ 31)
  p.launches.any (fun l => l.queue == queue && l.phase != .unlocking && before l.cmd.sub)
    || (p.queues[queue]?.map fun q => q.cmds.any fun c => before c.sub).getD false

/-- Whether vintage v is older than u (R438). -/
def vintageOlder (v u : BitVec 32) : Bool := decide (1 ≤ (u - v).toNat) && decide ((u - v).toNat < 2 ^ 31)

/-- The launch that the arbiter commits next (R454): of the ready ones that no older command of their queue holds, the one
ready first, the older vintage first among equals. -/
def Part.nextCommit (p : Part) : Option Launch :=
  let free := p.launches.filter fun l => l.phase == .ready && !p.olderCommand l.queue l.cmd.sub
  free.foldl (fun (b : Option Launch) l =>
    match b with
    | none => some l
    | some x => if l.readyAt < x.readyAt ∨ (l.readyAt = x.readyAt ∧ vintageOlder l.vint x.vint) then some l else b) none

/-- COMMIT_START (R454, R455 step 1). -/
def execCommitStart (part : Nat) (s : State) : Out :=
  match s.part? part with
  | none => .next s
  | some p =>
    match p.intent, p.nextCommit with
    | none, some l =>
      let p1 := p.updLaunch l.vint fun k => { k with phase := .intent }
      .next ((s.setPart part { p1 with intent := some l.vint }).due (.commitIntentAck part))
    | _, _ => .next s

/-- COMMIT_INTENT_ACK (R455): the intent record stands; the commit broadcast begins. -/
def execCommitIntentAck (part : Nat) (s : State) : Out :=
  match s.part? part with
  | none => .next s
  | some p =>
    match p.intent.bind p.launch? with
    | some l =>
      if l.phase ≠ .intent then .next s
      else
        let go := fun (k : Launch) =>
          { k with phase := .committing, todo := List.range p.slots, acks := List.range p.slots }
        let p1 := { (p.updLaunch l.vint go).setVState l.vint .committing with commitCount := p.commitCount + 1 }
        .next ((s.setPart part p1).due (.commitBroadcast part 0 l.vint.toNat))
    | none => .next s

/-- A slot controller publishes a vintage (R138, R455 step 2): its open entries are committed under an order number, each
reduction's fold becomes its word's committed value, its undo entries are freed. -/
def State.publishAt (s : State) (p : Part) (chan : Nat) (v : BitVec 32) (order : Nat) : State :=
  let r := s.rim chan
  let turn := fun (e : CaskEntry) => if e.state = .open ∧ e.vint = v then { e with state := .committed, order := order } else e
  let kept := (r.casks.filter fun e => !(e.state == .undo && e.vint == v)).map turn
  let mine := r.reds.filter fun a => a.vint == v
  let s1 := s.setRim chan { r with
    casks := kept, reds := r.reds.filter (fun a => a.vint != v), rels := forgetReleases v r.rels, inPlace := r.inPlace.filter fun u => u != v }
  mine.foldl (fun t a => t.committedWrite p a.ppa (leBytes 4 a.fold.bits)) s1

/-- COMMIT_BROADCAST (R455 step 2). -/
def execCommitBroadcast (part slot v : Nat) (s : State) : Out :=
  match s.part? part with
  | none => .next s
  | some p =>
    match p.launch? (BitVec.ofNat 32 v) with
    | none => .next s
    | some l =>
      if l.phase ≠ .committing ∨ !l.todo.contains slot then .next s
      else
        let ch := p.chanOf slot
        let s1 := if (Tbl.find? s.rims ch).isSome then s.publishAt p ch l.vint p.commitCount else s
        let s2 := s1.updPart part fun q => q.updLaunch l.vint fun k => { k with todo := k.todo.erase slot }
        .next ((s2.due (.commitAck part slot v)).onward (List.range p.slots) slot fun y t => t.due (.commitBroadcast part y v))

/-- Reads of committed data that the broadcast held go on: host reads, and pulls at the export side (R140, R554). -/
def State.wakeReads (s : State) (p : Part) : State :=
  let m := s.module
  let s1 := m.held.foldl (fun t e => t.later (.hostMemoryRead e.1 e.2.1 e.2.2)) { s with module := { m with held := [] } }
  (List.range (2 * p.nb)).foldl (fun t k =>
    if (t.link (2 * p.lead + k)).store.isEmpty then t else t.later (.exportRequest (2 * p.lead + k))) s1

/-- COMMIT_ACK (R139, R455 step 3): the last acknowledgement is the commit instant; the intent record is cleared and the
completion record written. -/
def execCommitAck (part slot v : Nat) (s : State) : Out :=
  match s.part? part with
  | none => .next s
  | some p =>
    match p.launch? (BitVec.ofNat 32 v) with
    | none => .next s
    | some l =>
      if l.phase ≠ .committing ∨ l.todo.contains slot ∨ !l.acks.contains slot then .next s
      else
        let left := l.acks.erase slot
        let p1 := p.updLaunch l.vint fun k => { k with acks := left }
        if !left.isEmpty then .next (s.setPart part p1)
        else
          let s1 := s.setPart part { p1 with intent := none }
          .next ((s1.finishLaunch part l.vint 0 l.status 0 false).wakeReads p)

/-- CASK_MERGE (R444): a slot controller merges its oldest committed line into home and frees the entries. -/
def execCaskMerge (part slot : Nat) (s : State) : Out :=
  match s.part? part with
  | none => .next s
  | some p =>
    let es := (s.rim (p.chanOf slot)).casks.filter fun e => e.state == .committed
    let first := es.foldl (fun (b : Option CaskEntry) e =>
      match b with
      | some x => if e.order < x.order then some e else b
      | none => some e) none
    match first with
    | some e => .next (s.mergeLine p e.line)
    | none => .next s

/-! ## The switch (R461) -/

/-- VINTAGE_SWITCH (R461): the switch that a launch asked for is broadcast once every older vintage has completed. -/
def execVintageSwitch (part v : Nat) (s : State) : Out :=
  match s.part? part with
  | none => .next s
  | some p =>
    match p.launch? (BitVec.ofNat 32 v) with
    | none => .next s
    | some l =>
      if l.phase ≠ .running ∨ !l.switchAsked ∨ l.switchOut ∨
          p.launches.any (fun k => k.phase != .unlocking && vintageOlder k.vint l.vint) then .next s
      else
        let go := fun (k : Launch) => { k with switchOut := true, swTodo := List.range p.slots, swAcks := List.range p.slots }
        .next ((s.setPart part (p.updLaunch l.vint go)).later (.switch part 0 v))

/-- Merge open entries of a vintage into home, each after its line's home bytes are saved, until the undo share is full; and whether
all were merged (R461). -/
def State.switchEntries (s : State) (p : Part) (chan : Nat) (v : BitVec 32) : List CaskEntry → State × Bool
  | [] => (s, true)
  | e :: t =>
    let s0 := s.mergeLine p e.line
    let r := s0.rim chan
    if undoShare ≤ (r.casks.filter fun u => u.state == .undo && u.vint == v).length then (s, false)
    else
      let u : CaskEntry := ⟨e.line, s0.homeRead p e.line 64, 2 ^ 64 - 1, v, .undo, 0⟩
      let s1 := s0.setRim chan { r with casks := r.casks.erase e ++ [u] }
      (s1.homeWriteLine p e.line e.mask e.data).switchEntries p chan v t

/-- SWITCH (R461 step 2): a full undo share starts the kill with CASKFULL, which restores what was merged. -/
def execSwitch (part slot v : Nat) (s : State) : Out :=
  match s.part? part with
  | none => .next s
  | some p =>
    match p.launch? (BitVec.ofNat 32 v) with
    | none => .next s
    | some l =>
      if !l.swTodo.contains slot then .next s
      else
        let ch := p.chanOf slot
        let r := s.switchEntries p ch l.vint ((s.rim ch).casks.filter fun e => e.state == .open && e.vint == l.vint)
        if !r.2 then .next (r.1.startKill part l.vint ⟨4, 0, 0, false⟩)
        else
          let s2 := r.1.updPart part fun q => q.updLaunch l.vint fun k => { k with swTodo := k.swTodo.erase slot }
          .next ((s2.later (.switchAck part slot v)).onward (List.range p.slots) slot fun y t => t.later (.switch part y v))

/-- The writes of a switched vintage that waited at a home proceed (R461). -/
def State.resumeRim (s : State) (p : Part) (chan : Nat) (v : BitVec 32) : State :=
  let r := s.rim chan
  let go := r.waiting.filter fun f => f.vint == v
  let s1 := s.setRim chan { r with waiting := r.waiting.filter fun f => f.vint != v }
  let s2 := go.foldl (fun t f => t.serveRim p f) s1
  if r.lands.isEmpty then s2 else s2.due (.landing p.lead (0x8000 + chan - 128 * p.lead))

/-- SWITCH_ACK (R461 step 3, R468): with the last one the launch is switched; the waiting writes proceed, and so do the
contexts and converted tasks that wait for the switch. -/
def execSwitchAck (part slot v : Nat) (s : State) : Out :=
  match s.part? part with
  | none => .next s
  | some p =>
    match p.launch? (BitVec.ofNat 32 v) with
    | none => .next s
    | some l =>
      if l.swTodo.contains slot ∨ !l.swAcks.contains slot then .next s
      else
        let left := l.swAcks.erase slot
        if !left.isEmpty then .next (s.setPart part (p.updLaunch l.vint fun k => { k with swAcks := left }))
        else
          let p1 := (p.updLaunch l.vint fun k => { k with swAcks := [], switched := true }).setVState l.vint .switched
          let s1 := s.setPart part p1
          let slots := (List.range p.slots).map p.chanOf
          let s2 := slots.foldl (fun t c => let r := t.rim c; t.setRim c { r with inPlace := r.inPlace ++ [l.vint] }) s1
          let s3 := slots.foldl (fun t c => if (t.rim c).waiting.isEmpty && (t.rim c).lands.isEmpty then t else t.resumeRim p c l.vint) s2
          .next (p.bound.foldl (fun t x => t.wakeImages x) s3)

/-! ## CASKUSE (R466) -/

/-- The entries that a vintage holds at a slot controller: open ones, or undo entries once it has switched (R466). -/
def Rim.entriesOf (r : Rim) (v : BitVec 32) (switched : Bool) : Nat :=
  (r.casks.filter fun e => e.vint == v && e.state == (if switched then .undo else .open)).length

/-- CASKUSE (R465, R466). -/
def execCaskuse (d : Reg) (s : State) : Out :=
  issueWord s noHints [] [d] true false false fun i =>
    let site := s.cur.1
    match s.partAt site with
    | none => .next s
    | some p =>
      let c1 := { i.c.startOp .no 0 false false (.query d) with sb := i.c.sb ||| regBit d }
      let q : CaskQuery := ⟨site, s.cur.2, i.c.issued, List.range p.slots, [], 0⟩
      let s1 := (s.setMe c1.advance).updPart p.lead fun r => r.updLaunch i.c.vintage fun k => { k with queries := k.queries ++ [q] }
      .next (s1.later (.caskuseQuery p.lead 0 i.c.vintage.toNat))

/-- CASKUSE_QUERY (R466): a slot controller counts for the oldest query that has not reached it. -/
def execCaskuseQuery (part slot v : Nat) (s : State) : Out :=
  match s.part? part with
  | none => .next s
  | some p =>
    match p.launch? (BitVec.ofNat 32 v) with
    | none => .next s
    | some l =>
      match List.find? (fun (q : CaskQuery) => q.todo.contains slot) l.queries with
      | none => .next s
      | some q =>
        let n := (s.rim (p.chanOf slot)).entriesOf l.vint l.switched
        let q1 := { q with todo := q.todo.erase slot, counts := q.counts ++ [(slot, n)] }
        let s1 := s.setPart part (p.updLaunch l.vint fun k => { k with queries := k.queries.replace q q1 })
        .next ((s1.later (.caskuseAnswer part slot v)).onward (List.range p.slots) slot fun y t => t.later (.caskuseQuery part y v))

/-- CASKUSE_ANSWER (R466): a count joins its query's sum; the whole sum times 64 is the core's result. Logged. -/
def execCaskuseAnswer (part slot v : Nat) (s : State) : Out :=
  match s.part? part with
  | none => .next s
  | some p =>
    match p.launch? (BitVec.ofNat 32 v) with
    | none => .next s
    | some l =>
      match List.find? (fun (q : CaskQuery) => q.counts.any fun e => e.1 == slot) l.queries with
      | none => .next s
      | some q =>
        let n := ((List.find? (fun (e : Nat × Nat) => e.1 == slot) q.counts).map (·.2)).getD 0
        let q1 := { q with counts := q.counts.filter (fun e => e.1 != slot), sum := q.sum + n }
        if q1.todo.isEmpty && q1.counts.isEmpty then
          let s1 := s.setPart part (p.updLaunch l.vint fun k => { k with queries := k.queries.erase q })
          let w := 64 * q1.sum
          let s2 := s1.logEv q.site 9 q.ctx (BitVec.ofNat 64 w) 0 0xFFFF 0 []
          .next (s2.complete q.site q.ctx q.id { bytes := leBytes 8 w })
        else .next (s.setPart part (p.updLaunch l.vint fun k => { k with queries := k.queries.replace q q1 }))

/-! ## The other instructions -/

/-- PROVQ (R467): whether the core's provisional list holds any vintage. Logged. -/
def execProvq (d : Reg) (s : State) : Out :=
  issueWord s noHints [] [d] true false false fun i =>
    let v : Word := if s.myCore.prov.isEmpty then 0 else 1
    .next ((finishScalar s i.c d v 0).logEv s.cur.1 9 s.cur.2 v 0 0xFFFF 0 [])

/-- IRREV (R468): asks for the switch and holds its context until it has taken place. -/
def execIrrev (s : State) : Out :=
  issueWord s noHints [] [] true false false fun i =>
    match s.partAt s.cur.1 with
    | none => .next s
    | some p =>
      if s.switchedAt s.cur.1 i.c.vintage then .next (s.setMe i.c.advance)
      else
        match s.me.hold with
        | .irrev => .next s
        | _ =>
          let s1 := s.setPart p.lead (p.updLaunch i.c.vintage fun k => { k with switchAsked := true })
          .next ((s1.setMe { s.me with hold := .irrev, stall := some .switch }).later (.vintageSwitch p.lead i.c.vintage.toNat))

/-- The code of a vintage's state (R469). -/
def VState.code : VState → Nat
  | .assigned => 1
  | .running => 2
  | .switched => 3
  | .gating => 4
  | .ready => 5
  | .committing => 6
  | .committed => 7
  | .ended => 8
  | .relaunched => 9

/-- CMTQ (R469): the state of a vintage of the task's partition. Logged. -/
def execCmtq (d a : Reg) (s : State) : Out :=
  issueWord s noHints [a] [d] true false false fun i =>
    let v : BitVec 32 := (i.v 0).setWidth 32
    let known := (s.partAt s.cur.1).bind fun p => List.find? (fun (e : BitVec 32 × VState) => e.1 == v) p.vstates
    let r : Word := BitVec.ofNat 64 ((known.map fun e => e.2.code).getD 0)
    .next ((finishScalar s i.c d r 0).logEv s.cur.1 9 s.cur.2 r 0 0xFFFF 0 [])

/-- ABORT (R470): the context issues no further word, and the kill of its launch starts with the status given. -/
def execAbort (a : Reg) (s : State) : Out :=
  issueWord s noHints [a] [] true false false fun i =>
    match s.partAt s.cur.1 with
    | none => .next s
    | some p =>
      let st : BitVec 32 := (i.v 0).setWidth 32
      let s1 := (s.setMe i.c).stopCtx s.cur.1 s.cur.2
      .next (s1.startKill p.lead i.c.vintage ⟨5, st, 0, false⟩)

end Sys2Proof.Machine
end

