-- ==== Sys2Proof/Machine/Control.lean ====
section
/-!
DEFINITION. Branches and jumps (R163-R165). The predicted target and the return register change timing only (R144); the
return register is kept.
-/

namespace Sys2Proof.Machine

open Sys2Proof

/-- The target of a branch or JAL: pc + 4·sext(off), modulo 2^56 (R27, R163, R164). -/
def target {n : Nat} (pc : Addr) (off : BitVec n) : Addr := pc + (off.signExtend 56 <<< 2)

/-- A context at the next word it executes after a branch or jump: its word group is done. -/
def Ctx.goto (c : Ctx) (pc : Addr) : Ctx := { c with pc := pc, hints := none, stall := none, fetched := [], hold := .none }

/-- A branch on a condition over x[a] and x[b] (R163). -/
def branchOp (s : State) (a b : Reg) (off : BitVec 16) (cond : Word → Word → Bool) : Out :=
  issueWord s brHints [a, b] [] false false false fun i =>
    let c := i.c
    let pc := if cond (i.v 0) (i.v 1) then target c.pc off else c.pc + 4
    .next (s.setMe (c.goto pc))

/-- BEQ (R46, R163). -/
def execBeq (a b : Reg) (off : BitVec 16) (s : State) : Out := branchOp s a b off fun x y => x == y

/-- BNE (R46, R163). -/
def execBne (a b : Reg) (off : BitVec 16) (s : State) : Out := branchOp s a b off fun x y => x != y

/-- BLT: signed (R46, R163). -/
def execBlt (a b : Reg) (off : BitVec 16) (s : State) : Out := branchOp s a b off fun x y => decide (x.toInt < y.toInt)

/-- BGE: signed (R46, R163). -/
def execBge (a b : Reg) (off : BitVec 16) (s : State) : Out := branchOp s a b off fun x y => decide (y.toInt ≤ x.toInt)

/-- BLTU (R46, R163). -/
def execBltu (a b : Reg) (off : BitVec 16) (s : State) : Out := branchOp s a b off fun x y => decide (x.toNat < y.toNat)

/-- BGEU (R46, R163). -/
def execBgeu (a b : Reg) (off : BitVec 16) (s : State) : Out := branchOp s a b off fun x y => decide (y.toNat ≤ x.toNat)

/-- The link value pc + 4 as a register value (R164, R165). -/
def linkOf (pc : Addr) : Word := (pc + 4).setWidth 64

/-- The return register after a JAL or JALR: written when d = 31 (R144). -/
def Ctx.train (c : Ctx) (d : Reg) : Ctx := if d = 31 then { c with retReg := c.pc + 4 } else c

/-- A jump that links: x[d] := pc + 4, pc := t (R164, R165). -/
def jumpTo (s : State) (c : Ctx) (d : Reg) (t : Addr) : State :=
  let c1 := ((c.train d).result d (linkOf c.pc)).pend (regBit d)
  (s.setMe (c1.goto t)).resultDue

/-- JAL (R164). -/
def execJal (d : Reg) (off : BitVec 21) (s : State) : Out :=
  issueWord s noHints [] [d] false false false fun i => .next (jumpTo s i.c d (target i.c.pc off))

/-- JALR: the target from the old x[a]; a misaligned target traps with x[d] unwritten (R165). -/
def execJalr (d a : Reg) (imm : BitVec 16) (s : State) : Out :=
  issueWord s immHints [a] [d] false false false fun i =>
    let t : Addr := (i.v 0 + i.c.imm16 imm).setWidth 56
    if t.toNat % 4 ≠ 0 then .next (s.trap causeMisalign t) else .next (jumpTo s i.c d t)

end Sys2Proof.Machine
end

