-- ==== Sys2Proof/Machine/Launch.lean ====
section
/-!
DEFINITION. The launch engine from the head of a queue to the seeds (R20, R445-R451, R527-R529, R534, R535): the tables of a
launch (R227, R228, R528), admission and locks, the fill of the record stores (R272, R355, R410), start times and deadlines.
-/

namespace Sys2Proof.Machine

open Sys2Proof

/-! ## Tables (R227, R228, R528) -/

/-- n committed bytes at a PPA as the launch engine reads them. -/
def State.tableRead (s : State) (p : Part) (ppa n : Nat) : List Byte := s.viewRead p 0 true ppa n

/-- The declared regions of a region control block (R227). -/
def rcbRegions (l : List Byte) : List DRegion :=
  (List.range 16).map fun j =>
    let w := fun (k : Nat) => wordAt l (24 + 4 * j + k)
    let intent := w 3 % 4
    ⟨w 0 % 2 ^ 56, if intent = 0 then 0 else w 1, BitVec.ofNat 56 (w 2), BitVec.ofNat 2 intent⟩

/-- The parameter bindings of a region control block (R227): address and bound size. -/
def rcbParams (l : List Byte) : List (Nat × Nat) :=
  (List.range 8).map fun w => (wordAt l (8 + 2 * w) % 2 ^ 56, wordAt l (9 + 2 * w) % 2 ^ 17)

/-- A region control block's own fields (R227). -/
def rcbOwn (l : List Byte) : Region :=
  let w := wordAt l 1
  { parent := w / 2 ^ 45 % 2 ^ 12, cores := w % 2 ^ 16, contexts := w / 2 ^ 16 % 16, prio := BitVec.ofNat 7 (w / 2 ^ 20),
    fd := BitVec.ofNat 8 (w / 2 ^ 28), params := rcbParams l, regs := rcbRegions l }

/-- A child region's fields: its own where its override bits select them, else its parent's (R228). -/
def rcbResolve (l : List Byte) (up : Region) : Region :=
  let own := rcbOwn l
  let o := wordAt l 6 / 2 ^ 16
  let pick := fun (k : Nat) => decide (o / 2 ^ k % 2 = 1)
  { parent := own.parent, cores := if pick 0 then own.cores else up.cores,
    contexts := if pick 1 then own.contexts else up.contexts, prio := if pick 2 then own.prio else up.prio,
    fd := if pick 3 then own.fd else up.fd, params := if pick 4 then own.params else up.params,
    regs := if pick 5 then own.regs else up.regs }

/-- Whether a child's used region lies within one of its parent's, with an intent that this allows (R228). -/
def regionWithin (r : DRegion) (up : List DRegion) : Bool :=
  r.intent == 0 || up.any fun q =>
    q.intent != 0 && decide (q.base ≤ r.base) && decide (r.base + r.size ≤ q.base + q.size)
      && (q.intent == 3 || q.intent == r.intent)

/-- Whether a resolved child passes R228. -/
def childFits (r up : Region) : Bool :=
  decide (r.cores ≤ up.cores) && decide (r.contexts ≤ up.contexts) && decide (r.prio.toNat ≤ up.prio.toNat)
    && r.regs.all fun d => regionWithin d up.regs

/-- The child regions of a table from entry j on, resolved over those before it; nothing when one breaks R228. -/
def State.children (s : State) (p : Part) (rtab : Nat) : Nat → Nat → List Region → Option (List Region)
  | 0, _, acc => some acc
  | n + 1, j, acc =>
    let l := s.tableRead p (rtab + 768 * j) 768
    match acc[(rcbOwn l).parent]? with
    | none => none
    | some up =>
      let r := rcbResolve l up
      if childFits r up then s.children p rtab n (j + 1) (acc ++ [r]) else none

/-- A buffer declaration entry (R528): number, base, size in bytes, and whether its reserved bits are zero. -/
def bufEntry (w : Nat) : (Nat × Nat × Nat) × Bool :=
  ((w % 64, w / 2 ^ 16 % 2 ^ 16 * 64, w / 2 ^ 32 % 2 ^ 16 * 64), w / 64 % 2 ^ 10 == 0 && w / 2 ^ 48 == 0)

/-- Whether buffer declarations satisfy R177 and repeat no number (R529). -/
def bufsFit : List (Nat × Nat × Nat) → Bool
  | [] => true
  | (b, base, size) :: t =>
    decide (64 ≤ size) && decide (base + size ≤ 0x2E0000)
      && t.all (fun e => e.1 != b && !rangesMeet base size e.2.1 e.2.2) && bufsFit t

/-- The bytes of cask that the pools of a partition hold: 64 for each entry (R440, R447). -/
def Part.poolBytes (p : Part) : Nat := 64 * 134217728 * p.nb

/-- The checks of R529 on a command's fields. -/
def Part.cmdFits (p : Part) (c : Cmd) : Bool :=
  let inside := fun (a n : Nat) => decide (a % n = 0) && decide (a < p.capacity)
  !c.resv && inside c.rtab 64 && inside c.ptroot 64 && inside c.shsec 64 && inside c.patsec 64
    && decide (c.shn ≤ 256) && decide (c.patn ≤ 128) && decide (c.shvirt % 64 = 0) && decide (c.patvirt % 64 = 0)
    && inside c.buftab 8 && decide (c.nbuf ≤ 64)

/-- The launch that a command's tables describe, with no vintage yet; nothing when they are invalid (R228, R529). -/
def State.readLaunch (s : State) (p : Part) (queue : Nat) (c : Cmd) : Option Launch :=
  if !p.cmdFits c then none
  else
    let l := s.tableRead p c.rtab 768
    let w := fun (k : Nat) => wordAt l k
    let root := rcbOwn l
    let n := w 6 % 2 ^ 13
    let bufs := (List.range c.nbuf).map fun i => bufEntry (leNat (s.tableRead p (c.buftab + 8 * i) 8))
    let cask := w 2
    let red := w 1 / 2 ^ 36 % 2 ^ 9
    let ok := w 1 / 2 ^ 57 % 16 == queue && decide (1 ≤ root.cores) && decide (root.cores ≤ p.bound.length)
      && decide (1 ≤ root.contexts) && decide (root.contexts ≤ 8) && decide (red ≤ 256) && decide (cask % 65536 = 0)
      && decide (cask ≤ p.poolBytes) && decide (1 ≤ n) && decide (n ≤ 4096)
      && bufs.all (·.2) && bufsFit (bufs.map (·.1))
    if !ok then none
    else
      match s.children p c.rtab (n - 1) 1 [root] with
      | none => none
      | some regions =>
        let sr := w 5
        some { Launch.new 0 queue c with
          entry := BitVec.ofNat 56 (w 0), seedAll := decide (w 0 / 2 ^ 56 % 2 = 1), table := decide (w 0 / 2 ^ 57 % 2 = 1),
          irrevocable := decide (w 0 / 2 ^ 58 % 2 = 1), reductions := red, cask := cask,
          start := if w 3 / 2 ^ 48 % 2 = 1 then some (w 3 % 2 ^ 48 * 1000000000 + w 4 % 2 ^ 32) else none,
          deadns := if w 3 / 2 ^ 49 % 2 = 1 then some (w 4 / 2 ^ 32) else none,
          seedsr := if sr = 0 then 0x9E3779B97F4A7C15 else BitVec.ofNat 64 sr,
          regions := regions, bufDecl := bufs.map (·.1) }

/-- The first lost granule that a command's tables meet: its region table and its buffer declarations (R519). -/
def State.lostTable (s : State) (p : Part) (c : Cmd) : Option Nat :=
  if p.lost.isEmpty || !p.cmdFits c then none
  else
    let n := wordAt (s.tableRead p c.rtab 768) 6 % 2 ^ 13
    match p.lostIn c.rtab (768 * max 1 n) with
    | some g => some g
    | none => if c.nbuf = 0 then none else p.lostIn c.buftab (8 * c.nbuf)

/-- A launch whose sections meet a lost granule is killed (R519). -/
def State.killSections (s : State) (p : Part) (l : Launch) : State :=
  let s1 := if l.table || l.cmd.shn == 0 then s else s.killLost p l.vint l.cmd.shsec (64 * l.cmd.shn)
  if l.cmd.patn = 0 then s1 else s1.killLost p l.vint l.cmd.patsec (64 * l.cmd.patn)

/-! ## Taking a command (R445) -/

/-- The command that a queue offers at step 2: its head, unless the queue is flushed or the head is already taken. -/
def Part.headOf (p : Part) (q : Nat) : Option Cmd :=
  match p.queues[q]? with
  | none => none
  | some lq =>
    match lq.cmds with
    | [] => none
    | c :: _ =>
      if lq.flushed || p.launches.any (fun l => l.queue == q && l.phase == .waiting && l.cmd.sub == c.sub) then none else some c

/-- Whether a command's completion record can be written (R529). -/
def Part.cmplFits (p : Part) (c : Cmd) : Bool := decide (c.cmpl % 64 = 0) && decide (c.cmpl < p.capacity)

/-- Complete every command of a queue that has not been admitted with outcome 8, or drop it (R536). -/
def State.flushQueue (s : State) (lead q : Nat) : State :=
  match s.part? lead with
  | none => s
  | some p =>
    let cmds := ((p.queues[q]?).map (·.cmds)).getD []
    let taken := fun (c : Cmd) =>
      List.find? (fun (l : Launch) => l.queue == q && l.phase == .waiting && l.cmd.sub == c.sub) p.launches
    let one := fun (t : State) (c : Cmd) =>
      let v := ((taken c).map (·.vint)).getD 0
      if p.cmplFits c then t.endCommand lead q 8 c v else t
    let s1 := s.updPart lead fun r =>
      let gone := r.launches.filter fun l => l.queue == q && l.phase == .waiting
      let r1 := gone.foldl (fun a l => a.setVState l.vint .ended) r
      { r1 with
        queues := r1.queues.modify q fun x => { x with cmds := [] },
        launches := r1.launches.filter fun l => !(l.queue == q && l.phase == .waiting) }
    cmds.foldl one s1

/-- LAUNCH_TAKE (R438, R439, R445, R519, R529): the next queue's head command is read; it takes a vintage, or ends as an invalid
table or for a lost granule of its tables, or makes its queue flushed (R536): for an invalid cmpl, or for an error in the stored command. -/
def execLaunchTake (part : Nat) (s : State) : Out :=
  match s.part? part with
  | none => .next s
  | some p =>
    let order := (List.range 16).map fun i => (p.turn + i) % 16
    match order.find? fun q => (p.headOf q).isSome with
    | none => .next s
    | some q =>
      match p.headOf q with
      | none => .next s
      | some c =>
        let s0 := s.setPart part { p with turn := (q + 1) % 16 }
        if p.stopped || s.module.warm then .next s
        else if !p.cmplFits c || s.systemBadAt p.lead then
          let s1 := s0.updPart part fun r => { r with queues := r.queues.modify q fun x => { x with flushed := true } }
          .next ((s1.flushQueue part q).examine part)
        else
          let drop := fun (x : LQueue) => { x with cmds := x.cmds.drop 1 }
          let s1 := s0.updPart part fun r => { r with queues := r.queues.modify q drop }
          match s.lostTable p c, s.readLaunch p q c with
          | some g, _ => .next ((s1.endCommandAt part q 6 c 0 g).later (.launchTake part))
          | none, none => .next ((s1.endCommand part q 7 c 0).later (.launchTake part))
          | none, some l =>
            if 64 ≤ (p.launches.filter fun k => k.phase != .unlocking).length then .next s
            else
              let v := p.vcount
              let next : BitVec 32 := if v + 1 = 0 then 1 else v + 1
              let s1 := s0.updPart part fun r =>
                ({ r with vcount := next, launches := r.launches ++ [{ l with vint := v }] }).setVState v .assigned
              .next ((s1.later (.admission part v.toNat)).examine part)

/-! ## Admission (R446-R450) -/

/-- Whether two launches conflict (R446). -/
def Launch.conflicts (a b : Launch) : Bool :=
  let regs := fun (l : Launch) => ((l.regions[0]?).map (·.regs)).getD []
  (regs a).any fun x => (regs b).any fun y =>
    x.intent != 0 && y.intent != 0 && !(x.intent == 1 && y.intent == 1)
      && rangesMeet (x.base % 2 ^ 54) x.size (y.base % 2 ^ 54) y.size

/-- A completion group that no launch holds (R447). -/
def Part.freeGroup (p : Part) : Option Nat :=
  ((List.range 16).map (48 + ·)).find? fun g => !(p.launches.any fun l => l.grp == some g)

/-- The granule ranges of n bytes at a virtual address of a launch: first granule and number, by 64 KiB page (R448). -/
def State.granulesOf (s : State) (p : Part) (root base n : Nat) : List (Nat × Nat) :=
  if n = 0 then []
  else
    let first := base / 65536
    (List.range ((base + n - 1) / 65536 - first + 1)).filterMap fun k =>
      let page := first + k
      (s.walkFrom p root (page % 2 ^ 38)).map fun m =>
        let lo := if k = 0 then base % 65536 else 0
        let hi := if (page + 1) * 65536 ≤ base + n then 65536 else base + n - page * 65536
        ((m.ppa + lo) / 256, (m.ppa + hi - 1) / 256 - (m.ppa + lo) / 256 + 1)

/-- The granules that a launch's locks cover: its declared regions and bound parameter blocks (R448). -/
def State.lockRanges (s : State) (p : Part) (l : Launch) : List (Nat × Nat) :=
  match l.regions[0]? with
  | none => []
  | some r =>
    (r.regs.filter fun d => d.intent != 0).flatMap (fun d => s.granulesOf p l.cmd.ptroot d.base d.size)
      ++ r.params.flatMap fun e => s.granulesOf p l.cmd.ptroot e.1 e.2

/-- The priority of a launch's root. -/
def Launch.rootPrio (l : Launch) : Nat := ((l.regions[0]?).map (·.prio.toNat)).getD 0

/-- ADMISSION (R445, R447, R448, R450): a waiting launch is admitted and its lock broadcast sent, or it pre-empts the
running launches that block it, or it waits on. -/
def execAdmission (part v : Nat) (s : State) : Out :=
  match s.part? part with
  | none => .next s
  | some p =>
    match p.launch? (BitVec.ofNat 32 v) with
    | none => .next s
    | some w =>
      if w.phase ≠ .waiting then .next s
      else
        let admitted := p.launches.filter (·.admitted)
        let blocks := admitted.filter fun l => l.conflicts w
        let older := p.launches.any fun l => l.phase == .waiting && vintageOlder l.vint w.vint && l.conflicts w
        let fits := decide (admitted.foldl (fun n l => n + l.cask) w.cask ≤ p.poolBytes)
        let clear := w.bufDecl.all fun e => !p.declaredElsewhere w.vint e.2.1 e.2.2
        match p.freeGroup with
        | none => .next s
        | some g =>
          if older || !fits || !clear then .next s
          else if blocks.isEmpty then
            let drop := fun (x : LQueue) => { x with cmds := x.cmds.filter fun c => c.sub != w.cmd.sub }
            let go := fun (k : Launch) =>
              { k with phase := .locking, grp := some g, ranges := s.lockRanges p w, todo := List.range p.slots,
                       acks := List.range p.slots }
            let p1 := p.updLaunch w.vint go
            let s1 := s.setPart part { p1 with queues := p1.queues.modify w.queue drop }
            .next ((s1.due (.lock part 0 v)).later (.launchTake part))
          else if blocks.all fun l => l.phase == .running && !l.switched && decide (l.rootPrio < w.rootPrio) then
            .next (blocks.foldl (fun t l => t.startKill part l.vint ⟨0, 0, 0, true⟩) s)
          else .next s

/-- LOCK (R448). -/
def execLock (part slot v : Nat) (s : State) : Out :=
  match s.part? part with
  | none => .next s
  | some p =>
    match p.launch? (BitVec.ofNat 32 v) with
    | none => .next s
    | some l =>
      if l.phase ≠ .locking ∨ !l.todo.contains slot then .next s
      else
        let ch := p.chanOf slot
        let r := s.rim ch
        let s1 := s.setRim ch { r with locks := r.locks ++ [⟨l.vint, l.ranges⟩] }
        let s2 := s1.updPart part fun q => q.updLaunch l.vint fun k => { k with todo := k.todo.erase slot }
        .next ((s2.due (.lockAck part slot v)).onward (List.range p.slots) slot fun y t => t.due (.lock part y v))

/-! ## Starting (R20 steps 4 and 5, R410, R534) -/

/-- The 64-byte records of a section. -/
def State.section (s : State) (p : Part) (ppa n : Nat) : List (List Byte) :=
  (List.range n).map fun k => s.tableRead p (ppa + 64 * k) 64

/-- LOCK_ACK (R447, R448, R534, R535): the last is the admission instant; the completion tree is laid in the reserved group
and the fill sets out. -/
def execLockAck (part slot v : Nat) (s : State) : Out :=
  match s.part? part with
  | none => .next s
  | some p =>
    match p.launch? (BitVec.ofNat 32 v) with
    | none => .next s
    | some l =>
      if l.phase ≠ .locking ∨ l.todo.contains slot ∨ !l.acks.contains slot then .next s
      else
        let left := l.acks.erase slot
        if !left.isEmpty then .next (s.setPart part (p.updLaunch l.vint fun k => { k with acks := left }))
        else
          let now := s.partNs part
          let late := match l.start with
            | some t => decide (t ≤ now + 20000)
            | none => false
          let deadline := match l.cmd.keptDeadline, l.deadns with
            | some t, _ => some t
            | none, some d => some (l.start.getD now + d)
            | none, none => none
          let go := fun (k : Launch) =>
            { k with phase := .filling, acks := [], todo := p.visits, tadmit := now, late := late, deadlineAt := deadline,
                     fillShapes := if l.table then [] else s.section p l.cmd.shsec l.cmd.shn,
                     fillPats := s.section p l.cmd.patsec l.cmd.patn }
          let s1 := s.setPart part ((p.updLaunch l.vint go).setVState l.vint .running)
          let s2 := match s1.standingRoot p, l.grp with
            | some root, some g => s1.layGroup p g (entriesOf p confG1 root (s1.standingNodes p root))
            | _, _ => s1
          .next ((s2.later (.recordStoreFill (p.visits.headD 0) v)).killSections p l)

/-- The LCNs of a launch's seed tasks (R215): one, or one for each core of the root's budget. -/
def Launch.seedLcns (l : Launch) : List Nat :=
  if l.seedAll then List.range (((l.regions[0]?).map (·.cores)).getD 0) else [0]

/-- The carriage of a seed task (R215). -/
def Launch.seed (l : Launch) (lcn : Nat) : Rec where
  pc := l.entry
  state := recReady
  cont := false
  slots := Vector.replicate 6 0
  count := 0
  hint := BitVec.ofNat 16 lcn
  region := 0
  radius := 0
  prio := BitVec.ofNat 7 l.rootPrio

/-- A seed is sent as a carriage from the rim port of its hint's column (R20 step 5). -/
def State.sendSeed (s : State) (p : Part) (l : Launch) (lcn : Nat) : State :=
  s.inject p.lead (p.bound.getD lcn 0 % 120) true 0xFFFF l.vint (l.seed lcn) 0

/-- The launch runs from now on; its first done wave sets out (R234). -/
def State.running (s : State) (lead : Nat) (v : BitVec 32) (now : Nat) : State :=
  let s1 := s.updPart lead fun q => q.updLaunch v fun k =>
    { k with phase := .running, todo := [], tstart := now, seeds := k.seedLcns.length }
  match s1.part? lead with
  | some p => s1.startWave p v
  | none => s1

/-- A context for a seed of a timed launch is reserved at its core, when one is idle (R534). -/
def State.stageSeed (s : State) (p : Part) (l : Launch) (lcn : Nat) : State :=
  let site := p.bound.getD lcn 0
  match (s.core site).idleCtx with
  | some n => s.updCtx site n fun c => { c with occ := .staged, vintage := l.vint }
  | none => s

/-- A fill has passed every visit: the seeds go out, or are staged until the start time (R534). -/
def State.filled (s : State) (p : Part) (l : Launch) : State :=
  let wait := l.start.isSome && !l.late
  if wait then
    let s1 := s.updPart p.lead fun q => q.updLaunch l.vint fun k => { k with phase := .staged, todo := [] }
    (l.seedLcns.foldl (fun t i => t.stageSeed p l i) s1).later (.startTimeReached p.lead l.vint.toNat)
  else (l.seedLcns.foldl (fun t i => t.sendSeed p l i) s).running p.lead l.vint (s.partNs p.lead)

/-- RECORD_STORE_FILL (R177, R272, R355, R410): a visit copies the launch's records into its core's stores and declares the
launch's buffers; after the last the launch starts. -/
def execRecordStoreFill (site v : Nat) (s : State) : Out :=
  let vint := BitVec.ofNat 32 v
  match s.partAt site with
  | none => .next s
  | some p =>
    match p.launch? vint with
    | none => .next s
    | some l =>
      if l.phase ≠ .filling ∨ !l.todo.contains site then .next s
      else
        let bufs : Tbl Buf := l.bufDecl.foldl (fun t e => Tbl.put t e.1 ⟨.empty, 0, e.2.2, e.2.1, false, none⟩) []
        let put := fun (c : Core) =>
          { c with
            pats := if l.fillPats.isEmpty then c.pats else Tbl.put c.pats v l.fillPats,
            shapes := if l.fillShapes.isEmpty then c.shapes else Tbl.put c.shapes v l.fillShapes,
            bufs := if bufs.isEmpty then c.bufs else Tbl.put c.bufs v bufs }
        let s1 := s.updCore site put
        let left := l.todo.erase site
        let s2 := s1.updPart p.lead fun q => q.updLaunch vint fun k => { k with todo := left }
        if left.isEmpty then .next (s2.filled p { l with todo := [] })
        else .next (s2.onward p.visits site fun y t => t.later (.recordStoreFill y v))

/-- START_TIME_REACHED (R534): the lead copy has reached a staged launch's start time, or a forward step has passed it; the
fire waves set out. -/
def execStartTimeReached (part v : Nat) (s : State) : Out :=
  match s.part? part with
  | none => .next s
  | some p =>
    match p.launch? (BitVec.ofNat 32 v) with
    | none => .next s
    | some l =>
      let reached := decide (l.start.getD 0 ≤ s.module.clock.ns)
      if l.phase ≠ .staged ∨ !l.todo.isEmpty ∨ !reached then .next s
      else
        let bands := (List.range p.nb).map (p.lead + ·)
        let s1 := s.setPart part (p.updLaunch l.vint fun k => { k with todo := bands, tstart := s.partNs part })
        .next (bands.foldl (fun t b => t.later (.fireWave b v)) s1)

/-- A staged seed issues: its context loads it, or it goes out as a carriage when none was idle (R213, R534). -/
def State.fireSeed (s : State) (p : Part) (l : Launch) (lcn : Nat) : State :=
  let site := p.bound.getD lcn 0
  let c := s.core site
  match (List.range 8).find? fun n => (c.ctx n).occ == .staged && (c.ctx n).vintage == l.vint with
  | none => s.sendSeed p l lcn
  | some n =>
    let k : Carr := ⟨l.seed lcn, 0, l.vint, none⟩
    let s1 := s.updCtx site n fun own => own.loadTask k p.tvec l.seedsr
    (s1.logEv site 8 n 0 0 0xFFFF 0 k.bytes).updCore site fun q => q.serve l.vint

/-- FIRE_WAVE (R534): the staged seeds of a band's cores issue; with the last band the launch runs. -/
def execFireWave (band v : Nat) (s : State) : Out :=
  match s.partOfBand band with
  | none => .next s
  | some p =>
    match p.launch? (BitVec.ofNat 32 v) with
    | none => .next s
    | some l =>
      if l.phase ≠ .staged ∨ !l.todo.contains band then .next s
      else
        let mine := l.seedLcns.filter fun i => bandOf (p.bound.getD i 0) == band
        let s1 := mine.foldl (fun t i => t.fireSeed p l i) s
        let left := l.todo.erase band
        let s2 := s1.updPart p.lead fun q => q.updLaunch l.vint fun k => { k with todo := left }
        .next (if left.isEmpty then s2.running p.lead l.vint l.tstart else s2)

/-- DEADLINE_EXPIRY (R457, R535): the lead copy has reached a launch's deadline instant before its commit broadcast. -/
def execDeadlineExpiry (part v : Nat) (s : State) : Out :=
  match s.part? part with
  | none => .next s
  | some p =>
    match p.launch? (BitVec.ofNat 32 v) with
    | some l =>
      match l.deadlineAt with
      | some t => .next (if t ≤ s.module.clock.ns then s.startKill part l.vint ⟨2, 0, 0, false⟩ else s)
      | none => .next s
    | none => .next s

end Sys2Proof.Machine
end

