-- ==== Sys2Proof/Machine/Links.lean ====
section
/-!
DEFINITION. The peer link engine (R538-R557): link flits, acknowledgement and replay, lane loss and training, and pulls at both
ends. A link whose peer is this module itself joins two of its ports; the flits of another module come in `line`.
-/

namespace Sys2Proof.Machine

open Sys2Proof

/-! ## Widths (R540, R541, R547) -/

/-- The lanes of a width code. -/
def widthLanes (w : Nat) : List Nat :=
  match w with
  | 0 => List.range 16
  | 1 => List.range 8
  | 2 => (List.range 8).map (8 + ·)
  | 3 => List.range 4
  | 4 => (List.range 4).map (4 + ·)
  | 5 => (List.range 4).map (8 + ·)
  | 6 => (List.range 4).map (12 + ·)
  | _ => []

/-- The first wholly intact width of R547. -/
def intactWidth (lost : BitVec 16) : Option (BitVec 3) :=
  ((List.range 7).find? fun w => (widthLanes w).all fun i => !lost.getLsbD i).map (BitVec.ofNat 3 ·)

/-! ## Sending -/

/-- Whether a port runs: up, or one of its directions retraining. -/
def BhlPort.runs (x : BhlPort) : Bool := x.state == 2 || x.state == 3

/-- The event of a flit that arrives, by its kind (R541, R542). -/
def LinkFlit.due (f : LinkFlit) (port : Nat) : Due :=
  match f.kind with
  | 0 => .linkIdleFlit port
  | 2 => .linkNakFlit port
  | 3 => .linkRetrainFlit port
  | _ => .linkDataFlit port

/-- Send one link flit (R541): hold and ack are the port's own; it reaches the peer's port when the link joins two ports of this
module. A direction that does not run or retrains carries nothing (R545). -/
def State.emit (s : State) (port kind : Nat) (seq : BitVec 12) (width : BitVec 3) (body : LinkBody) : State :=
  let x := s.link port
  if !x.runs || x.retx.isSome then s else
  let f : LinkFlit := ⟨kind, decide (1024 - x.store.length < 64), seq, x.e, width, false, body⟩
  let s1 := s.setLink port { x with out := x.out ++ [f] }
  if s.module.number = some x.pmod then
    let q := x.pport.toNat
    let y := s1.link q
    (s1.setLink q { y with line := y.line ++ [f] }).later (f.due q)
  else s1

/-- Flits of a replay buffer sent again, in order (R543). -/
def State.resend (s : State) (port : Nat) (l : List LinkFlit) : State :=
  l.foldl (fun t f => t.emit port 1 f.seq (t.link port).txw f.body) s

/-- Send the waiting bodies as data flits while the sender may (R542, R543). -/
def State.flushLink (s : State) (port : Nat) : State :=
  (s.link port).unsent.foldl (fun t body =>
    let x := t.link port
    if !x.runs || x.retx.isSome || x.peerHold || decide (2048 ≤ x.replay.length) then t
    else
      let f : LinkFlit := ⟨1, false, x.next, 0, x.txw, false, body⟩
      (t.setLink port { x with unsent := x.unsent.drop 1, next := x.next + 1, replay := x.replay ++ [f] }).emit port 1 x.next x.txw body) s

/-- Queue a body for the link. -/
def State.sendLink (s : State) (port : Nat) (body : LinkBody) : State :=
  let x := s.link port
  (s.setLink port { x with unsent := x.unsent ++ [body] }).flushLink port

/-- The buffered flits that an ack leaves: those at or above its number (R542). -/
def afterAck (ack : BitVec 12) (l : List LinkFlit) : List LinkFlit := l.filter fun f => decide ((f.seq - ack).toNat < 2048)

/-- What every flit received tells the sender: its ack and its hold (R542, R543). -/
def State.noteAck (s : State) (port : Nat) (f : LinkFlit) : State :=
  let x := s.link port
  s.setLink port { x with replay := afterAck f.ack x.replay, peerHold := f.hold }

/-- An ack taken, and what waits sent while the sender may. -/
def State.takeAck (s : State) (port : Nat) (f : LinkFlit) : State := (s.noteAck port f).flushLink port

/-! ## Receiving (R542, R543) -/

/-- A flit that is corrupt at a port (R541). -/
def BhlPort.corrupt (x : BhlPort) (f : LinkFlit) : Bool :=
  f.bad || decide (4 ≤ f.kind) || f.width == 7 || f.width != x.rxw

/-- A nak, unless one for the same expected number is outstanding (R542) or nothing can be sent. -/
def State.sendNak (s : State) (port : Nat) : State :=
  let x := s.link port
  if x.nak = some x.e || x.retx.isSome then s else (s.setLink port { x with nak := some x.e }).emit port 2 0 x.txw .none

/-- The next flit on a port's line of some kinds, the line without it. -/
def BhlPort.arrival (x : BhlPort) (kinds : Nat → Bool) : Option (LinkFlit × BhlPort) :=
  match x.line with
  | f :: t => if kinds f.kind then some (f, { x with line := t }) else none
  | [] => none

/-- A corrupt flit is counted and answered by a nak; one that comes while the port does not run or its direction retrains is
lost (R542, R545). -/
def State.receive (s : State) (port : Nat) (kinds : Nat → Bool) (k : State → LinkFlit → State) : State :=
  match (s.link port).arrival kinds with
  | none => s
  | some (f, x) =>
    let s1 := s.setLink port x
    if !x.runs || x.rerx.isSome then s1
    else if x.corrupt f then
      (s1.setLink port { x with crcerr := if x.crcerr = 65535 then x.crcerr else x.crcerr + 1 }).sendNak port
    else k s1 f

/-- LINK_DATA_FLIT (R542): by the window of its number. -/
def execLinkDataFlit (port : Nat) (s : State) : Out :=
  .next (s.receive port (fun k => k == 1 || decide (4 ≤ k)) fun t f =>
    let t1 := t.takeAck port f
    let x := t1.link port
    let w := (f.seq - x.e).toNat
    if w = 0 then
      if 1024 ≤ x.store.length then t1
      else
        let t2 := (t1.setLink port { x with e := x.e + 1, nak := none, store := x.store ++ [f] }).emit port 0 0 x.txw .none
        match f.body with
        | .request _ => t2.later (.exportRequest port)
        | _ => t2.later (.peerDataReturn port)
    else if w < 2048 then t1.sendNak port
    else t1.emit port 0 0 x.txw .none)

/-- LINK_IDLE_FLIT (R542). -/
def execLinkIdleFlit (port : Nat) (s : State) : Out := .next (s.receive port (· == 0) fun t f => t.takeAck port f)

/-- A saturating count. -/
def satCount (x : BitVec 16) : BitVec 16 := if x = 65535 then x else x + 1

/-- LINK_NAK_FLIT (R543): every buffered flit from the ack onward is sent again, before any new one. -/
def execLinkNakFlit (port : Nat) (s : State) : Out :=
  .next (s.receive port (· == 2) fun t f =>
    let t1 := t.noteAck port f
    let x := t1.link port
    if x.replay.isEmpty || x.retx.isSome then t1.flushLink port
    else ((t1.setLink port { x with replays := satCount x.replays }).resend port x.replay).flushLink port)

/-- LINK_REPLAY_TIMEOUT (R543): no progress with flits unacknowledged; the sender resends from its oldest. -/
def execLinkReplayTimeout (port : Nat) (s : State) : Out :=
  let x := s.link port
  if x.replay.isEmpty ∨ !x.runs ∨ x.retx.isSome then .next s
  else .next ((s.setLink port { x with replays := satCount x.replays }).resend port x.replay)

/-! ## Failover (R546, R555) -/

/-- The entry that a held request belongs to. -/
def HeldPull.peer (h : HeldPull) : Option PeerRef :=
  match h.flit.body with
  | .pull r .. => some r
  | _ => none

/-- The bytes that a pull asks for. -/
def HeldPull.request (h : HeldPull) : Option LinkReq :=
  match h.flit.body with
  | .pull r off dsts _ _ => some ⟨h.id, r.window, r.epart, off, dsts.foldl (fun n d => n + d.1) 0⟩
  | _ => none

/-- Hold a request at a port engine and send it over the link (R553). -/
def State.holdPull (s : State) (port : Nat) (f : Flit) : State :=
  let x := s.link port
  let h : HeldPull := ⟨x.nextId, f⟩
  let s1 := s.setLink port { x with held := x.held ++ [h], nextId := x.nextId + 1 }
  match h.request with
  | some r => s1.sendLink port (.request r)
  | none => s1

/-- The next port of a request's entry that is up, in increasing port number (R555). -/
def State.nextPort (s : State) (p : Part) (port : Nat) (r : PeerRef) : Option Nat :=
  let l := p.peerPorts r.mask
  (l.filter (fun q => decide (port < q)) ++ l.filter fun q => decide (q < port)).find? fun q =>
    (s.link q).runs && decide ((s.link q).held.length < 4096)

/-- The requests held at a port that is not up move to the next port of their entry (R555). -/
def State.failover (s : State) (port : Nat) : State :=
  match s.partOfBand (port / 2) with
  | none => s
  | some p =>
    (s.link port).held.foldl (fun t h =>
      match h.peer.bind (t.nextPort p port) with
      | none => t
      | some q =>
        let x := t.link port
        (t.setLink port { x with held := x.held.filter fun g => g.id != h.id }).holdPull q h.flit) s

/-- A port that stops running: its buffers and its lines are empty (R546). -/
def BhlPort.down (x : BhlPort) (state : BitVec 2) : BhlPort :=
  { x with
    state := state, replay := [], unsent := [], nak := none, retx := none, rerx := none, peerHold := false, line := [], next := 0, e := 0 }

/-- A port goes down into a state, and its held requests fail over. -/
def State.dropLink (s : State) (port : Nat) (state : BitVec 2) : State :=
  (s.setLink port ((s.link port).down state)).failover port

/-- PORT_DOWN (R546): a port that runs goes down and starts a full training. -/
def execPortDown (port : Nat) (s : State) : Out :=
  if !(s.link port).runs then .next s else .next (s.dropLink port 1)

/-- BHL_RETRAIN (R548): rt starts a full training. -/
def execBhlRetrain (port : Nat) (s : State) : Out :=
  let x := s.link port
  if !x.en then .next s else .next ((s.setLink port { x with rt := true }).dropLink port 1)

/-- BHL_ENABLE (R548): en holds a port down, or releases it into a full training. -/
def execBhlEnable (port : Nat) (en : Bool) (s : State) : Out :=
  let x := s.link port
  let s1 := s.setLink port { x with en := en }
  if !en then .next (s1.dropLink port 0) else if x.state = 0 then .next (s1.dropLink port 1) else .next s1

/-! ## Lane loss and training (R545-R549) -/

/-- A port's state with the directions that retrain (R548). -/
def BhlPort.settle (x : BhlPort) : BhlPort :=
  if x.runs then { x with state := if x.retx.isSome || x.rerx.isSome then 3 else 2 } else x

/-- LANE_LOSS (R545-R547): a lane outside the active group is only marked; a lane of it makes the direction retrain at the widest
intact group, or the port goes down. -/
def execLaneLoss (port lane : Nat) (s : State) : Out :=
  let x := s.link port
  if !x.runs ∨ 16 ≤ lane then .next s
  else
    let lost : BitVec 16 := x.lost ||| (1 <<< lane)
    let x1 := { x with lost := lost }
    let active := (x.rerx.getD x.rxw).toNat
    if !(widthLanes active).contains lane then .next (s.setLink port x1)
    else
      match intactWidth lost with
      | none => .next ((s.setLink port x1).dropLink port 1)
      | some w =>
        if x.retx.isSome then .next ((s.setLink port x1).dropLink port 1)
        else .next ((s.setLink port { x1 with rerx := some w, nak := none }.settle).emit port 3 0 w .none)

/-- LINK_RETRAIN_FLIT (R541, R545): the direction toward the peer retrains at the flit's width, and its replay will start at the
flit's ack. The width field of a retrain flit names the new width; a corrupt one is handled as any corrupt flit. One that comes on a
direction that retrains itself takes the whole port down (R546). -/
def execLinkRetrainFlit (port : Nat) (s : State) : Out :=
  match (s.link port).arrival (· == 3) with
  | none => .next s
  | some (f, x) =>
    if !x.runs then .next (s.setLink port x)
    else if x.rerx.isSome then .next (s.dropLink port 1)
    else if f.bad ∨ f.width = 7 then
      .next ((s.setLink port { x with crcerr := if x.crcerr = 65535 then x.crcerr else x.crcerr + 1 }).sendNak port)
    else .next (s.setLink port { x with replay := afterAck f.ack x.replay, peerHold := f.hold, retx := some f.width }.settle)

/-- RETRAIN_COMPLETE (R543, R545): a direction runs at its new width; the sender resends. -/
def execRetrainComplete (port : Nat) (tx : Bool) (s : State) : Out :=
  let x := s.link port
  if tx then
    match x.retx with
    | none => .next s
    | some w =>
      let y := { x with retx := none, txw := w, replays := if x.replay.isEmpty then x.replays else satCount x.replays }.settle
      .next (((s.setLink port y).resend port y.replay).flushLink port)
  else
    match x.rerx with
    | none => .next s
    | some w => .next (s.setLink port { x with rerx := none, rxw := w }.settle)

/-- FULL_TRAINING_COMPLETE (R546, R547, R549): the lanes that locked are in use again, the numbers are 0, and the peer is known; the
port stays down when no quarter locked. It trains only once the module number is written and its band is assigned (R10). -/
def execFullTrainingComplete (port lanes pmod pport : Nat) (s : State) : Out :=
  let x := s.link port
  if x.state ≠ 1 ∨ !x.en ∨ s.module.number.isNone ∨ (s.partOfBand (port / 2)).isNone then .next s
  else
    let lost := ~~~(BitVec.ofNat 16 lanes)
    match intactWidth lost with
    | none => .next (s.setLink port { x with lost := lost, rt := false, state := 0 })
    | some w =>
      let y := { (x.down 2) with
        lost := lost, txw := w, rxw := w, rt := false, pmod := BitVec.ofNat 16 pmod, pport := BitVec.ofNat 5 pport }
      let s1 := s.setLink port y
      let again := (y.held.filterMap HeldPull.request).foldl (fun (t : State) r => t.sendLink port (.request r)) s1
      .next ((List.range 24).foldl (fun t q => if q != port && !(t.link q).runs && !(t.link q).held.isEmpty then t.failover q else t) again)

/-! ## Pulls (R553-R556) -/

/-- PEER_REQUEST (R553): a port engine takes a pull, keeps it and sends it over its link; a port that is not up passes it on. -/
def execPeerRequest (port : Nat) (s : State) : Out :=
  match s.partOfBand (port / 2) with
  | none => .next s
  | some p =>
    match s.takeIn p.lead (portEp port) .request with
    | some (f, s1) =>
      match f.body with
      | .pull .. =>
        let s2 := s1.holdPull port f
        .next (if (s2.link port).runs then s2 else s2.failover port)
      | _ => .next s
    | none => .next s

/-- Whether a commit of a partition is under way, so that reads of committed data wait (R140). -/
def Part.committing (p : Part) : Bool := p.launches.any fun l => l.phase == .committing

/-- The committed bytes of a range of a partition's memory, granule by granule (R464, R508). -/
def State.committedRead (s : State) (p : Part) (ppa n : Nat) : List Byte := s.viewRead p 0 true ppa n

/-- The base and length of an export entry, when it is open (R550). -/
def Part.exportEntry (p : Part) (k : Nat) : Option (Nat × Nat) :=
  let l := (Tbl.get ⟨[]⟩ p.exports k).w
  if leNat (l.take 8) % 2 = 1 then some (leNat ((l.drop 8).take 8) % 2 ^ 56, leNat ((l.drop 16).take 8) % 2 ^ 40) else none

/-- The next flit of a receive store is due; a store that has 64 free entries again tells the peer with an idle flit (R541, R542). -/
def State.wakeStore (s : State) (port : Nat) : State :=
  let x := s.link port
  let s1 := if x.store.length = 960 then s.emit port 0 0 x.txw .none else s
  match x.store with
  | f :: _ => match f.body with
    | .request _ => s1.later (.exportRequest port)
    | _ => s1.later (.peerDataReturn port)
  | [] => s1

/-- EXPORT_REQUEST (R140, R554): the exporting port engine checks the request at the head of its receive store and reads the
range as committed data, or refuses with PROT; it waits while a commit is under way. -/
def execExportRequest (port : Nat) (s : State) : Out :=
  let x := s.link port
  match x.store with
  | f :: rest =>
    match f.body with
    | .request r =>
      let s1 := (s.setLink port { x with store := rest }).wakeStore port
      let refuse := s1.sendLink port (.refusal r.id causeProt)
      match s.part? r.epart with
      | none => .next refuse
      | some p =>
        if !(decide (p.lead ≤ port / 2) && decide (port / 2 < p.lead + p.nb)) then .next refuse
        else
          match p.exportEntry r.window with
          | none => .next refuse
          | some (base, len) =>
            if len < r.off + r.len ∨ p.capacity < base + r.off + r.len then .next refuse
            else if p.committing then .next s
            else .next (s1.sendLink port (.data r.id (s.committedRead p (base + r.off) r.len)))
    | _ => .next (s.later (.peerDataReturn port))
  | [] => .next s

/-- Bytes cut into the pieces of a landing. -/
def cutPieces : List (Nat × Nat) → List Byte → List (Nat × List Byte)
  | [], _ => []
  | (n, d) :: t, b => (d, b.take n) :: cutPieces t (b.drop n)

/-- The answer to a pull from its port engine: a landing to its destination, or a refusal to the issuing channel (R389, R553,
R554). It is numbered as from the endpoint that the request was sent to. -/
def State.answerPull (s : State) (h : HeldPull) (bytes : List Byte) (refused : Option (BitVec 5)) : State :=
  match h.flit.body, refused with
  | .pull _ _ dsts dep k, none => s.sendLanding h.flit dep k (cutPieces dsts bytes)
  | .pull _ _ _ _ k, some c => s.answer h.flit (.landAck k [h.flit.dep] [] (some c))
  | _, _ => s

/-- PEER_DATA_RETURN (R553-R555): the data or the refusal of a held request is sent on; of one no longer held it is dropped. -/
def execPeerDataReturn (port : Nat) (s : State) : Out :=
  let x := s.link port
  match x.store with
  | f :: rest =>
    let go := fun (id : Nat) (bytes : List Byte) (refused : Option (BitVec 5)) =>
      let s1 := (s.setLink port { x with store := rest, held := x.held.filter fun h => h.id != id }).wakeStore port
      match List.find? (fun (h : HeldPull) => h.id == id) x.held with
      | some h => s1.answerPull h bytes refused
      | none => s1
    match f.body with
    | .data id bytes => .next (go id bytes none)
    | .refusal id c => .next (go id [] (some c))
    | .request _ => .next (s.later (.exportRequest port))
    | .none => .next ((s.setLink port { x with store := rest }).wakeStore port)
  | [] => .next s

/-- PEER_FAILOVER_TIMEOUT (R555): no port of an entry is up; its held requests are refused with COPY_ABORT. -/
def execPeerFailoverTimeout (part entry : Nat) (s : State) : Out :=
  match s.part? part with
  | none => .next s
  | some p =>
    let ports := (List.range 24).filter fun q => decide (p.lead ≤ q / 2) && decide (q / 2 < p.lead + p.nb)
    let mine := fun (h : HeldPull) => match h.peer with
      | some r => r.entry == entry && (p.peerPorts r.mask).all fun q => !(s.link q).runs
      | none => false
    .next (ports.foldl (fun t q =>
      let x := t.link q
      let gone := x.held.filter mine
      if gone.isEmpty then t
      else gone.foldl (fun u h => u.answerPull h [] (some causeCopyAbort)) (t.setLink q { x with held := x.held.filter fun h => !mine h })) s)

end Sys2Proof.Machine
end

