-- ==== Sys2Proof/Machine/Keep.lean ====
section
/-!
DEFINITION. Intervals and boundaries, cellars and mirrors (R471-R488): CKPT and SCANNO (R500-R502), cellar traffic, the close
of an interval, the fold, the high water and the loss of a cellar's host.
-/

namespace Sys2Proof.Machine

open Sys2Proof

/-! ## Hosts (R479) -/

/-- The cellars in use in a partition: site and number. -/
def Part.cellarsUsed (p : Part) : List (Nat × Nat) := p.keeps.filterMap fun e => e.2.host

/-- The better of two candidates of R479 for a site's cellar: own before extra, then nearer, then the lower site. -/
def nearerHost (site : Nat) (a b : Nat × Nat) : Bool :=
  let key := fun (h : Nat × Nat) => (if h.2 = 0 then 0 else 1, hops site h.1, h.1, h.2)
  let x := key a
  let y := key b
  decide (x.1 < y.1) || (x.1 == y.1 && (decide (x.2.1 < y.2.1) || (x.2.1 == y.2.1
    && (decide (x.2.2.1 < y.2.2.1) || (x.2.2.1 == y.2.2.1 && decide (x.2.2.2 ≤ y.2.2.2))))))

/-- The cellar host of the core at a site (R479): its buddy, or the first of the free cellars of the other domain. -/
def State.chooseHost (s : State) (p : Part) (site : Nat) : Option (Nat × Nat) :=
  let used := p.cellarsUsed
  let b := buddyOf site
  if s.usable b && !used.contains (b, 0) then some (b, 0)
  else
    let there := (bandSites (bandOf site)).filter fun x => domOf x != domOf site && s.usable x
    let own := (there.filter fun x => !s.usable (buddyOf x)).map fun x => (x, 0)
    let extra := (there.filter fun x => s.isReserve p x).flatMap fun x => [(x, 1), (x, 2), (x, 3)]
    let free := (own ++ extra).filter fun h => !used.contains h
    free.foldl (fun (m : Option (Nat × Nat)) h =>
      match m with
      | none => some h
      | some k => if nearerHost site h k && h != k then some h else some k) none

/-- The keeps of a partition at its creation: one for each LCN and supervisor, hosts chosen in that order. -/
def State.newKeeps (s : State) (p : Part) : Part :=
  let owners := p.bound.zipIdx.map (fun e => (e.2, e.1)) ++ p.sups.map fun x => (0xC000 + bandOf x, x)
  owners.foldl (fun q e => { q with keeps := Tbl.put q.keeps e.1 (Keep.new (s.chooseHost q e.2)) }) p

/-! ## Lines (R474) -/

/-- The 64 bytes of a line by its number: scratchpad, accumulator store (12 bytes an element, tile by tile) or weight
buffer. -/
def State.lineBytes (s : State) (site line : Nat) : List Byte :=
  let c := s.core site
  if line < 65536 then s.scrRead site (64 * line) 64
  else if line < 131072 then
    (List.range 64).map fun i =>
      let at' := 64 * (line - 65536) + i
      let e := at' / 12
      BitVec.ofNat 8 ((Tbl.get 0 (c.tiles[e / 4096]?.getD TileSt.new).elems (e % 4096)).toNat / 256 ^ (at' % 12) % 256)
  else
    let at' := 64 * (line - 131072)
    padTo 64 (((c.wslots[at' / 65536]?.getD none).getD []).drop (at' % 65536))

/-- The copies of lines with their tags. -/
def State.lineCopies (s : State) (site : Nat) (lines : List Nat) : List LineCopy :=
  let c := s.core site
  lines.map fun j => (j, Tbl.get 0 c.tags j, s.lineBytes site j)

/-! ## Boundaries (R471, R475) -/

/-- Ask for a boundary of the core at a site. -/
def State.wantBoundary (s : State) (site : Nat) : State :=
  match s.keepAt site with
  | some (p, ep, _) => (s.updKeep p.lead ep fun k => { k with want := true }).due (.checkpointBoundary site)
  | none => s

/-- INTERVAL_TIMER (R471): the timer asks for a boundary. -/
def execIntervalTimer (site : Nat) (s : State) : Out := .next (s.wantBoundary site)

/-- A core at the end of a boundary's step 1: its issued scalar words are complete, a CKPT is released. -/
def Core.capture (c : Core) : Core :=
  let one := fun (x : Ctx) =>
    match x.hold with
    | .ckpt => { x.drainScalar with hold := .ckptDone }
    | _ => x.drainScalar
  { c with ctxs := c.ctxs.map one, dirty := [] }

/-- CHECKPOINT_BOUNDARY (R475, R477): the snapshot and the dirty lines are captured, the boundary logged, and the copy sets
out; a core without a cellar closes the interval at once. It waits while a copy is in progress, and for the end of an open word
group (R67). -/
def execCheckpointBoundary (site : Nat) (s : State) : Out :=
  match s.keepAt site with
  | none => .next s
  | some (p, ep, k) =>
    let c := s.core site
    if !k.want ∨ k.copy.isSome ∨ c.paused ∨ c.ctxs.toList.any Ctx.inGroup then .next s
    else
      let lines := s.lineCopies site (c.dirty.map (·.1))
      let c1 := c.capture
      let iv : Ival := ⟨k.num, c.en, s.timeAt site, site, { c1 with log := [] }, lines⟩
      let s1 := (s.setCore site c1).logEv site 12 0 (k.num.setWidth 64) 0 0xFFFF 0 []
      let s2 := s1.updKeep p.lead ep fun q =>
        if q.host.isSome then
          { q with num := q.num + 1, want := false, copy := some iv, left := lines, snapLeft := 1024, out := 0, closeSent := false }
        else { q with num := q.num + 1, want := false }
      let s3 := s2.wakeEngines site
      .next (if k.host.isSome then s3.later (.cellarCopy site) else if c.drained then s3.later (.scanPass site) else s3)

/-- CKPT (R500, R501): held until its boundary's capture ends. -/
def execCkpt (s : State) : Out :=
  issueWord s noHints [] [] true false false fun i =>
    match s.me.hold with
    | .ckptDone => .next (s.setMe i.c.advance)
    | .ckpt => .next s
    | _ =>
      if (s.keepAt s.cur.1).isNone then .next (s.setMe i.c.advance)
      else .next ((s.setMe { s.me with hold := .ckpt }).wantBoundary s.cur.1)

/-- SCANNO (R500, R502): the core's pass number, logged. -/
def execScanno (d : Reg) (s : State) : Out :=
  issueWord s noHints [] [d] true false false fun i =>
    let v := BitVec.ofNat 64 s.myCore.pass
    .next ((finishScalar s i.c d v 0).logEv s.cur.1 9 s.cur.2 v 0 0xFFFF 0 [])

/-! ## The copy (R476, R477, R480, R481, R485) -/

/-- The records of a log that travel in one flit: the first, and those that fit into its 256 bytes. -/
def flitRecs : Nat → List LogRec → List LogRec
  | _, [] => []
  | room, r :: t => if r.bytes ≤ room then r :: flitRecs (room - r.bytes) t else []

/-- Whether an event number is before another, modulo 2^32. -/
def beforeEn (a b : BitVec 32) : Bool := a != b && decide ((b - a).toNat < 2 ^ 31)

/-- What a core sends next to its cellar: the body, and its keep with the flit on its way; the records of its log first, then
lines, then the close line. -/
def Keep.nextFlit (k : Keep) (log : List LogRec) : Option (Nat × Body × Keep) :=
  match k.copy with
  | none =>
    if k.sent = 0 ∧ !log.isEmpty then
      let r := log.take (max 1 (flitRecs 256 log).length)
      some (0, .cellar k.num [] 0 r false, { k with sent := r.length })
    else none
  | some iv =>
    if k.sent = 0 ∧ !log.isEmpty then
      let r := log.take (max 1 (flitRecs 256 log).length)
      some (0, .cellar k.num [] 0 r false, { k with sent := r.length })
    else if !k.left.isEmpty then
      some (1, .cellar iv.num (k.left.take 3) 0 [] false, { k with left := k.left.drop 3, out := k.out + 1 })
    else if k.snapLeft ≠ 0 then
      let n := min 3 k.snapLeft
      some (1, .cellar iv.num [] n [] false, { k with snapLeft := k.snapLeft - n, out := k.out + 1 })
    else if k.out = 0 ∧ !k.closeSent ∧ log.all (fun r => !beforeEn r.en iv.en) then
      some (1, .cellar iv.num [] 0 [] true, { k with closeSent := true, out := 1 })
    else none

/-- CELLAR_COPY (R476, R481, R485): a core sends its next flit to its cellar, when the cellar has room and the pair takes
it. -/
def execCellarCopy (site : Nat) (s : State) : Out :=
  match s.keepAt site with
  | none => .next s
  | some (p, ep, k) =>
    match k.host with
    | none => .next s
    | some h =>
      let dep := s.hostEp p h.1
      if (s.core site).stopped ∨ (s.core site).fenced ∨ !p.canSend ep dep ∨ cellarSize ≤ k.lines then .next s
      else
        match k.nextFlit (s.core site).log with
        | none => .next s
        | some (id, body, k1) =>
          let s1 := s.updKeep p.lead ep fun _ => k1
          .next ((s1.send p.lead site false ep dep replyCellar id h.1 0 body).later (.cellarCopy site))

/-- CELLAR_TRAFFIC (R481): the host's port writes a flit and answers; records of an owner that it no longer serves go. -/
def execCellarTraffic (part ep : Nat) (s : State) : Out :=
  match s.takeIn part ep .request with
  | some (f, s1) =>
    match f.body, s1.part? part with
    | .cellar _ lines snap recs closing, some p =>
      let owner := f.sep
      let here := p.siteOf ep
      let store := fun (k : Keep) =>
        if k.host.map (·.1) ≠ some here then k
        else
          let k1 := { k with part := k.part ++ lines, snapPart := k.snapPart + snap, log := k.log ++ recs }
          match closing, k.copy with
          | true, some iv => { k1 with ivals := k.ivals ++ [{ iv with lines := k.part }], part := [], snapPart := 0 }
          | _, _ => k1
      let s2 := (s1.updKeep part owner store).answer f (.ack none 0)
      let site := p.siteOf owner
      .next (s2.noteHigh site)
    | _, _ => .next s
  | none => .next s

/-- HIGH_WATER (R478): a boundary and an expedited pass. -/
def execHighWater (site : Nat) (s : State) : Out :=
  match s.keepAt site with
  | none => .next s
  | some (_, _, k) => if s.isHigh site k then .next ((s.wantBoundary site).requestPass site false) else .next s

/-- INTERVAL_CLOSE (R477): the close line is written and everything acknowledged; what waited for it goes on. -/
def execIntervalClose (site : Nat) (s : State) : Out :=
  match s.keepAt site with
  | none => .next s
  | some (p, ep, k) =>
    if k.copy.isNone ∨ !k.closeSent ∨ k.out ≠ 0 then .next s
    else
      let s1 := s.updKeep p.lead ep fun q => { q with copy := none, closeSent := false }
      let s2 := if k.want then s1.due (.checkpointBoundary site) else s1
      .next ((if (s.core site).drained ∧ !k.want then s2.later (.scanPass site) else s2).noteHigh site)

/-! ## The mirror (R487, R488) -/

/-- A mirror with line copies applied. -/
def Mirror.apply (m : Mirror) (l : List LineCopy) : Mirror :=
  l.foldl (fun (n : Mirror) e => { n with lines := Tbl.put n.lines e.1 e.2.2, tags := Tbl.put n.tags e.1 e.2.1 }) m

/-- The intervals of a keep that the pass has validated folded into its mirror slot; they are freed with the records before the last
of their boundaries (R488). -/
def Keep.folded (k : Keep) : Keep :=
  let good := k.ivals.filter fun iv => beforeEn iv.num k.foldNum
  match good.getLast? with
  | none => { k with fold := false }
  | some last =>
    let m := good.foldl (fun (n : Mirror) iv => n.apply iv.lines) k.mirror
    { k with
      mirror := { m with num := last.num, en := last.en, pass := k.foldPass, snap := last.snap },
      ivals := k.ivals.filter (fun iv => !beforeEn iv.num k.foldNum), log := k.log.filter (fun r => !beforeEn r.en last.en), fold := false }

/-- A core's whole state written to its mirror slot at a pass (R482). -/
def State.wholeMirror (s : State) (site : Nat) (k : Keep) : Keep :=
  let c := s.core site
  let lines := (c.tags.map (·.1)) ++ (k.mirror.lines.map (·.1)).filter fun j => (Tbl.find? c.tags j).isNone
  let m : Mirror := ⟨k.num, c.en, k.foldPass, { c with log := [] }, [], []⟩
  { k with mirror := m.apply (s.lineCopies site lines), ivals := [], log := [], fold := false, whole := false }

/-- The flits that wait at an endpoint whose core runs again are due. -/
def State.wakePort (s : State) (p : Part) (ep : Nat) : State :=
  let e := p.ep ep
  let a := e.reqIn.foldl (fun t f => t.due (eventOf p.lead ep .request f.body)) s
  e.repIn.foldl (fun t f => t.due (eventOf p.lead ep .reply f.body)) a

/-- What a launch asks of a core that runs again. -/
def State.wakeLaunchSteps (s : State) (p : Part) (site : Nat) : State :=
  p.launches.foldl (fun t l =>
    let v := l.vint.toNat
    let t1 := if l.domTodo.contains site then t.later (.domainEnd site v) else t
    if !l.todo.contains site then t1
    else
      match l.phase with
      | .kill1 => t1.due (.killMessage site v)
      | .gating => t1.due (.gatingWave site v)
      | .running => t1.due (.doneWave site v)
      | .filling => t1.later (.recordStoreFill site v)
      | _ => t1) s

/-- The messages that wait at a core's collective port are due (R493). -/
def State.wakeCollPort (s : State) (site : Nat) : State :=
  (s.core site).colIn.foldl (fun t e =>
    if e.1 < 64 then t.due (.result site e.1)
    else if e.1 < 128 then t.later (.proxyResult site (e.1 - 64))
    else t.due (.chainPartial site (e.1 - 128))) s

/-- A core runs again: its port, its engines and what launches ask of it. -/
def State.resume (s : State) (site : Nat) : State :=
  match s.partAt site with
  | none => s
  | some p =>
    let s0 := match s.keepAt site with
      | some (_, _, k) => if k.want then s.due (.checkpointBoundary site) else s
      | none => s
    let s1 := match s0.ownerEp p site with
      | some ep => s0.wakePort p ep
      | none => s0
    let look := fun (t : State) (n : Nat) =>
      let u := t.wakeContext site n
      if (s.core site).wq.any fun e => e.ctx == n && !e.sent then u.due (.writeQueueDrain site n) else u
    (((((List.range 8).foldl look (s1.wakeEngines site)).wakeCollPort site).wakeLaunchSteps p site).dueLandings p.lead).due (.poolPull site)

/-- MIRROR_FOLD (R488): the fold that a pass has asked for. A sparing that waits for it goes on, and so does a core whose cellar had no
room (R478). -/
def execMirrorFold (site : Nat) (s : State) : Out :=
  match s.keepAt site with
  | none => .next s
  | some (p, ep, k) =>
    if !k.fold then .next s
    else
      let s1 := (s.updKeep p.lead ep fun _ => k.folded).later (.cellarCopy site)
      .next (if k.full ∧ !k.folded.full then s1.resume site else s1)

/-! ## The loss of a host (R482) -/

/-- The sites whose cellar lies at a site. -/
def Part.hostedAt (p : Part) (f : Nat × Nat → Bool) : List Nat :=
  p.keeps.filterMap fun e => if (e.2.host.map f).getD false then some (p.siteOf e.1) else none

/-- A core loses every record of its cellar (R482): it takes a substitute host, a boundary and an expedited pass at the head. -/
def State.loseCellar (s : State) (p : Part) (ep : Nat) (k : Keep) (site : Nat) : State :=
  let bare := { k with host := none }
  let host := s.chooseHost { p with keeps := Tbl.put p.keeps ep bare } site
  let k1 := { bare with
    host := host, copy := none, left := [], snapLeft := 0, out := 0, closeSent := false, sent := 0, ivals := [], part := [],
    snapPart := 0, log := [], whole := true }
  ((s.updKeep p.lead ep fun _ => k1).wantBoundary site).requestPass site true

/-- CELLAR_HOST_LOSS (R482): a core whose host is fenced, or gives its cellar up, takes a substitute, a boundary and an
expedited pass at the head. -/
def execCellarHostLoss (site : Nat) (s : State) : Out :=
  match s.keepAt site with
  | none => .next s
  | some (p, ep, k) =>
    match k.host with
    | none => .next s
    | some h =>
      if s.usable h.1 ∧ (h.2 = 0 ∨ s.isReserve p h.1) then .next s
      else .next (s.loseCellar p ep k site)

end Sys2Proof.Machine
end

