-- ==== Sys2Proof/Machine/Sparing.lean ====
section
/-!
DEFINITION. Detected errors, rebinding and sparing (R22, R392, R406, R429, R430, R486, R489-R495), scan passes and their
failures (R496-R499), watchdogs (R491), the ring's health sweep (R410).
-/

namespace Sys2Proof.Machine

open Sys2Proof

/-! ## Rebinding (R406) -/

/-- Change the sparing of a band. -/
def State.setSparing (s : State) (b : Nat) (x : Option Sparing) : State := s.setBand b { s.band b with sparing := x }

/-- The routers that a rebinding broadcast visits. -/
def State.liveRouters (s : State) (p : Part) : List Nat := p.sites.filter fun x => !(s.router x).fenced

/-- A rebinding entry written at a router. -/
def State.rebindAt (s : State) (site ep : Nat) (e : Nat × BindState) : State :=
  let r := s.router site
  s.setRouter site { r with rebind := Tbl.put r.rebind ep e }

/-- One visit of a broadcast of a sparing in a given step: what a site does, its acknowledgement due, the next visit due. -/
def State.visitRebind (s : State) (site ep : Nat) (step : SpStep) (act : State → Sparing → State) (ack next : Nat → Due) : State :=
  match s.partAt site with
  | none => s
  | some p =>
    match s.sparingOf p ep with
    | none => s
    | some (b, x) =>
      if x.step ≠ step ∨ !x.todo.contains site then s
      else
        let s1 := act s x
        let rest := x.todo.filter (· != site)
        let s2 := (s1.setSparing b (some { x with todo := rest })).later (ack site)
        match rest with
        | y :: _ => s2.later (next y)
        | [] => s2

/-- An acknowledgement of a broadcast; the last one ends the step. -/
def State.ackRebind (s : State) (site ep : Nat) (step : SpStep) (done : State → Nat → Sparing → State) : State :=
  match s.partAt site with
  | none => s
  | some p =>
    match s.sparingOf p ep with
    | none => s
    | some (b, x) =>
      if x.step ≠ step ∨ x.todo.contains site ∨ !x.acks.contains site then s
      else
        let y := { x with acks := x.acks.filter (· != site) }
        let s1 := s.setSparing b (some y)
        if y.acks.isEmpty then done s1 b y else s1

/-- REBIND_FENCE (R406): the router parks the entry. -/
def execRebindFence (site ep : Nat) (s : State) : Out :=
  .next (s.visitRebind site ep .fence (fun t x => t.rebindAt site ep (x.site, .parked)) (.rebindFenceAck · ep) (.rebindFence · ep))

/-- REBIND_FENCE_ACK (R406, R493): after the last the core is drained. -/
def execRebindFenceAck (site ep : Nat) (s : State) : Out :=
  .next (s.ackRebind site ep .fence fun t b x => (t.setSparing b (some { x with step := .restore })).later (.sparingRestore b))

/-- REBIND_BIND (R406): the router binds the endpoint to the reserve. -/
def execRebindBind (site ep : Nat) (s : State) : Out :=
  .next (s.visitRebind site ep .bind (fun t x => t.rebindAt site ep (x.reserve, .bound)) (.rebindBindAck · ep) (.rebindBind · ep))

/-- REBIND_BIND_ACK (R406, R493): after the last the parked lists are released. -/
def execRebindBindAck (site ep : Nat) (s : State) : Out :=
  .next (s.ackRebind site ep .bind fun t b x => (t.setSparing b (some { x with step := .release })).later (.sparingRelease b))

/-- REBIND_RELEASE (R403, R406): a band's rim releases the lists of the endpoint. -/
def execRebindRelease (site ep : Nat) (s : State) : Out :=
  .next (s.visitRebind site ep .release
    (fun t _ => match t.partAt site with
      | some p => t.wakeSiding p ep
      | none => t) (.rebindReleaseAck · ep) (.rebindRelease · ep))

/-! ## Ends of a sparing -/

/-- A list of sites with one renamed. -/
def renameSite (a b : Nat) (l : List Nat) : List Nat := l.map fun x => if x = a then b else x

/-- A launch whose core moves from one site to another. -/
def Launch.moveSite (a b : Nat) (l : Launch) : Launch :=
  { l with
    todo := renameSite a b l.todo, acks := renameSite a b l.acks, domTodo := renameSite a b l.domTodo,
    domAcks := renameSite a b l.domAcks, answers := l.answers.map fun e => (if e.1 = a then b else e.1, e.2) }

/-- Launches that wait for a gating wave ask again (R452). -/
def State.regate (s : State) (p : Part) : State :=
  p.launches.foldl (fun t l =>
    if l.phase = .gating ∧ l.acks.isEmpty then t.due (.gatingWave (p.bound.headD 0) l.vint.toNat) else t) s

/-- The vintages of a provisional list meet a failed scan (R453, R463): killed, and relaunched unless switched. -/
def State.failVintages (s : State) (p : Part) (prov : List (BitVec 32 × Nat)) (relaunch : Bool) : State :=
  prov.foldl (fun t e =>
    let switched := ((p.launch? e.1).map (·.switched)).getD false
    t.startKill p.lead e.1 ⟨6, 0, 0, relaunch && !switched⟩) s

/-- A core as its mirror slot gives it, every context idle, nothing outstanding (R499). -/
def Mirror.core (m : Mirror) (pass : Nat) (prov : List (BitVec 32 × Nat)) : Core :=
  let c := m.snap
  { Core.reset with
    bufs := c.bufs, pats := c.pats, shapes := c.shapes, tiles := c.tiles.map fun t => { t with holder := none, image := none, waiters := [] },
    wslots := c.wslots, tags := m.tags, dirty := m.tags.map fun e => (e.1, ()), en := m.en + 1, ports := c.ports, pass := pass,
    prov := prov.map fun e => (e.1, pass) }

/-- The scratchpad lines of a table of line copies written at a site, every other visible byte zero. -/
def State.loadLines (s : State) (site : Nat) (lines : Tbl (List Byte)) : State :=
  let base := scrAddr site 0
  let clean := s.mem.filter fun e => decide (e.1 < base) || decide (base + 0x300000 ≤ e.1)
  lines.foldl (fun t e => if e.1 < 49152 then t.scrWrite site (64 * e.1) e.2 else t) { s with mem := clean }

/-- A core's visible scratchpad moved to another site. -/
def State.moveScratch (s : State) (a b : Nat) : State :=
  let lo := scrAddr a 0
  let dst := scrAddr b 0
  let mine := s.mem.filter fun e => decide (lo ≤ e.1) && decide (e.1 < lo + 0x300000)
  let clean := s.mem.filter fun e => decide (e.1 < dst) || decide (dst + 0x300000 ≤ e.1)
  { s with mem := mine.foldl (fun m e => memSet m (dst + (e.1 - lo)) e.2) clean }

/-! ## Starting a sparing (R489, R493) -/

/-- A failed core as it stands from then on: fenced and stopped, no state. -/
def fencedCore (retired : Bool) : Core := { Core.reset with fenced := true, stopped := true, retired := retired }

/-- The next failed core of a band is fenced, when none is (R495). -/
def State.nextSparing (s : State) (b : Nat) : State :=
  let x := s.band b
  match x.sparing, x.failed, s.partOfBand b with
  | none, (site, core) :: rest, some p =>
    match s.ownerEp p site with
    | none => s.setBand b { x with failed := rest }
    | some ep =>
      let bare := ((Tbl.find? p.keeps ep).map fun k => k.host.isNone || k.whole).getD true
      let routers := s.liveRouters p
      let sp : Sparing := ⟨ep, site, core, site, .fence, [], bare || core.retired, routers, routers⟩
      (s.setBand b { x with failed := rest, sparing := some sp }).later (.rebindFence (routers.headD site) ep)
  | _, _, _ => s

/-- The core of an endpoint stops (R493 step 1): its state is set aside, timers of its partition stand still. -/
def State.stopCore (s : State) (p : Part) (site ep : Nat) (retired : Bool) : State :=
  let c := s.core site
  let b := bandOf site
  let s1 := (s.setCore site (fencedCore retired)).setBand b
    { s.band b with failed := (s.band b).failed ++ [(site, { c with retired := retired })] }
  (s1.updPart p.lead fun q => q.startRebind s.module.fc ep).nextSparing b

/-- The owners of the cellars at a site lose them (R482). -/
def State.loseCellars (s : State) (site : Nat) : State :=
  match s.partAt site with
  | none => s
  | some p => (p.hostedAt fun h => h.1 == site).foldl (fun t x => t.later (.cellarHostLoss x)) s

/-- A site without an endpoint is given up: fenced and retired, its cellars lost (R479, R497). -/
def State.dropSite (s : State) (site : Nat) : State := (s.setCore site (fencedCore true)).loseCellars site

/-- A core has failed, by an error or by a scan. -/
def State.failCore (s : State) (site : Nat) (scan : Bool) : State :=
  match s.partAt site with
  | none => s.dropSite site
  | some p =>
    match s.ownerEp p site with
    | none => s.dropSite site
    | some ep => s.stopCore p site ep scan

/-- A router is fenced: the flits that it held are lost with it (R392). -/
def Router.fence (r : Router) : Router :=
  { r with
    lost := r.lost ++ r.inReq.toList.flatten ++ r.inRep.toList.flatten, inReq := Router.reset.inReq, inRep := Router.reset.inRep, fenced := true }

/-- The flits that a fenced router lost are sent again by their senders, after the recovery of R22 (R392). A carriage, which has no
pair, enters again at the rim. -/
def State.resendLost (s : State) (p : Part) (site : Nat) : State :=
  let r := s.router site
  r.lost.foldl (fun t f0 =>
    let f := { f0 with det := false, park := false, last := 0 }
    let at' := if f.sep = 0xFFFF then releasePort f.dsite else p.siteOf f.sep
    (t.setRouter at' ((t.router at').offer (isRimEp f.sep || f.sep == 0xFFFF) f)).entered f.plane at' f) (s.setRouter site { r with lost := [] })

/-- Whether the recovery of R22 of a site's core is still to come or under way. -/
def State.recovering (s : State) (site : Nat) : Bool :=
  let x := s.band (bandOf site)
  x.failed.any (fun e => e.1 == site) || match x.sparing with
    | some y => y.site == site || y.reserve == site
    | none => false

/-- The lost flits of the routers whose sites no recovery concerns are sent again (R392). -/
def State.resendReady (s : State) (p : Part) : State :=
  s.routers.foldl (fun t e =>
    if e.2.lost.isEmpty || t.recovering e.1 || (t.partAt e.1).map (·.lead) != some p.lead then t else t.resendLost p e.1) s

/-- A router is fenced (R392, R430): every launch that has used a group with a node there is killed and relaunched. -/
def State.fenceRouter (s : State) (site : Nat) : State :=
  let s1 := s.setRouter site (s.router site).fence
  match s.partAt site with
  | none => s1
  | some p =>
    let groups := (s.router site).groups.map (·.1)
    let hit := p.launches.filter fun l => l.groups.any groups.contains
    s1.failVintages p (hit.map fun l => (l.vint, 0)) true

/-- A core whose error was detected: in a pass the pass fails; on the reserve of a sparing the steps begin again with another;
else it stops, and its sparing begins when its band's turn comes. -/
def State.errorAt (s : State) (site : Nat) : State :=
  let b := bandOf site
  match s.partAt site, (s.band b).sparing with
  | some _, some x =>
    if x.reserve = site ∧ x.site ≠ site then
      let back := { x with step := .restore, todo := [], acks := [] }
      let s1 := s.updCore x.site fun c => { c with colIn := c.colIn ++ (s.core site).colIn }
      ((s1.setCore site (fencedCore false)).setSparing b (some back)).loseCellars site |>.later (.sparingRestore b)
    else (if s.inPass site then s.endPass site else s).failCore site (s.inPass site)
  | some _, none => (if s.inPass site then s.endPass site else s).failCore site (s.inPass site)
  | none, _ => (if s.inPass site then s.endPass site else s).dropSite site

/-- A group's tree laid again around a fenced router (R430), with its program configuration and its contributors. -/
def State.relayGroup (s : State) (p : Part) (old grp : Nat) : State :=
  match s.gentry old grp with
  | none => s
  | some e =>
    let owners := p.sites.filterMap fun y => match s.gentry y grp with
      | some e => if e.own then p.bound[e.olcn]? else none
      | none => none
    match (if e.root = old ∨ (s.router e.root).fenced then s.standingRoot p else some e.root) with
    | none => s
    | some root => s.layGroup p grp (entriesOf p e.conf root (s.standingNodes { p with bound := owners } root))

/-- The groups and the ring of a partition laid again around a fenced router (R409, R430). -/
def State.layAround (s : State) (p : Part) (site : Nat) : State :=
  let t := ((s.router site).groups.map (·.1)).foldl (fun t g => t.relayGroup p site g) s
  t.updPart p.lead fun q => { q with ring := (t.ringOf q).getD q.ring }

/-- DETECTED_ERROR (R22, R392, R430, R489, R493, R495): whether the error lies in the router, which is then fenced, is open; the router of
a dead, retired or fenced site still forwards, and can meet one too. Where no sparing follows, the trees and the ring are laid around the
fenced router at once. -/
def execDetectedError (site : Nat) (s : State) : Out :=
  let c := s.core site
  let router := Config.freeBits 1 s.tick == 1 && !(s.router site).fenced
  let s1 := if router then s.fenceRouter site else s
  let s2 := if c.dead || c.retired || (c.fenced && !c.replaying) then s1 else s1.errorAt site
  match s2.partAt site with
  | some p => .next ((if router && !s2.recovering site then s2.layAround p site else s2).resendReady p)
  | none => .next s2

/-- Whether an engine of a core holds work: the scalar pipeline, the vector sequencer, the tile queue, the copy engine or the scratchpad
port (R491). -/
def Core.holdsWork (c : Core) : Bool :=
  c.ctxs.toList.any (·.occ == .running) || !c.vq.isEmpty || !c.tq.isEmpty || !c.xfers.isEmpty || !c.waitReads.isEmpty

/-- Whether a watchdog of a core counts (R491): not during a boundary pause, a cellar or staging hold, a scan pass or a collective
standstill (R424). -/
def State.watchCounts (s : State) (site : Nat) : Bool := s.coreIssues site && !s.inPass site && !s.timersStill site

/-- CORE_WATCHDOG (R491): an engine that holds work makes no progress; a detected error. The event names a state that has stood for
65,536 cc. -/
def execCoreWatchdog (site : Nat) (s : State) : Out :=
  let c := s.core site
  if !s.watchCounts site ∨ !c.holdsWork ∨ c.dead ∨ c.retired ∨ c.fenced then .next s else .next (s.errorAt site)

/-! ## Restoring on a reserve (R492, R493, R499) -/

/-- The reserve for a failed site (R492). -/
def State.chooseReserve (s : State) (p : Part) (site : Nat) : Option Nat :=
  let free := (bandSites (bandOf site)).filter fun x => s.isReserve p x && !s.inPass x && !(s.core x).paused
  let used := p.cellarsUsed
  let extra := fun (x : Nat) => used.any fun h => h.1 == x && h.2 != 0
  let better := fun (a b : Nat) =>
    if extra a != extra b then !extra a
    else decide (hops site a < hops site b) || (hops site a == hops site b && decide (a < b))
  free.foldl (fun (m : Option Nat) x =>
    match m with
    | none => some x
    | some y => if better x y then some x else some y) none

/-- The entries of a provisional list adopted by a core (R493). -/
def adoptProv (prov : List (BitVec 32 × Nat)) (pass : Nat) : List (BitVec 32 × Nat) := prov.map fun e => (e.1, pass)

/-- No reserve is left (R495): every uncommitted vintage of the list ends with DETECTED, and the partition admits no
launch. -/
def State.noReserve (s : State) (p : Part) (b : Nat) (x : Sparing) : State :=
  let s1 := (s.setSparing b none).updPart p.lead fun q => { q.endRebind s.module.fc x.ep with stopped := true }
  let s2 := s1.updCore x.site fun c => { c with stopped := false }
  match s2.part? p.lead with
  | none => s2
  | some q => ((((s2.failVintages q x.core.prov false).loseCellars x.site).wakeLaunchSteps q x.site).nextSparing b).resendReady q

/-- The scratchpad lines that a restore gives: the mirror's, then those of the closed intervals (R493). -/
def Keep.restoreLines (k : Keep) : Mirror := k.ivals.foldl (fun m iv => m.apply iv.lines) k.mirror

/-- SPARING_RESTORE (R493 steps 3-5, R495, R499): the failed core is drained, a reserve chosen and restored. A parity error
in the drain, which is open, or the loss of the cellar's host makes it a failed scan. It waits for a fold. -/
def execSparingRestore (band : Nat) (s : State) : Out :=
  match (s.band band).sparing, s.partOfBand band with
  | some x, some p =>
    match Tbl.find? p.keeps x.ep with
    | none => .next s
    | some k =>
      if x.step ≠ .restore then .next s
      else if k.fold ∧ !x.scan then .next ((s.later (.mirrorFold x.site)).later (.sparingRestore band))
      else
        let parity := Config.freeBits 1 s.tick == 1
        let hostLost := match k.host with
          | some h => !s.usable h.1
          | none => true
        let scan := x.scan || parity || hostLost
        match s.chooseReserve p x.site with
        | none => .next (s.noReserve p band x)
        | some r =>
          let s := if scan then s.updCore x.site fun c => { c with retired := true } else s
          let s0 := (p.hostedAt fun h => h.1 == r && h.2 != 0).foldl (fun t o => t.later (.cellarHostLoss o)) s
          let s1 := if scan then s0
            else (s0.setBand band { s0.band band with diag := (s0.band band).diag ++ [(x.site, x.ep)] }).later
              (.diagnosticScanResult x.site true)
          let pass := (s.core r).pass
          let m := if scan then k.mirror else k.restoreLines
          let snap := ((k.ivals.getLast?).map (·.snap)).getD k.mirror.snap
          let core : Core := if scan then { m.core pass x.core.prov with replaying := true }
            else { snap with replaying := true, colIn := [], pass := pass, prov := adoptProv x.core.prov pass, scanAsked := false,
                             adopted := x.core.prov.map (·.1) }
          let from' := ((k.ivals.getLast?).map (·.en)).getD k.mirror.en
          let recs := if scan then [] else (k.log ++ x.core.log.drop k.sent).filter fun e => beforeEn from' e.en
          let x1 := { x with step := .bind, reserve := r, replay := recs, scan := scan }
          .next ((((s1.setCore r core).loadLines r m.lines).setSparing band (some x1)).later (.sparingBind band))
  | _, _ => .next s

/-- A ring after a rebinding: the visit of the fenced site becomes a relay, and the first entry of the reserve the visit of its LCN; a
reserve that the ring passes again stays a relay there (R408, R409). -/
def revisit (old reserve : Nat) (lcn : Option Nat) : List RingEntry → List RingEntry
  | [] => []
  | e :: t =>
    if e.site = reserve then ⟨e.site, lcn⟩ :: t.map fun x => if x.site = old then ⟨x.site, none⟩ else x
    else (if e.site = old then ⟨e.site, none⟩ else e) :: revisit old reserve lcn t

/-- SPARING_BIND (R406, R409, R430, R493 step 6): the endpoint's site, the failed one or a reserve that failed since, becomes the reserve, the ring table is rewritten, and the
BIND broadcast sets out. -/
def execSparingBind (band : Nat) (s : State) : Out :=
  match (s.band band).sparing, s.partOfBand band with
  | some x, some p =>
    if x.step ≠ .bind ∨ !x.todo.isEmpty ∨ !x.acks.isEmpty then .next s
    else
      let old := p.siteOf x.ep
      let bound := if x.ep < 0x8000 then renameSite old x.reserve p.bound else p.bound
      let sups := if x.ep < 0x8000 then p.sups else renameSite old x.reserve p.sups
      let routers := s.liveRouters p
      let q := { p with bound := bound, sups := sups, launches := p.launches.map (Launch.moveSite old x.reserve) }
      let s1 := (s.setPart p.lead q).setSparing band (some { x with todo := routers, acks := routers })
      let ring := if (s.router old).fenced then (s1.ringOf q).getD q.ring else revisit old x.reserve (indexOf bound x.reserve) q.ring
      let s2 := s1.setPart p.lead { q with ring := ring }
      let s3 := if (s.router old).fenced then
          ((s.router old).groups.map (·.1)).foldl (fun t g => t.relayGroup q old g) s2
        else s2
      .next (s3.later (.rebindBind (routers.headD x.reserve) x.ep))
  | _, _ => .next s

/-- SPARING_RELEASE (R403, R406, R493 step 7): the parked lists of every band are released. -/
def execSparingRelease (band : Nat) (s : State) : Out :=
  match (s.band band).sparing, s.partOfBand band with
  | some x, some p =>
    if x.step ≠ .release ∨ !x.todo.isEmpty ∨ !x.acks.isEmpty then .next s
    else
      let rims := (List.range p.nb).map fun k => 10 * (p.lead + k)
      .next ((s.setSparing band (some { x with todo := rims, acks := rims })).later (.rebindRelease (rims.headD 0) x.ep))
  | _, _ => .next s

/-- The core that runs from the end of a replay: as the failed core stopped, with what the reserve keeps of its own (R486,
R493), and with the collective messages that came since (R429). The lines of an unclosed copy are dirty again (R495). -/
def Sparing.live (x : Sparing) (k : Keep) (r : Core) (late : List (Nat × CMsg)) : Core :=
  let redo : List Nat := match k.copy with
    | some iv => iv.lines.map Prod.fst
    | none => []
  { x.core with
    fenced := false, stopped := false, drained := false, scanning := false, replaying := false, retired := false,
    pass := r.pass, prov := adoptProv x.core.prov r.pass, scanAsked := false, adopted := r.adopted, corr := r.corr,
    colIn := x.core.colIn ++ late,
    dirty := redo.foldl (fun d j => Tbl.put d j ()) x.core.dirty }

/-- The flits that the port of a fenced core still offers, sent again from the reserve with their numbers (R393, R400). -/
def State.moveOffers (s : State) (a b : Nat) : State :=
  let r := s.router a
  let s1 := s.setRouter a { r with offCoreReq := [], offCoreRep := [] }
  (r.offCoreReq ++ r.offCoreRep).foldl (fun t f => (t.setRouter b ((t.router b).offer false f)).entered f.plane b f) s1

/-- A sparing ends: the endpoint's core is live on the reserve with a cellar of its own, the timers resume, the launches that
wait for it go on, and the next failed core's turn comes (R493). After a failed scan the vintages of its list are killed
(R499). -/
def State.endSparing (s : State) (p : Part) (band : Nat) (x : Sparing) (k : Keep) : State :=
  let r := s.core x.reserve
  let late := (s.core x.site).colIn ++ r.colIn
  let s1 := if x.scan then s.setCore x.reserve { r with replaying := false, colIn := late }
    else (s.setCore x.reserve (x.live k r late)).moveScratch x.site x.reserve
  let bare := { k with host := none, copy := none, left := [], snapLeft := 0, out := 0, closeSent := false, sent := 0, part := [], snapPart := 0 }
  let keeps := Tbl.put p.keeps x.ep bare
  let host := s1.chooseHost { p with keeps := keeps } x.reserve
  let k1 := if x.scan then { bare with host := host, ivals := [], log := [] } else { bare with host := host }
  let q := { p.endRebind s.module.fc x.ep with keeps := Tbl.put keeps x.ep k1 }
  let s2 := ((((s1.setPart p.lead q).setSparing band none).moveOffers x.site x.reserve).loseCellars x.site).resume x.reserve
  let s3 := if x.scan then s2.failVintages q x.core.prov true else s2
  ((s3.nextSparing band).resendReady q).later (.cellarCopy x.reserve)

/-- REBIND_RELEASE_ACK (R403, R406, R410, R493): a band whose lists of the endpoint are empty is done. After the last the log is
replayed, or the failed scan's sparing ends; a record fill in progress starts again. -/
def execRebindReleaseAck (site ep : Nat) (s : State) : Out :=
  let full := ((s.partAt site).map fun p => p.hasParked (bandOf site) ep).getD false
  .next (if full then s else s.ackRebind site ep .release fun t b x =>
    match t.partAt site with
    | none => t
    | some p =>
      let refill := fun (l : Launch) => if l.phase = .filling then { l with todo := p.visits } else l
      let q := { p with launches := p.launches.map refill }
      let t1 := (t.setPart p.lead q).setSparing b (some { x with step := .replay })
      let t2 := q.launches.foldl (fun u l =>
        if l.phase = .filling then u.later (.recordStoreFill (p.visits.headD 0) l.vint.toNat) else u) t1
      t2.later (.logReplay x.reserve))

/-- The bytes that a record says a delivery or a landing wrote are written again at the reserve (R486). What its contexts compute from
the records is as the failed core had it at its stop: log entry 27. -/
def State.replayRec (s : State) (site : Nat) (r : LogRec) : State :=
  let off := r.addr.toNat - 0x10000000
  let s1 := if (r.kind = 1 ∨ r.kind = 3) ∧ 0x10000000 ≤ r.addr.toNat ∧ off + r.payload.length ≤ 0x300000 then s.scrWrite site off r.payload else s
  s1.updCore site fun c => { c with en := r.en + 1 }

/-- LOG_REPLAY (R486): the reserve replays the record of the next event. -/
def execLogReplay (site : Nat) (s : State) : Out :=
  let b := bandOf site
  match (s.band b).sparing with
  | none => .next s
  | some x =>
    if x.step ≠ .replay ∨ x.reserve ≠ site then .next s
    else
      match x.replay with
      | [] => .next (s.later (.replayEnd site))
      | r :: rest =>
        let s1 := s.setSparing b (some { x with replay := rest })
        .next ((s1.replayRec site r).later (.logReplay site))

/-- REPLAY_END (R424, R486, R493 steps 8 and 9). -/
def execReplayEnd (site : Nat) (s : State) : Out :=
  let b := bandOf site
  match (s.band b).sparing, s.partAt site with
  | some x, some p =>
    match Tbl.find? p.keeps x.ep with
    | none => .next s
    | some k =>
      if x.step ≠ .replay ∨ x.reserve ≠ site ∨ !x.replay.isEmpty then .next s
      else .next (s.endSparing p b x k)
  | _, _ => .next s

/-- DIAGNOSTIC_SCAN_RESULT (R494): on a pass the reserve's gating answers follow the rule again, and the site stays fenced; on
a failure the site is retired and the LCN treated as after a failed scan. -/
def execDiagnosticScanResult (site : Nat) (pass : Bool) (s : State) : Out :=
  let b := bandOf site
  match List.find? (fun (e : Nat × Nat) => e.1 == site) (s.band b).diag, s.partAt site with
  | some (_, ep), some p =>
    let s1 := s.setBand b { s.band b with diag := (s.band b).diag.filter fun e => e.1 != site }
    let under : Bool := match (s.band b).sparing with
      | some x => x.site == site
      | none => false
    let at' := match (s.band b).sparing with
      | some x => if x.site = site then x.reserve else p.siteOf ep
      | none => p.siteOf ep
    if pass then
      .next ((s1.updCore at' fun c => { c with adopted := [] }).regate p)
    else
      let s2 := s1.updCore site fun c => { c with retired := true }
      match (s.band b).sparing, Tbl.find? p.keeps ep with
      | some x, some k =>
        if under then
          let c := { k.mirror.core (s.core at').pass x.core.prov with replaying := true }
          .next (((s2.setCore at' c).loadLines at' k.mirror.lines).setSparing b (some { x with scan := true, replay := [] }))
        else .next (restart s2 p at' k)
      | none, some k => .next (restart s2 p at' k)
      | _, none => .next s2
  | _, _ => .next s
where
  /-- The LCN on its reserve after a failed scan: its mirror slot alone, and the kills. -/
  restart (s : State) (p : Part) (at' : Nat) (k : Keep) : State :=
    let c := s.core at'
    let s1 := (s.setCore at' (k.mirror.core c.pass c.prov)).loadLines at' k.mirror.lines
    let ep := (s.ownerEp p at').getD 0
    let s2 := s1.updKeep p.lead ep fun q => { q with copy := none, left := [], snapLeft := 0, out := 0, closeSent := false, ivals := [], part := [],
                                                     snapPart := 0, log := [], sent := 0 }
    s2.failVintages p c.prov true

/-! ## Scan passes (R496-R499) -/

/-- SCAN_PASS (R490, R496 step 2): a drained core whose interval is closed runs the patterns; the single-bit errors that it
corrects are open. -/
def execScanPass (site : Nat) (s : State) : Out :=
  let c := s.core site
  let waits : Bool := match s.keepAt site with
    | some (_, _, k) => k.want || k.copy.isSome
    | none => false
  if !s.inPass site ∨ !c.drained ∨ c.paused ∨ waits then .next s
  else
    let n := (Config.freeBits 2 s.tick).toNat
    .next ((s.setCore site { c with scanning := true, corr := c.corr + n }).later (.scanPassResult site true))

/-- SCAN_PASS_RESULT (R452, R482, R490, R496, R497, R499): on a pass the pass number rises, the provisional list is emptied, the fold
asked for or the whole state written to the mirror, and the core resumes; on a failure the site is retired and its LCN restored from the mirror slot alone. -/
def execScanPassResult (site : Nat) (pass : Bool) (s : State) : Out :=
  let c := s.core site
  match s.partAt site with
  | none =>
    if !c.scanning then .next s
    else if !pass then .next ((s.endPass site).dropSite site)
    else
      let c1 := { c with scanning := false, drained := false, pass := (c.pass + 1) % 2 ^ 32, prov := [], scanAsked := false, dirty := [] }
      .next ((s.setCore site c1).endPass site)
  | some p =>
    if !c.scanning then .next s
    else if !pass then .next ((s.endPass site).failCore site true)
    else
      let c1 := { c with
        scanning := false, drained := false, pass := (c.pass + 1) % 2 ^ 32, prov := [], scanAsked := false,
        dirty := if s.isReserve p site then [] else c.dirty }
      let s1 := (s.setCore site c1).endPass site
      let s2 := match s1.keepAt site with
        | some (_, ep, k) =>
          if k.whole then s1.updKeep p.lead ep fun _ => s1.wholeMirror site { k with foldPass := c1.pass }
          else (s1.updKeep p.lead ep fun k => { k with fold := true, foldPass := c1.pass, foldNum := k.num }).later (.mirrorFold site)
        | none => s1
      let sthr := (s.band (bandOf site)).sthr.toNat
      let s3 := if sthr ≠ 0 ∧ sthr ≤ c.corr ∧ !s.isReserve p site then s2.requestPass site false else s2
      .next ((s3.resume site).regate p)

/-- A core has corrected a single-bit error that a scratchpad read met (R186): the recovery engine counts it, and asks for an expedited
pass when the count of the rotation reaches sthr (R490). The value delivered and the word written back are the corrected ones. -/
def State.countError (s : State) (site : Nat) : State :=
  let c := s.core site
  let sthr := (s.band (bandOf site)).sthr.toNat
  let s1 := s.setCore site { c with corr := c.corr + 1 }
  match s.partAt site with
  | none => s
  | some p => if sthr ≠ 0 ∧ sthr ≤ c.corr + 1 ∧ !s.isReserve p site then s1.requestPass site false else s1

/-! ## The context watchdog (R491) -/

/-- Whether what holds a context counts for its watchdog (R491): a hold that R216 does not convert, which is any but a stall of a
task with a record, an ACQ, the operations that a WAIT stands for, or a tile command. -/
def Ctx.watched (c : Ctx) (tiles : Bool) : Bool :=
  c.occ == .running && !(c.stall.isSome && c.task != 0) &&
    (c.hold != .none || c.stall.isSome || c.ld != 0 || c.st != 0 || c.tl != 0 || tiles)

/-- CONTEXT_WATCHDOG (R491): a held context traps WATCHDOG at the held word. The event names a hold that still stands; its
2^wdl cc are not modelled. -/
def execContextWatchdog (site ctx : Nat) (s : State) : Out :=
  let c := s.ctx site ctx
  if !c.watched ((s.core site).tq.any fun t => t.ctx == ctx && t.held.isNone) ∨ !s.watchCounts site then .next s
  else .next (s.trapAt site ctx causeWatchdog 0 0)

/-! ## The ring's health sweep (R410) -/

/-- HEALTH_SWEEP_START (R410): the lead supervisor sends a sweep around the ring. -/
def execHealthSweepStart (part : Nat) (s : State) : Out :=
  match s.part? part with
  | none => .next s
  | some p =>
    match p.sweep, p.ring with
    | none, e :: _ => .next ((s.setPart part { p with sweep := some ⟨0, 0, 2 ^ 32 - 1⟩ }).later (.healthSweep e.site))
    | _, _ => .next s

/-- HEALTH_SWEEP (R410): a visit adds its corrected errors and lowers the pass number to its own; a relay adds nothing; the last
entry returns the sweep. -/
def execHealthSweep (site : Nat) (s : State) : Out :=
  match s.partAt site with
  | none => .next s
  | some p =>
    match p.sweep with
    | none => .next s
    | some w =>
      match p.ring[w.pos]? with
      | none => .next s
      | some e =>
        if e.site ≠ site then .next s
        else
          let c := s.core site
          let w1 : Sweep := if e.lcn.isSome then ⟨w.pos + 1, w.errs + c.corr, min w.pass c.pass⟩ else { w with pos := w.pos + 1 }
          match p.ring[w1.pos]? with
          | some n => .next ((s.setPart p.lead { p with sweep := some w1 }).later (.healthSweep n.site))
          | none => .next (s.setPart p.lead { p with sweep := none, ringBroken := false, health := (w1.errs % 2 ^ 32, w1.pass) })

/-- RING_SWEEP_TIMEOUT (R408, R410): a sweep that has not returned marks the ring as broken, and the supervisor reports it and
rebuilds it. -/
def execRingSweepTimeout (part : Nat) (s : State) : Out :=
  match s.part? part with
  | none => .next s
  | some p =>
    match p.sweep with
    | none => .next s
    | some _ =>
      .next ((s.setPart part { p with sweep := none, ringBroken := true, ring := (s.ringOf p).getD p.ring }).notice (.ringBroken part))

end Sys2Proof.Machine
end

