-- ==== Sys2Proof/Machine/HostMem.lean ====
section
/-!
DEFINITION. The host ports' memory side (R464, R520, R521): addresses and responses, global memory, the image area (R255, R256),
the mirror slots (R487) and the system tables (R253, R409, R537, R550).
-/

namespace Sys2Proof.Machine

open Sys2Proof

/-! ## Responses and addresses -/

/-- A byte that the spec gives no layout for: free, by place (log entry 7). -/
def State.freeByte (s : State) (k : Nat) : Byte := Config.freeBits 8 (s.tick * 2 ^ 24 + k)

/-- Answer a request. -/
def State.respond (s : State) (scl : Requester) (status : Nat) (data : List Byte) : State :=
  { s with module := { s.module with responses := s.module.responses ++ [⟨scl, status, data⟩] } }

/-- Whether a port's link is up (R520); the management controller needs none. -/
def State.portUp (s : State) (scl : Requester) : Bool :=
  match scl with
  | .sclA => s.module.upA
  | .sclB => s.module.upB
  | .mgc => true

/-- A host request: no answer on a port that is down, status 5 during a warm reset (R520, R537). -/
def State.hostAsk (s : State) (scl : Requester) (k : State) : Out :=
  if !s.portUp scl then .next s else if s.module.warm then .next (s.respond scl 5 []) else .next k

/-- The space, partition and offset of a host address, when it has the form of R521. -/
def hostPlace (addr : Nat) : Option (Nat × Nat × Nat) :=
  if addr / 2 ^ 52 = 0 then some (addr / 2 ^ 48 % 16, addr / 2 ^ 44 % 16, addr % 2 ^ 44) else none

/-- Whether a host access has a legal size and place (R520). -/
def hostSize (addr len : Nat) : Bool :=
  decide (len % 8 = 0) && decide (8 ≤ len) && decide (len ≤ 256) && decide (addr % 8 = 0) && decide (addr % 256 + len ≤ 256)

/-! ## The image area (R255, R256) -/

/-- The bytes of the image area of one LCN: 16 slots of 20 KiB. -/
def imageLcn : Nat := 16 * 20480

/-- Word k of a shape as its record holds it. -/
def Shape.wordAt (x : Shape) (k : Nat) : Word :=
  match k with
  | 0 => x.w0 | 1 => x.w1 | 2 => x.w2 | 3 => x.w3 | 4 => x.w4 | 5 => x.w5 | 6 => x.w6 | _ => x.w7

/-- A shape with another word k. -/
def Shape.setWordAt (x : Shape) (k : Nat) (w : Word) : Shape :=
  match k with
  | 0 => { x with w0 := w } | 1 => { x with w1 := w } | 2 => { x with w2 := w } | 3 => { x with w3 := w }
  | 4 => { x with w4 := w } | 5 => { x with w5 := w } | 6 => { x with w6 := w } | _ => { x with w7 := w }

/-- The bits of word `off` of an image slot that are not reserved (R256). -/
def imageMask (off : Nat) : Nat :=
  if off = 0 then 2 ^ 33 - 1
  else if off = 0x08 then 2 ^ 56 - 1
  else if off = 0x10 then 2 ^ 44 - 1
  else if off = 0x18 then 2 ^ 48 - 1
  else if (0x70 ≤ off ∧ off < 0x100) ∨ (0x700 ≤ off ∧ off < 0x1000) then 0
  else 2 ^ 64 - 1

/-- The code of a slot's kind (R256). -/
def ImgKind.code : ImgKind → Nat
  | .free => 0
  | .preempted => 1
  | .continuation => 2
  | .reserved => 3

/-- The kind of a code. -/
def imgKindOf (n : Nat) : ImgKind :=
  if n % 4 = 1 then .preempted else if n % 4 = 2 then .continuation else if n % 4 = 3 then .reserved else .free

/-- What an image write left at word `off` of a slot, `off` its byte offset (R256, R257); nothing where the layout gives no value: the
system state, and items that are not present. -/
def Image.written (i : Image) (off : Nat) : Option Nat :=
  if off = 0 then some (i.width.toNat + 2 ^ 16 * i.format.toNat + 2 ^ 24 * i.kind.code + 2 ^ 26 * i.c.prio.toNat)
  else if off = 0x08 then some i.c.task.toNat
  else if off = 0x10 then some (i.c.vintage.toNat + 2 ^ 32 * (i.c.region.toNat % 4096))
  else if off = 0x18 then some (i.regmap.toNat + 2 ^ 32 * i.kmap.toNat)
  else if off < 0x40 then some (i.linemap.toNat / 2 ^ (8 * (off - 0x20)) % 2 ^ 64)
  else if off < 0x70 then some (i.c.loadslots[(off - 0x40) / 8]?.getD 0).toNat
  else if off < 0x100 then some 0
  else if off = 0x100 then some i.c.pc.toNat
  else if off < 0x200 then
    let r := (off - 0x100) / 8
    if i.regmap.getLsbD r then some (i.c.x[r]?.getD 0).toNat else none
  else if off < 0x300 then none
  else if off < 0x700 then
    let k := (off - 0x300) / 64
    if i.kmap.getLsbD k then some ((i.c.k[k]?.getD Shape.empty).wordAt ((off - 0x300) % 64 / 8)).toNat else none
  else if off < 0x1000 then some 0
  else
    ((i.lines.find? fun l => l.1 == (off - 0x1000) / 64).map fun l => leNat ((l.2.drop (off % 64)).take 8))

/-- Word `off` of an image slot (R256): the host's, where it has written one and no item has taken it up, else the image write's. -/
def Image.word (i : Image) (off : Nat) : Option Nat :=
  match Tbl.find? i.host off with
  | some w => some w
  | none => i.written off

/-- The line of an image at a place, with the words of it that the host has written over zeros or over what stood there. -/
def Image.line (i : Image) (j : Nat) : List Byte :=
  (List.range 8).flatMap fun k => leBytes 8 ((i.word (0x1000 + 64 * j + 8 * k)).getD 0)

/-- An image with word `off` written by the host (R256): the field takes the value, and the word reads back. -/
def Image.setWord (i0 : Image) (off w0 : Nat) : Image :=
  let w := w0 % (imageMask off + 1)
  let i := if imageMask off = 0 then i0 else { i0 with host := Tbl.put i0.host off w }
  let c := i.c
  if off = 0 then
    { i with width := BitVec.ofNat 16 w, format := BitVec.ofNat 8 (w / 2 ^ 16), kind := imgKindOf (w / 2 ^ 24),
             c := { c with prio := BitVec.ofNat 7 (w / 2 ^ 26) } }
  else if off = 0x08 then { i with c := { c with task := BitVec.ofNat 56 w } }
  else if off = 0x10 then { i with c := { c with vintage := BitVec.ofNat 32 w, region := BitVec.ofNat 32 (w / 2 ^ 32 % 4096) } }
  else if off = 0x18 then { i with regmap := BitVec.ofNat 32 w, kmap := BitVec.ofNat 16 (w / 2 ^ 32) }
  else if off < 0x40 then
    let sh := 8 * (off - 0x20)
    let m := i.linemap.toNat
    { i with
      linemap := BitVec.ofNat 256 (m - m / 2 ^ sh % 2 ^ 64 * 2 ^ sh + w * 2 ^ sh),
      lines := (List.range 256).filterMap fun j =>
        if 8 * (off - 0x20) ≤ j ∧ j < 8 * (off - 0x20) + 64 then
          if w / 2 ^ (j - 8 * (off - 0x20)) % 2 = 1 then some (j, i0.line j) else i0.lines.find? fun l => l.1 == j
        else i0.lines.find? fun l => l.1 == j }
  else if off < 0x70 then { i with c := { c with loadslots := c.loadslots.setIfInBounds ((off - 0x40) / 8) (BitVec.ofNat 64 w) } }
  else if off = 0x100 then { i with c := { c with pc := BitVec.ofNat 56 w } }
  else if 0x100 < off ∧ off < 0x200 then { i with c := { c with x := c.x.setIfInBounds ((off - 0x100) / 8) (BitVec.ofNat 64 w) } }
  else if 0x300 ≤ off ∧ off < 0x700 then
    let k := (off - 0x300) / 64
    { i with c := { c with k := c.k.setIfInBounds k ((c.k[k]?.getD Shape.empty).setWordAt ((off - 0x300) % 64 / 8) (BitVec.ofNat 64 w)) } }
  else if 0x1000 ≤ off then
    let put := fun (l : Nat × List Byte) =>
      if l.1 = (off - 0x1000) / 64 then (l.1, l.2.take (off % 64) ++ leBytes 8 w ++ l.2.drop (off % 64 + 8)) else l
    { i with lines := i.lines.map put }
  else i

/-- A free slot that the host writes to (R256): every field at its reset value. -/
def Image.fresh (slot age : Nat) : Image :=
  ⟨slot, .free, 0x0800, 1, age, 0, { Ctx.reset with x := loadRegs (Vector.replicate 6 0) }, 0, 0, [], 0, [], [], [], [], false⟩

/-- The image in a slot of the image area, with the offset in it. -/
def Part.imageAt (p : Part) (off : Nat) : Option Image × Nat :=
  (List.find? (fun (i : Image) => i.slot == off % imageLcn / 20480) (p.imagesOf (off / imageLcn)), off % 20480)

/-- Word `off` of the image area; a free slot that nothing has written reads as its reset values. -/
def State.imageWord (s : State) (p : Part) (off : Nat) : Nat :=
  match p.imageAt off with
  | (some i, k) => (i.word k).getD (leNat ((List.range 8).map fun j => s.freeByte (off + j)))
  | (none, 0) => 0x10800
  | (none, _) => 0

/-! ## Mirror slots (R487) -/

/-- The endpoint number of the owner of a mirror slot. -/
def Part.mirrorEp (p : Part) (k : Nat) : Nat := if k < p.bound.length then k else 0xC000 + p.lead + (k - p.bound.length)

/-- The keep whose mirror slot has a number: the LCNs, then the supervisors. -/
def Part.mirrorKeep (p : Part) (k : Nat) : Option Keep :=
  Tbl.find? p.keeps (p.mirrorEp k)

/-- A read of a mirror slot that meets a burst that cannot be corrected: its core is handled as after a cellar loss (R482, R519). -/
def State.readMirror (s : State) (p : Part) (slot : Nat) : State :=
  let ep := p.mirrorEp slot
  match Tbl.find? p.keeps ep with
  | some k => if s.systemBadAt p.lead then s.loseCellar p ep k (p.siteOf ep) else s
  | none => s

/-- The line of a mirror slot that holds a byte, by its number (R474, R487). -/
def mirrorLine (off : Nat) : Nat :=
  if off < 0x300000 then off / 64 else if off < 0x330000 then 65536 + (off - 0x300000) / 64 else 131072 + (off - 0x330000) / 64

/-- Byte `off` of a mirror slot; the snapshot's and fold header's layouts are not given. -/
def State.mirrorByte (s : State) (m : Mirror) (slot off : Nat) : Byte :=
  if off < 0x370000 then ((Tbl.find? m.lines (mirrorLine off)).map fun l => l.getD (off % 64) 0).getD 0
  else if off < 0x380000 then s.freeByte (slot * 2 ^ 22 + off)
  else if off < 0x3B7000 then
    let n := (off - 0x380000) / 4
    let j := if n < 49152 then n else if n < 52224 then 65536 + (n - 49152) else 131072 + (n - 52224)
    (leBytes 4 (Tbl.get 0 m.tags j).toNat).getD (off % 4) 0
  else if off < 0x3B8000 then s.freeByte (slot * 2 ^ 22 + off)
  else 0

/-! ## System tables (R521) -/

/-- The bytes of a fault record (R253). -/
def FaultRec.bytes (r : FaultRec) : List Byte :=
  leBytes 8 (r.cause.toNat + (if r.nested then 32 else 0) + 2 ^ 8 * r.ctx + 2 ^ 16 * r.lcn + 2 ^ 32 * r.site)
    ++ leBytes 8 r.epc.toNat ++ leBytes 8 r.faddr.toNat ++ leBytes 8 (r.fstep.toNat + 2 ^ 32 * r.vint.toNat)
    ++ leBytes 8 r.task.toNat ++ leBytes 8 (r.region.toNat % 4096 + 2 ^ 12 * r.domain.toNat) ++ leBytes 8 r.time.toNat ++ leBytes 8 0

/-- The 32 bytes of a table entry, zero where nothing is written. -/
def PeerEntry.bytes (e : PeerEntry) : List Byte := padTo 32 e.w

/-- The bits of word k that a peer entry (true) or an export entry holds (R550). -/
def entryMask (peer : Bool) (k : Nat) : Nat :=
  match peer, k with
  | true, 0 => 0x0000FFFF000FFF01
  | true, 1 => 0xFFFFFF
  | true, 2 => 0xFFFFFFFFFF
  | false, 0 => 1
  | false, 1 => 2 ^ 56 - 1
  | false, 2 => 2 ^ 40 - 1
  | _, _ => 0

/-- Word `off` of the system tables of a partition; nothing where no table lies. -/
def Part.tableWord (p : Part) (off : Nat) : Option Nat :=
  let word := fun (l : List Byte) (k : Nat) => leNat ((l.drop k).take 8)
  if off < 0x100000 then some (if off = 0 then p.preservedN else p.preserved.getD (off / 8 - 1) 0)
  else if off < 0x102000 then some (word (Tbl.get ⟨[]⟩ p.peers ((off - 0x100000) / 32)).bytes (off % 32))
  else if off < 0x104000 then some (word (Tbl.get ⟨[]⟩ p.exports ((off - 0x102000) / 32)).bytes (off % 32))
  else if off < 0x108000 then
    some (match Tbl.find? p.flog ((off - 0x104000) / 64) with
      | some r => word r.bytes (off % 64)
      | none => 0)
  else if off = 0x108000 then some (p.flogHead % 256)
  else if off < 0x200000 then none
  else
    let b := p.ringBytes
    if off - 0x200000 < b.length then some (word b (off - 0x200000)) else none

/-- A partition with word `off` of a table entry written, reserved bits apart; nothing where no entry lies. -/
def Part.setTableWord (p : Part) (off w : Nat) : Option Part :=
  let put := fun (t : Tbl PeerEntry) (base : Nat) (peer : Bool) =>
    let k := (off - base) / 32
    let o := off % 32
    let b := (Tbl.get ⟨[]⟩ t k).bytes
    Tbl.put t k ⟨b.take o ++ leBytes 8 (w &&& entryMask peer (o / 8)) ++ b.drop (o + 8)⟩
  if 0x100000 ≤ off ∧ off < 0x102000 then some { p with peers := put p.peers 0x100000 true }
  else if 0x102000 ≤ off ∧ off < 0x104000 then some { p with exports := put p.exports 0x102000 false }
  else none

/-! ## Reading -/

/-- The byte offsets of the words of an access. -/
def wordOffs (off len : Nat) : List Nat := (List.range (len / 8)).map fun k => off + 8 * k

/-- The bytes of an access to the memory-like spaces of a partition; nothing where it is unmapped. -/
def State.hostBytes (s : State) (p : Part) (space off len : Nat) : Option (List Byte) :=
  match space with
  | 0 => if off + len ≤ p.capacity then some (s.committedRead p off len) else none
  | 1 =>
    if off + len ≤ imageLcn * p.bound.length then some ((wordOffs off len).flatMap fun o => leBytes 8 (s.imageWord p o)) else none
  | 2 =>
    (p.mirrorKeep (off / 2 ^ 22)).map fun k => (List.range len).map fun i => s.mirrorByte k.mirror (off / 2 ^ 22) (off % 2 ^ 22 + i)
  | 3 => ((wordOffs off len).mapM p.tableWord).map fun l => l.flatMap fun w => leBytes 8 w
  | _ => none

/-! ## Writing -/

/-- Whether a host write meets a granule that an admitted launch has locked (R448, R464). -/
def State.hostLocked (s : State) (p : Part) (off len : Nat) : Bool :=
  let first := off / 256
  let last := (off + len - 1) / 256
  p.launches.any fun l => (s.rim (p.chanOf (p.slotOf off))).locks.any fun k =>
    k.vint == l.vint && k.ranges.any fun r => decide (r.1 ≤ last) && decide (first < r.1 + r.2)

/-- The status of a host write to the memory-like spaces, and the state after it (R464, R519). -/
def State.hostWrite (s : State) (p : Part) (space off : Nat) (data : List Byte) : Nat × State :=
  let len := data.length
  let words := (wordOffs off len).zip ((List.range (len / 8)).map fun k => leNat ((data.drop (8 * k)).take 8))
  match space with
  | 0 =>
    if p.capacity < off + len then (1, s)
    else if s.hostLocked p off len then (2, s)
    else
      let s1 := s.committedWrite p off data
      (0, if len = 256 then s1.updPart p.lead fun q => { q with lost := q.lost.filter fun g => g != off } else s1)
  | 1 =>
    if imageLcn * p.bound.length < off + len then (1, s)
    else
      let put := fun (t : State) (e : Nat × Nat) =>
        match t.part? p.lead with
        | none => t
        | some q =>
          let l := e.1 / imageLcn
          let is := q.imagesOf l
          let i := (q.imageAt e.1).1.getD (Image.fresh (e.1 % imageLcn / 20480) (is.foldl (fun m x => max m (x.age + 1)) 0))
          let j := i.setWord (q.imageAt e.1).2 e.2
          let t1 := t.setPart p.lead { q with images := Tbl.put q.images l ((is.filter fun x => x.slot != i.slot) ++ [j]) }
          if i.held && !j.held then t1.releaseImage (p.bound.getD l 0) i else t1
      (0, words.foldl put s)
  | 3 =>
    match words.foldl (fun (q : Option Part) e => q.bind fun x => x.setTableWord e.1 e.2) (some p) with
    | some q => (0, s.setPart p.lead q)
    | none => (1, s)
  | _ => (1, s)

end Sys2Proof.Machine
end

