-- ==== Sys2Proof/Machine/HostRegs.lean ====
section
/-!
DEFINITION. The launch engine registers (R523-R527, R532, R533, R536): queues, kills, the semaphore, partition configuration and
dissolution (R525, R526), the time registers; and the host's reads and writes of every space.
-/

namespace Sys2Proof.Machine

open Sys2Proof

/-! ## The semaphore (R524) -/

/-- Whether a port holds the configuration semaphore; the management controller needs none (R533). -/
def State.holdsSem (s : State) (scl : Requester) : Bool :=
  match scl, s.module.sem with
  | .sclA, .sclA | .sclB, .sclB | .mgc, _ => true
  | _, _ => false

/-- The owner that a port becomes. -/
def ownerOf : Requester → SemOwner
  | .sclA => .sclA
  | .sclB => .sclB
  | .mgc => .free

/-- The value of SEM. -/
def Module.semWord (m : Module) : Nat :=
  (match m.sem with
    | .free => 0
    | .sclA => 1
    | .sclB => 2) + 2 ^ 16 * m.semGen.toNat

/-- A read of SEM: it acquires the free semaphore for a host port. -/
def State.readSem (s : State) (scl : Requester) : State × Nat :=
  let m := s.module
  let m1 := if m.sem = .free ∧ scl ≠ .mgc then { m with sem := ownerOf scl, semGen := m.semGen + 1 } else m
  ({ s with module := m1 }, m1.semWord)

/-- SEM_READ (R524). -/
def execSemRead (scl : Requester) (s : State) : Out :=
  let r := s.readSem scl
  s.hostAsk scl (r.1.respond scl 0 (leBytes 8 r.2))

/-- A write of SEM: by the owner it frees, by the other port it is refused. -/
def State.writeSem (s : State) (scl : Requester) : Nat × State :=
  if s.holdsSem scl then (0, { s with module := { s.module with sem := .free } }) else (3, s)

/-- A request answered with a status and no data. -/
def State.answerAsk (s : State) (scl : Requester) (r : Nat × State) : Out := s.hostAsk scl (r.2.respond scl r.1 [])

/-- SEM_WRITE (R524). -/
def execSemWrite (scl : Requester) (s : State) : Out := s.answerAsk scl (s.writeSem scl)

/-- MGC_SEM_FREE (R524, R563): the management controller frees the semaphore. -/
def execMgcSemFree (s : State) : Out := .next { s with module := { s.module with sem := .free } }

/-! ## Time (R533-R535) -/

/-- The counter is set or stepped: band copies follow it at once when it goes backward, launches that wait at step 4 of R20 and whose
start it passes start late, deadlines that it passes fall due (R533-R535). -/
def State.setClock (s : State) (ns : Nat) : State :=
  let m := s.module
  let back := decide (ns < m.clock.ns)
  let s1 := { s with
    module := { m with clock := ⟨ns, m.clock.frac⟩, stagedSec := none },
    bands := if back then s.bands.map fun (e : Nat × Band) => (e.1, { e.2 with floor := 0 }) else s.bands }
  s1.parts.foldl (fun t (e : Nat × Part) =>
    let now := s1.partNs e.1
    e.2.launches.foldl (fun u l =>
      let u1 := match l.start with
        | some x =>
          if (l.phase = .staged ∨ l.phase = .filling) ∧ x ≤ now ∧ m.clock.ns < x then
            (u.updPart e.1 fun q => q.updLaunch l.vint fun k => { k with late := true }).later (.startTimeReached e.1 l.vint.toNat)
          else u
        | none => u
      match l.deadlineAt with
      | some x => if x ≤ now then u1.later (.deadlineExpiry e.1 l.vint.toNat) else u1
      | none => u1) t) s1

/-- A write of tns: with the seconds written before, or the counter's own (R533). -/
def State.writeTns (s : State) (ns : Nat) : Nat × State :=
  let m := s.module
  let sec := (m.stagedSec.map (·.toNat)).getD (m.clock.ns / 1000000000)
  if 999999999 < ns then (1, s) else (0, s.setClock (sec % 2 ^ 48 * 1000000000 + ns))

/-- TNS_WRITE (R523, R533). -/
def execTnsWrite (scl : Requester) (ns : Nat) (s : State) : Out :=
  s.answerAsk scl (if s.holdsSem scl then s.writeTns ns else (3, s))

/-- A signed number of nanoseconds added to the counter. -/
def State.stepClock (s : State) (ns : Int) : State := s.setClock ((s.module.clock.ns : Int) + ns).toNat

/-- TIME_STEP (R523, R533, R534). -/
def execTimeStep (scl : Requester) (ns : Int) (s : State) : Out :=
  s.answerAsk scl (if s.holdsSem scl then (0, s.stepClock ns) else (3, s))

/-- A read of tsec, which latches tns for the same port (R533). -/
def State.readTsec (s : State) (scl : Requester) : State × Nat :=
  let m := s.module
  let ns := m.clock.ns
  let rest := m.latch.filter fun e => e.1 != scl
  ({ s with module := { m with latch := rest ++ [(scl, BitVec.ofNat 32 (ns % 1000000000))] } }, ns / 1000000000 % 2 ^ 48)

/-- TSEC_READ (R533). -/
def execTsecRead (scl : Requester) (s : State) : Out :=
  let r := s.readTsec scl
  s.hostAsk scl (r.1.respond scl 0 (leBytes 8 r.2))

/-- A read of tns: the latched value, once, else the counter's. -/
def State.readTns (s : State) (scl : Requester) : State × Nat :=
  let m := s.module
  match List.find? (fun (e : Requester × BitVec 32) => e.1 == scl) m.latch with
  | some e => ({ s with module := { m with latch := m.latch.filter fun x => x.1 != scl } }, e.2.toNat)
  | none => (s, m.clock.ns % 1000000000)

/-- PPS_EDGE (R533): the counter is latched. -/
def execPpsEdge (s : State) : Out :=
  let m := s.module
  .next { s with module := { m with
    ppsec := BitVec.ofNat 48 (m.clock.ns / 1000000000), ppns := BitVec.ofNat 32 (m.clock.ns % 1000000000) } }

/-- TIME_DISTRIBUTION_SEND (R533): the lead copy's value goes to every band. -/
def execTimeDistributionSend (s : State) : Out :=
  .next ((List.range 12).foldl (fun t b => t.later (.timeDistribution b)) s)

/-- TIME_DISTRIBUTION (R533): a band's copy is corrected to within 4 ns of the lead copy, by an amount that is open, and never
goes backward. -/
def execTimeDistribution (band : Nat) (s : State) : Out :=
  let x := s.band band
  let skew : Int := (((Config.freeBits 4 s.tick).toNat % 9 : Nat) : Int) - 4
  .next (s.setBand band { x with floor := s.bandNs band, skew := skew })

/-- A read or write of a time register by its offset; nothing where there is none. -/
def State.readTime (s : State) (scl : Requester) (off : Nat) : Option (State × Nat) :=
  let m := s.module
  match off with
  | 0x2010 => some (s.readTsec scl)
  | 0x2018 => some (s.readTns scl)
  | 0x2020 => some (s, m.rate.toNat)
  | 0x2028 => some (s, 0)
  | 0x2030 => some (s, m.ppsec.toNat)
  | 0x2038 => some (s, m.ppns.toNat)
  | _ => none

/-- A write of a time register by its offset (R533): status and state. -/
def State.writeTime (s : State) (off w : Nat) : Nat × State :=
  let m := s.module
  match off with
  | 0x2010 => (0, { s with module := { m with stagedSec := some (BitVec.ofNat 48 w) } })
  | 0x2018 => s.writeTns (w % 2 ^ 32)
  | 0x2020 => (0, { s with module := { m with rate := BitVec.ofNat 32 w } })
  | 0x2028 => (0, s.stepClock (BitVec.ofNat 64 w).toInt)
  | 0x2030 | 0x2038 => (0, s)
  | _ => (1, s)

/-! ## Queues (R527, R528, R532, R536) -/

/-- A launch command from its 128 bytes (R528). -/
def cmdOf (l : List Byte) (sub : BitVec 32) (port : Requester) : Cmd :=
  let w := fun (k : Nat) => leNat ((l.drop (8 * k)).take 8)
  let a := fun (k : Nat) => w k % 2 ^ 56
  { rtab := a 0, ptroot := a 1, shsec := a 2, shn := w 3 % 2 ^ 9, patn := w 3 / 2 ^ 32 % 2 ^ 9, patsec := a 4, cmpl := a 5,
    tag := BitVec.ofNat 64 (w 6), msg := decide (w 7 % 2 = 1), shvirt := a 8, patvirt := a 9, buftab := a 10, nbuf := w 11 % 2 ^ 7,
    resv := decide (w 7 / 2 ≠ 0) || decide (w 11 / 2 ^ 7 ≠ 0) || (l.drop 96).any (· != 0), sub := sub, port := port,
    keptDeadline := none }

/-- Whether a partition is being configured or dissolved. -/
def State.partBusy (s : State) (p : Part) : Bool := (List.range p.nb).any fun k => (s.band (p.lead + k)).pctl != 0

/-- A write to SUBMIT q: status, response data and state. -/
def State.submitTo (s : State) (scl : Requester) (part q : Nat) (data : List Byte) : Nat × List Byte × State :=
  match s.part? part with
  | none => (1, [], s)
  | some p =>
    match p.queues[q]? with
    | none => (1, [], s)
    | some lq =>
      if data.length ≠ 128 then (1, [], s)
      else if s.partBusy p then (5, [], s)
      else if !lq.en ∨ lq.flushed ∨ 32 ≤ lq.cmds.length then (4, [], s)
      else
        let add := fun (x : LQueue) => { x with cmds := x.cmds ++ [cmdOf data x.subs scl], subs := x.subs + 1 }
        (0, leBytes 8 lq.subs.toNat, (s.setPart part { p with queues := p.queues.modify q add }).later (.launchTake part))

/-- SUBMIT (R527). -/
def execSubmit (scl : Requester) (part q : Nat) (data : List Byte) (s : State) : Out :=
  let r := s.submitTo scl part q data
  s.hostAsk scl (r.2.2.respond scl r.1 r.2.1)

/-- A queue set accepting or not; a flushed one takes commands again (R536). -/
def State.setQueue (s : State) (part q : Nat) (en : Bool) : Nat × State :=
  match s.part? part with
  | none => (1, s)
  | some p =>
    if p.queues.length ≤ q then (1, s)
    else
      let f := fun (x : LQueue) => { x with en := en, flushed := x.flushed && !en }
      (0, (s.setPart part { p with queues := p.queues.modify q f }).later (.launchTake part))

/-- QCTL_ENABLE (R523, R536). -/
def execQctlEnable (scl : Requester) (part q : Nat) (en : Bool) (s : State) : Out :=
  s.answerAsk scl (if s.holdsSem scl then s.setQueue part q en else (3, s))

/-- Every unadmitted command of a queue completes as flushed; a flushed queue runs again (R536). -/
def State.flushHost (s : State) (part q : Nat) : Nat × State :=
  match s.part? part with
  | none => (1, s)
  | some p =>
    if p.queues.length ≤ q then (1, s)
    else
      let s1 := s.flushQueue part q
      (0, (s1.updPart part fun r => { r with queues := r.queues.modify q fun x => { x with flushed := false } }).examine part)

/-- QCTL_FLUSH (R523, R536). -/
def execQctlFlush (scl : Requester) (part q : Nat) (s : State) : Out :=
  s.answerAsk scl (if s.holdsSem scl then s.flushHost part q else (3, s))

/-- KILL_WRITE (R532): the kill of a running vintage with outcome 1; nothing of one that does not run. -/
def execKillWrite (part v : Nat) (s : State) : Out := .next (s.startKill part (BitVec.ofNat 32 v) ⟨1, 0, 0, false⟩)

/-- The words of QCTL and QSTAT. -/
def LQueue.ctl (x : LQueue) : Nat := if x.en then 1 else 0
def LQueue.stat (x : LQueue) : Nat :=
  x.cmds.length % 64 + 256 * (if x.flushed then 2 else if x.en then 1 else 0) + 2 ^ 32 * x.subs.toNat

/-! ## Partition configuration (R525, R526) -/

/-- n bytes of a PCFG record. -/
def Band.pcfgWord (b : Band) (k : Nat) : Nat := leNat ((List.range 8).map fun i => Tbl.get 0 b.pcfg (8 * k + i))

/-- The width of word k of PCFG: the bits above it are reserved (R525). -/
def pcfgBits : Nat → Nat
  | 0 => 8
  | 1 => 56
  | 2 => 56
  | 3 => 16
  | 4 => 56
  | 5 => 6
  | _ => 0

/-- Word k of PCFG as it reads: reserved bits read as zero (R4, R525), though what was written to them is kept for the check
of R526. -/
def Band.pcfgRead (b : Band) (k : Nat) : Nat := b.pcfgWord k % 2 ^ pcfgBits k

/-- The record that a band's PCFG holds. -/
def Band.record (b : Band) : Pcfg where
  lead := BitVec.ofNat 4 (b.pcfgWord 0)
  nb := BitVec.ofNat 4 (b.pcfgWord 0 / 16)
  tvec := BitVec.ofNat 56 (b.pcfgWord 1)
  objtab := BitVec.ofNat 56 (b.pcfgWord 2)
  objn := BitVec.ofNat 16 (b.pcfgWord 3)
  grptab := BitVec.ofNat 56 (b.pcfgWord 4)
  grpn := BitVec.ofNat 6 (b.pcfgWord 5)
  resv := decide (b.pcfgWord 0 / 2 ^ 8 ≠ 0) || decide (b.pcfgWord 1 / 2 ^ 56 ≠ 0) || decide (b.pcfgWord 2 / 2 ^ 56 ≠ 0)
    || decide (b.pcfgWord 3 / 2 ^ 16 ≠ 0) || decide (b.pcfgWord 4 / 2 ^ 56 ≠ 0) || decide (b.pcfgWord 5 / 2 ^ 6 ≠ 0)
    || b.pcfg.any fun e => decide (0x30 ≤ e.1) && e.2 != 0

/-- Whether a partition holds a queued or running command (R526). -/
def Part.busy (p : Part) : Bool := !p.launches.isEmpty || p.queues.any fun q => !q.cmds.isEmpty

/-- The partitions that hold a band of a range. -/
def State.overlapping (s : State) (lead nb : Nat) : List Part :=
  (s.parts.map (·.2)).filter fun p => decide (p.lead < lead + nb) && decide (lead < p.lead + p.nb)

/-- One record of a group table at a PPA: its group, its entries, and the PPA after it; nothing when it breaks R437. -/
def State.groupRecord (s : State) (p : Part) (ppa : Nat) : Option (Nat × Tbl GEntry × Nat) :=
  let grp := leNat (s.tableRead p ppa 8) % 64
  let h := s.tableRead p (ppa + 8) 64
  let w0 := leNat (h.take 8)
  let n := w0 / 2 ^ 48 % 2 ^ 14
  if n < 1 ∨ 9120 < n ∨ p.capacity < ppa + 72 + 8 * n ∨ (h.drop 8).any (· != 0) ∨ grp < 2 ∨ 47 < grp then none
  else
    let l := s.tableRead p (ppa + 72) (8 * n)
    match confOf w0, nodeTable ((List.range n).map fun i => nodeOf (leNat ((l.drop (8 * i)).take 8))) with
    | some conf, some tab => (treeRoot p tab).map fun root => (grp, entriesOf p conf root tab, ppa + 72 + 8 * n)
    | _, _ => none

/-- The groups of a group table of n records; nothing when one breaks R437 or repeats a group (R526). -/
def State.groupTable (s : State) (p : Part) : Nat → Nat → List Nat → Option (List (Nat × Tbl GEntry))
  | 0, _, _ => some []
  | n + 1, ppa, seen =>
    match s.groupRecord p ppa with
    | none => none
    | some (g, es, next) => if seen.contains g then none else (s.groupTable p n next (g :: seen)).map ((g, es) :: ·)

/-- The records of a configuration's group table: none where grptab is 0 (R525). -/
def Pcfg.groups (c : Pcfg) : Nat := if c.grptab = 0 then 0 else c.grpn.toNat

/-- Step 4 of R526: the trap vector, the standing groups afresh, every program group unconfigured, then those of the group
table; the object table at a reconfiguration. -/
def State.installConfig (s : State) (p : Part) (c : Pcfg) (again : Bool) : State :=
  let q := { p with
    tvec := c.tvec, pcfg := c,
    objtab := if again then c.objtab.toNat else 0, objn := if again then c.objn.toNat else 0,
    grptab := if again then c.grptab.toNat else 0, grpn := if again then c.grpn.toNat else 0 }
  let s1 := ((s.setPart p.lead q).standingGroups q)
  let s2 := (List.range 46).foldl (fun t g => t.layGroup q (g + 2) []) s1
  if again then ((s.groupTable q c.groups c.grptab.toNat []).getD []).foldl (fun t e => t.layGroup q e.1 e.2) s2 else s2

/-- A core of a band that is configured or reset: no task, what the wafer test and a scan say of it kept. -/
def Core.blank (c : Core) : Core := { Core.reset with dead := c.dead, fenced := c.dead || c.retired, retired := c.retired, pass := c.pass }

/-- A router whose tables, groups and flits are cleared. -/
def Router.blank (r : Router) : Router := { Router.reset with fenced := r.fenced, deadLinks := r.deadLinks }

/-- A slot controller whose cask, reductions, releases, locks and queues are cleared. -/
def Rim.blank (r : Rim) : Rim :=
  { r with casks := [], reds := [], rels := [], locks := [], waiting := [], lands := [], inPlace := [] }

/-- The committed lines of a partition's casks reach home before their areas go (R444). -/
def State.mergeAll (s : State) (p : Part) : State :=
  (s.rimsOf p).foldl (fun t c =>
    ((t.rim c).casks.filter fun e => e.state == .committed).foldl (fun u e => u.mergeLine p e.line) t) s

/-- The ports of a partition's bands that may run begin their full training, once the module number is written (R546, R549). -/
def State.trainLinks (s : State) (p : Part) : State :=
  if s.module.number.isNone then s
  else
    (List.range (2 * p.nb)).foldl (fun t k =>
      let x := t.link (2 * p.lead + k)
      if x.state = 0 ∧ x.en then t.setLink (2 * p.lead + k) (x.down 1) else t) s

/-- The bands of a dissolved partition keep the roles that their sites have, with what sparings bound, until roles are assigned
again (R9). -/
def State.keepRoles (s : State) (p : Part) : State :=
  (List.range p.nb).foldl (fun t k =>
    let b := p.lead + k
    t.setBand b { t.band b with roles := .kept ((p.sups[k]?).getD (10 * b)) (p.bound.filter fun x => bandOf x == b) }) s

/-- The bands of a range as a configuration or dissolution leaves them: no partition, cores and routers cleared, casks released,
ports down. -/
def State.clearBands (s : State) (lead nb : Nat) : State :=
  let mine := fun (b : Nat) => decide (lead ≤ b) && decide (b < lead + nb)
  let gone := s.overlapping lead nb
  let all := fun (b : Nat) => mine b || gone.any fun p => decide (p.lead ≤ b) && decide (b < p.lead + p.nb)
  let s := gone.foldl (fun t p => (t.mergeAll p).keepRoles p) s
  let s1 := { s with
    parts := s.parts.filter fun e => !(gone.any fun p => p.lead == e.1),
    cores := s.cores.map fun e => if all (bandOf e.1) then (e.1, e.2.blank) else e,
    routers := s.routers.map fun e => if all (bandOf e.1) then (e.1, e.2.blank) else e,
    rims := s.rims.map fun e => if all (e.1 / 128) then (e.1, e.2.blank) else e,
    bands := s.bands.map fun e => if all e.1 then (e.1, { e.2 with agent := [], sparing := none, failed := [], diag := [], rota := Rota.new }) else e }
  (List.range 24).foldl (fun t q => if all (q / 2) && (t.link q).state != 0 then t.setLink q ((t.link q).down 0) else t) s1

/-- The partition that a record describes, as steps 1 to 3 of R526 build it in cleared bands; nothing when its ring cannot be
built. -/
def State.buildPart (s : State) (c : Pcfg) : Option Part :=
  let lead := c.lead.toNat
  let nb := c.nb.toNat
  let p := Part.new lead nb (s.jobSites lead nb) (s.supSites lead nb) 0 c
  let q := { p with nrow := s.nrowOf p, objn := 0, objtab := 0, grptab := 0, grpn := 0 }
  ((s.setPart lead q).ringOf q).map fun r => s.newKeeps { q with ring := r }

/-- Whether a record can be carried out as a creation or reconfiguration (R526). -/
def State.configOk (s : State) (c : Pcfg) : Bool :=
  let lead := c.lead.toNat
  let nb := c.nb.toNat
  let plain := decide (1 ≤ nb) && decide (lead + nb ≤ 12) && !c.resv && decide (c.tvec.toNat % 4 = 0)
    && decide (c.objtab.toNat % 128 = 0) && decide (c.grptab.toNat % 64 = 0)
    && (s.overlapping lead nb).all fun p => !p.busy
  if !plain then false
  else
    match s.part? lead with
    | some p =>
      if p.nb = nb then
        decide (c.objtab.toNat < p.capacity) && decide (c.objtab.toNat + 128 * c.objn.toNat ≤ p.capacity) && decide (c.grptab.toNat < p.capacity)
          && (s.groupTable p c.groups c.grptab.toNat []).isSome
      else ((s.clearBands lead nb).buildPart c).isSome
    | none => ((s.clearBands lead nb).buildPart c).isSome

/-- A PCTL write of 1 at a band (R526): status and state. -/
def State.pctlCreate (s : State) (band : Nat) : Nat × State :=
  let c := (s.band band).record
  if 12 ≤ band then (1, s)
  else if c.lead.toNat ≠ band then (1, s)
  else if (s.band band).pctl ≠ 0 ∨ !s.configOk c then (5, s)
  else (0, (s.setBand band { s.band band with pctl := 1 }).later (.pctlOperationEnd band))

/-- PCTL_CREATE (R523, R525, R526). -/
def execPctlCreate (scl : Requester) (band : Nat) (s : State) : Out :=
  s.answerAsk scl (if s.holdsSem scl then s.pctlCreate band else (3, s))

/-- A PCTL write of 2 at a band (R526): status and state. -/
def State.pctlDissolve (s : State) (band : Nat) : Nat × State :=
  if 12 ≤ band then (1, s)
  else
    match s.partOfBand band with
    | none => (5, s)
    | some p =>
      if p.busy ∨ s.partBusy p then (5, s)
      else
        let shut := { p with queues := p.queues.map fun q => { q with en := false } }
        (0, ((s.setPart p.lead shut).setBand band { s.band band with pctl := 2 }).later (.pctlOperationEnd band))

/-- PCTL_DISSOLVE (R523, R525, R526). -/
def execPctlDissolve (scl : Requester) (band : Nat) (s : State) : Out :=
  s.answerAsk scl (if s.holdsSem scl then s.pctlDissolve band else (3, s))

/-- PCTL_OPERATION_END (R525, R526): the supervisor's steps, after which PCTL reads 0. -/
def execPctlOperationEnd (band : Nat) (s : State) : Out :=
  let b := s.band band
  let done := fun (t : State) => t.setBand band { t.band band with pctl := 0 }
  if b.pctl = 1 then
    let c := b.record
    match s.part? band with
    | some p =>
      if p.nb = c.nb.toNat then .next (done (s.installConfig p c true)) else .next (done (create s c))
    | none => .next (done (create s c))
  else if b.pctl = 2 then
    match s.partOfBand band with
    | some p => .next (done (s.clearBands p.lead p.nb))
    | none => .next (done s)
  else .next s
where
  /-- A creation, its bands cleared first. -/
  create (s : State) (c : Pcfg) : State :=
    let s1 := s.clearBands c.lead.toNat c.nb.toNat
    match s1.buildPart c with
    | none => s1
    | some p => (s1.installConfig p c false).trainLinks p

/-! ## Registers by address -/

/-- The word of a register at an offset of space 0x8, read by a port; nothing where none can be read. -/
def State.readReg (s : State) (scl : Requester) (part off : Nat) : Option (State × Nat) :=
  if 0x1000 ≤ off ∧ off < 0x1080 then ((s.part? part).bind fun p => p.queues[(off - 0x1000) / 8]?).map fun q => (s, q.ctl)
  else if 0x1080 ≤ off ∧ off < 0x1100 then ((s.part? part).bind fun p => p.queues[(off - 0x1080) / 8]?).map fun q => (s, q.stat)
  else if 0x1200 ≤ off ∧ off < 0x1300 then if part < 12 then some (s, (s.band part).pcfgRead ((off - 0x1200) / 8)) else none
  else if off = 0x1300 then if part < 12 then some (s, (s.band part).pctl) else none
  else if part ≠ 0 then none
  else if off = 0x2000 then some (s.readSem scl)
  else s.readTime scl off

/-- The words of registers from an offset on. -/
def State.readRegs (s : State) (scl : Requester) (part : Nat) : List Nat → Option (State × List Byte)
  | [] => some (s, [])
  | o :: t =>
    match s.readReg scl part o with
    | none => none
    | some (s1, w) => (s1.readRegs scl part t).map fun r => (r.1, leBytes 8 w ++ r.2)

/-- A write of one word at an offset of space 0x8: status and state (R523). -/
def State.writeReg (s : State) (scl : Requester) (part off w : Nat) : Nat × State :=
  let sem := fun (r : Nat × State) => if s.holdsSem scl then r else (3, s)
  if 0x1000 ≤ off ∧ off < 0x1080 then
    let q := (off - 0x1000) / 8
    sem (if w / 2 % 2 = 1 then
        let r := s.flushHost part q
        if r.1 = 0 then r.2.setQueue part q (decide (w % 2 = 1)) else r
      else s.setQueue part q (decide (w % 2 = 1)))
  else if 0x1080 ≤ off ∧ off < 0x1100 then (if (s.part? part).isSome then (0, s) else (1, s))
  else if off = 0x1100 then
    if (s.part? part).isSome then (0, s.startKill part (BitVec.ofNat 32 w) ⟨1, 0, 0, false⟩) else (1, s)
  else if 0x1200 ≤ off ∧ off < 0x1300 then
    if 12 ≤ part then (1, s)
    else
      let b := s.band part
      let bytes := (leBytes 8 w).zipIdx
      let put := fun (t : Tbl Byte) (e : Byte × Nat) =>
        if e.1 = 0 then Tbl.del t (off - 0x1200 + e.2) else Tbl.put t (off - 0x1200 + e.2) e.1
      sem (if b.pctl ≠ 0 then (5, s) else (0, s.setBand part { b with pcfg := bytes.foldl put b.pcfg }))
  else if off = 0x1300 then
    sem (if w = 1 then s.pctlCreate part else if w = 2 then s.pctlDissolve part else (1, s))
  else if part ≠ 0 then (1, s)
  else if off = 0x2000 then s.writeSem scl
  else if 0x2010 ≤ off ∧ off < 0x2040 then sem (s.writeTime off w)
  else (1, s)

/-- The words of a write, one after the other, until one is refused. -/
def State.writeRegs (s : State) (scl : Requester) (part : Nat) : List (Nat × Nat) → Nat × State
  | [] => (0, s)
  | (o, w) :: t =>
    let r := s.writeReg scl part o w
    if r.1 = 0 then r.2.writeRegs scl part t else r

/-- The words of bytes from an offset on. -/
def wordsFrom (off : Nat) (data : List Byte) : List (Nat × Nat) :=
  (List.range (data.length / 8)).map fun k => (off + 8 * k, leNat ((data.drop (8 * k)).take 8))

/-! ## Host reads and writes -/

/-- HOST_MEMORY_READ (R140, R464, R520, R521): a read of any space; one of global memory waits while a commit is under way. -/
def execHostMemoryRead (scl : Requester) (addr len : Nat) (s : State) : Out :=
  let bad := s.respond scl 1 []
  s.hostAsk scl (match hostPlace addr with
    | none => bad
    | some (space, part, off) =>
      if !hostSize addr len then bad
      else if space = 8 then
        match s.readRegs scl part (wordOffs off len) with
        | some (s1, data) => s1.respond scl 0 data
        | none => bad
      else
        match s.part? part with
        | none => bad
        | some p =>
          if space = 0 ∧ p.committing then { s with module := { s.module with held := s.module.held ++ [(scl, addr, len)] } }
          else
            match s.hostBytes p space off len with
            | some data => (if space = 2 then s.readMirror p (off / 2 ^ 22) else s).respond scl 0 data
            | none => bad)

/-- HOST_MEMORY_WRITE (R464, R520, R521, R527): a write of any space. -/
def execHostMemoryWrite (scl : Requester) (addr : Nat) (data : List Byte) (s : State) : Out :=
  let bad := s.respond scl 1 []
  s.hostAsk scl (match hostPlace addr with
    | none => bad
    | some (space, part, off) =>
      if !hostSize addr data.length then bad
      else if space = 8 then
        if off < 0x1000 then
          if off % 256 = 0 then
            let r := s.submitTo scl part (off / 256) data
            r.2.2.respond scl r.1 r.2.1
          else bad
        else
          let r := s.writeRegs scl part (wordsFrom off data)
          r.2.respond scl r.1 []
      else
        match s.part? part with
        | none => bad
        | some p =>
          let r := s.hostWrite p space off data
          r.2.respond scl r.1 [])

/-- REGISTER_WRITE (R523, R525, R533): the fields of the registers from an address on. -/
def execRegisterWrite (scl : Requester) (addr : Nat) (data : List Byte) (s : State) : Out :=
  let bad := s.respond scl 1 []
  s.hostAsk scl (match hostPlace addr with
    | none => bad
    | some (space, part, off) =>
      if space ≠ 8 ∨ !hostSize addr data.length then bad
      else
        let r := s.writeRegs scl part (wordsFrom off data)
        r.2.respond scl r.1 [])

/-- SCL_LINK_DOWN (R520, R524): outstanding requests of the port are dropped, and its semaphore is freed. -/
def execSclLinkDown (scl : Requester) (s : State) : Out :=
  let m := s.module
  let m1 := { m with
    upA := m.upA && scl != .sclA, upB := m.upB && scl != .sclB, held := m.held.filter (fun e => e.1 != scl),
    sem := if scl != .mgc && m.sem == ownerOf scl then .free else m.sem }
  .next { s with module := m1 }

end Sys2Proof.Machine
end

