-- ==== Sys2Proof/Machine/Mem.lean ====
section
/-!
DEFINITION. LD, ST and LDP (R187-R191).
-/

namespace Sys2Proof.Machine

open Sys2Proof

/-- The bytes of a load size (R47). -/
def LdSize.bytes : LdSize → Nat
  | .i8 | .n8 => 1
  | .i16 | .n16 => 2
  | .i32 | .n32 => 4
  | .x64 => 8

/-- Whether a load size sign-extends (R47, R187). -/
def LdSize.sext : LdSize → Bool
  | .i8 | .i16 | .i32 => true
  | _ => false

/-- The bytes of a store size (R47). -/
def StSize.bytes : StSize → Nat
  | .b8 => 1
  | .b16 => 2
  | .b32 => 4
  | .b64 => 8

/-- The HINTs of LD and ST (R68). -/
def memHints : HintUse := { imm := true, nt := true }

/-- LD (R187). -/
def execLd (d a : Reg) (sz : LdSize) (imm : BitVec 13) (s : State) : Out :=
  issueWord s memHints [a] [d] true false false fun i =>
    counting s i.c .ld <| loadAt s i.c d ((i.v 0 + i.c.imm13 imm).setWidth 56) (LdSize.bytes sz) (LdSize.sext sz)

/-- ST (R188): x[a] is popped before x[d] (R167). -/
def execSt (d a : Reg) (sz : StSize) (imm : BitVec 13) (s : State) : Out :=
  issueWord s memHints [a, d] [] true false false fun i =>
    counting s i.c .st <| storeAt s i.c ((i.v 0 + i.c.imm13 imm).setWidth 56) (leBytes (StSize.bytes sz) (i.v 1).toNat)

/-- LDP (R189, R190): an offset that is not a multiple of the size faults MISALIGN before the window is looked at. -/
def execLdp (d a : Reg) (sz : LdSize) (pw : BitVec 3) (disp : BitVec 10) (s : State) : Out :=
  issueWord s noHints [a] [d] true false false fun i =>
    let size := LdSize.bytes sz
    let o := (i.v 0 + BitVec.ofNat 64 (disp.toNat * size)).toNat
    let faddr : Addr := paramBase pw.toNat + BitVec.ofNat 56 (o % 65536)
    counting s i.c .ld <|
      if o % size ≠ 0 then .next (s.trap causeMisalign faddr)
      else loadParam s i.c d pw.toNat o size (LdSize.sext sz) faddr

end Sys2Proof.Machine
end

