-- ==== Sys2Proof/Machine/Resets.lean ====
section
/-!
DEFINITION. The warm reset (R456, R537), its failure (R566), the loss of wafer power (R558) and the cold bring-up (R569).
-/

namespace Sys2Proof.Machine

open Sys2Proof

/-! ## The warm reset (R537) -/

/-- A commit that has begun is completed: the slots that its broadcast has not reached publish, and its record is written (R456). -/
def State.finishCommit (s : State) (p : Part) (l : Launch) : State :=
  let s1 := l.todo.foldl (fun t slot =>
    if (Tbl.find? t.rims (p.chanOf slot)).isSome then t.publishAt p (p.chanOf slot) l.vint p.commitCount else t) s
  s1.finishLaunch p.lead l.vint 0 l.status 0 false

/-- Steps 1 to 3 for a partition: commits begun are completed, casks of the others discarded and what is committed stands at home;
the launches admitted and not committed wait for their records. -/
def State.resetPart (s : State) (lead : Nat) : State :=
  match s.part? lead with
  | none => s
  | some p =>
    let s1 := (p.launches.filter fun l => l.phase == .committing).foldl (fun t l => t.finishCommit p l) s
    let ended := p.launches.filter fun l => l.admitted && l.phase != .committing
    let s2 := ended.foldl (fun t l => (t.rimsOf p).foldl (fun u c => u.discardAt p c l.vint) t) s1
    (s2.mergeAll p).updPart lead fun q =>
      { q with intent := none, launches := ended.map fun l => { l with phase := .warm } }

/-- A slot controller after the reset of its logic (R510): what the medium and the retirement tables hold stays, but for the
system areas, which are written anew in sound blocks (R519). -/
def Rim.restart (r : Rim) : Rim :=
  { r.blank with
    code := 0, mode := 0, pn := 9, test := false, rq := false, corr := 0, uncorr := 0, loadSeed := false, bursts := 0, trans := (0, 0, 0),
    weak := r.weak.filter fun e => !(e.2 && isSystemBurst e.1) }

/-- A band after the reset of its logic: its time, its record and the management controller's note of its heartbeat stay. -/
def Band.restart (b : Band) : Band :=
  { Band.reset with skew := b.skew, floor := b.floor, pcfg := b.pcfg, missAt := b.missAt }

/-- A power domain after the reset of its logic: the sag and its sensors stay, and so does a ride-through's cap (R558). -/
def Domain.restart (d : Domain) : Domain :=
  { Domain.reset with sag := d.sag, temp := d.temp, power := d.power, cap := if d.saved.isSome then 2 else 4, saved := d.saved.map fun _ => 4 }

/-- WARM_RESET (R456, R537, steps 1 to 3): the ports stop taking requests and the logic of every band is reset. -/
def State.warmReset (s : State) : State :=
  let m := s.module
  if m.warm ∨ m.booting ∨ m.mgc.input = .off then s
  else
    let s1 := (s.parts.map (·.1)).foldl State.resetPart s
    let s2 := { s1 with
      cores := s1.cores.map fun (e : Nat × Core) => (e.1, e.2.blank)
      routers := s1.routers.map fun (e : Nat × Router) => (e.1, e.2.blank)
      rims := s1.rims.map fun (e : Nat × Rim) => (e.1, e.2.restart)
      bands := s1.bands.map fun (e : Nat × Band) => (e.1, e.2.restart)
      doms := s1.doms.map fun (e : Nat × Domain) => (e.1, e.2.restart)
      links := []
      module := { s1.module with warm := true, held := [], latch := [], stagedSec := none }
      pending := [] }
    s2.assignRoles.later .warmResetEnd

/-- WARM_RESET (R537). -/
def execWarmReset (s : State) : Out := .next s.warmReset

/-- The record of a launch that a warm reset ended (R530, R537). -/
def State.recordReset (s : State) (lead : Nat) (l : Launch) : State :=
  let st := s.recordStatus 9 0
  let words := recordWords l.late 9 l.queue l.vint st l.flog l.cmd.tag l.tadmit l.tstart (s.partNs lead) 0
  s.writeRecord lead l.cmd words l.queue 9 l.vint st

/-- Steps 4 and 5 for a partition: it is rebuilt from its last configuration record, its queues resume, the vintages that the
reset ended complete and the preserved list is written. -/
def State.rebuildPart (s : State) (lead : Nat) : State :=
  match s.part? lead with
  | none => s
  | some p =>
    let s1 := p.launches.foldl (fun t l => t.recordReset lead l) s
    let p1 := (s1.part? lead).getD p
    let c := p.pcfg
    let again := decide (p.objtab = c.objtab.toNat) && decide (p.objn = c.objn.toNat) && decide (p.grptab = c.grptab.toNat)
      && decide (p.grpn = c.grpn.toNat)
    let s2 := match s1.buildPart c with
      | none => s1.setPart lead { p1 with launches := [], stopped := true, preserved := p1.lost.take 131071, preservedN := p1.lost.length }
      | some q =>
        let q1 := { q with
          queues := p1.queues, messages := p1.messages, flog := p1.flog, flogHead := p1.flogHead, lost := p1.lost,
          preserved := p1.lost.take 131071, preservedN := p1.lost.length }
        (s1.installConfig q1 c again).trainLinks q1
    let s3 := if p1.messages.isEmpty then s2 else s2.later (.completionMessage lead)
    s3.examine lead

/-- WARM_RESET_END (R515, R522, R524, R537): steps 4 and 5; the ports take requests again, and block moves resume. -/
def execWarmResetEnd (s : State) : Out :=
  if !s.module.warm then .next s
  else
    let s0 := { s with module := { s.module with warm := false, sem := .free, semGen := 0, tieFirstA := true } }
    let s1 := (s0.parts.map (·.1)).foldl State.rebuildPart s0
    .next (s1.rims.foldl (fun t (e : Nat × Rim) => if e.2.chState = 1 ∨ e.2.rebind ≠ [] then t.later (.blockMove e.1) else t) s1)

/-! ## Power and the cold bring-up (R558, R569) -/

/-- A wafer without power (R558): contents and launches are lost; what the wafer test found, the management controller's
own state and what the hosts have received stay. -/
def State.unpowered (s : State) : State :=
  let m := s.module
  { State.reset with
    cores := (s.cores.filter fun (e : Nat × Core) => e.2.dead || e.2.retired).map fun e =>
      (e.1, { Core.reset with dead := e.2.dead, retired := e.2.retired, fenced := true })
    routers := (s.routers.filter fun (e : Nat × Router) => e.2.deadLinks != Router.reset.deadLinks || e.2.fenced).map fun e =>
      (e.1, e.2.blank)
    tick := s.tick
    order := s.order
    module := { Module.reset with
      code := m.code, responses := m.responses, messages := m.messages, upA := false, upB := false, boots := m.boots,
      mgc := { m.mgc with low := 0, input := .off, responses := [], warmFails := 0 } } }

/-- The cold bring-up begins (R569): step 1 ends it in recovery mode (R567). -/
def State.coldBringup (s : State) : State :=
  if s.module.booting ∨ s.module.mgc.recovery then s
  else
    let s1 := s.unpowered
    let m := s1.module
    let s2 := { s1 with module := { m with booting := true, boots := m.boots + 1, mgc := { m.mgc with input := .full } } }
    s2.assignRoles.later .coldBringupEnd

/-- COLD_BRINGUP (R566, R569). -/
def execColdBringup (s : State) : Out := .next s.coldBringup

/-- COLD_BRINGUP_END (R569): the SCL ports are up and every band is unassigned. -/
def execColdBringupEnd (s : State) : Out :=
  if !s.module.booting then .next s
  else .next { s with module := { s.module with booting := false, upA := true, upB := true } }

/-- Ten minutes and one second in fabric cycles (R4). -/
def fcTenMinutes : Nat := 840000000000
def fcSecond : Nat := 1400000000

/-- WARM_RESET_FAILURE (R566): the second that fails to complete within ten minutes leads to a cold bring-up; the first is tried
again. -/
def execWarmResetFailure (s : State) : Out :=
  let m := s.module
  if !m.warm then .next s
  else if 0 < m.mgc.warmFails ∧ m.fc ≤ m.mgc.failAt + fcTenMinutes then .next s.coldBringup
  else .next { s with module := { m with mgc := { m.mgc with warmFails := 1, failAt := m.fc } } }

/-- The wafer rails go off (R558). -/
def State.railsOff (s : State) : State := if s.module.mgc.input = .off then s else s.unpowered

end Sys2Proof.Machine
end

