-- ==== Sys2Proof/Machine/Mgmt.lean ====
section
/-!
DEFINITION. Power, cooling and management (R558-R568): input power and the budget, sags, temperatures, the management registers,
the watchdogs above the core, the operator, firmware and attestation.
-/

namespace Sys2Proof.Machine

open Sys2Proof

/-! ## Power domains -/

/-- The number of power domains (R3), two in each band. -/
def domains : List Nat := List.range 24

/-- A power domain. -/
def State.dom (s : State) (d : Nat) : Domain := Tbl.get Domain.reset s.doms d

/-- The state with another power domain. -/
def State.setDom (s : State) (d : Nat) (x : Domain) : State := { s with doms := Tbl.put s.doms d x }

/-- The cap that the last management write gave a domain. -/
def Domain.asked (x : Domain) : Nat := x.capNext.getD x.cap

/-- The cap that a domain has been asked for, but for a ride-through (R558). -/
def Domain.wanted (x : Domain) : Nat := x.saved.getD x.asked

/-- A management write of a domain's cap, for the next slew step boundary (R561); during a ride-through at most 2 of it apply, and the
rest waits for its end (R558). -/
def Domain.ask (x : Domain) (cap : Nat) : Domain :=
  if x.saved.isSome then { x with capNext := some (min cap 2), saved := some cap } else { x with capNext := some cap }

/-- The module with another management controller. -/
def State.setMgc (s : State) (m : Mgc) : State := { s with module := { s.module with mgc := m } }

/-! ## Input power (R558) -/

/-- INPUT_UNDERVOLTAGE (R558): ride-through begins, the cap of every domain at most 2. -/
def execInputUndervoltage (s : State) : Out :=
  if s.module.mgc.input ≠ .full then .next s
  else
    let lower := fun (t : State) (d : Nat) =>
      let x := t.dom d
      t.setDom d { x with capNext := some (min x.asked 2), saved := some x.asked }
    .next (domains.foldl lower (s.setMgc { s.module.mgc with input := .ride }))

/-- RIDE_THROUGH_LIMIT (R558): the wafer rails go off. -/
def execRideThroughLimit (s : State) : Out := if s.module.mgc.input = .ride then .next s.railsOff else .next s

/-- RIDE_THROUGH_END (R558): the caps are as before. -/
def execRideThroughEnd (s : State) : Out :=
  if s.module.mgc.input ≠ .ride then .next s
  else
    let back := fun (t : State) (d : Nat) =>
      let x := t.dom d
      match x.saved with
      | some c => t.setDom d { x with capNext := some c, saved := none }
      | none => t
    .next (domains.foldl back (s.setMgc { s.module.mgc with input := .full }))

/-- INPUT_POWER_LOSS (R558): the wafer rails go off. -/
def execInputPowerLoss (s : State) : Out := .next s.railsOff

/-- INPUT_OVERVOLTAGE (R558): full operation, over-voltage reported. -/
def execInputOvervoltage (s : State) : Out := .next (s.setMgc { s.module.mgc with overVolt := true })

/-! ## The budget (R559) -/

/-- The share of a partition in W: as set, else its bands' part of the budget (log entry 2). -/
def Mgc.shareOf (m : Mgc) (p : Part) : Nat := (Tbl.find? m.shares p.lead).getD (m.budget * p.nb / 12)

/-- The domains of a partition. -/
def Part.doms (p : Part) : List Nat := (List.range (2 * p.nb)).map fun k => 2 * p.lead + k

/-- POWER_MEASUREMENT (R559, R564): the power of each domain in W. Above 98 % of the budget the partitions above their shares
are lowered; after 1 ms below 95 %, and every 1 ms from then on, what was lowered is raised. -/
def execPowerMeasurement (watts : List Nat) (s : State) : Out :=
  let m := s.module.mgc
  if m.input = .off then .next s
  else
    let at' := fun (d : Nat) => watts.getD d 0
    let total := domains.foldl (fun n d => n + at' d) 0
    let s1 := domains.foldl (fun t d => t.setDom d { t.dom d with power := at' d / 2 % 65536 }) s
    if 98 * m.budget < 100 * total then
      let above := (s.parts.map (·.2)).filter fun p => decide (m.shareOf p < p.doms.foldl (fun n d => n + at' d) 0)
      let lower := fun (t : State) (d : Nat) =>
        let x := t.dom d
        if x.wanted = 0 then t else t.setDom d { x.ask (x.wanted - 1) with lowered := x.lowered + 1 }
      .next ((above.flatMap Part.doms).foldl lower (s1.setMgc { m with low := 0 }))
    else if 100 * total < 95 * m.budget then
      let n := m.low + 1
      let raise := fun (t : State) (d : Nat) =>
        let x := t.dom d
        if x.lowered = 0 then t else t.setDom d { x.ask (min 4 (x.wanted + 1)) with lowered := x.lowered - 1 }
      let s2 := s1.setMgc { m with low := n }
      .next (if 10 < n ∧ n % 10 = 1 then domains.foldl raise s2 else s2)
    else .next (s1.setMgc { m with low := 0 })

/-! ## Sags (R560, R561) -/

/-- SAG_DETECT (R560, R564): the domain's cycles are stretched. -/
def execSagDetect (d : Nat) (s : State) : Out :=
  let x := s.dom d
  if 24 ≤ d ∨ x.sag then .next s
  else .next (s.setDom d { x with sag := true, sagn := if x.sagn = 65535 then x.sagn else x.sagn + 1 })

/-- SAG_CLEAR (R560). -/
def execSagClear (d : Nat) (s : State) : Out := if 24 ≤ d then .next s else .next (s.setDom d { s.dom d with sag := false })

/-- SAG_CAP_LOWER (R344, R561): a sag of 20 µs lowers the domain's cap to at most 2, from the next step boundary on; a cap that the
controller has asked for is lowered too. -/
def execSagCapLower (d : Nat) (s : State) : Out :=
  let x := s.dom d
  if 24 ≤ d ∨ !x.sag then .next s else .next (s.setDom d { x.ask (min x.wanted 2) with sagcap := true })

/-! ## Cooling (R562) -/

/-- OVERTEMPERATURE (R562): the domain's highest sensor; above 110 °C a warm reset, above 120 °C the rails go off. -/
def execOvertemperature (d temp : Nat) (s : State) : Out :=
  if 24 ≤ d ∨ s.module.mgc.input = .off then .next s
  else
    let s1 := s.setDom d { s.dom d with temp := min temp 255 }
    .next (if 120 < temp then s1.railsOff else if 110 < temp then s1.warmReset else s1)

/-- OVERTEMPERATURE_STEP (R562): 1 ms above 95 °C lowers the cap, 10 ms below 90 °C raises it again. -/
def execOvertemperatureStep (d : Nat) (s : State) : Out :=
  let x := s.dom d
  if 24 ≤ d then .next s
  else if 95 < x.temp ∧ 1 < x.wanted then .next (s.setDom d { x.ask (x.wanted - 1) with heated := x.heated + 1 })
  else if x.temp < 90 ∧ 0 < x.heated then
    .next (s.setDom d { x.ask (min 4 (x.wanted + 1)) with heated := x.heated - 1 })
  else .next s

/-- COOLANT_FLOW_LOSS (R562): the rails go off. -/
def execCoolantFlowLoss (s : State) : Out := .next s.railsOff

/-! ## Management registers (R563) -/

/-- A domain's limiter control (R344) as a word, and a write of it. -/
def Domain.control (x : Domain) : Nat := x.up.toNat + 2 ^ 8 * x.down.toNat + 2 ^ 16 * x.asked
def Domain.setControl (x : Domain) (w : Nat) : Domain :=
  let nz := fun (n : Nat) => BitVec.ofNat 6 (if n % 64 = 0 then 1 else n)
  { x.ask (min 4 (w / 2 ^ 16 % 8)) with up := nz w, down := nz (w / 2 ^ 8) }

/-- Domain status (R564) as a word, and a write of it: sagcap and sagn clear where ones are written. -/
def Domain.status (x : Domain) : Nat :=
  (if x.sag then 1 else 0) + (if x.sagcap then 2 else 0) + 2 ^ 16 * x.sagn.toNat + 2 ^ 32 * x.temp + 2 ^ 48 * x.power
def Domain.setStatus (x : Domain) (w : Nat) : Domain :=
  { x with sagcap := x.sagcap && decide (w / 2 % 2 = 0), sagn := x.sagn &&& ~~~(BitVec.ofNat 16 (w / 2 ^ 16)) }

/-- A recovery engine's control (R472) as a word, and a write of it. -/
def Band.control (b : Band) : Nat :=
  b.ivl + 2 ^ 16 * b.hw.toNat + 2 ^ 20 * b.wdl + 2 ^ 32 * b.sthr.toNat
def Band.setControl (b : Band) (w : Nat) : Band :=
  { b with
    ivl := min 10000 (max 50 (w % 2 ^ 14)), hw := BitVec.ofNat 2 (w / 2 ^ 16), wdl := min 30 (max 16 (w / 2 ^ 20 % 32)),
    sthr := BitVec.ofNat 8 (w / 2 ^ 32) }

/-- A memory channel's register (R510): its first word and its seed. -/
def Rim.control (r : Rim) : Nat :=
  r.newCode + 2 ^ 2 * r.mode.toNat + 2 ^ 4 * r.pn.toNat + (if r.test then 2 ^ 10 else 0) + 2 ^ 12 * r.chState.toNat
    + (if r.rq then 2 ^ 14 else 0) + 2 ^ 32 * r.corr.toNat + 2 ^ 48 * r.uncorr.toNat

/-- A write of the first word: a request for retirement stands until it ends or is refused. -/
def Rim.setControl (r : Rim) (w : Nat) : Rim :=
  let test := decide (w / 2 ^ 10 % 2 = 1)
  { r with
    mode := BitVec.ofNat 2 (w / 4), pn := BitVec.ofNat 4 (min 12 (max 6 (w / 16 % 64))), test := test,
    loadSeed := test, rq := r.rq || decide (w / 2 ^ 14 % 2 = 1) }

/-- A write of the seed (R509): 0 is stored as 0x2545_F491; in test mode the next activation loads it. -/
def Rim.setSeed (r : Rim) (w : Nat) : Rim :=
  let x : BitVec 32 := BitVec.ofNat 32 w
  { r with seed := if x = 0 then 0x2545F491 else x, loadSeed := r.test }

/-- A BHL port's register (R548): its two words. -/
def BhlPort.control (x : BhlPort) : Nat :=
  x.state.toNat + 2 ^ 2 * x.txw.toNat + 2 ^ 5 * x.rxw.toNat + 2 ^ 8 * x.lost.toNat + (if x.en then 2 ^ 24 else 0)
    + (if x.rt then 2 ^ 25 else 0) + 2 ^ 32 * x.pmod.toNat + 2 ^ 48 * x.pport.toNat
def BhlPort.counts (x : BhlPort) : Nat := x.replays.toNat + 2 ^ 16 * x.crcerr.toNat

/-- A state reached by an event that always answers one. -/
def Out.orElse (o : Out) (s : State) : State :=
  match o with
  | .next t => t
  | _ => s

/-- A write of a port's register (R548): a change of en, then rt. -/
def State.writeLink (s : State) (port w : Nat) : State :=
  let en := decide (w / 2 ^ 24 % 2 = 1)
  let s1 := if (s.link port).en = en then s else (execBhlEnable port en s).orElse s
  if w / 2 ^ 25 % 2 = 1 then (execBhlRetrain port s1).orElse s1 else s1

/-- The module number written (R549): ports of assigned bands may train. -/
def State.setNumber (s : State) (n : Nat) : State :=
  let s1 := { s with module := { s.module with number := some (BitVec.ofNat 16 n) } }
  s1.parts.foldl (fun t (e : Nat × Part) => t.trainLinks e.2) s1

/-- A management register read: 0 where there is none. -/
def State.mgmtRead (s : State) (band block off : Nat) : State × Nat :=
  let d := 2 * band + off / 16 % 2
  let chan := 128 * band + off / 16
  if band < 12 then
    match block with
    | 1 =>
      if off = 0x00 ∨ off = 0x10 then (s, (s.dom d).control)
      else if off = 0x08 ∨ off = 0x18 then (s, (s.dom d).status) else (s, 0)
    | 2 => (s, if off = 0 then (s.band band).control else 0)
    | 3 =>
      if 0x800 ≤ off then (s, 0)
      else if off % 16 = 0 then (s, (s.rim chan).control)
      else if off % 16 = 8 then (s, (s.rim chan).seed.toNat) else (s, 0)
    | 4 =>
      if off = 0x00 ∨ off = 0x10 then (s, (s.link d).control)
      else if off = 0x08 ∨ off = 0x18 then (s, (s.link d).counts) else (s, 0)
    | _ => (s, 0)
  else if band = 15 ∧ block = 0 then (s, if off = 0 then (s.module.number.map (·.toNat)).getD 0 else 0)
  else if band = 15 ∧ block = 1 then (s.readTime .mgc off).getD (s, 0)
  else (s, 0)

/-- A management register write: ignored where there is none. -/
def State.mgmtWrite (s : State) (band block off w : Nat) : State :=
  let d := 2 * band + off / 16 % 2
  let chan := 128 * band + off / 16
  if band < 12 then
    match block with
    | 1 =>
      if off = 0x00 ∨ off = 0x10 then s.setDom d ((s.dom d).setControl w)
      else if off = 0x08 ∨ off = 0x18 then s.setDom d ((s.dom d).setStatus w) else s
    | 2 => if off = 0 then s.setBand band ((s.band band).setControl w) else s
    | 3 =>
      if 0x800 ≤ off then s
      else if off % 16 = 0 then
        let s1 := s.setRim chan ((s.rim chan).setControl w)
        if w / 2 ^ 14 % 2 = 1 then s1.later (.channelRetirementRequest chan) else s1
      else if off % 16 = 8 then s.setRim chan ((s.rim chan).setSeed w) else s
    | 4 => if off = 0x00 ∨ off = 0x10 then s.writeLink d w else s
    | _ => s
  else if band = 15 ∧ block = 0 then
    if off = 0x00 then s.setNumber w
    else if off = 0x08 then (if w = 1 then s.warmReset else if w = 2 then s.coldBringup else s)
    else if off = 0x10 then (if w = 1 then { s with module := { s.module with sem := .free } } else s)
    else s
  else if band = 15 ∧ block = 1 then (s.writeTime off w).2
  else s

/-- MANAGEMENT_REQUEST (R344, R472, R510, R548, R563, R564): a read answers with the register's word. A wafer without power
answers nothing, and in recovery mode the management controller asks nothing (R567). -/
def execManagementRequest (addr : Nat) (wdata : Option Word) (s : State) : Out :=
  let band := addr / 2 ^ 28 % 16
  let block := addr / 2 ^ 24 % 16
  let off := addr % 2 ^ 24
  let m := s.module.mgc
  if m.input = .off ∨ m.recovery then .next s
  else
    match wdata with
    | some w => .next (s.mgmtWrite band block off w.toNat)
    | none =>
      let r := s.mgmtRead band block off
      let m1 := r.1.module.mgc
      .next ((r.1.setMgc { m1 with responses := m1.responses ++ [BitVec.ofNat 64 r.2] }).later .managementResponse)

/-- MANAGEMENT_RESPONSE (R563): the management controller takes the oldest response. -/
def execManagementResponse (s : State) : Out :=
  let m := s.module.mgc
  match m.responses with
  | [] => .next s
  | w :: rest => .next (s.setMgc { m with responses := rest, taken := m.taken ++ [w] })

/-! ## Watchdogs and the operator (R565, R566) -/

/-- HEARTBEAT_MISS (R565): the supervisor is spared; a second miss within 1 s is a warm reset. -/
def execHeartbeatMiss (b : Nat) (s : State) : Out :=
  let x := s.band b
  if 12 ≤ b ∨ s.module.warm ∨ s.module.booting ∨ s.module.mgc.input = .off then .next s
  else
    let s1 := s.setBand b { x with missAt := some s.module.fc }
    match x.missAt with
    | some t => if s.module.fc ≤ t + fcSecond then .next s1.warmReset else .next (s1.failCore (s.supOf b) false)
    | none => .next (s1.failCore (s.supOf b) false)

/-- SIDING_FULL_TIMEOUT (R404, R565): a band's area full for 100 ms is a warm reset. -/
def execSidingFullTimeout (b : Nat) (s : State) : Out :=
  match s.partOfBand b with
  | some p => if sidingSize ≤ s.sidingUsed p b then .next s.warmReset else .next s
  | none => .next s

/-- MGC_WATCHDOG (R565): the management controller restarts; the wafer runs on. -/
def execMgcWatchdog (s : State) : Out :=
  let m := s.module.mgc
  .next (s.setMgc { m with restarts := m.restarts + 1, low := 0, responses := [], overVolt := false, notices := [] })

/-- OPERATOR_KILL (R566): as a write to KILL (R532). -/
def execOperatorKill (part v : Nat) (s : State) : Out :=
  if s.module.mgc.recovery then .next s else .next (s.startKill part (BitVec.ofNat 32 v) ⟨1, 0, 0, false⟩)

/-! ## Firmware and attestation (R567, R568) -/

/-- FIRMWARE_UPDATE (R567): a verified image is loaded; one that is not leaves the module in recovery mode. -/
def execFirmwareUpdate (image : FirmwareImage) (s : State) : Out :=
  let m := s.module.mgc
  let ok := Config.signatureValid (leBytes 64 image.digest.toNat) image.signature && decide (m.rollback.toNat ≤ image.version.toNat)
  if ok then
    .next (s.setMgc { m with recovery := false, images := m.images.filter (fun i => i.kind != image.kind) ++ [image] })
  else .next (s.setMgc { m with recovery := true })

/-- The sites that are fenced or retired. -/
def State.fencedCount (s : State) : Nat := (s.cores.filter fun (e : Nat × Core) => e.2.fenced || e.2.retired).length

/-- An attestation report before its signature: nonce, module number, ordering code, digests, rollback counter, count. -/
def State.report (s : State) (nonce : List Byte) : List Byte :=
  let m := s.module
  let code := match m.code with
    | .zm1_8k3t => 0
    | .zm1_6k3t => 1
  nonce ++ leBytes 2 ((m.number.map (·.toNat)).getD 0) ++ leBytes 1 code
    ++ m.mgc.images.flatMap (fun i => leBytes 64 i.digest.toNat) ++ leBytes 4 m.mgc.rollback.toNat ++ leBytes 4 s.fencedCount

/-- ATTESTATION_REQUEST (R568): the report with the device key's signature; a nonce is up to 64 bytes. -/
def execAttestationRequest (data : List Byte) (s : State) : Out :=
  let m := s.module.mgc
  if 64 < data.length ∨ m.recovery then .next s
  else
    let r := s.report data
    .next (s.setMgc { m with reports := m.reports ++ [r ++ Config.attest r] })

end Sys2Proof.Machine
end

