-- ==== Sys2Proof/Machine/Pools.lean ====
section
/-!
DEFINITION. The district ready pools (R223, R224, R241), pre-emption (R259, R260, R263) and the restoring of held images
(R258, R262).
-/

namespace Sys2Proof.Machine

open Sys2Proof

/-- Put an entry in its place: by priority from highest to lowest, then by arrival (R223, R224). -/
def insertEntry (e : PoolEntry) : List PoolEntry → List PoolEntry
  | [] => [e]
  | x :: t =>
    if x.carr.r.prio < e.carr.r.prio ∨ (x.carr.r.prio = e.carr.r.prio ∧ e.seq < x.seq) then e :: x :: t
    else x :: insertEntry e t

/-- A district's pool. -/
def Part.pool (p : Part) (d : Nat) : Pool := Tbl.get Pool.new p.pools d

/-- A partition with another pool of a district. -/
def Part.setPool (p : Part) (d : Nat) (q : Pool) : Part := { p with pools := Tbl.put p.pools d q }

/-- A pool without an entry. -/
def Pool.without (q : Pool) (seq : Nat) : Pool := { q with entries := q.entries.filter fun e => e.seq != seq }

/-- Whether an entry is kept for a context: one that a pre-emption has chosen, or one that yields (R241, R259). A reservation that
outlives its reason keeps nothing. -/
def State.keptFor (s : State) (q : Pool) (e : PoolEntry) : Bool :=
  match e.reserved with
  | none => false
  | some r =>
    q.preempt == some r || (s.ctx r.1 r.2).occ == .yielded
      || (match (s.ctx r.1 r.2).hold with
        | .yieldDone true | .suspending (.yields _) | .writeback (.yields _) => (s.ctx r.1 r.2).occ == .running
        | _ => false)

/-- The first entry that a pool may serve, kept for no context, that satisfies a condition (R224). -/
def State.first (s : State) (q : Pool) (f : PoolEntry → Bool) : Option PoolEntry :=
  (q.entries.take poolSize).find? fun e => !s.keptFor q e && f e

/-- Let a core of the district that could run an entry pull (R224): the first by LCN without a pending pull. -/
def State.callFor (s : State) (p : Part) (d : Nat) (k : Carr) : State :=
  match ((p.bound.drop (64 * d)).take 64).find? fun site => (s.core site).pull.isNone && s.eligible site none k with
  | some site => s.due (.poolPull site)
  | none => s

/-- POOL_ENTRY (R222-R224): the next arriving carriage goes to the oldest recorded pull for which it is eligible, else into
the queue. -/
def execPoolEntry (part dist : Nat) (s : State) : Out :=
  match s.part? part with
  | none => .next s
  | some p =>
    let q := p.pool dist
    match q.arriving with
    | [] => .next s
    | k :: rest =>
      let e : PoolEntry := ⟨q.nextSeq, k, none⟩
      let q1 := { q with arriving := rest, nextSeq := q.nextSeq + 1 }
      match q.pulls.find? fun r => s.eligible r.site none k with
      | some r =>
        let q2 := { q1 with pulls := q1.pulls.erase r, sent := q1.sent ++ [(r.site, e)] }
        .next ((s.setPart part (p.setPool dist q2)).due (.poolPull r.site))
      | none =>
        let q2 := { q1 with entries := insertEntry e q1.entries }
        .next ((s.setPart part (p.setPool dist q2)).callFor p dist k)

/-- The core at a site has no pull. -/
def State.clearPull (s : State) (site : Nat) : State := s.updCore site fun c => { c with pull := none }

/-- The pre-empted image that a core would restore: highest prio, the oldest among equals (R262). -/
def Part.bestImage (p : Part) (l : Nat) : Option Image :=
  ((p.imagesOf l).filter fun i => i.kind == .preempted).foldl (fun (b : Option Image) i =>
    match b with
    | none => some i
    | some x => if x.c.prio < i.c.prio ∨ (x.c.prio = i.c.prio ∧ i.age < x.age) then some i else b) none

/-- A pool answers the pull of a core for its idle context n (R224, R262): an entry that it sent arrives, the first eligible entry
of a priority above the floor is taken, an image is restored, or the pull is recorded. -/
def State.pull (s : State) (site : Nat) (p : Part) (l n : Nat) : State :=
  let d := l / 64
  let q := p.pool d
  let take := fun (q1 : Pool) (e : PoolEntry) =>
    ((s.setPart p.lead (p.setPool d q1)).clearPull site).accept site n e.carr
  match q.sent.find? fun x => x.1 == site with
  | some x =>
    if (s.core site).pull.isSome && s.eligible site none x.2.carr then take { q with sent := q.sent.erase x } x.2
    else s.due (.entryReturn p.lead d)
  | none =>
    if (s.core site).pull.isSome then s
    else
      match p.bestImage l with
      | some i =>
        match s.first q fun e => decide (i.c.prio < e.carr.r.prio) && s.eligible site none e.carr with
        | some e => take (q.without e.seq) e
        | none => s.due (.imageRestore site i.slot)
      | none =>
        match s.first q fun e => s.eligible site none e.carr with
        | some e => take (q.without e.seq) e
        | none =>
          (s.setPart p.lead (p.setPool d { q with pulls := q.pulls ++ [⟨site, n⟩] })).updCore site fun c =>
            { c with pull := some n }

/-- Withdraw a core's pull (R224). -/
def State.withdraw (s : State) (site : Nat) (p : Part) (l : Nat) : State :=
  let q := p.pool (l / 64)
  (s.setPart p.lead (p.setPool (l / 64) { q with pulls := q.pulls.filter fun r => r.site != site })).clearPull site

/-- Whether the context that a core's pull was for is busy (R224). -/
def Core.pullStale (c : Core) : Bool :=
  match c.pull with
  | some m => (c.ctx m).occ != .idle
  | none => false

/-- A context that yielded takes the entry that its query reserved (R241); one that has none, or cannot take it, is idle. -/
def State.takeYielded (s : State) (site : Nat) (p : Part) (l n : Nat) : State :=
  let d := l / 64
  let idle := s.updCtx site n fun x => { x with occ := .idle }
  match (p.pool d).entries.find? fun e => e.reserved == some (site, n) with
  | some e =>
    if s.eligible site (some n) e.carr then
      (idle.setPart p.lead (p.setPool d ((p.pool d).without e.seq))).accept site n e.carr
    else (idle.unreserve site n).due (.poolPull site)
  | none => idle.due (.poolPull site)

/-- POOL_PULL (R224, R241): a context that yielded comes first; a pull whose context has become busy is withdrawn; then an idle
context pulls. -/
def execPoolPull (site : Nat) (s : State) : Out :=
  match s.partAt site, s.lcnOf site with
  | some p, some l =>
    let c := s.core site
    if c.fenced || c.drained || c.dead || c.stopped then .next s
    else
      match (List.range 8).find? fun n => (c.ctx n).occ == .yielded with
      | some n => .next (s.takeYielded site p l n)
      | none =>
        let t := if c.pullStale then s.withdraw site p l else s
        match c.idleCtx, t.partAt site with
        | some n, some q => .next (t.pull site q l n)
        | _, _ => .next t
  | _, _ => .next s

/-- PULL_WITHDRAW (R224): the context that the pull was for is busy. -/
def execPullWithdraw (site : Nat) (s : State) : Out :=
  match s.partAt site, s.lcnOf site with
  | some p, some l => if (s.core site).pullStale then .next ((s.withdraw site p l).due (.poolPull site)) else .next s
  | _, _ => .next s

/-- ENTRY_RETURN (R224): an entry that its core cannot accept goes to the oldest recorded pull for which it is eligible,
as if it had not left, else takes its former place. -/
def execEntryReturn (part dist : Nat) (s : State) : Out :=
  match s.part? part with
  | none => .next s
  | some p =>
    let q := p.pool dist
    match q.sent.find? fun x => (s.core x.1).pull.isNone || !s.eligible x.1 none x.2.carr with
    | none => .next s
    | some x =>
      let q1 := { q with sent := q.sent.erase x }
      match q.pulls.find? fun r => s.eligible r.site none x.2.carr with
      | some r =>
        let q2 := { q1 with pulls := q1.pulls.erase r, sent := q1.sent ++ [(r.site, x.2)] }
        .next ((s.setPart part (p.setPool dist q2)).due (.poolPull r.site))
      | none =>
        .next ((s.setPart part (p.setPool dist { q1 with entries := insertEntry x.2 q1.entries })).callFor p dist x.2.carr)

/-- Reserve an entry of a pool for a context of a core. -/
def Pool.reserve (q : Pool) (seq site n : Nat) : Pool :=
  { q with entries := q.entries.map fun e => if e.seq = seq then { e with reserved := some (site, n) } else e }

/-- YIELD_QUERY (R241): whether the district's pool has an entry of at least the task's priority for the core, the context
counted as idle; the entry stays for the context. -/
def execYieldQuery (site ctx : Nat) (s : State) : Out :=
  let c := s.ctx site ctx
  match s.partAt site, s.lcnOf site with
  | some p, some l =>
    if c.hold ≠ .yield then .next s
    else
      let q := p.pool (l / 64)
      let answer := fun (t : State) (yes : Bool) => t.updCtx site ctx fun x => { x with hold := .yieldDone yes }
      match (if c.task = 0 then none
          else s.first q fun e => decide (c.prio ≤ e.carr.r.prio) && s.eligible site (some ctx) e.carr) with
      | some e => .next (answer (s.setPart p.lead (p.setPool (l / 64) (q.reserve e.seq site ctx))) true)
      | none => .next (answer s false)
  | _, _ => .next s

/-! ## Pre-emption -/

/-- The victims that a district offers an entry: site, LCN, context and prio (R259). -/
def State.victims (s : State) (p : Part) (d : Nat) (e : PoolEntry) : List (Nat × Nat × Nat × Nat) :=
  ((p.bound.zipIdx.drop (64 * d)).take 64).flatMap fun x =>
    if (p.freeSlot x.2).isNone then []
    else
      ((List.range 8).filter fun n =>
        let c := s.ctx x.1 n
        c.occ == .running && decide (c.prio < e.carr.r.prio) && s.eligible x.1 (some n) e.carr).map fun n =>
          (x.1, x.2, n, (s.ctx x.1 n).prio.toNat)

/-- The victim to take: lowest prio, then lowest LCN, then highest context (R259). -/
def bestVictim (l : List (Nat × Nat × Nat × Nat)) : Option (Nat × Nat × Nat × Nat) :=
  l.foldl (fun (b : Option (Nat × Nat × Nat × Nat)) x =>
    match b with
    | none => some x
    | some y =>
      let better := decide (x.2.2.2 < y.2.2.2)
        || (x.2.2.2 == y.2.2.2 && (decide (x.2.1 < y.2.1) || (x.2.1 == y.2.1 && decide (y.2.2.1 < x.2.2.1))))
      if better then some x else b) none

/-- PREEMPTION_REQUEST (R259): for the pool's first entry, one request at a time. Its 1,024 cc are not modelled. -/
def execPreemptionRequest (part dist : Nat) (s : State) : Out :=
  match s.part? part with
  | none => .next s
  | some p =>
    let q := p.pool dist
    match q.preempt, q.entries with
    | none, e :: _ =>
      if s.keptFor q e then .next s
      else
        match bestVictim (s.victims p dist e) with
        | some (site, _, n, _) =>
          let q1 := { q.reserve e.seq site n with preempt := some (site, n) }
          .next ((s.setPart part (p.setPool dist q1)).due (.preemption site n))
        | none => .next s
    | _, _ => .next s

/-- The running tile commands of a context, by their places in the queue. -/
def Core.runningTiles (c : Core) (n : Nat) : List (Nat × TCmd) :=
  (List.range c.tq.length).filterMap fun k =>
    c.tq[k]?.bind fun t => if t.ctx == n && t.held.isNone && t.state == .running then some (k, t) else none

/-- Whether a context has at most one stopped tile command once its running ones stop (R323): none runs, or one that has interruption
points runs and no other is stopped. A pre-emption waits until then. -/
def Core.canStopTiles (c : Core) (n : Nat) : Bool :=
  match c.runningTiles n with
  | [] => true
  | [(_, t)] => t.fn.stepKind != 0 && !c.tileStuck n
  | _ => false

/-- The running tile command of a context stops at its next interruption point: it becomes stopped, and sys.fstep records its step
(R260, R322, R323). -/
def State.stopTiles (s : State) (site n : Nat) : State :=
  (((s.core site).runningTiles n).foldl (fun u e =>
    let (k, t) := e
    let hi := u.stoppedAt site k t ((Config.freeBits 64 u.tick).toNat / 2 ^ (16 * t.fn.unit) % 2 ^ 16)
    let u1 := (u.runSteps site t hi).updQueue site fun q => q.set k { t with step := hi, state := .stopped }
    u1.updCtx site n fun x => { x with fstep := BitVec.ofNat 32 (t.fn.stepKind * 2 ^ 30 + hi % 2 ^ 16) }) s).wakeEngines site

/-- Whether a context has rows of a tile command on their way (R336). -/
def Core.rowsOut (c : Core) (n : Nat) : Bool :=
  c.tq.any fun t => t.ctx == n && t.held.isNone && t.state == .running && !(t.sent.isEmpty && t.answers.isEmpty)

/-- PREEMPTION (R260, R263): with ld and st zero, no posted fault, its vector work done, its rows answered, at most one of its tile
commands running and no open word group, the chosen context writes its image and accepts the entry reserved for its core. -/
def execPreemption (site ctx : Nat) (s : State) : Out :=
  let c := s.ctx site ctx
  match s.partAt site, s.lcnOf site with
  | some p, some l =>
    let d := l / 64
    let q := p.pool d
    if q.preempt ≠ some (site, ctx) then .next s
    else
      let cleared := fun (t : State) => t.updPart p.lead fun r => r.setPool d { r.pool d with preempt := none }
      if c.occ ≠ .running then .next ((cleared s).unreserve site ctx)
      else if c.ld ≠ 0 ∨ c.st ≠ 0 ∨ c.hints.isSome ∨ c.hold ≠ .none ∨ (s.core site).vq.any (fun e => e.ctx == ctx) ∨
          (s.core site).rowsOut ctx ∨ !(s.core site).canStopTiles ctx then .next s
      else
        match c.oldestPosted fun _ => true with
        | some f =>
          let t := s.setCtx site ctx { c with posted := c.posted.erase f }
          .next ((t.trapAt site ctx f.cause f.faddr f.fstep).due (.preemption site ctx))
        | none =>
          match p.freeSlot l, q.entries.find? fun e => e.reserved == some (site, ctx) with
          | some slot, some e =>
            let s1 := ((s.updCtx site ctx Ctx.drainScalar).stopTiles site ctx).deliveryPoint site ctx
            let s2 := (s1.saveImage site ctx slot .preempted).updCtx site ctx Ctx.leave
            let s3 := (cleared s2).logEv site 8 ctx (BitVec.ofNat 64 slot) c.task 0xFFFF 0 []
            if s3.eligible site none e.carr then
              .next ((s3.updPart p.lead fun r => r.setPool d ((r.pool d).without e.seq)).accept site ctx e.carr)
            else .next ((s3.unreserve site ctx).due (.poolPull site))
          | _, _ => .next ((cleared s).unreserve site ctx)
  | _, _ => .next s

/-- IMAGE_RESTORE (R258, R262): a pre-empted image of the LCN, when a context is idle and the budgets admit the task. -/
def execImageRestore (site slot : Nat) (s : State) : Out :=
  match s.partAt site, s.lcnOf site with
  | some p, some l =>
    let c := s.core site
    match (p.imagesOf l).find? fun i => i.slot == slot, c.idleCtx with
    | some i, some n =>
      match p.launch? i.c.vintage with
      | some la =>
        if i.kind = .preempted ∧ la.places ∧ c.budget la i.c.region.toNat none ∧ !c.fenced ∧ !c.drained ∧ !c.stopped then
          .next (s.restoreImage site n i)
        else .next s
      | none => .next s
    | _, _ => .next s
  | _, _ => .next s

end Sys2Proof.Machine
end

