-- ==== Sys2Proof/Machine/Replies.lean ====
section
/-!
DEFINITION. The replies that come back to a core (R117, R121, R173, R192-R196, R398, R399): data replies and
acknowledgements, each to the operation that its reply tag names.
-/

namespace Sys2Proof.Machine

open Sys2Proof

/-- The reply contexts of a core's own units: the core itself (R198), its copy engine (R135, R365), its tile command queue
(R337). The model's own numbering (log entry 8). -/
def replyCore : Nat := 8
def replyCopy : Nat := 9
def replyTile : Nat := 10

/-- Whether a task's load at an address is a read of an rw region, whose value is logged (R483). -/
def State.rwLoad (s : State) (site n : Nat) (a : Addr) : Bool :=
  spaceOf a == .global && match declaredAt (s.regsOf site (s.ctx site n)) a 1 with
    | some (_, r) => r.intent == 3
    | none => false

/-- A data reply to a context: a block for its held word (R277), a piece of a GETA (R194), or the answer of its operation
(R173). -/
def State.dataToCtx (s : State) (site : Nat) (f : Flit) (a : Answer) : State :=
  let n := f.ctx
  let c := s.ctx site n
  if f.id = idBlock then
    match c.hold with
    | .block at' => s.setCtx site n { c with hold := .none, fetched := c.fetched ++ [(at', a.refused, a.bytes)] }
    | _ => s
  else
    match List.find? (fun (o : OutOp) => o.id == f.id) c.ops with
    | none => s
    | some o =>
      match o.what with
      | .geta .. => s.messageAnswer site n f.id f.tag a.bytes a.sticky a.refused
      | .load .. =>
        let s1 := s.complete site n f.id a
        if s.rwLoad site n o.addr then s1.logEv site 7 n (wordOf (a.bytes.take 8)) o.addr f.sep f.seq [] else s1
      | _ => s.complete site n f.id a

/-- Log an answer with the address of the context's operation that it answers (R483). -/
def State.logReply (s : State) (site : Nat) (f : Flit) (v : Word) (refused : Option (BitVec 5)) (data : List Byte) : State :=
  if f.ctx < 8 then
    s.logAnswer site f.ctx (((List.find? (fun (o : OutOp) => o.id == f.id) (s.ctx site f.ctx).ops).map (·.addr)).getD 0) f v refused data
  else s.logAnswer site 0 0 f v refused data

/-- DATA_REPLY (R117, R128, R130, R173, R192-R194, R198, R398). Logged (R483). -/
def execDataReply (part ep : Nat) (s : State) : Out :=
  match s.takeIn part ep .reply with
  | some (f, s1) =>
    match f.body, s1.part? part with
    | .data bytes sticky miss sync refused, some p =>
      let site := p.siteOf ep
      let s2 := (s1.answered part ep f.sep f.vint).logReply site f (wordOf (bytes.take 8)) refused bytes
      .next (s2.dataToCtx site f { bytes := bytes, sticky := sticky, miss := miss, sync := sync, refused := refused })
    | _, _ => .next s
  | none => .next s

/-- An acknowledgement to the copy engine: an open taken or refused (R365), or a flag addition performed (R135). -/
def State.ackCopy (s : State) (site : Nat) (f : Flit) (refused : Option (BitVec 5)) : State :=
  let ch := f.id % 8
  let id := BitVec.ofNat 32 (f.id / 8)
  if f.tag = 1 then s.flagAdded site ch id refused
  else
    match refused, (s.core site).xfer ch id with
    | some cause, some x => s.refuseXfer site ch id cause (BitVec.ofInt 56 x.dst.spanI.1)
    | _, _ => s

/-- An acknowledgement to the tile command queue: a remote row written or refused (R336, R337). -/
def State.ackTile (s : State) (site : Nat) (f : Flit) (refused : Option (BitVec 5)) : State :=
  let put := fun (t : TCmd) =>
    if t.tile = f.tag ∧ t.drains ∧ t.held.isNone ∧ t.sent.contains f.id then { t with answers := t.answers ++ [(f.id, refused)] }
    else t
  (s.updCore site fun c => { c with tq := c.tq.map put }).due (.tileWriteAck site f.tag)

/-- An acknowledgement to a context: a queued write (R122), a piece of a PUTA (R195), or its operation (R117, R174). -/
def State.ackToCtx (s : State) (site : Nat) (f : Flit) (refused : Option (BitVec 5)) (status : Nat) : State :=
  let n := f.ctx
  match List.find? (fun (e : WqEntry) => e.sent && e.ctx == n && e.ids.contains f.id) (s.core site).wq with
  | some e => s.wqAnswered site n e refused
  | none =>
    let c := s.ctx site n
    match List.find? (fun (o : OutOp) => o.id == f.id) c.ops with
    | none => s
    | some o =>
      match o.what with
      | .puta .. => s.messageAnswer site n f.id f.tag [] 0 refused
      | _ => s.complete site n f.id { refused := refused, status := status }

/-- ACKNOWLEDGEMENT (R117, R121, R174, R192, R195, R196, R198, R398, R399). Logged (R483), but for cellar traffic, which carries the log. -/
def execAcknowledgement (part ep : Nat) (s : State) : Out :=
  match s.takeIn part ep .reply with
  | some (f, s1) =>
    match f.body, s1.part? part with
    | .ack refused status, some p =>
      let site := p.siteOf ep
      let s0 := s1.answered part ep f.sep f.vint
      let s2 := if f.ctx = replyCellar then s0 else s0.logReply site f (BitVec.ofNat 64 status) refused []
      .next (if f.ctx = replyCore then (s2.ownAnswered site f.id refused).wakeLaunches site
        else if f.ctx = replyCopy then s2.ackCopy site f refused
        else if f.ctx = replyTile then s2.ackTile site f refused
        else if f.ctx = replyCellar then s2.ackCellar site f
        else s2.ackToCtx site f refused status)
    | _, _ => .next s
  | none => .next s

end Sys2Proof.Machine
end

