-- ==== Sys2Proof/Machine/Scalar.lean ====
section
/-!
DEFINITION. The integer instructions of the scalar pipeline: opcode 0x01 (R148-R152), the immediate forms (R153) and
the immediate shifts and bitfields (R154).
-/

namespace Sys2Proof.Machine

open Sys2Proof

/-! ## Values -/

/-- The shift count x[b][5:0] (R149). -/
def shAmt (b : Word) : Nat := (b &&& 0x3F).toNat

/-- A Boolean as a register value. -/
def ofBool (b : Bool) : Word := if b then 1 else 0

/-- The signed smaller (R149). -/
def smin (a b : Word) : Word := if a.toInt ≤ b.toInt then a else b
/-- The signed larger (R149). -/
def smax (a b : Word) : Word := if a.toInt ≤ b.toInt then b else a
/-- The unsigned smaller (R149). -/
def umin (a b : Word) : Word := if a.toNat ≤ b.toNat then a else b
/-- The unsigned larger (R149). -/
def umax (a b : Word) : Word := if a.toNat ≤ b.toNat then b else a

/-- The exact signed product as 128 bits (R149, R151). -/
def sprod (a b : Word) : BitVec 128 := BitVec.ofInt 128 (a.toInt * b.toInt)
/-- The exact unsigned product as 128 bits (R149, R151). -/
def uprod (a b : Word) : BitVec 128 := BitVec.ofNat 128 (a.toNat * b.toNat)

/-- Bits [63:0] of a product. -/
def lo64 (p : BitVec 128) : Word := p.extractLsb' 0 64
/-- Bits [127:64] of a product. -/
def hi64 (p : BitVec 128) : Word := p.extractLsb' 64 64

/-- The quotient of a division by zero (R150). -/
def divByZero : Word := 0xFFFFFFFFFFFFFFFF

/-- The Euclidean quotient: 0 ≤ r < |b| and a = q·b + r, modulo 2^64 (R150). -/
def divE (a b : Word) : Word := if b = 0 then divByZero else BitVec.ofInt 64 (Int.ediv a.toInt b.toInt)
/-- The Euclidean remainder (R150). -/
def remE (a b : Word) : Word := if b = 0 then a else BitVec.ofInt 64 (Int.emod a.toInt b.toInt)
/-- The truncating quotient (R150). -/
def divT (a b : Word) : Word := if b = 0 then divByZero else BitVec.ofInt 64 (Int.tdiv a.toInt b.toInt)
/-- The truncating remainder (R150). -/
def remT (a b : Word) : Word := if b = 0 then a else BitVec.ofInt 64 (Int.tmod a.toInt b.toInt)
/-- The unsigned quotient (R150). -/
def divU (a b : Word) : Word := if b = 0 then divByZero else BitVec.ofNat 64 (a.toNat / b.toNat)
/-- The unsigned remainder (R150). -/
def remU (a b : Word) : Word := if b = 0 then a else BitVec.ofNat 64 (a.toNat % b.toNat)

/-- The low word, sign-extended to 64 bits (R149). -/
def sxw (a : Word) : Word := (a.extractLsb' 0 32).signExtend 64

/-- The number of leading zero bits among the low n (R149). -/
def clzBits : Nat → Word → Nat
  | 0, _ => 0
  | n + 1, a => if a.getLsbD n then 0 else 1 + clzBits n a

/-- The number of trailing zero bits among the n from bit i (R149). -/
def ctzBits : Nat → Nat → Word → Nat
  | 0, _, _ => 0
  | n + 1, i, a => if a.getLsbD i then 0 else 1 + ctzBits n (i + 1) a

/-- The number of one bits among the low n (R149). -/
def popBits : Nat → Word → Nat
  | 0, _ => 0
  | n + 1, a => (if a.getLsbD n then 1 else 0) + popBits n a

/-- Whether a bitfield is valid: len ≥ 1 and pos + len ≤ 64 (R152). -/
def fieldValid (pos len : Nat) : Bool := decide (1 ≤ len) && decide (pos + len ≤ 64)

/-- The mask of a field of len bits. -/
def fieldMask (len : Nat) : Word := BitVec.ofNat 64 (2 ^ len - 1)

/-- BEXTU's value: the field, 0 for an invalid one (R152). -/
def bextuVal (a : Word) (pos len : Nat) : Word := if fieldValid pos len then (a >>> pos) &&& fieldMask len else 0

/-- BEXT's value: the field sign-extended from bit len - 1, 0 for an invalid one (R152). -/
def bextVal (a : Word) (pos len : Nat) : Word :=
  if fieldValid pos len then ((a <<< (64 - pos - len)).sshiftRight (64 - len)) else 0

/-- BINS's value: the field of d replaced by the low bits of a, d for an invalid one (R152). -/
def binsVal (d a : Word) (pos len : Nat) : Word :=
  if fieldValid pos len then
    let m := fieldMask len <<< pos
    (d &&& ~~~m) ||| ((a <<< pos) &&& m)
  else d

/-- The position that a register bitfield form takes from x[b][5:0] (R152). -/
def fieldPos (b : Word) : Nat := shAmt b
/-- The length that a register bitfield form takes from x[b][13:8] (R152). -/
def fieldLen (b : Word) : Nat := ((b >>> 8) &&& 0x3F).toNat

/-- A register-register form over its two operand values (R148). -/
def rrOp (s : State) (d a b : Reg) (f : Word → Word → Word) : Out :=
  aluOp s noHints [a, b] d false fun i => f (i.v 0) (i.v 1)

/-- A unary form over its operand value (R148). -/
def unOp (s : State) (d a : Reg) (f : Word → Word) : Out := aluOp s noHints [a] d false fun i => f (i.v 0)

/-- An immediate form over its operand value and the immediate (R153). -/
def riOp (s : State) (d a : Reg) (imm : BitVec 16) (f : Word → Word → Word) : Out :=
  aluOp s immHints [a] d false fun i => f (i.v 0) (i.c.imm16 imm)

/-- A pair form: bits [63:0] to x[d], bits [127:64] to x[d+1] (R151); neither register may be in stream mode (R169). -/
def pairOp (s : State) (d a b : Reg) (f : Word → Word → BitVec 128) : Out :=
  issueWord s noHints [a, b] [d, d + 1] true false true fun i =>
    let p := f (i.v 0) (i.v 1)
    let c := (((i.c.put d (lo64 p)).put (d + 1) (hi64 p)).pend (regBit d ||| regBit (d + 1))).advance
    .next ((s.setMe c).resultDue)

/-! ## Opcode 0x01 (R149-R152) -/

/-- ADD: x[a] + x[b] (R149). -/
def execAdd (d a b : Reg) (s : State) : Out := rrOp s d a b (fun x y => x + y)

/-- SUB (R149). -/
def execSub (d a b : Reg) (s : State) : Out := rrOp s d a b (fun x y => x - y)

/-- AND (R149). -/
def execAnd (d a b : Reg) (s : State) : Out := rrOp s d a b (fun x y => x &&& y)

/-- OR (R149). -/
def execOr (d a b : Reg) (s : State) : Out := rrOp s d a b (fun x y => x ||| y)

/-- XOR (R149). -/
def execXor (d a b : Reg) (s : State) : Out := rrOp s d a b (fun x y => x ^^^ y)

/-- ANDN: x[a] and not x[b] (R149). -/
def execAndn (d a b : Reg) (s : State) : Out := rrOp s d a b (fun x y => x &&& ~~~y)

/-- SLL (R149). -/
def execSll (d a b : Reg) (s : State) : Out := rrOp s d a b (fun x y => x <<< shAmt y)

/-- SRL (R149). -/
def execSrl (d a b : Reg) (s : State) : Out := rrOp s d a b (fun x y => x >>> shAmt y)

/-- SRA (R149). -/
def execSra (d a b : Reg) (s : State) : Out := rrOp s d a b (fun x y => x.sshiftRight (shAmt y))

/-- ROR (R149). -/
def execRor (d a b : Reg) (s : State) : Out := rrOp s d a b (fun x y => x.rotateRight (shAmt y))

/-- SLT (R149). -/
def execSlt (d a b : Reg) (s : State) : Out := rrOp s d a b (fun x y => ofBool (decide (x.toInt < y.toInt)))

/-- SLTU (R149). -/
def execSltu (d a b : Reg) (s : State) : Out := rrOp s d a b (fun x y => ofBool (decide (x.toNat < y.toNat)))

/-- MIN (R149). -/
def execMin (d a b : Reg) (s : State) : Out := rrOp s d a b smin

/-- MAX (R149). -/
def execMax (d a b : Reg) (s : State) : Out := rrOp s d a b smax

/-- MINU (R149). -/
def execMinu (d a b : Reg) (s : State) : Out := rrOp s d a b umin

/-- MAXU (R149). -/
def execMaxu (d a b : Reg) (s : State) : Out := rrOp s d a b umax

/-- MUL (R149). -/
def execMul (d a b : Reg) (s : State) : Out := rrOp s d a b (fun x y => x * y)

/-- MULH (R149). -/
def execMulh (d a b : Reg) (s : State) : Out := rrOp s d a b (fun x y => hi64 (sprod x y))

/-- MULHU (R149). -/
def execMulhu (d a b : Reg) (s : State) : Out := rrOp s d a b (fun x y => hi64 (uprod x y))

/-- DIV (R150). -/
def execDiv (d a b : Reg) (s : State) : Out := rrOp s d a b divE

/-- DIVU (R150). -/
def execDivu (d a b : Reg) (s : State) : Out := rrOp s d a b divU

/-- REM (R150). -/
def execRem (d a b : Reg) (s : State) : Out := rrOp s d a b remE

/-- REMU (R150). -/
def execRemu (d a b : Reg) (s : State) : Out := rrOp s d a b remU

/-- ADDW (R149). -/
def execAddw (d a b : Reg) (s : State) : Out := rrOp s d a b (fun x y => sxw (x + y))

/-- SUBW (R149). -/
def execSubw (d a b : Reg) (s : State) : Out := rrOp s d a b (fun x y => sxw (x - y))

/-- MULW (R149). -/
def execMulw (d a b : Reg) (s : State) : Out := rrOp s d a b (fun x y => sxw (x * y))

/-- BEXT (R152). -/
def execBext (d a b : Reg) (s : State) : Out := rrOp s d a b (fun x y => bextVal x (fieldPos y) (fieldLen y))

/-- BEXTU (R152). -/
def execBextu (d a b : Reg) (s : State) : Out := rrOp s d a b (fun x y => bextuVal x (fieldPos y) (fieldLen y))

/-- DIVT (R150). -/
def execDivt (d a b : Reg) (s : State) : Out := rrOp s d a b divT

/-- REMT (R150). -/
def execRemt (d a b : Reg) (s : State) : Out := rrOp s d a b remT

/-- CLZ (R149). -/
def execClz (d a : Reg) (s : State) : Out := unOp s d a (fun x => BitVec.ofNat 64 (clzBits 64 x))

/-- CTZ (R149). -/
def execCtz (d a : Reg) (s : State) : Out := unOp s d a (fun x => BitVec.ofNat 64 (ctzBits 64 0 x))

/-- POPC (R149). -/
def execPopc (d a : Reg) (s : State) : Out := unOp s d a (fun x => BitVec.ofNat 64 (popBits 64 x))

/-- SEXTB (R149). -/
def execSextb (d a : Reg) (s : State) : Out := unOp s d a (fun x => (x.extractLsb' 0 8).signExtend 64)

/-- SEXTH (R149). -/
def execSexth (d a : Reg) (s : State) : Out := unOp s d a (fun x => (x.extractLsb' 0 16).signExtend 64)

/-- SEXTW (R149). -/
def execSextw (d a : Reg) (s : State) : Out := unOp s d a (sxw)

/-- ZEXTW (R149). -/
def execZextw (d a : Reg) (s : State) : Out := unOp s d a (fun x => (x.extractLsb' 0 32).setWidth 64)

/-- MULX (R151). -/
def execMulx (d a b : Reg) (s : State) : Out := pairOp s d a b sprod

/-- MULXU (R151). -/
def execMulxu (d a b : Reg) (s : State) : Out := pairOp s d a b uprod

/-- BINS: reads x[d] as well (R148, R152). -/
def execBins (d a b : Reg) (s : State) : Out :=
  aluOp s noHints [a, b, d] d true fun i => binsVal (i.v 2) (i.v 0) (fieldPos (i.v 1)) (fieldLen (i.v 1))

/-! ## Immediate forms (R153) -/

/-- ADDI (R153). -/
def execAddi (d a : Reg) (imm : BitVec 16) (s : State) : Out := riOp s d a imm (fun x i => x + i)

/-- ANDI (R153). -/
def execAndi (d a : Reg) (imm : BitVec 16) (s : State) : Out := riOp s d a imm (fun x i => x &&& i)

/-- ORI (R153). -/
def execOri (d a : Reg) (imm : BitVec 16) (s : State) : Out := riOp s d a imm (fun x i => x ||| i)

/-- XORI (R153). -/
def execXori (d a : Reg) (imm : BitVec 16) (s : State) : Out := riOp s d a imm (fun x i => x ^^^ i)

/-- SLTI (R153). -/
def execSlti (d a : Reg) (imm : BitVec 16) (s : State) : Out := riOp s d a imm (fun x i => ofBool (decide (x.toInt < i.toInt)))

/-- LUI: (i << 16) mod 2^64 (R153). -/
def execLui (d : Reg) (imm : BitVec 16) (s : State) : Out :=
  aluOp s immHints [] d false fun i => i.c.imm16 imm <<< 16

/-! ## Immediate shifts and bitfields (R154) -/

/-- SLLI (R154). -/
def execSlli (d a : Reg) (pos : BitVec 6) (s : State) : Out := unOp s d a (fun x => x <<< pos.toNat)

/-- SRLI (R154). -/
def execSrli (d a : Reg) (pos : BitVec 6) (s : State) : Out := unOp s d a (fun x => x >>> pos.toNat)

/-- SRAI (R154). -/
def execSrai (d a : Reg) (pos : BitVec 6) (s : State) : Out := unOp s d a (fun x => x.sshiftRight pos.toNat)

/-- RORI (R154). -/
def execRori (d a : Reg) (pos : BitVec 6) (s : State) : Out := unOp s d a (fun x => x.rotateRight pos.toNat)

/-- BEXTI (R154). -/
def execBexti (d a : Reg) (pos len : BitVec 6) (s : State) : Out :=
  unOp s d a (fun x => bextVal x pos.toNat len.toNat)

/-- BEXTUI (R154). -/
def execBextui (d a : Reg) (pos len : BitVec 6) (s : State) : Out :=
  unOp s d a (fun x => bextuVal x pos.toNat len.toNat)

/-- BINSI: reads x[d] as well (R154). -/
def execBinsi (d a : Reg) (pos len : BitVec 6) (s : State) : Out :=
  aluOp s noHints [a, d] d true fun i => binsVal (i.v 1) (i.v 0) pos.toNat len.toNat

end Sys2Proof.Machine
end

