-- ==== Sys2Proof/Machine/ScalarFp.lean ====
section
/-!
DEFINITION. Scalar floating point (R155-R160) and FCVT (R161, R162): operands decoded from the low bits, flushed, the
exact result encoded with one rounding, the sticky bits joined to sys.sticky, one draw when the rounding is stochastic.
-/

namespace Sys2Proof.Machine

open Sys2Proof

/-- The value of an FP32 operand, flushed when ftz is set (R155, R156). -/
def fpArg (ftz : Bool) (w : Word) : Val := flushIf ftz (f32Val w.toNat)

/-- A form of R156: the exact result of its flushed operands, encoded into f32 with one draw when rnd = 100. -/
def fpOp (s : State) (srcs : List Reg) (d : Reg) (plain : Bool) (rnd : Rnd) (ftz : Bool) (f : Issued → Res) : Out :=
  issueWord s noHints srcs [d] plain false false fun i =>
    if rnd = .rs ∧ drawsBusy s then .next s.drawWait
    else
      let dr := drawIf rnd i.c.srstate
      let e := (f i).encode .f32 rnd false ftz dr.2
      .next (finishScalar s { i.c with srstate := dr.1 } d (BitVec.ofNat 64 e.bits) e.flags)

/-- FADD (R156). -/
def execFadd (d a b : Reg) (rnd : Rnd) (ftz : Bool) (s : State) : Out :=
  fpOp s [a, b] d false rnd ftz fun i => addVal (rnd == .rd) (fpArg ftz (i.v 0)) (fpArg ftz (i.v 1))

/-- FSUB (R156). -/
def execFsub (d a b : Reg) (rnd : Rnd) (ftz : Bool) (s : State) : Out :=
  fpOp s [a, b] d false rnd ftz fun i => addVal (rnd == .rd) (fpArg ftz (i.v 0)) (negVal (fpArg ftz (i.v 1)))

/-- FMUL (R156). -/
def execFmul (d a b : Reg) (rnd : Rnd) (ftz : Bool) (s : State) : Out :=
  fpOp s [a, b] d false rnd ftz fun i => mulVal (fpArg ftz (i.v 0)) (fpArg ftz (i.v 1))

/-- FDIV (R156). -/
def execFdiv (d a b : Reg) (rnd : Rnd) (ftz : Bool) (s : State) : Out :=
  fpOp s [a, b] d false rnd ftz fun i => divVal (fpArg ftz (i.v 0)) (fpArg ftz (i.v 1))

/-- FSQRT (R156). -/
def execFsqrt (d a : Reg) (rnd : Rnd) (ftz : Bool) (s : State) : Out :=
  fpOp s [a] d false rnd ftz fun i => sqrtVal (fpArg ftz (i.v 0))

/-- FMA: x[a]·x[b] + x[d], exact, one rounding (R156). -/
def execFma (d a b : Reg) (rnd : Rnd) (ftz : Bool) (s : State) : Out :=
  fpOp s [a, b, d] d true rnd ftz fun i =>
    fmaVal (rnd == .rd) (fpArg ftz (i.v 0)) (fpArg ftz (i.v 1)) (fpArg ftz (i.v 2))

/-- FMS: x[a]·x[b] - x[d], exact, one rounding (R156). -/
def execFms (d a b : Reg) (rnd : Rnd) (ftz : Bool) (s : State) : Out :=
  fpOp s [a, b, d] d true rnd ftz fun i =>
    fmaVal (rnd == .rd) (fpArg ftz (i.v 0)) (fpArg ftz (i.v 1)) (negVal (fpArg ftz (i.v 2)))

/-- The FP32 pattern of a value that is exact in f32 (R157, R159). -/
def f32Bits (v : Val) : Word := BitVec.ofNat 64 (encodeFloat fmtF32 v .rne false false 0).bits

/-- FMIN (R157). -/
def execFmin (d a b : Reg) (ftz : Bool) (s : State) : Out :=
  aluOp s noHints [a, b] d false fun i => f32Bits (minVal (fpArg ftz (i.v 0)) (fpArg ftz (i.v 1)))

/-- FMAX (R157). -/
def execFmax (d a b : Reg) (ftz : Bool) (s : State) : Out :=
  aluOp s noHints [a, b] d false fun i => f32Bits (maxVal (fpArg ftz (i.v 0)) (fpArg ftz (i.v 1)))

/-- FABS (R159). -/
def execFabs (d a : Reg) (s : State) : Out :=
  aluOp s noHints [a] d false fun i => f32Bits (withSignVal false (fpArg false (i.v 0)))

/-- FNEG (R159). -/
def execFneg (d a : Reg) (s : State) : Out :=
  aluOp s noHints [a] d false fun i => f32Bits (negVal (fpArg false (i.v 0)))

/-- x[a]'s value with the sign of x[b]'s; the canonical NaN when either is a NaN (R159). -/
def sgnjVal (a b : Val) : Val := if isNanVal a || isNanVal b then .nan else withSignVal (signVal b) a

/-- FSGNJ (R159). -/
def execFsgnj (d a b : Reg) (s : State) : Out :=
  aluOp s noHints [a, b] d false fun i => f32Bits (sgnjVal (fpArg false (i.v 0)) (fpArg false (i.v 1)))

/-- FEQ (R158). -/
def execFeq (d a b : Reg) (ftz : Bool) (s : State) : Out :=
  aluOp s noHints [a, b] d false fun i =>
    if eqVal (fpArg ftz (i.v 0)) (fpArg ftz (i.v 1)) then 1 else 0

/-- FLT (R158). -/
def execFlt (d a b : Reg) (ftz : Bool) (s : State) : Out :=
  aluOp s noHints [a, b] d false fun i =>
    if ltVal (fpArg ftz (i.v 0)) (fpArg ftz (i.v 1)) then 1 else 0

/-- FLE (R158). -/
def execFle (d a b : Reg) (ftz : Bool) (s : State) : Out :=
  aluOp s noHints [a, b] d false fun i =>
    if leVal (fpArg ftz (i.v 0)) (fpArg ftz (i.v 1)) then 1 else 0

/-- FCLASS's word: class in [2:0], neg in [3], ex in [15:8], lz in [20:16] (R160). -/
def fclassWord (w : Nat) : Nat :=
  let neg := w / 2 ^ 31 % 2
  let ex := w / 2 ^ 23 % 256
  let fr := w % 2 ^ 23
  let cls :=
    if ex = 255 then (if fr = 0 then 3 else 4) else if ex = 0 then (if fr = 0 then 0 else 1) else 2
  cls + 8 * neg + (if cls = 2 then 256 * ex else 0) + (if cls = 1 then 65536 * (22 - Nat.log2 fr) else 0)

/-- FCLASS (R160). -/
def execFclass (d a : Reg) (s : State) : Out :=
  aluOp s noHints [a] d false fun i => BitVec.ofNat 64 (fclassWord (i.v 0).toNat)

/-- FCVT's source value: the low bits of x[a] decoded, a floating source flushed when ftz is set (R162). -/
def fcvtArg (st : DType) (ftz : Bool) (w : Word) : Val :=
  let v := decodeElem st w.toNat
  if (floatFmt st).isSome then flushIf ftz v else v

/-- FCVT (R162). -/
def execFcvt (d a : Reg) (dt st : DType) (rnd : Rnd) (sat ftz : Bool) (s : State) : Out :=
  issueWord s noHints [a] [d] false false false fun i =>
    if rnd = .rs ∧ drawsBusy s then .next s.drawWait
    else
      let dr := drawIf rnd i.c.srstate
      let e := encodeElem dt (fcvtArg st ftz (i.v 0)) rnd sat ftz dr.2
      .next (finishScalar s { i.c with srstate := dr.1 } d (BitVec.ofNat 64 e.bits) e.flags)

end Sys2Proof.Machine
end

