-- ==== Sys2Proof/Machine/System.lean ====
section
/-!
DEFINITION. System instructions: SYSRD and SYSWR (R30-R33, R126, R248, R249), TRAP and ERET (R250, R251); HINT words
(R66-R70); the words that are no instruction (R74, R166); and the events of a core's pipeline, line cache and translations
(R121, R143, R518).
-/

namespace Sys2Proof.Machine

open Sys2Proof

/-! ## System registers -/

/-- sys.status (R31); `sup` when the core is a supervisor, whose contexts all run with sup = 1 (R33). -/
def Ctx.status (c : Ctx) (sup : Bool) : Word := BitVec.ofNat 64 ((if c.sup || sup then 1 else 0) + 2 * c.prio.toNat)

/-- The PTP seconds [47:32] at a site (R30). -/
def State.timeHiAt (s : State) (site : Nat) : Word :=
  BitVec.ofNat 64 (s.bandNs (bandOf site) / 1000000000 / 2 ^ 32 % 2 ^ 16)

/-- The declared region of a context's task that an index names (R126, R227). -/
def State.declared (s : State) (site : Nat) (c : Ctx) (i : Nat) : Option DRegion :=
  match (s.regsOf site c)[i]? with
  | some r => if r.intent = 0 then none else some r
  | none => none

/-- The value of a system register for a context (R30, R126). -/
def State.sysValue (s : State) (site n : Nat) (c : Ctx) (num : Nat) : Word :=
  match num with
  | 0x00 => BitVec.ofNat 64 (s.lcn site)
  | 0x01 => BitVec.ofNat 64 site
  | 0x02 => BitVec.ofNat 64 (bandOf site)
  | 0x03 => BitVec.ofNat 64 n
  | 0x04 => c.vintage.setWidth 64
  | 0x05 => s.timeAt site
  | 0x06 => s.timeHiAt site
  | 0x07 => c.sticky
  | 0x08 => c.cause.setWidth 64
  | 0x09 => c.epc.setWidth 64
  | 0x0A => c.faddr.setWidth 64
  | 0x0B => c.fstep.setWidth 64
  | 0x0C => c.srstate
  | 0x0D => c.status (s.supSite site)
  | 0x0E => c.tvec.setWidth 64
  | 0x0F => c.task.setWidth 64
  | 0x10 => c.region.setWidth 64
  | 0x11 => BitVec.ofNat 64 (((s.partAt site).map (·.lead)).getD 0)
  | 0x12 => BitVec.ofNat 64 (s.ncores site)
  | 0x13 => c.syncreg.setWidth 64
  | 0x14 =>
    match s.declared site c c.syncreg.toNat with
    | some r => ((s.core site).objectOf c.vintage c.syncreg.toNat r).setWidth 64
    | none => 0
  | _ => 0

/-- Whether sticky bits or draws of the context's earlier words are still to come (R146, R248, R249, R288, R313). -/
def stateBusy (s : State) (num : Nat) : Bool :=
  (num == 0x07 && (!s.me.due.isEmpty || drawsBusy s)) || (num == 0x0C && drawsBusy s)

/-- SYSRD (R248); a read of the time is logged (R30). -/
def execSysrd (num : BitVec 8) (d : Reg) (s : State) : Out :=
  issueWord s noHints [] [d] true false false fun i =>
    let n := num.toNat
    if 0x14 < n then .next (s.trap causeIllegal 0)
    else if stateBusy s n then .next s.drawWait
    else
      let v := s.sysValue s.cur.1 s.cur.2 i.c n
      let t := finishScalar s i.c d v 0
      .next (if n = 0x05 ∨ n = 0x06 then t.logEv s.cur.1 9 s.cur.2 v 0 0xFFFF 0 [] else t)

/-- Whether a system register is written in supervisor mode only (R30). -/
def supSys (n : Nat) : Bool := n == 0x08 || n == 0x09 || n == 0x0A || n == 0x0B || n == 0x0E

/-- The write of sys.syncobj (R126): MISALIGN, then UNDECLARED, else the region's binding on this core. Lines of the region that were
loaded under another binding leave the cache: it holds lines of bound regions only (R121). -/
def writeSyncobj (s : State) (c : Ctx) (v : Word) : Out :=
  let obj : Addr := v.setWidth 56
  let site := s.cur.1
  let i := c.syncreg.toNat
  if !aligned obj 8 then .next (s.trap causeMisalign obj)
  else
    match s.declared site c i with
    | none => .next (s.trap causeUndeclared obj)
    | some r =>
      let bind := fun (core : Core) =>
        let rest := core.sync.filter fun b => !(b.vint == c.vintage && b.region == i)
        { core with sync := rest ++ [⟨c.vintage, i, obj⟩] }
      let drop := fun (core : Core) => if r.intent = 3 then core.dropLines c.vintage [r] else core
      .next ((s.setMe c.advance).updCore site fun core => drop (bind core))

/-- SYSWR (R126, R249). -/
def execSyswr (num : BitVec 8) (a : Reg) (s : State) : Out :=
  let n := num.toNat
  issueWord s noHints [a] [] true (supSys n) false fun i =>
    let c := i.c
    let v := i.v 0
    let addr : Addr := v.setWidth 56
    let done := fun (x : Ctx) => Host.Outcome.next (s.setMe x.advance)
    if stateBusy s n then .next s.drawWait
    else
      match n with
      | 0x07 => done { c with sticky := c.sticky &&& ~~~(v &&& 0x3F) }
      | 0x08 => done { c with cause := v.setWidth 5 }
      | 0x09 => if aligned addr 4 then done { c with epc := addr } else .next (s.trap causeMisalign addr)
      | 0x0A => done { c with faddr := addr }
      | 0x0B => done { c with fstep := v.setWidth 32 &&& 0xC000FFFF }
      | 0x0C => done { c with srstate := if v = 0 then 0x9E3779B97F4A7C15 else v }
      | 0x0E => if aligned addr 4 then done { c with tvec := addr } else .next (s.trap causeMisalign addr)
      | 0x13 => done { c with syncreg := v.setWidth 8 }
      | 0x14 => writeSyncobj s c v
      | _ => .next (s.trap causeIllegal 0)

/-! ## TRAP and ERET -/

/-- TRAP (R250). -/
def execTrap (imm : BitVec 16) (s : State) : Out :=
  issueWord s noHints [] [] true false false fun _ => .next (s.trap causeTrap (imm.setWidth 56))

/-- The stopped tile command of a context starts again at the row in sys.fstep and counts in tl again, once its posted
fault has been raised (R337). -/
def State.resumeTile (s : State) (site n : Nat) : State :=
  let c := s.ctx site n
  if !(s.core site).tileStuck n || c.tileFault.isSome || decide (c.fstep.toNat / 2 ^ 30 ≠ 2) then s
  else
    let go := fun (t : TCmd) =>
      if t.ctx = n ∧ t.held.isNone ∧ t.state = .stopped then
        { t with state := .queued, step := c.fstep.toNat % 65536, opId := some c.issued, refusedRow := none }
      else t
    let k := (List.find? (fun (t : TCmd) => t.ctx == n && t.held.isNone && t.state == .stopped) (s.core site).tq).map (·.tile)
    let s1 := s.setCtx site n (c.startOp .tl 0 false true (.tile (k.getD 0)))
    (s1.updCore site fun q => { q with tq := q.tq.map go }).wakeEngines site

/-- ERET (R251): privileged; ILLEGAL with tact = 0. A stopped tile command of the context resumes (R337). -/
def execEret (s : State) : Out :=
  issueWord s noHints [] [] true true false fun i =>
    if !i.c.tact then .next (s.trap causeIllegal 0)
    else
      .next ((s.setMe i.c.returnFromTrap).resumeTile s.cur.1 s.cur.2)

/-! ## HINT words -/

/-- A HINT word (R66, R70): it joins the open group, or opens one; a second of its kind traps ILLEGAL. -/
def hintWord (s : State) (dup : HintGroup → Bool) (f : HintGroup → HintGroup) : Out :=
  let c := s.me
  if c.occ ≠ .running then .refused .noContext
  else
    let g := c.hints.getD ⟨c.pc, none, none, none⟩
    if dup g then .next (s.trap causeIllegal 0)
    else .next (s.setMe { c with hints := some (f g), pc := c.pc + 4 })

/-- HINT IMM (R68). -/
def execHintImm (payload : BitVec 24) (s : State) : Out :=
  hintWord s (·.imm.isSome) fun g => { g with imm := some payload }

/-- HINT SCHED (R68). -/
def execHintSched (nt : Bool) (br : BrHint) (s : State) : Out :=
  hintWord s (·.sched.isSome) fun g => { g with sched := some (nt, br) }

/-- HINT MOD (R69). -/
def execHintMod (pv : Bool) (prio : BitVec 7) (ftz : Bool) (s : State) : Out :=
  hintWord s (·.mod.isSome) fun g => { g with mod := some (pv, prio, ftz) }

/-! ## Words that are no instruction -/

/-- ILLEGAL_ENCODING (R74). -/
def execIllegalEncoding (s : State) : Out :=
  if s.me.occ ≠ .running then .refused .noContext else .next (s.trap causeIllegal 0)

/-- INSTRUCTION_FETCH_FAULT (R166, R245): the trap at the word fetched; a fetch at sys.tvec ends the fault domain. -/
def execInstructionFetchFault (cause : FetchCause) (s : State) : Out :=
  let c := s.me
  let why := match cause with
    | .xlate => causeXlate
    | .prot => causeProt
  if c.occ ≠ .running then .refused .noContext
  else if c.pc = c.tvec then
    .next ((s.setMe { c.endNested why c.pc with ttime := if c.tact then c.ttime else s.timeAt s.cur.1 }).due (.suspensionPoint s.cur.1 s.cur.2))
  else .next (s.trap why c.pc)

/-! ## Events of a core -/

/-- SCALAR_RESULT_READY (R143): a pending result of a context becomes ready. Results of units of different depth overtake one
another; which is next is a matter of cycles, and free here (log entry 9). -/
def execScalarResultReady (site ctx : Nat) (s : State) : Out :=
  let c := s.ctx site ctx
  if c.due.isEmpty then .next s
  else
    let k := (Config.freeBits 8 s.tick).toNat % c.due.length
    .next (s.setCtx site ctx { c with due := c.due.eraseIdx k, sb := c.sb &&& ~~~(c.due[k]?.getD 0) })

/-- LINE_EVICTION (R121): any cached line may leave, at any time. -/
def execLineEviction (site line : Nat) (s : State) : Out :=
  .next (s.updCore site fun c => { c with cache := c.cache.filter fun m => m.line != line })

/-- Put a translation in a table of a bounded size: a full table loses an entry that nothing defines, a free value. -/
def addXlat (size draw : Nat) (x : Xlat) (l : List Xlat) : List Xlat :=
  let rest := l.filter fun y => !(y.vint == x.vint && y.page == x.page)
  let kept := if rest.length < size then rest
    else rest.eraseIdx ((Config.freeBits 12 draw).toNat % rest.length)
  kept ++ [x]

/-- The translation of a page for a vintage, from the band's agent or by a walk (R516-R518). -/
def State.agentLook (s : State) (p : Part) (band : Nat) (v : BitVec 32) (page : Nat) : Option Xlat :=
  match (s.band band).agent.find? fun x => x.vint == v && x.page == page with
  | some x => some x
  | none =>
    match (p.launch? v).bind fun l => s.walkFrom p l.cmd.ptroot page with
    | some m => some ⟨v, page, m.ppa, m.rd, m.wr, m.ex⟩
    | none => none

/-- The vintages that the contexts of a core run. -/
def Core.vintages (c : Core) : List (BitVec 32) :=
  c.ctxs.toList.foldl (fun l x => if x.occ == .running && !l.contains x.vintage then l ++ [x.vintage] else l) []

/-- TRANSLATION_MISS (R518): the band's agent answers a core's miss; invalid entries are not cached. -/
def execTranslationMiss (site page : Nat) (s : State) : Out :=
  match s.partAt site with
  | none => .next s
  | some p =>
    let b := bandOf site
    let fill := fun (u : State) (v : BitVec 32) =>
      let held := (u.band b).agent.any fun x => x.vint == v && x.page == page
      let t := if held then u else u.readWalk p v page
      match t.agentLook p b v page with
      | none => t
      | some x =>
        let band := t.band b
        let t1 := t.setBand b { band with agent := addXlat 4096 t.tick x band.agent }
        t1.updCore site fun c => { c with xlat := addXlat 64 t.tick x c.xlat }
    .next ((s.core site).vintages.foldl fill s)

end Sys2Proof.Machine
end

