-- ==== Sys2Proof/Machine/Dispatch.lean ====
section
/-!
DEFINITION. The dispatch: one arm per constructor of `Instr`, each one direct call of its meaning.
-/

namespace Sys2Proof.Machine

open Sys2Proof

/-- The meaning of an instruction or event. -/
def exec (i : Instr) (s : State) : Host.Outcome State Fault Refusal :=
  match i with
  | .add d a b => Sys2Proof.Machine.execAdd d a b s
  | .sub d a b => Sys2Proof.Machine.execSub d a b s
  | .and d a b => Sys2Proof.Machine.execAnd d a b s
  | .or d a b => Sys2Proof.Machine.execOr d a b s
  | .xor d a b => Sys2Proof.Machine.execXor d a b s
  | .andn d a b => Sys2Proof.Machine.execAndn d a b s
  | .sll d a b => Sys2Proof.Machine.execSll d a b s
  | .srl d a b => Sys2Proof.Machine.execSrl d a b s
  | .sra d a b => Sys2Proof.Machine.execSra d a b s
  | .ror d a b => Sys2Proof.Machine.execRor d a b s
  | .slt d a b => Sys2Proof.Machine.execSlt d a b s
  | .sltu d a b => Sys2Proof.Machine.execSltu d a b s
  | .min d a b => Sys2Proof.Machine.execMin d a b s
  | .max d a b => Sys2Proof.Machine.execMax d a b s
  | .minu d a b => Sys2Proof.Machine.execMinu d a b s
  | .maxu d a b => Sys2Proof.Machine.execMaxu d a b s
  | .mul d a b => Sys2Proof.Machine.execMul d a b s
  | .mulh d a b => Sys2Proof.Machine.execMulh d a b s
  | .mulhu d a b => Sys2Proof.Machine.execMulhu d a b s
  | .mulx d a b => Sys2Proof.Machine.execMulx d a b s
  | .mulxu d a b => Sys2Proof.Machine.execMulxu d a b s
  | .div d a b => Sys2Proof.Machine.execDiv d a b s
  | .divu d a b => Sys2Proof.Machine.execDivu d a b s
  | .rem d a b => Sys2Proof.Machine.execRem d a b s
  | .remu d a b => Sys2Proof.Machine.execRemu d a b s
  | .addw d a b => Sys2Proof.Machine.execAddw d a b s
  | .subw d a b => Sys2Proof.Machine.execSubw d a b s
  | .mulw d a b => Sys2Proof.Machine.execMulw d a b s
  | .clz d a => Sys2Proof.Machine.execClz d a s
  | .ctz d a => Sys2Proof.Machine.execCtz d a s
  | .popc d a => Sys2Proof.Machine.execPopc d a s
  | .sextb d a => Sys2Proof.Machine.execSextb d a s
  | .sexth d a => Sys2Proof.Machine.execSexth d a s
  | .sextw d a => Sys2Proof.Machine.execSextw d a s
  | .zextw d a => Sys2Proof.Machine.execZextw d a s
  | .bext d a b => Sys2Proof.Machine.execBext d a b s
  | .bextu d a b => Sys2Proof.Machine.execBextu d a b s
  | .bins d a b => Sys2Proof.Machine.execBins d a b s
  | .divt d a b => Sys2Proof.Machine.execDivt d a b s
  | .remt d a b => Sys2Proof.Machine.execRemt d a b s
  | .addi d a imm => Sys2Proof.Machine.execAddi d a imm s
  | .andi d a imm => Sys2Proof.Machine.execAndi d a imm s
  | .ori d a imm => Sys2Proof.Machine.execOri d a imm s
  | .xori d a imm => Sys2Proof.Machine.execXori d a imm s
  | .slti d a imm => Sys2Proof.Machine.execSlti d a imm s
  | .lui d imm => Sys2Proof.Machine.execLui d imm s
  | .slli d a pos => Sys2Proof.Machine.execSlli d a pos s
  | .srli d a pos => Sys2Proof.Machine.execSrli d a pos s
  | .srai d a pos => Sys2Proof.Machine.execSrai d a pos s
  | .rori d a pos => Sys2Proof.Machine.execRori d a pos s
  | .bexti d a pos len => Sys2Proof.Machine.execBexti d a pos len s
  | .bextui d a pos len => Sys2Proof.Machine.execBextui d a pos len s
  | .binsi d a pos len => Sys2Proof.Machine.execBinsi d a pos len s
  | .fadd d a b rnd ftz => Sys2Proof.Machine.execFadd d a b rnd ftz s
  | .fsub d a b rnd ftz => Sys2Proof.Machine.execFsub d a b rnd ftz s
  | .fmul d a b rnd ftz => Sys2Proof.Machine.execFmul d a b rnd ftz s
  | .fdiv d a b rnd ftz => Sys2Proof.Machine.execFdiv d a b rnd ftz s
  | .fsqrt d a rnd ftz => Sys2Proof.Machine.execFsqrt d a rnd ftz s
  | .fma d a b rnd ftz => Sys2Proof.Machine.execFma d a b rnd ftz s
  | .fms d a b rnd ftz => Sys2Proof.Machine.execFms d a b rnd ftz s
  | .fmin d a b ftz => Sys2Proof.Machine.execFmin d a b ftz s
  | .fmax d a b ftz => Sys2Proof.Machine.execFmax d a b ftz s
  | .fabs d a => Sys2Proof.Machine.execFabs d a s
  | .fneg d a => Sys2Proof.Machine.execFneg d a s
  | .fsgnj d a b => Sys2Proof.Machine.execFsgnj d a b s
  | .feq d a b ftz => Sys2Proof.Machine.execFeq d a b ftz s
  | .flt d a b ftz => Sys2Proof.Machine.execFlt d a b ftz s
  | .fle d a b ftz => Sys2Proof.Machine.execFle d a b ftz s
  | .fclass d a => Sys2Proof.Machine.execFclass d a s
  | .fcvt d a dt st rnd sat ftz => Sys2Proof.Machine.execFcvt d a dt st rnd sat ftz s
  | .beq a b off => Sys2Proof.Machine.execBeq a b off s
  | .bne a b off => Sys2Proof.Machine.execBne a b off s
  | .blt a b off => Sys2Proof.Machine.execBlt a b off s
  | .bge a b off => Sys2Proof.Machine.execBge a b off s
  | .bltu a b off => Sys2Proof.Machine.execBltu a b off s
  | .bgeu a b off => Sys2Proof.Machine.execBgeu a b off s
  | .jal d off => Sys2Proof.Machine.execJal d off s
  | .jalr d a imm => Sys2Proof.Machine.execJalr d a imm s
  | .ld d a sz imm => Sys2Proof.Machine.execLd d a sz imm s
  | .st d a sz imm => Sys2Proof.Machine.execSt d a sz imm s
  | .ldp d a sz pw disp => Sys2Proof.Machine.execLdp d a sz pw disp s
  | .geta tag a b len => Sys2Proof.Machine.execGeta tag a b len s
  | .puta tag a b len => Sys2Proof.Machine.execPuta tag a b len s
  | .recv d tag => Sys2Proof.Machine.execRecv d tag s
  | .tbind tag a => Sys2Proof.Machine.execTbind tag a s
  | .amo d a b aop sz ord scope => Sys2Proof.Machine.execAmo d a b aop sz ord scope s
  | .cas d a b sz ord scope => Sys2Proof.Machine.execCas d a b sz ord scope s
  | .red a b aop sz ord scope => Sys2Proof.Machine.execRed a b aop sz ord scope s
  | .acq a scope => Sys2Proof.Machine.execAcq a scope s
  | .rel a scope => Sys2Proof.Machine.execRel a scope s
  | .fence scope => Sys2Proof.Machine.execFence scope s
  | .wait ld st cp tl => Sys2Proof.Machine.execWait ld st cp tl s
  | .bdecl a b buf => Sys2Proof.Machine.execBdecl a b buf s
  | .bfill buf => Sys2Proof.Machine.execBfill buf s
  | .bfull buf => Sys2Proof.Machine.execBfull buf s
  | .bdrain buf => Sys2Proof.Machine.execBdrain buf s
  | .bempty buf => Sys2Proof.Machine.execBempty buf s
  | .bstat d buf => Sys2Proof.Machine.execBstat d buf s
  | .spawn d a b => Sys2Proof.Machine.execSpawn d a b s
  | .suspend => Sys2Proof.Machine.execSuspend s
  | .exit a => Sys2Proof.Machine.execExit a s
  | .decr a => Sys2Proof.Machine.execDecr a s
  | .yield => Sys2Proof.Machine.execYield s
  | .depadd a b => Sys2Proof.Machine.execDepadd a b s
  | .tself d => Sys2Proof.Machine.execTself d s
  | .ctb a grp acq rel => Sys2Proof.Machine.execCtb a grp acq rel s
  | .crd d grp rnd => Sys2Proof.Machine.execCrd d grp rnd s
  | .chain d a grp => Sys2Proof.Machine.execChain d a grp s
  | .gstat d grp => Sys2Proof.Machine.execGstat d grp s
  | .ccfg a grp => Sys2Proof.Machine.execCcfg a grp s
  | .copy d a b ch wm acq rel scope => Sys2Proof.Machine.execCopy d a b ch wm acq rel scope s
  | .cwait a ch => Sys2Proof.Machine.execCwait a ch s
  | .cdone d ch => Sys2Proof.Machine.execCdone d ch s
  | .cwm d ch => Sys2Proof.Machine.execCwm d ch s
  | .cnext d ch => Sys2Proof.Machine.execCnext d ch s
  | .chstat d ch => Sys2Proof.Machine.execChstat d ch s
  | .cabort ch => Sys2Proof.Machine.execCabort ch s
  | .strm d a ch => Sys2Proof.Machine.execStrm d a ch s
  | .strmw d a ch => Sys2Proof.Machine.execStrmw d a ch s
  | .strmend d ch => Sys2Proof.Machine.execStrmend d ch s
  | .gather d a b ch oobf acq rel scope => Sys2Proof.Machine.execGather d a b ch oobf acq rel scope s
  | .scatter d a b ch oobf acq rel scope => Sys2Proof.Machine.execScatter d a b ch oobf acq rel scope s
  | .vadd dk ak bk ty rnd sat => Sys2Proof.Machine.execVadd dk ak bk ty rnd sat s
  | .vsub dk ak bk ty rnd sat => Sys2Proof.Machine.execVsub dk ak bk ty rnd sat s
  | .vmul dk ak bk ty rnd sat => Sys2Proof.Machine.execVmul dk ak bk ty rnd sat s
  | .vfma dk ak bk ty rnd sat => Sys2Proof.Machine.execVfma dk ak bk ty rnd sat s
  | .vfms dk ak bk ty rnd sat => Sys2Proof.Machine.execVfms dk ak bk ty rnd sat s
  | .vmin dk ak bk ty => Sys2Proof.Machine.execVmin dk ak bk ty s
  | .vmax dk ak bk ty => Sys2Proof.Machine.execVmax dk ak bk ty s
  | .vabs dk ak ty => Sys2Proof.Machine.execVabs dk ak ty s
  | .vneg dk ak ty => Sys2Proof.Machine.execVneg dk ak ty s
  | .vand dk ak bk ty => Sys2Proof.Machine.execVand dk ak bk ty s
  | .vor dk ak bk ty => Sys2Proof.Machine.execVor dk ak bk ty s
  | .vxor dk ak bk ty => Sys2Proof.Machine.execVxor dk ak bk ty s
  | .vshl dk ak bk ty sat => Sys2Proof.Machine.execVshl dk ak bk ty sat s
  | .vshr dk ak bk ty => Sys2Proof.Machine.execVshr dk ak bk ty s
  | .vsra dk ak bk ty => Sys2Proof.Machine.execVsra dk ak bk ty s
  | .vcmul dk ak bk ty rnd sat => Sys2Proof.Machine.execVcmul dk ak bk ty rnd sat s
  | .vcmac dk ak bk ty rnd sat => Sys2Proof.Machine.execVcmac dk ak bk ty rnd sat s
  | .vconj dk ak ty => Sys2Proof.Machine.execVconj dk ak ty s
  | .vmov dk ak ty => Sys2Proof.Machine.execVmov dk ak ty s
  | .vexp2 dk ak ty rnd sat => Sys2Proof.Machine.execVexp2 dk ak ty rnd sat s
  | .vlog2 dk ak ty rnd sat => Sys2Proof.Machine.execVlog2 dk ak ty rnd sat s
  | .vrcp dk ak ty rnd sat => Sys2Proof.Machine.execVrcp dk ak ty rnd sat s
  | .vrsqrt dk ak ty rnd sat => Sys2Proof.Machine.execVrsqrt dk ak ty rnd sat s
  | .vcvt dk ak ty rnd sat => Sys2Proof.Machine.execVcvt dk ak ty rnd sat s
  | .vrsum dk ak ty rnd sat => Sys2Proof.Machine.execVrsum dk ak ty rnd sat s
  | .vrmax dk ak ty => Sys2Proof.Machine.execVrmax dk ak ty s
  | .vrmin dk ak ty => Sys2Proof.Machine.execVrmin dk ak ty s
  | .vceq dk ak bk ty => Sys2Proof.Machine.execVceq dk ak bk ty s
  | .vclt dk ak bk ty => Sys2Proof.Machine.execVclt dk ak bk ty s
  | .vcle dk ak bk ty => Sys2Proof.Machine.execVcle dk ak bk ty s
  | .vsel dk ak bk ty => Sys2Proof.Machine.execVsel dk ak bk ty s
  | .vperm dk ak bk ty => Sys2Proof.Machine.execVperm dk ak bk ty s
  | .vbcast dk ak ty => Sys2Proof.Machine.execVbcast dk ak ty s
  | .vzip dk ak bk ty => Sys2Proof.Machine.execVzip dk ak bk ty s
  | .vunzip dk ak bk ty => Sys2Proof.Machine.execVunzip dk ak bk ty s
  | .vrev dk ak ty => Sys2Proof.Machine.execVrev dk ak ty s
  | .vloop a n => Sys2Proof.Machine.execVloop a n s
  | .vsync => Sys2Proof.Machine.execVsync s
  | .shld k a => Sys2Proof.Machine.execShld k a s
  | .shobj k a => Sys2Proof.Machine.execShobj k a s
  | .shst k a => Sys2Proof.Machine.execShst k a s
  | .shset k a field => Sys2Proof.Machine.execShset k a field s
  | .shget k b field => Sys2Proof.Machine.execShget k b field s
  | .mma acc ak w ty acq rel scope clr => Sys2Proof.Machine.execMma acc ak w ty acq rel scope clr s
  | .mmcx acc ak w ty acq rel scope clr => Sys2Proof.Machine.execMmcx acc ak w ty acq rel scope clr s
  | .mconv acc ak w ty kk acq rel scope clr => Sys2Proof.Machine.execMconv acc ak w ty kk acq rel scope clr s
  | .mwld w a ty => Sys2Proof.Machine.execMwld w a ty s
  | .maclr acc => Sys2Proof.Machine.execMaclr acc s
  | .macrd acc ks ty rnd sat => Sys2Proof.Machine.execMacrd acc ks ty rnd sat s
  | .macwr acc ks ty => Sys2Proof.Machine.execMacwr acc ks ty s
  | .mepi acc ks a ty rnd sat => Sys2Proof.Machine.execMepi acc ks a ty rnd sat s
  | .macq acc => Sys2Proof.Machine.execMacq acc s
  | .mrel acc => Sys2Proof.Machine.execMrel acc s
  | .sysrd num d => Sys2Proof.Machine.execSysrd num d s
  | .syswr num a => Sys2Proof.Machine.execSyswr num a s
  | .trap imm => Sys2Proof.Machine.execTrap imm s
  | .eret => Sys2Proof.Machine.execEret s
  | .ckpt => Sys2Proof.Machine.execCkpt s
  | .caskuse d => Sys2Proof.Machine.execCaskuse d s
  | .scanno d => Sys2Proof.Machine.execScanno d s
  | .provq d => Sys2Proof.Machine.execProvq d s
  | .irrev => Sys2Proof.Machine.execIrrev s
  | .cmtq d a => Sys2Proof.Machine.execCmtq d a s
  | .abort a => Sys2Proof.Machine.execAbort a s
  | .hintImm payload => Sys2Proof.Machine.execHintImm payload s
  | .hintSched nt br => Sys2Proof.Machine.execHintSched nt br s
  | .hintMod pv prio ftz => Sys2Proof.Machine.execHintMod pv prio ftz s
  | .writeQueueDrain site ctx => Sys2Proof.Machine.execWriteQueueDrain site ctx s
  | .bdeclReport site ctx => Sys2Proof.Machine.execBdeclReport site ctx s
  | .flitRouting plane site => Sys2Proof.Machine.execFlitRouting plane site s
  | .flitArrival plane part ep => Sys2Proof.Machine.execFlitArrival plane part ep s
  | .loadRequest part ep => Sys2Proof.Machine.execLoadRequest part ep s
  | .storeRequest part ep => Sys2Proof.Machine.execStoreRequest part ep s
  | .atomicRequest part ep => Sys2Proof.Machine.execAtomicRequest part ep s
  | .copyReadRequest part ep => Sys2Proof.Machine.execCopyReadRequest part ep s
  | .remoteOpen part ep => Sys2Proof.Machine.execRemoteOpen part ep s
  | .activeMessage part ep => Sys2Proof.Machine.execActiveMessage part ep s
  | .carriage plane site => Sys2Proof.Machine.execCarriage plane site s
  | .recordOperation part ep => Sys2Proof.Machine.execRecordOperation part ep s
  | .faultMessage part ep => Sys2Proof.Machine.execFaultMessage part ep s
  | .resumePacket part ep => Sys2Proof.Machine.execResumePacket part ep s
  | .abortPacket part ep => Sys2Proof.Machine.execAbortPacket part ep s
  | .cellarTraffic part ep => Sys2Proof.Machine.execCellarTraffic part ep s
  | .dataReply part ep => Sys2Proof.Machine.execDataReply part ep s
  | .acknowledgement part ep => Sys2Proof.Machine.execAcknowledgement part ep s
  | .landing part ep => Sys2Proof.Machine.execLanding part ep s
  | .landingAck part ep => Sys2Proof.Machine.execLandingAck part ep s
  | .voidFlit plane part ep => Sys2Proof.Machine.execVoidFlit plane part ep s
  | .copyRequest site ch => Sys2Proof.Machine.execCopyRequest site ch s
  | .transferComplete site ch => Sys2Proof.Machine.execTransferComplete site ch s
  | .streamRefill site ch => Sys2Proof.Machine.execStreamRefill site ch s
  | .closePacket part ep => Sys2Proof.Machine.execClosePacket part ep s
  | .sidingAppend plane site => Sys2Proof.Machine.execSidingAppend plane site s
  | .sidingRelease part list => Sys2Proof.Machine.execSidingRelease part list s
  | .poolEntry part dist => Sys2Proof.Machine.execPoolEntry part dist s
  | .poolPull site => Sys2Proof.Machine.execPoolPull site s
  | .pullWithdraw site => Sys2Proof.Machine.execPullWithdraw site s
  | .entryReturn part dist => Sys2Proof.Machine.execEntryReturn part dist s
  | .yieldQuery site ctx => Sys2Proof.Machine.execYieldQuery site ctx s
  | .suspensionPoint site ctx => Sys2Proof.Machine.execSuspensionPoint site ctx s
  | .stallConversion site ctx => Sys2Proof.Machine.execStallConversion site ctx s
  | .preemptionRequest part dist => Sys2Proof.Machine.execPreemptionRequest part dist s
  | .preemption site ctx => Sys2Proof.Machine.execPreemption site ctx s
  | .imageRestore site slot => Sys2Proof.Machine.execImageRestore site slot s
  | .vectorFinish site => Sys2Proof.Machine.execVectorFinish site s
  | .tileCommandStart site k => Sys2Proof.Machine.execTileCommandStart site k s
  | .tileCommandFinish site k => Sys2Proof.Machine.execTileCommandFinish site k s
  | .tileWriteAck site tile => Sys2Proof.Machine.execTileWriteAck site tile s
  | .slewStepBoundary dom => Sys2Proof.Machine.execSlewStepBoundary dom s
  | .contribution site grp => Sys2Proof.Machine.execContribution site grp s
  | .result site grp => Sys2Proof.Machine.execResult site grp s
  | .chainPartial site grp => Sys2Proof.Machine.execChainPartial site grp s
  | .proxyContribution site grp => Sys2Proof.Machine.execProxyContribution site grp s
  | .proxyResult site grp => Sys2Proof.Machine.execProxyResult site grp s
  | .groupConfiguration site => Sys2Proof.Machine.execGroupConfiguration site s
  | .groupConfigurationAnswer site => Sys2Proof.Machine.execGroupConfigurationAnswer site s
  | .collectiveTimerExpiry site grp => Sys2Proof.Machine.execCollectiveTimerExpiry site grp s
  | .chainTimeout site ctx => Sys2Proof.Machine.execChainTimeout site ctx s
  | .doneWave site v => Sys2Proof.Machine.execDoneWave site v s
  | .doneAnswer site v => Sys2Proof.Machine.execDoneAnswer site v s
  | .doneWaveTimer part v => Sys2Proof.Machine.execDoneWaveTimer part v s
  | .gatingWave site v => Sys2Proof.Machine.execGatingWave site v s
  | .gatingAnswer site v => Sys2Proof.Machine.execGatingAnswer site v s
  | .killMessage site v => Sys2Proof.Machine.execKillMessage site v s
  | .killAck site v => Sys2Proof.Machine.execKillAck site v s
  | .domainEnd site v => Sys2Proof.Machine.execDomainEnd site v s
  | .domainEndAck site v => Sys2Proof.Machine.execDomainEndAck site v s
  | .drainWave site v => Sys2Proof.Machine.execDrainWave site v s
  | .drainAck site v => Sys2Proof.Machine.execDrainAck site v s
  | .caskDiscard part v => Sys2Proof.Machine.execCaskDiscard part v s
  | .killCleanup part v => Sys2Proof.Machine.execKillCleanup part v s
  | .lock part slot v => Sys2Proof.Machine.execLock part slot v s
  | .lockAck part slot v => Sys2Proof.Machine.execLockAck part slot v s
  | .unlock part slot v => Sys2Proof.Machine.execUnlock part slot v s
  | .unlockAck part slot v => Sys2Proof.Machine.execUnlockAck part slot v s
  | .commitStart part => Sys2Proof.Machine.execCommitStart part s
  | .commitIntentAck part => Sys2Proof.Machine.execCommitIntentAck part s
  | .commitBroadcast part slot v => Sys2Proof.Machine.execCommitBroadcast part slot v s
  | .commitAck part slot v => Sys2Proof.Machine.execCommitAck part slot v s
  | .completionMessage part => Sys2Proof.Machine.execCompletionMessage part s
  | .vintageSwitch part v => Sys2Proof.Machine.execVintageSwitch part v s
  | .switch part slot v => Sys2Proof.Machine.execSwitch part slot v s
  | .switchAck part slot v => Sys2Proof.Machine.execSwitchAck part slot v s
  | .caskuseQuery part slot v => Sys2Proof.Machine.execCaskuseQuery part slot v s
  | .caskuseAnswer part slot v => Sys2Proof.Machine.execCaskuseAnswer part slot v s
  | .caskMerge part slot => Sys2Proof.Machine.execCaskMerge part slot s
  | .launchTake part => Sys2Proof.Machine.execLaunchTake part s
  | .admission part v => Sys2Proof.Machine.execAdmission part v s
  | .startTimeReached part v => Sys2Proof.Machine.execStartTimeReached part v s
  | .fireWave band v => Sys2Proof.Machine.execFireWave band v s
  | .deadlineExpiry part v => Sys2Proof.Machine.execDeadlineExpiry part v s
  | .recordStoreFill site v => Sys2Proof.Machine.execRecordStoreFill site v s
  | .healthSweepStart part => Sys2Proof.Machine.execHealthSweepStart part s
  | .healthSweep site => Sys2Proof.Machine.execHealthSweep site s
  | .ringSweepTimeout part => Sys2Proof.Machine.execRingSweepTimeout part s
  | .rebindFence site ep => Sys2Proof.Machine.execRebindFence site ep s
  | .rebindFenceAck site ep => Sys2Proof.Machine.execRebindFenceAck site ep s
  | .rebindBind site ep => Sys2Proof.Machine.execRebindBind site ep s
  | .rebindBindAck site ep => Sys2Proof.Machine.execRebindBindAck site ep s
  | .rebindRelease site ep => Sys2Proof.Machine.execRebindRelease site ep s
  | .rebindReleaseAck site ep => Sys2Proof.Machine.execRebindReleaseAck site ep s
  | .managementRequest addr wdata => Sys2Proof.Machine.execManagementRequest addr wdata s
  | .managementResponse => Sys2Proof.Machine.execManagementResponse s
  | .timeDistribution band => Sys2Proof.Machine.execTimeDistribution band s
  | .translationMiss site page => Sys2Proof.Machine.execTranslationMiss site page s
  | .intervalTimer site => Sys2Proof.Machine.execIntervalTimer site s
  | .highWater site => Sys2Proof.Machine.execHighWater site s
  | .checkpointBoundary site => Sys2Proof.Machine.execCheckpointBoundary site s
  | .cellarCopy site => Sys2Proof.Machine.execCellarCopy site s
  | .intervalClose site => Sys2Proof.Machine.execIntervalClose site s
  | .mirrorFold site => Sys2Proof.Machine.execMirrorFold site s
  | .detectedError site => Sys2Proof.Machine.execDetectedError site s
  | .sparingRestore band => Sys2Proof.Machine.execSparingRestore band s
  | .sparingBind band => Sys2Proof.Machine.execSparingBind band s
  | .sparingRelease band => Sys2Proof.Machine.execSparingRelease band s
  | .logReplay site => Sys2Proof.Machine.execLogReplay site s
  | .replayEnd site => Sys2Proof.Machine.execReplayEnd site s
  | .diagnosticScanResult site pass => Sys2Proof.Machine.execDiagnosticScanResult site pass s
  | .cellarHostLoss site => Sys2Proof.Machine.execCellarHostLoss site s
  | .rotationPass part dist => Sys2Proof.Machine.execRotationPass part dist s
  | .scanPass site => Sys2Proof.Machine.execScanPass site s
  | .scanPassResult site pass => Sys2Proof.Machine.execScanPassResult site pass s
  | .contextWatchdog site ctx => Sys2Proof.Machine.execContextWatchdog site ctx s
  | .coreWatchdog site => Sys2Proof.Machine.execCoreWatchdog site s
  | .codeWindowEnd chan => Sys2Proof.Machine.execCodeWindowEnd chan s
  | .channelRetirementRequest chan => Sys2Proof.Machine.execChannelRetirementRequest chan s
  | .blockMove chan => Sys2Proof.Machine.execBlockMove chan s
  | .hostMemoryRead scl addr len => Sys2Proof.Machine.execHostMemoryRead scl addr len s
  | .hostMemoryWrite scl addr data => Sys2Proof.Machine.execHostMemoryWrite scl addr data s
  | .submit scl part q data => Sys2Proof.Machine.execSubmit scl part q data s
  | .qctlEnable scl part q en => Sys2Proof.Machine.execQctlEnable scl part q en s
  | .qctlFlush scl part q => Sys2Proof.Machine.execQctlFlush scl part q s
  | .killWrite part v => Sys2Proof.Machine.execKillWrite part v s
  | .pctlCreate scl band => Sys2Proof.Machine.execPctlCreate scl band s
  | .pctlDissolve scl band => Sys2Proof.Machine.execPctlDissolve scl band s
  | .pctlOperationEnd band => Sys2Proof.Machine.execPctlOperationEnd band s
  | .semRead scl => Sys2Proof.Machine.execSemRead scl s
  | .semWrite scl => Sys2Proof.Machine.execSemWrite scl s
  | .tsecRead scl => Sys2Proof.Machine.execTsecRead scl s
  | .tnsWrite scl ns => Sys2Proof.Machine.execTnsWrite scl ns s
  | .timeStep scl ns => Sys2Proof.Machine.execTimeStep scl ns s
  | .registerWrite scl addr data => Sys2Proof.Machine.execRegisterWrite scl addr data s
  | .ppsEdge => Sys2Proof.Machine.execPpsEdge s
  | .sclLinkDown scl => Sys2Proof.Machine.execSclLinkDown scl s
  | .warmReset => Sys2Proof.Machine.execWarmReset s
  | .coldBringup => Sys2Proof.Machine.execColdBringup s
  | .mgcSemFree => Sys2Proof.Machine.execMgcSemFree s
  | .linkDataFlit port => Sys2Proof.Machine.execLinkDataFlit port s
  | .linkIdleFlit port => Sys2Proof.Machine.execLinkIdleFlit port s
  | .linkNakFlit port => Sys2Proof.Machine.execLinkNakFlit port s
  | .linkRetrainFlit port => Sys2Proof.Machine.execLinkRetrainFlit port s
  | .linkReplayTimeout port => Sys2Proof.Machine.execLinkReplayTimeout port s
  | .laneLoss port lane => Sys2Proof.Machine.execLaneLoss port lane s
  | .retrainComplete port tx => Sys2Proof.Machine.execRetrainComplete port tx s
  | .portDown port => Sys2Proof.Machine.execPortDown port s
  | .fullTrainingComplete port lanes pmod pport => Sys2Proof.Machine.execFullTrainingComplete port lanes pmod pport s
  | .bhlRetrain port => Sys2Proof.Machine.execBhlRetrain port s
  | .bhlEnable port en => Sys2Proof.Machine.execBhlEnable port en s
  | .peerRequest port => Sys2Proof.Machine.execPeerRequest port s
  | .exportRequest port => Sys2Proof.Machine.execExportRequest port s
  | .peerDataReturn port => Sys2Proof.Machine.execPeerDataReturn port s
  | .peerFailoverTimeout part entry => Sys2Proof.Machine.execPeerFailoverTimeout part entry s
  | .inputUndervoltage => Sys2Proof.Machine.execInputUndervoltage s
  | .rideThroughLimit => Sys2Proof.Machine.execRideThroughLimit s
  | .rideThroughEnd => Sys2Proof.Machine.execRideThroughEnd s
  | .inputPowerLoss => Sys2Proof.Machine.execInputPowerLoss s
  | .inputOvervoltage => Sys2Proof.Machine.execInputOvervoltage s
  | .powerMeasurement watts => Sys2Proof.Machine.execPowerMeasurement watts s
  | .sagDetect dom => Sys2Proof.Machine.execSagDetect dom s
  | .sagClear dom => Sys2Proof.Machine.execSagClear dom s
  | .sagCapLower dom => Sys2Proof.Machine.execSagCapLower dom s
  | .overtemperature dom temp => Sys2Proof.Machine.execOvertemperature dom temp s
  | .overtemperatureStep dom => Sys2Proof.Machine.execOvertemperatureStep dom s
  | .coolantFlowLoss => Sys2Proof.Machine.execCoolantFlowLoss s
  | .heartbeatMiss band => Sys2Proof.Machine.execHeartbeatMiss band s
  | .sidingFullTimeout band => Sys2Proof.Machine.execSidingFullTimeout band s
  | .mgcWatchdog => Sys2Proof.Machine.execMgcWatchdog s
  | .operatorKill part v => Sys2Proof.Machine.execOperatorKill part v s
  | .firmwareUpdate image => Sys2Proof.Machine.execFirmwareUpdate image s
  | .attestationRequest data => Sys2Proof.Machine.execAttestationRequest data s
  | .illegalEncoding => Sys2Proof.Machine.execIllegalEncoding s
  | .instructionFetchFault cause => Sys2Proof.Machine.execInstructionFetchFault cause s
  | .lineEviction site line => Sys2Proof.Machine.execLineEviction site line s
  | .scalarResultReady site ctx => Sys2Proof.Machine.execScalarResultReady site ctx s
  | .warmResetEnd => Sys2Proof.Machine.execWarmResetEnd s
  | .warmResetFailure => Sys2Proof.Machine.execWarmResetFailure s
  | .coldBringupEnd => Sys2Proof.Machine.execColdBringupEnd s
  | .timeDistributionSend => Sys2Proof.Machine.execTimeDistributionSend s

end Sys2Proof.Machine
end

