-- ==== Sys2Proof/Machine/Dues.lean ====
section
/-!
DEFINITION. What an event that has fallen due does: the meaning of the instruction that it stands for.
-/

namespace Sys2Proof.Machine

open Sys2Proof

/-- An event that has fallen due is performed. -/
def Due.run (d : Due) (s : State) : Out :=
  match d with
  | .ev i => exec i s
  | .readError site => .next (s.countError site)
  | .doneWaveTimer part v => execDoneWaveTimer part v s
  | .domainEnd site v => execDomainEnd site v s
  | .domainEndAck site v => execDomainEndAck site v s
  | .caskDiscard part v => execCaskDiscard part v s
  | .killCleanup part v => execKillCleanup part v s
  | .commitStart part => execCommitStart part s
  | .completionMessage part => execCompletionMessage part s
  | .vintageSwitch part v => execVintageSwitch part v s
  | .switch part slot v => execSwitch part slot v s
  | .switchAck part slot v => execSwitchAck part slot v s
  | .caskuseQuery part slot v => execCaskuseQuery part slot v s
  | .caskuseAnswer part slot v => execCaskuseAnswer part slot v s
  | .launchTake part => execLaunchTake part s
  | .admission part v => execAdmission part v s
  | .fireWave band v => execFireWave band v s
  | .recordStoreFill site v => execRecordStoreFill site v s
  | .proxyContribution site grp => execProxyContribution site grp s
  | .proxyResult site grp => execProxyResult site grp s
  | .scanPass site => execScanPass site s
  | .linkDataFlit port => execLinkDataFlit port s
  | .linkIdleFlit port => execLinkIdleFlit port s
  | .linkNakFlit port => execLinkNakFlit port s
  | .linkRetrainFlit port => execLinkRetrainFlit port s
  | .peerRequest port => execPeerRequest port s
  | .exportRequest port => execExportRequest port s
  | .peerDataReturn port => execPeerDataReturn port s
  | .pctlOperationEnd band => execPctlOperationEnd band s
  | .timeDistribution band => execTimeDistribution band s
  | .warmReset => execWarmReset s
  | .warmResetEnd => execWarmResetEnd s
  | .coldBringupEnd => execColdBringupEnd s
  | .managementResponse => execManagementResponse s
  | .hostMemoryRead scl addr len => execHostMemoryRead scl addr len s
  | .codeWindowEnd chan => execCodeWindowEnd chan s
  | .channelRetirementRequest chan => execChannelRetirementRequest chan s
  | .blockMove chan => execBlockMove chan s
  | .scanPassResult site pass => execScanPassResult site pass s
  | .sidingRelease part list => execSidingRelease part list s
  | .healthSweep site => execHealthSweep site s
  | .rebindFence site ep => execRebindFence site ep s
  | .rebindFenceAck site ep => execRebindFenceAck site ep s
  | .rebindBind site ep => execRebindBind site ep s
  | .rebindBindAck site ep => execRebindBindAck site ep s
  | .rebindRelease site ep => execRebindRelease site ep s
  | .rebindReleaseAck site ep => execRebindReleaseAck site ep s
  | .highWater site => execHighWater site s
  | .cellarCopy site => execCellarCopy site s
  | .intervalClose site => execIntervalClose site s
  | .mirrorFold site => execMirrorFold site s
  | .sparingRestore band => execSparingRestore band s
  | .sparingBind band => execSparingBind band s
  | .sparingRelease band => execSparingRelease band s
  | .logReplay site => execLogReplay site s
  | .replayEnd site => execReplayEnd site s
  | .diagnosticScanResult site pass => execDiagnosticScanResult site pass s
  | .cellarHostLoss site => execCellarHostLoss site s
  | .startTimeReached part v => execStartTimeReached part v s
  | .deadlineExpiry part v => execDeadlineExpiry part v s

end Sys2Proof.Machine
end

