-- ==== Sys2Proof/Machine/Group.lean ====
section
/-!
DEFINITION. Word groups (R66, R67, R142): the words of a group issue with no word of another context of the core between
them, and a group starts only when its instruction can issue; until then its context stands at the group's first word.
-/

namespace Sys2Proof.Machine

open Sys2Proof

/-- Whether another context of the core has an unfinished word group, which takes the issue slot (R142, R225). -/
def State.groupElsewhere (s : State) (site n : Nat) : Bool :=
  (List.range 8).any fun m => m != n && (s.ctx site m).inGroup

/-- A context's state with its word group not started: at the group's first word, without HINTs. -/
def Ctx.unstarted (c : Ctx) : Ctx := { c with pc := c.groupStart, hints := none }

/-- Whether the instruction of an open group did not issue: its context stands as before, in the group. -/
def Ctx.waitsInGroup (c d : Ctx) : Bool :=
  c.hints.isSome && c.hold == .none && d.hold == .none && d.pc == c.pc && d.hints == c.hints && d.occ == .running

/-- The state in which a group just opened has been found not to start: its words up to the instruction have been tried, and the
instruction waits (R142). None when the instruction can issue or traps. -/
def State.groupWaits (s : State) (site n : Nat) : Nat → Option State
  | 0 => none
  | k + 1 =>
    let c := s.ctx site n
    match exec (instrOfFetch (s.fetch site c.vintage c.pc)) s with
    | .next t =>
      let d := t.ctx site n
      if c.waitsInGroup d then some (t.updCtx site n Ctx.unstarted)
      else if d.inGroup then t.groupWaits site n k
      else none
    | _ => none

/-- Whether an instruction is a HINT word (R66). -/
def isHint : Instr → Bool
  | .hintImm _ | .hintSched _ _ | .hintMod _ _ _ => true
  | _ => false

/-- The state after a word i of a context whose state before it was c: a group opened whose instruction cannot issue does not
start, and one whose instruction did not issue stands at its first word again (R142). -/
def State.groupRule (s : State) (i : Instr) (c : Ctx) (site n : Nat) : State :=
  let d := s.ctx site n
  if c.waitsInGroup d then s.updCtx site n Ctx.unstarted
  else if isHint i && d.inGroup && c.hints.isNone then (s.groupWaits site n 4).getD s
  else s

end Sys2Proof.Machine
end

