-- ==== Sys2Proof/Machine/Ties.lean ====
section
/-!
DEFINITION. The tie rule of the two SCL ports (R522): which port's request goes first when both reach one target in the same
fabric cycle. How many fabric cycles lie between two turns is free (log entries 7, 54).
-/

namespace Sys2Proof.Machine

open Sys2Proof

/-- The target of a host address (R522): the slot controller of a granule of global memory, the launch engine of a partition, or
a register, each as a number by kind. -/
def State.addrTarget (s : State) (addr : Nat) : Option (Nat × Nat × Nat) :=
  match hostPlace addr with
  | none => none
  | some (space, part, off) =>
    if space = 0 then (s.part? part).map fun p => (0, part, p.slotOf off)
    else if space = 8 then
      if off < 0x1200 then some (9, part, 0) else if off < 0x1300 then some (8, part, 0x1200) else some (8, part, off / 8)
    else some (space, part, 0)

/-- The port and the target of a host request. -/
def State.hostTarget (s : State) : Instr → Option (Requester × Nat × Nat × Nat)
  | .hostMemoryRead scl addr _ => (s.addrTarget addr).map fun t => (scl, t)
  | .hostMemoryWrite scl addr _ => (s.addrTarget addr).map fun t => (scl, t)
  | .registerWrite scl addr _ => (s.addrTarget addr).map fun t => (scl, t)
  | .submit scl part _ _ => some (scl, 9, part, 0)
  | .qctlEnable scl part _ _ => some (scl, 9, part, 0)
  | .qctlFlush scl part _ => some (scl, 9, part, 0)
  | .pctlCreate scl band => some (scl, 8, band, 0x1300 / 8)
  | .pctlDissolve scl band => some (scl, 8, band, 0x1300 / 8)
  | .semRead scl => some (scl, 8, 0, 0x2000 / 8)
  | .semWrite scl => some (scl, 8, 0, 0x2000 / 8)
  | .tsecRead scl => some (scl, 8, 0, 0x2010 / 8)
  | .tnsWrite scl _ => some (scl, 8, 0, 0x2018 / 8)
  | .timeStep scl _ => some (scl, 8, 0, 0x2028 / 8)
  | _ => none

/-- Whether two events are requests of the two ports to one target. -/
def State.rivals (s : State) (i j : Instr) : Bool :=
  match s.hostTarget i, s.hostTarget j with
  | some (p, t), some (q, u) =>
    (p == .sclA && q == .sclB || p == .sclB && q == .sclA) && t == u
  | _, _ => false

/-- Whether a request is one of SCL-A. -/
def State.ofSclA (s : State) (i : Instr) : Bool := (s.hostTarget i).any fun t => t.1 == .sclA

/-- The event that goes first of an event turn and the turns after it: at a tie that of the port that lost the last one, and the
other port has then lost this one (R522). -/
def State.tied (s : State) (i : Instr) : List Turn → Instr × State
  | .event j :: t =>
    if s.rivals i j ∧ Config.cyclesOf (s.tick + 1) = 0 then
      let s1 := { s with module := { s.module with tieFirstA := !s.module.tieFirstA } }
      if s.ofSclA i == s.module.tieFirstA then (i, { s1 with order := .event j :: t }) else (j, { s1 with order := .event i :: t })
    else (i, { s with order := .event j :: t })
  | t => (i, { s with order := t })

end Sys2Proof.Machine
end

