-- ==== Sys2Proof/Machine/Step.lean ====
section
/-!
DEFINITION. The step: one turn of the module. A forced turn comes first, then an event that has fallen due, then an issue
slot of a core, its context chosen by R225 (log entry 9). And the placing of a word where the next step fetches.
-/

namespace Sys2Proof.Machine

open Sys2Proof

/-- The number of sites of the wafer (R5). -/
def wafer : Nat := 9120

/-- Fetch and execute the word of a context; another context's open word group keeps it waiting (R142). -/
def stepIssue (s : State) (site n : Nat) : Out :=
  let c := s.ctx site n
  if c.issues && s.coreIssues site && !s.groupElsewhere site n then
    let i := instrOfFetch (s.fetch site c.vintage c.pc)
    match exec i (s.slot site n) with
    | .next t => .next (s.afterIssue (t.groupRule i c site n) site n)
    | r => r
  else if wafer ≤ site ∨ 8 ≤ n then .fault .noUnit
  else .next s

/-- The first context of a list whose word issues, executed; a word that cannot issue leaves the state (R142, R225). -/
def firstIssue (s : State) : List (Nat × Nat) → Out
  | [] => .next s
  | (site, n) :: rest =>
    match stepIssue s site n with
    | .next t => if t = s.slot site n then firstIssue s rest else .next t
    | .fault f => .fault f
    | .refused r => .refused r

/-- Whether R225 gives a core's issue slot to context n: none of the contexts that come before it can issue. -/
def State.mayTake (s : State) (site n : Nat) : Bool :=
  ((s.core site).order.takeWhile fun m => m != n).all fun m =>
    match stepIssue s site m with
    | .next t => t == s.slot site m
    | _ => false

/-- A turn of a context: it takes the issue slot of its core when R225 gives it the slot. -/
def stepTurn (s : State) (site n : Nat) : Out := if s.mayTake site n then stepIssue s site n else .next s

/-- One step of the module. -/
def step (s : State) : Out :=
  match s.order with
  | .issue site n :: t => stepTurn { s.begin with order := t } site n
  | .event i :: t =>
    let r := s.tied i t
    exec r.1 r.2.begin
  | [] =>
    match s.pending with
    | d :: t => d.run { s with pending := t }.begin
    | [] => firstIssue s.begin s.begin.slots

/-! ## Placing a word -/

/-- The site and the address at which a placed word is fetched: context 0 of LCN 0 of a partition of band 0, at the
first global address. -/
def placeSite : Nat := 1

/-- The global address of the placed word. -/
def placePc : Addr := 0x80000000000000

/-- The partition that a placed word runs in: band 0, one job core, one running launch of vintage 1. -/
def placePart : Part :=
  let l := Launch.new 1 0 Cmd.zero
  { Part.new 0 1 [placeSite] [0] 256 Pcfg.reset with
    launches := [{ l with phase := .running, regions := [⟨0, 0, 0, 0, 0, [], []⟩] }] }

/-- The state with a launch loaded from outside whose only task stands at a placed word (log entry 10): the word's bytes
at home, its translation, its context, and the next turn. -/
def State.withFetchWord (s : State) (nbits w : Nat) : State :=
  let bytes := leBytes 4 (if nbits < 32 then w % 2 ^ nbits else w)
  let c0 : Ctx := { Ctx.reset with occ := .running, pc := placePc, vintage := 1 }
  let core : Core := { Core.reset with
    ctxs := Core.reset.ctxs.setIfInBounds 0 c0, xlat := [⟨1, pageOf placePc, 0, true, true, true⟩] }
  { (s.setPart 0 placePart) with
    cores := Tbl.put s.cores placeSite core,
    mem := memWrite s.mem (hbmAddr 0 0) bytes,
    order := [.issue placeSite 0] }

end Sys2Proof.Machine
end

