-- ==== Sys2Proof/Safety.lean ====
section
/-!
DEFINITION. The terms in which claims speak of a run: a step that goes on and what its state holds, a word that issues, and what
a step leaves as it was.
-/

namespace Sys2Proof.Machine

open Sys2Proof

/-- The machine goes on, and its next state is as said. -/
def answers (o : Out) (P : State → Prop) : Prop := ∃ t, o = .next t ∧ P t

/-- The word of the executing context issues (R71, R142): its task runs, no decode check fails, no stream of it was aborted,
its sources have their values `vs` and its destinations are free; `c` is the context with its pops made. -/
def Issues (s : State) (u : HintUse) (srcs dests : List Reg) (plain priv pair : Bool) (vs : List Word) (c : Ctx) : Prop :=
  s.me.occ = .running ∧ decodeCheck s.me u srcs dests plain (priv && !s.supSite s.cur.1) pair = none ∧ s.me.abortedStream (srcs ++ dests) = none
    ∧ s.me.sources srcs = some (vs, c) ∧ dests.all c.destReady = true

/-- A word of the scalar pipeline that reads `srcs` in this order and writes x[d] (R148): whenever it issues, the machine goes
on with x[d] given f of its operand values, and no sticky bit. -/
def Writes (i : Instr) (u : HintUse) (srcs : List Reg) (d : Reg) (plain : Bool) (f : List Word → Ctx → Word) : Prop :=
  ∀ s vs c, Issues s u srcs [d] plain false false vs c → exec i s = .next (finishScalar s c d (f vs c) 0)

/-- A three-register form. -/
def Writes2 (mk : Reg → Reg → Reg → Instr) (f : Word → Word → Word) : Prop :=
  ∀ d a b, Writes (mk d a b) noHints [a, b] d false fun vs _ => f (vs.getD 0 0) (vs.getD 1 0)

/-- A two-register form. -/
def Writes1 (mk : Reg → Reg → Instr) (f : Word → Word) : Prop :=
  ∀ d a, Writes (mk d a) noHints [a] d false fun vs _ => f (vs.getD 0 0)

/-- A form with a 16-bit immediate, read with its IMM HINT. -/
def WritesImm (mk : Reg → Reg → BitVec 16 → Instr) (f : Word → Word → Word) : Prop :=
  ∀ d a imm, Writes (mk d a imm) immHints [a] d false fun vs c => f (vs.getD 0 0) (c.imm16 imm)

/-- A form with a 6-bit count. -/
def WritesCount (mk : Reg → Reg → BitVec 6 → Instr) (f : Word → Nat → Word) : Prop :=
  ∀ d a pos, Writes (mk d a pos) noHints [a] d false fun vs _ => f (vs.getD 0 0) pos.toNat

/-- A floating-point form of the scalar pipeline (R156, R162): whenever it issues, and draws only when no earlier draw is
outstanding, the machine goes on with x[d] given the encoding of the exact result f of its operand values. -/
def FpWrites (i : Instr) (srcs : List Reg) (d : Reg) (plain : Bool) (t : DType) (rnd : Rnd) (sat ftz : Bool)
    (f : List Word → Res) : Prop :=
  ∀ s vs c, Issues s noHints srcs [d] plain false false vs c → (rnd = .rs → drawsBusy s = false) →
    let dr := if rnd = .rs then srStep c.srstate else (c.srstate, 0)
    let e := (f vs).encode t rnd sat ftz dr.2
    exec i s = .next (finishScalar s { c with srstate := dr.1 } d (BitVec.ofNat 64 e.bits) e.flags)

/-- Nothing holds back an access of the executing context (R128, R285, R312, R370-R374): no acquire is on its way, it does not
stand behind an aborted copy, and its bytes meet no unfinished engine command or copy. -/
def Passes (s : State) (r : Option Range) (write : Bool) : Prop :=
  s.me.acquiring = false
    ∧ (∀ k lo hi w l, s.me.stall = some (.span k lo hi w l) → ∀ e ∈ l, s.myCore.wasAborted e.1 e.2 = false)
    ∧ ∀ q, r = some q → s.gate s.cur.1 s.cur.2 q write = .free

/-- A vector word of the form `fn` (R279-R285): its checks trap in the order of R280, and a word that passes them enters the
sequencer's queue, and its context's retained window, whenever the queue has room and nothing holds the word. -/
def Sequenced (i : Instr) (fn : VFn) (ty : DType) (rnd : Rnd) (sat : Bool) (dk ak bk : Slot) : Prop :=
  ∀ s c, Issues s { mod := true, ftz := fn.ftzOk ty } [] [] false false false [] c →
    let o : VOp := ⟨fn, ty, rnd, sat, c.hintFtz, c.slot dk, c.slot ak, if fn.unary then Shape.empty else c.slot bk⟩
    let lcn := s.lcn s.cur.1
    let n := s.cur.2
    let swizzled := o.operands.any fun e => e.1.fld 16 != 0
    let e := entryOf s c [o] 0 0
    let w := c.window ++ [o]
    (o.legal lcn = false → exec i s = .next (s.trap 0x01 0))
      ∧ (o.legal lcn = true →
        (swizzled = true → exec i s = .next (s.trap 0x0F 0))
          ∧ (swizzled = false →
            (o.aliased s.myCore c.vintage lcn n 0 = true → exec i s = .next (s.trap 0x02 0))
              ∧ (o.aliased s.myCore c.vintage lcn n 0 = false →
                (∀ cause fa, firstData s.myCore c.vintage lcn n 0 o.operands = some (cause, fa) → exec i s = .next (s.trap cause fa))
                  ∧ (firstData s.myCore c.vintage lcn n 0 o.operands = none → (o.draws = false ∨ s.myCore.tileDraws n = false) →
                    s.myCore.vq.length < 16 → c.acquiring = false → e.heldBy s = none →
                    exec i s = .next (((s.setMyCore { s.myCore with vq := s.myCore.vq ++ [e] }).setMe
                      { c.advance with window := w.drop (w.length - 16) }).due (.vectorFinish s.cur.1))))))

/-- A copy word reads the pattern record p at an address (R355, R361): it goes on with p, whatever it does next. -/
def RecordRead (s : State) (c : Ctx) (a : Addr) (p : Pat) : Prop := ∀ k, withRecord s c a k = k p

/-- A copy word reads the n bytes l at an address, in at most `fuel` pieces (R361, R380). -/
def BytesRead (s : State) (c : Ctx) (fuel : Nat) (a : Addr) (n : Nat) (l : List Byte) : Prop :=
  ∀ k, withBytes s c fuel a n [] k = k l

/-- A context's registers hold what the spec lets them hold: x0 is 0 (R28), and the pc, sys.epc, sys.tvec and the start of an open
word group are word-aligned (R165, R249, R525). -/
def Ctx.sound (c : Ctx) : Prop :=
  c.x[0] = 0 ∧ c.pc.toNat % 4 = 0 ∧ c.epc.toNat % 4 = 0 ∧ c.tvec.toNat % 4 = 0 ∧ ∀ h, c.hints = some h → h.start.toNat % 4 = 0

/-- The memory has its canonical form, and every context's registers hold what they may. -/
def State.Sound (s : State) : Prop := Memory.wf s.mem = true ∧ ∀ site n, (s.ctx site n).sound

/-- The words of the scalar pipeline, the branches and jumps, the system words but HINTs, and the words that are no instruction. -/
def scalarWord : Instr → Bool
  | .add _ _ _ | .sub _ _ _ | .and _ _ _ | .or _ _ _ | .xor _ _ _ | .andn _ _ _ | .sll _ _ _ | .srl _ _ _ |
    .sra _ _ _ | .ror _ _ _ | .slt _ _ _ | .sltu _ _ _ | .min _ _ _ | .max _ _ _ | .minu _ _ _ | .maxu _ _ _ |
    .mul _ _ _ | .mulh _ _ _ | .mulhu _ _ _ | .mulx _ _ _ | .mulxu _ _ _ | .div _ _ _ | .divu _ _ _ | .rem _ _ _ |
    .remu _ _ _ | .addw _ _ _ | .subw _ _ _ | .mulw _ _ _ | .clz _ _ | .ctz _ _ | .popc _ _ | .sextb _ _ |
    .sexth _ _ | .sextw _ _ | .zextw _ _ | .bext _ _ _ | .bextu _ _ _ | .bins _ _ _ | .divt _ _ _ | .remt _ _ _ |
    .addi _ _ _ | .andi _ _ _ | .ori _ _ _ | .xori _ _ _ | .slti _ _ _ | .lui _ _ | .slli _ _ _ | .srli _ _ _ |
    .srai _ _ _ | .rori _ _ _ | .bexti _ _ _ _ | .bextui _ _ _ _ | .binsi _ _ _ _ | .fadd _ _ _ _ _ |
    .fsub _ _ _ _ _ | .fmul _ _ _ _ _ | .fdiv _ _ _ _ _ | .fsqrt _ _ _ _ | .fma _ _ _ _ _ | .fms _ _ _ _ _ |
    .fmin _ _ _ _ | .fmax _ _ _ _ | .fabs _ _ | .fneg _ _ | .fsgnj _ _ _ | .feq _ _ _ _ | .flt _ _ _ _ |
    .fle _ _ _ _ | .fclass _ _ | .fcvt _ _ _ _ _ _ _ | .beq _ _ _ | .bne _ _ _ | .blt _ _ _ | .bge _ _ _ |
    .bltu _ _ _ | .bgeu _ _ _ | .jal _ _ | .jalr _ _ _ | .sysrd _ _ | .syswr _ _ | .trap _ | .eret |
    .illegalEncoding | .instructionFetchFault _ => true
  | _ => false

/-- Every byte of memory reads as before. -/
def memSame (s t : State) : Prop := ∀ a, memGet t.mem a = memGet s.mem a

end Sys2Proof.Machine
end

