-- ==== Sys2Proof/Certificates/Slice0/Obligations.lean ====
section
/-!
DEFINITION. The statements for the provers, one `Obligations.<Name>` each: encodings, results, completion, frames, traps,
resets and invariants, from the numbered rules of the spec.
-/

open Sys2Proof Sys2Proof.Machine

/-- For every well-formed instruction that has an encoding, with every operand at every value its fields admit, the decoder
reads the encoder's word as that instruction. -/
def Obligations.DecodeEncodeGivesInstruction : Prop :=
  ∀ (i : Instr) (w : Nat), encodeWord i = some w → decodeWord w = .ok i

/-- Each word has one meaning: a value of 32 bits that the decoder reads as an instruction is that instruction's encoding, so no
reserved bit is dropped and no reserved code falls through to a neighbour. -/
def Obligations.DecodedWordIsItsEncoding : Prop :=
  ∀ (w : Nat) (i : Instr), w < 2 ^ 32 → decodeWord w = .ok i → encodeWord i = some w

/-- Some words written out field by field from the encoding tables decode to the instructions they stand for: SUB x6, x4, x5;
ADDI x3, x2, -1; FMUL.RZ x1, x2, x3; JAL x31, -1; ST of 64 bits; AMO ADD 32 acquire-release at scope p; COPY on channel 3; VADD
f32; MMA bf16; SYSRD 6 to x9; TRAP 7; ERET; and the all-zero word is refused. -/
def Obligations.WrittenWordsDecode : Prop :=
  decodeWord (1 * 2 ^ 26 + 6 * 2 ^ 21 + 4 * 2 ^ 16 + 5 * 2 ^ 11 + 1) = .ok (.sub 6 4 5)
    ∧ decodeWord (2 * 2 ^ 26 + 3 * 2 ^ 21 + 2 * 2 ^ 16 + 0xFFFF) = .ok (.addi 3 2 0xFFFF)
    ∧ decodeWord (10 * 2 ^ 26 + 1 * 2 ^ 21 + 2 * 2 ^ 16 + 3 * 2 ^ 11 + 1 * 2 ^ 8 + 2) = .ok (.fmul 1 2 3 .rz false)
    ∧ decodeWord (18 * 2 ^ 26 + 31 * 2 ^ 21 + 0x1FFFFF) = .ok (.jal 31 0x1FFFFF)
    ∧ decodeWord (21 * 2 ^ 26 + 7 * 2 ^ 21 + 8 * 2 ^ 16 + 3 * 2 ^ 13 + 16) = .ok (.st 7 8 .b64 16)
    ∧ decodeWord (24 * 2 ^ 26 + 1 * 2 ^ 21 + 2 * 2 ^ 16 + 3 * 2 ^ 11 + 1 * 2 ^ 7 + 3 * 2 ^ 3 + 3) = .ok (.amo 1 2 3 .add .w32 .ar .p)
    ∧ decodeWord (32 * 2 ^ 26 + 4 * 2 ^ 21 + 5 * 2 ^ 16 + 6 * 2 ^ 11 + 3 * 2 ^ 8) = .ok (.copy 4 5 6 3 false false false .cx)
    ∧ decodeWord (35 * 2 ^ 26 + 1 * 2 ^ 22 + 2 * 2 ^ 18 + 3 * 2 ^ 14 + 9 * 2 ^ 9) = .ok (.vadd 1 2 3 .f32 .rne false)
    ∧ decodeWord (40 * 2 ^ 26 + 1 * 2 ^ 24 + 2 * 2 ^ 20 + 3 * 2 ^ 18 + 11 * 2 ^ 13) = .ok (.mma 1 2 3 .bf16 false false .cx false)
    ∧ decodeWord (43 * 2 ^ 26 + 6 * 2 ^ 16 + 9 * 2 ^ 11) = .ok (.sysrd 6 9)
    ∧ decodeWord (43 * 2 ^ 26 + 2 * 2 ^ 24 + 7) = .ok (.trap 7)
    ∧ decodeWord (43 * 2 ^ 26 + 2 * 2 ^ 24 + 1 * 2 ^ 16) = .ok .eret
    ∧ decodeWord 0 = .error .opcode

/-- When the next turn of the machine is an issue slot of a context that may issue, with no context before it in the order of R225 that
can issue, and the word fetched at its pc decodes to
an instruction, the step executes that instruction for that context, with the fabric cycle count, the clock and the draw counter
advanced, the context noted as the last of its core to issue when its word did, and streams that its word popped or pushed set moving. No other
context of the core has an open word group. A word but a HINT, outside a group, gives just that state; what a
group does whose instruction waits is the rule `groupRule` (R142). -/
def Obligations.StepRunsTheDecodedWord : Prop :=
  ∀ (s : State) (site n : Nat) (rest : List Turn) (w : Nat) (i : Instr),
    s.order = .issue site n :: rest →
    let b := { s.begin with order := rest }
    (b.ctx site n).issues = true → b.coreIssues site = true → b.mayTake site n = true →
    (∀ m, m < 8 → m ≠ n → ¬((b.ctx site m).issues = true ∧ (b.ctx site m).hints ≠ none ∧ (b.ctx site m).hold = .none)) →
    b.fetch site (b.ctx site n).vintage (b.ctx site n).pc = .word w → decodeWord w = .ok i →
    (step s = match exec i (b.slot site n) with
      | .next t => .next (b.afterIssue (t.groupRule i (b.ctx site n) site n) site n)
      | r => r)
    ∧ ∀ (t : State) (c : Ctx), c.hints = none → isHint i = false → t.groupRule i c site n = t

/-- With no forced turn, the step executes the oldest event that has fallen due; a forced event turn executes its event. When it
and the next forced turn are requests of the two SCL ports that reach one target in the same fabric cycle, the step executes that
of the port that lost the last such tie, the other comes next, and the other port has lost this one. The order of events is
otherwise the model's own (log entry 9). -/
def Obligations.StepRunsTheDueEvent : Prop :=
  (∀ (s : State) (i : Instr) (rest : List Due), s.order = [] → s.pending = .ev i :: rest →
    step s = exec i { s with pending := rest }.begin)
  ∧ (∀ (s : State) (i : Instr) (rest : List Turn), s.order = .event i :: rest → (∀ j r, rest = .event j :: r → s.rivals i j = false) →
    step s = exec i { s.begin with order := rest })
  ∧ ∀ (s : State) (i j : Instr) (rest : List Turn), s.order = .event i :: .event j :: rest → s.rivals i j = true →
    let lost := { s.begin.module with tieFirstA := !s.module.tieFirstA }
    if Config.cyclesOf (s.tick + 1) ≠ 0 then step s = exec i { s.begin with order := .event j :: rest }
    else if s.ofSclA i = s.module.tieFirstA then step s = exec i { s.begin with module := lost, order := .event j :: rest }
    else step s = exec j { s.begin with module := lost, order := .event i :: rest }

/-- Each integer form of opcode 0x01 with one or two sources, and each immediate shift or rotate, completes whenever it issues,
with x[d] given the value of R149 over its operand values (popped from read streams where a source is one); the division, pair
and bitfield forms are stated apart. -/
def Obligations.IntegerFormsWriteTheirValues : Prop :=
  Writes2 .add (fun x y => x + y) ∧ Writes2 .sub (fun x y => x - y)
    ∧ Writes2 .and (fun x y => x &&& y) ∧ Writes2 .or (fun x y => x ||| y) ∧ Writes2 .xor (fun x y => x ^^^ y)
    ∧ Writes2 .andn (fun x y => x &&& ~~~y)
    ∧ Writes2 .sll (fun x y => x <<< (y.toNat % 64)) ∧ Writes2 .srl (fun x y => x >>> (y.toNat % 64))
    ∧ Writes2 .sra (fun x y => x.sshiftRight (y.toNat % 64)) ∧ Writes2 .ror (fun x y => x.rotateRight (y.toNat % 64))
    ∧ Writes2 .slt (fun x y => if x.toInt < y.toInt then 1 else 0) ∧ Writes2 .sltu (fun x y => if x.toNat < y.toNat then 1 else 0)
    ∧ Writes2 .min (fun x y => if x.toInt < y.toInt then x else y) ∧ Writes2 .max (fun x y => if x.toInt < y.toInt then y else x)
    ∧ Writes2 .minu (fun x y => if x.toNat < y.toNat then x else y) ∧ Writes2 .maxu (fun x y => if x.toNat < y.toNat then y else x)
    ∧ Writes2 .mul (fun x y => BitVec.ofNat 64 (x.toNat * y.toNat))
    ∧ Writes2 .mulh (fun x y => BitVec.ofInt 64 (x.toInt * y.toInt / 2 ^ 64))
    ∧ Writes2 .mulhu (fun x y => BitVec.ofNat 64 (x.toNat * y.toNat / 2 ^ 64))
    ∧ Writes2 .addw (fun x y => ((x.setWidth 32 : BitVec 32) + y.setWidth 32).signExtend 64)
    ∧ Writes2 .subw (fun x y => ((x.setWidth 32 : BitVec 32) - y.setWidth 32).signExtend 64)
    ∧ Writes2 .mulw (fun x y => ((x.setWidth 32 : BitVec 32) * y.setWidth 32).signExtend 64)
    ∧ Writes1 .clz (fun x => BitVec.ofNat 64 (if x = 0 then 64 else 63 - x.toNat.log2))
    ∧ Writes1 .ctz (fun x => BitVec.ofNat 64 (ctzBits 64 0 x))
    ∧ Writes1 .popc (fun x => BitVec.ofNat 64 ((List.range 64).filter fun k => x.getLsbD k).length)
    ∧ Writes1 .sextb (fun x => (x.setWidth 8).signExtend 64) ∧ Writes1 .sexth (fun x => (x.setWidth 16).signExtend 64)
    ∧ Writes1 .sextw (fun x => (x.setWidth 32).signExtend 64) ∧ Writes1 .zextw (fun x => BitVec.ofNat 64 (x.toNat % 2 ^ 32))
    ∧ WritesCount .slli (fun x k => x <<< k) ∧ WritesCount .srli (fun x k => x >>> k)
    ∧ WritesCount .srai (fun x k => x.sshiftRight k) ∧ WritesCount .rori (fun x k => x.rotateRight k)

/-- DIV and REM divide with a remainder from 0 up to |b|, DIVT and REMT truncate, DIVU and REMU read their operands unsigned; a
division by zero gives all ones and the dividend; −2^63 by −1 gives −2^63 and 0. Each word completes whenever it issues, and its
quotient and remainder are those of one exact division, written modulo 2^64. -/
def Obligations.DivisionFormsDivide : Prop :=
  ∃ qe re qt rt qu ru : Word → Word → Word,
    Writes2 .div qe ∧ Writes2 .rem re ∧ Writes2 .divt qt ∧ Writes2 .remt rt ∧ Writes2 .divu qu ∧ Writes2 .remu ru
      ∧ (∀ a, qe a 0 = 0xFFFFFFFFFFFFFFFF ∧ re a 0 = a ∧ qt a 0 = 0xFFFFFFFFFFFFFFFF ∧ rt a 0 = a
          ∧ qu a 0 = 0xFFFFFFFFFFFFFFFF ∧ ru a 0 = a)
      ∧ (∀ a b, b ≠ 0 → ∃ q r : Int, qe a b = BitVec.ofInt 64 q ∧ re a b = BitVec.ofInt 64 r
          ∧ a.toInt = q * b.toInt + r ∧ 0 ≤ r ∧ r.natAbs < b.toInt.natAbs)
      ∧ (∀ a b, b ≠ 0 → ∃ q r : Int, qt a b = BitVec.ofInt 64 q ∧ rt a b = BitVec.ofInt 64 r
          ∧ a.toInt = q * b.toInt + r ∧ r.natAbs < b.toInt.natAbs ∧ (r = 0 ∨ (r < 0 ↔ a.toInt < 0)))
      ∧ (∀ a b, b ≠ 0 → a.toNat = (qu a b).toNat * b.toNat + (ru a b).toNat ∧ (ru a b).toNat < b.toNat)
      ∧ (∀ b : Word, b = 0xFFFFFFFFFFFFFFFF → qe 0x8000000000000000 b = 0x8000000000000000 ∧ re 0x8000000000000000 b = 0
          ∧ qt 0x8000000000000000 b = 0x8000000000000000 ∧ rt 0x8000000000000000 b = 0)

/-- A pair form completes whenever it issues: x[d] takes bits [63:0] of the exact signed or unsigned product and x[d+1] bits
[127:64] (x0 keeps reading zero), the pc moves past the word, and every other register keeps its value. -/
def Obligations.PairProductsAreExact : Prop :=
  ∀ (s : State) (d a b : Reg) (x y : Word) (c : Ctx), d.toNat % 2 = 0 → s.cur.2 < 8 →
    Issues s noHints [a, b] [d, d + 1] true false true [x, y] c →
    answers (exec (.mulx d a b) s) (fun t =>
        t.me.get d = (if d = 0 then 0 else BitVec.ofInt 64 (x.toInt * y.toInt))
          ∧ t.me.get (d + 1) = BitVec.ofInt 64 (x.toInt * y.toInt / 2 ^ 64) ∧ t.me.pc = c.pc + 4
          ∧ (∀ r, r ≠ d → r ≠ d + 1 → t.me.get r = c.get r) ∧ t.me.sticky = c.sticky)
      ∧ answers (exec (.mulxu d a b) s) (fun t =>
        t.me.get d = (if d = 0 then 0 else BitVec.ofNat 64 (x.toNat * y.toNat))
          ∧ t.me.get (d + 1) = BitVec.ofNat 64 (x.toNat * y.toNat / 2 ^ 64) ∧ t.me.pc = c.pc + 4
          ∧ (∀ r, r ≠ d → r ≠ d + 1 → t.me.get r = c.get r) ∧ t.me.sticky = c.sticky)

/-- BEXTU gives the field of len bits at pos, BEXT the same sign-extended from its top bit, 0 when the field is invalid; BINS
replaces the field of x[d] by the low bits of x[a], and keeps x[d] when the field is invalid. The immediate forms take pos and len
from the word. Stated bit by bit; each word completes whenever it issues. -/
def Obligations.BitfieldFormsMoveTheirField : Prop :=
  ∃ (ext extu : Word → Nat → Nat → Word) (ins : Word → Word → Nat → Nat → Word),
    Writes2 .bext (fun x y => ext x (y.toNat % 64) (y.toNat / 256 % 64))
      ∧ Writes2 .bextu (fun x y => extu x (y.toNat % 64) (y.toNat / 256 % 64))
      ∧ (∀ d a b, Writes (.bins d a b) noHints [a, b, d] d true fun vs _ =>
          ins (vs.getD 2 0) (vs.getD 0 0) ((vs.getD 1 0).toNat % 64) ((vs.getD 1 0).toNat / 256 % 64))
      ∧ (∀ d a pos len, Writes (.bexti d a pos len) noHints [a] d false fun vs _ => ext (vs.getD 0 0) pos.toNat len.toNat)
      ∧ (∀ d a pos len, Writes (.bextui d a pos len) noHints [a] d false fun vs _ => extu (vs.getD 0 0) pos.toNat len.toNat)
      ∧ (∀ d a pos len, Writes (.binsi d a pos len) noHints [a, d] d true fun vs _ =>
          ins (vs.getD 1 0) (vs.getD 0 0) pos.toNat len.toNat)
      ∧ (∀ x pos len, ¬(1 ≤ len ∧ pos + len ≤ 64) → ext x pos len = 0 ∧ extu x pos len = 0)
      ∧ (∀ y x pos len, ¬(1 ≤ len ∧ pos + len ≤ 64) → ins y x pos len = y)
      ∧ ∀ (y x : Word) (pos len k : Nat), 1 ≤ len → pos + len ≤ 64 → k < 64 →
          (extu x pos len).getLsbD k = (decide (k < len) && x.getLsbD (pos + k))
            ∧ (ext x pos len).getLsbD k = x.getLsbD (pos + min k (len - 1))
            ∧ (ins y x pos len).getLsbD k = if pos ≤ k ∧ k < pos + len then x.getLsbD (k - pos) else y.getLsbD k

/-- ADDI, ANDI, ORI, XORI and SLTI complete whenever they issue with x[d] given by x[a] and the immediate, LUI with the
immediate shifted left by 16; the immediate is imm16 sign-extended, or the 40-bit value payload:imm16 sign-extended when an IMM
HINT heads the word group. -/
def Obligations.ImmediateFormsWriteTheirValues : Prop :=
  WritesImm .addi (fun x i => x + i) ∧ WritesImm .andi (fun x i => x &&& i) ∧ WritesImm .ori (fun x i => x ||| i)
    ∧ WritesImm .xori (fun x i => x ^^^ i) ∧ WritesImm .slti (fun x i => if x.toInt < i.toInt then 1 else 0)
    ∧ (∀ d imm, Writes (.lui d imm) immHints [] d false fun _ c => c.imm16 imm <<< 16)
    ∧ (∀ (c : Ctx) (imm : BitVec 16), c.hints = none → c.imm16 imm = BitVec.ofInt 64 imm.toInt)
    ∧ ∀ (c : Ctx) (imm : BitVec 16) (g : HintGroup) (p : BitVec 24), c.hints = some g → g.imm = some p →
        c.imm16 imm = BitVec.ofInt 64 (2 ^ 16 * p.toInt + imm.toNat)

/-- Completing a word that writes x[d], in a context with index below 8: with x[d] no write stream, x[d] reads the result (x0 reads
0), every other register keeps its value; the sticky bits given are ORed in and no other changes; the pc moves by 4; the scoreboard
bit of d is set; other contexts, other cores, routers, slot controllers, partitions and every byte of memory are unchanged, and so
are the mode, the trap registers and the draw state of the context. A write stream takes the result at its tail instead. -/
def Obligations.ScalarResultFrame : Prop :=
  ∀ (s : State) (c : Ctx) (d : Reg) (v flags : Word), s.cur.2 < 8 →
    let t := finishScalar s c d v flags
    (c.mode d ≠ .write → t.me.get d = (if d = 0 then 0 else v) ∧ t.me.strm = c.strm ∧ t.me.sb = c.sb ||| regBit d)
      ∧ (c.mode d = .write → t.me.get d = c.get d ∧ t.me.sb = c.sb
          ∧ t.me.strm = c.strm.setIfInBounds (streamIx d)
              { (c.strm[streamIx d]?.getD StreamReg.off) with pushed := (c.strm[streamIx d]?.getD StreamReg.off).pushed ++ [v] })
      ∧ (∀ r, r ≠ d → t.me.get r = c.get r)
      ∧ t.me.sticky = c.sticky ||| (flags &&& 0x3F) ∧ t.me.pc = c.pc + 4 ∧ t.me.k = c.k ∧ t.me.sup = c.sup ∧ t.me.tact = c.tact
      ∧ t.me.cause = c.cause ∧ t.me.epc = c.epc ∧ t.me.faddr = c.faddr ∧ t.me.srstate = c.srstate ∧ t.me.tvec = c.tvec
      ∧ (∀ site n, (site, n) ≠ s.cur → t.ctx site n = s.ctx site n)
      ∧ t.mem = s.mem ∧ t.routers = s.routers ∧ t.rims = s.rims ∧ t.parts = s.parts ∧ t.bands = s.bands ∧ t.module = s.module

/-- FADD, FSUB, FMUL, FDIV, FSQRT, FMA, FMS and FCVT complete whenever they issue and, for stochastic rounding, no earlier draw
is outstanding: x[d] is the zero-extended encoding of the exact result of the decoded, flushed operands, the sticky bits of the
encoding and of an invalid operation are ORed in, and sys.srstate steps once exactly when the rounding code is 100. -/
def Obligations.FloatingArithmeticRoundsOnce : Prop :=
  ∀ (d a b : Reg) (rnd : Rnd) (ftz : Bool),
    let v := fun (l : List Word) (k : Nat) => if ftz then flushVal (f32Val (l.getD k 0).toNat) else f32Val (l.getD k 0).toNat
    let down := rnd == .rd
    FpWrites (.fadd d a b rnd ftz) [a, b] d false .f32 rnd false ftz (fun l => addVal down (v l 0) (v l 1))
      ∧ FpWrites (.fsub d a b rnd ftz) [a, b] d false .f32 rnd false ftz (fun l => addVal down (v l 0) (negVal (v l 1)))
      ∧ FpWrites (.fmul d a b rnd ftz) [a, b] d false .f32 rnd false ftz (fun l => mulVal (v l 0) (v l 1))
      ∧ FpWrites (.fdiv d a b rnd ftz) [a, b] d false .f32 rnd false ftz (fun l => divVal (v l 0) (v l 1))
      ∧ FpWrites (.fsqrt d a rnd ftz) [a] d false .f32 rnd false ftz (fun l => sqrtVal (v l 0))
      ∧ FpWrites (.fma d a b rnd ftz) [a, b, d] d true .f32 rnd false ftz (fun l => fmaVal down (v l 0) (v l 1) (v l 2))
      ∧ FpWrites (.fms d a b rnd ftz) [a, b, d] d true .f32 rnd false ftz (fun l => fmaVal down (v l 0) (v l 1) (negVal (v l 2)))
      ∧ ∀ (dt st : DType) (sat : Bool), FpWrites (.fcvt d a dt st rnd sat ftz) [a] d false dt rnd sat ftz fun l =>
          ⟨if ftz && (floatFmt st).isSome then flushVal (decodeElem st (l.getD 0 0).toNat) else decodeElem st (l.getD 0 0).toNat, false⟩

/-- FMIN, FMAX, FABS, FNEG, FSGNJ, FEQ, FLT, FLE and FCLASS complete whenever they issue and set no sticky bit. On the patterns of
their operands, flushed when ftz is set: a NaN operand gives 0x7FC0_0000 or the comparison 0; otherwise the smaller or larger
pattern by sign and magnitude with −0 below +0, a pattern whose sign bit alone changes, or the comparison of the signed magnitudes,
zeros equal; FCLASS gives class, sign, exponent and leading zeros by its table. -/
def Obligations.SelectionsAndComparisonsReadPatterns : Prop :=
  let nan := fun (x : Nat) => decide (0x7F800000 < x % 2 ^ 31)
  let low := fun (ftz : Bool) (w : Word) => if ftz && decide (w.toNat % 2 ^ 31 < 2 ^ 23) then w.toNat % 2 ^ 32 / 2 ^ 31 * 2 ^ 31 else w.toNat % 2 ^ 32
  let key := fun (x : Nat) => if x < 2 ^ 31 then (x : Int) else -((x - 2 ^ 31 : Nat) : Int) - 1
  let mag := fun (x : Nat) => if x < 2 ^ 31 then (x : Int) else -((x - 2 ^ 31 : Nat) : Int)
  let canon := fun (b : Bool) (r : Nat) => if b then (0x7FC00000 : Word) else BitVec.ofNat 64 r
  (∀ ftz, Writes2 (fun d a b => .fmin d a b ftz) fun x y =>
      canon (nan (low ftz x) || nan (low ftz y)) (if key (low ftz y) < key (low ftz x) then low ftz y else low ftz x))
    ∧ (∀ ftz, Writes2 (fun d a b => .fmax d a b ftz) fun x y =>
      canon (nan (low ftz x) || nan (low ftz y)) (if key (low ftz x) < key (low ftz y) then low ftz y else low ftz x))
    ∧ Writes1 .fabs (fun x => canon (nan (low false x)) (low false x % 2 ^ 31))
    ∧ Writes1 .fneg (fun x => canon (nan (low false x)) ((low false x + 2 ^ 31) % 2 ^ 32))
    ∧ Writes2 .fsgnj (fun x y => canon (nan (low false x) || nan (low false y)) (low false x % 2 ^ 31 + low false y / 2 ^ 31 * 2 ^ 31))
    ∧ (∀ ftz, Writes2 (fun d a b => .feq d a b ftz) fun x y =>
      if !nan (low ftz x) && !nan (low ftz y) && decide (mag (low ftz x) = mag (low ftz y)) then 1 else 0)
    ∧ (∀ ftz, Writes2 (fun d a b => .flt d a b ftz) fun x y =>
      if !nan (low ftz x) && !nan (low ftz y) && decide (mag (low ftz x) < mag (low ftz y)) then 1 else 0)
    ∧ (∀ ftz, Writes2 (fun d a b => .fle d a b ftz) fun x y =>
      if !nan (low ftz x) && !nan (low ftz y) && decide (mag (low ftz x) ≤ mag (low ftz y)) then 1 else 0)
    ∧ Writes1 .fclass fun x =>
      let e := x.toNat / 2 ^ 23 % 256
      let f := x.toNat % 2 ^ 23
      let n := x.toNat / 2 ^ 31 % 2
      BitVec.ofNat 64 (if e = 0 then (if f = 0 then 8 * n else 1 + 8 * n + 65536 * (22 - f.log2))
        else if e < 255 then 2 + 8 * n + 256 * e else if f = 0 then 3 + 8 * n else 4 + 8 * n)

/-- For an exact value of m·2^e in units of the quantum 2^q, num/den of a quantum: an integer number of quanta is itself and is not
inexact; any other value is inexact, and is rounded to its floor lo or to lo + 1: to the nearer, a tie to the even one (000); to lo
(001); up for a positive value (010); up for a negative one (011); up when the draw's upper half is below the floor of the fraction
times 2^32 (100). -/
def Obligations.RoundingFollowsItsCode : Prop :=
  ∀ (m : Nat) (e q : Int) (rnd : Rnd) (neg : Bool) (draw : Word),
    let den := 2 ^ (q - e).toNat
    let num := m * 2 ^ (e - q).toNat
    let r := roundQ m e q false rnd neg draw
    let lo := num / den
    let fr := num - lo * den
    r.2 = decide (fr ≠ 0) ∧ (fr = 0 → r.1 = lo) ∧ (fr ≠ 0 → (r.1 = lo + 1 ∨ r.1 = lo) ∧ (r.1 = lo + 1 ↔
      match rnd with
      | .rne => den < 2 * fr ∨ (den = 2 * fr ∧ lo % 2 = 1)
      | .rz => False
      | .ru => neg = false
      | .rd => neg = true
      | .rs => draw.toNat / 2 ^ 32 < fr * 2 ^ 32 / den))

/-- The sources of a word give one value per field, and change nothing of the context but stream data and positions. Registers out
of read-stream mode give x[r], and issue only with their scoreboard bits clear. A read-stream register gives the element that has
landed and advances its position by one; past the end it gives 0 and does not advance; before its next element has come it gives
none. A register named twice gives two elements in field order. -/
def Obligations.OperandsAreRegistersOrStreamElements : Prop :=
  (∀ (c e : Ctx) (srcs : List Reg) (vs : List Word), c.sources srcs = some (vs, e) →
      vs.length = srcs.length ∧ e = { c with strm := e.strm, spos := e.spos }
        ∧ ((∀ r ∈ srcs, c.mode r ≠ .read) → e = c ∧ vs = srcs.map c.get ∧ ∀ r ∈ srcs, c.sb &&& regBit r = 0))
    ∧ (∀ (c : Ctx) (r : Reg) (v : Word) (t : List Word), c.mode r = .read →
        ((c.strm[streamIx r]?.getD StreamReg.off).landed = v :: t → ∃ e, c.source r = some (v, e)
          ∧ (e.strm[streamIx r]?.getD StreamReg.off).landed = t
          ∧ e.spos[streamIx r]?.getD 0 = c.spos[streamIx r]?.getD 0 + 1
          ∧ ∀ k, k ≠ streamIx r → e.strm[k]? = c.strm[k]? ∧ e.spos[k]? = c.spos[k]?)
        ∧ ((c.strm[streamIx r]?.getD StreamReg.off).landed = [] → (c.strm[streamIx r]?.getD StreamReg.off).left = 0 →
            c.source r = some (0, c))
        ∧ ((c.strm[streamIx r]?.getD StreamReg.off).landed = [] → (c.strm[streamIx r]?.getD StreamReg.off).left ≠ 0 →
            c.source r = none))
    ∧ ∀ (c : Ctx) (r : Reg) (v w : Word) (t : List Word), c.mode r = .read →
        (c.strm[streamIx r]?.getD StreamReg.off).landed = v :: w :: t → ∃ e, c.sources [r, r] = some ([v, w], e)

/-- In a running context, a word whose HINTs do not suit it, that names a write stream as a source, a read stream as a destination,
or a stream as a destination of a form that takes none, traps ILLEGAL; else a privileged form in user mode traps PRIV, but on a supervisor
core, whose contexts all run with sup = 1, a privileged form issues as any other; else a pair
form with a destination other than x0 among its sources traps OVERLAP. The trap is taken with sys.faddr 0 from the state as it
stood. Stated of the shared issue, and of SYSWR and ERET in user mode, MULX with an overlap, and BINS into a stream. -/
def Obligations.DecodeChecksTrapInOrder : Prop :=
  (∀ (s : State) (u : HintUse) (srcs dests : List Reg) (plain priv pair : Bool) (k : Issued → Out), s.me.occ = .running →
    let bad := ¬(hintsFit u s.me.hints = true ∧ (∀ r ∈ srcs, s.me.mode r ≠ .write)
      ∧ ∀ r ∈ dests, s.me.mode r ≠ .read ∧ (plain = true → s.me.mode r ≠ .write))
    let clash := pair = true ∧ ∃ d ∈ dests, d ≠ 0 ∧ d ∈ srcs
    (bad → issueWord s u srcs dests plain priv pair k = .next (s.trap 0x01 0))
      ∧ (¬bad → priv = true → s.me.sup = false → s.supSite s.cur.1 = false →
          issueWord s u srcs dests plain priv pair k = .next (s.trap 0x0D 0))
      ∧ (s.supSite s.cur.1 = true → issueWord s u srcs dests plain priv pair k = issueWord s u srcs dests plain false pair k)
      ∧ (¬bad → (priv = true → s.me.sup = true) → clash → issueWord s u srcs dests plain priv pair k = .next (s.trap 0x02 0)))
    ∧ (∀ (s : State), s.me.occ = .running → s.me.hints = none → s.me.sup = false → s.supSite s.cur.1 = false →
        exec .eret s = .next (s.trap 0x0D 0))
    ∧ (∀ (s : State) (num : BitVec 8) (a : Reg), s.me.occ = .running → s.me.hints = none → s.me.sup = false →
        s.supSite s.cur.1 = false → s.me.mode a ≠ .write →
        num ∈ [0x08, 0x09, 0x0A, 0x0B, 0x0E] → exec (.syswr num a) s = .next (s.trap 0x0D 0))
    ∧ (∀ (s : State) (d a b : Reg), s.me.occ = .running → s.me.hints = none → (∀ r, s.me.mode r = .off) →
        ((d ≠ 0 ∧ (d = a ∨ d = b)) ∨ (d + 1 ≠ 0 ∧ (d + 1 = a ∨ d + 1 = b))) → exec (.mulx d a b) s = .next (s.trap 0x02 0))
    ∧ ∀ (s : State) (d a b : Reg), s.me.occ = .running → s.me.hints = none → s.me.mode d ≠ .off →
        exec (.bins d a b) s = .next (s.trap 0x01 0)

/-- BEQ, BNE, BLT, BGE, BLTU and BGEU complete whenever they issue: the pc becomes pc + 4·sext(off16) modulo 2^56 when the
condition holds and pc + 4 when it does not; the word group ends, with what the context noted for it; no register and nothing else changes. -/
def Obligations.BranchesSetTheNextPc : Prop :=
  ∀ (a b : Reg) (off : BitVec 16) (s : State) (x y : Word) (c : Ctx), Issues s brHints [a, b] [] false false false [x, y] c →
    let go := fun (p : Bool) => (.next (s.setMe { c with
      pc := if p then BitVec.ofInt 56 (c.pc.toNat + 4 * off.toInt) else c.pc + 4, hints := none, stall := none, fetched := [],
      hold := .none }) : Out)
    exec (.beq a b off) s = go (decide (x = y)) ∧ exec (.bne a b off) s = go (decide (x ≠ y))
      ∧ exec (.blt a b off) s = go (decide (x.toInt < y.toInt)) ∧ exec (.bge a b off) s = go (decide (y.toInt ≤ x.toInt))
      ∧ exec (.bltu a b off) s = go (decide (x.toNat < y.toNat)) ∧ exec (.bgeu a b off) s = go (decide (y.toNat ≤ x.toNat))

/-- JAL completes whenever it issues, in a context below 8: pc becomes pc + 4·sext(off21) modulo 2^56; x[d] takes the link pc + 4 (x0
keeps reading 0; a write stream takes it at its tail); every other register, the sticky bits and memory keep their values. -/
def Obligations.JalLinksAndJumps : Prop :=
  ∀ (d : Reg) (off : BitVec 21) (s : State) (c : Ctx), s.cur.2 < 8 → Issues s noHints [] [d] false false false [] c →
    answers (exec (.jal d off) s) fun t =>
      t.me.pc = BitVec.ofInt 56 (s.me.pc.toNat + 4 * off.toInt)
        ∧ (s.me.mode d ≠ .write → d ≠ 0 → t.me.get d = BitVec.ofNat 64 ((s.me.pc + 4).toNat)) ∧ t.me.get 0 = 0
        ∧ (s.me.mode d = .write → (t.me.strm[streamIx d]?.getD StreamReg.off).pushed
            = (s.me.strm[streamIx d]?.getD StreamReg.off).pushed ++ [BitVec.ofNat 64 ((s.me.pc + 4).toNat)] ∧ t.me.get d = s.me.get d)
        ∧ (∀ r, r ≠ d → t.me.get r = s.me.get r) ∧ t.me.sticky = s.me.sticky ∧ t.me.sup = s.me.sup ∧ t.me.hints = none
        ∧ memSame s t ∧ t.module = s.module ∧ t.parts = s.parts ∧ ∀ site n, (site, n) ≠ s.cur → t.ctx site n = s.ctx site n

/-- JALR forms its target from the value of x[a] before the instruction, also when d = a, and the immediate of R153, modulo 2^56.
A target that is not a multiple of 4 traps MISALIGN with that target, from the state as it stood. Otherwise it completes: the pc is
the target, x[d] the link pc + 4 or its stream takes it, and every other register, sticky bits and memory keep their values. -/
def Obligations.JalrLinksAndJumpsOrTraps : Prop :=
  ∀ (d a : Reg) (imm : BitVec 16) (s : State) (x : Word) (c : Ctx), s.cur.2 < 8 → Issues s immHints [a] [d] false false false [x] c →
    let target : Addr := BitVec.ofNat 56 (x + c.imm16 imm).toNat
    (target.toNat % 4 ≠ 0 → exec (.jalr d a imm) s = .next (s.trap 0x03 target))
      ∧ (target.toNat % 4 = 0 → answers (exec (.jalr d a imm) s) fun t =>
        t.me.pc = target ∧ t.me.get 0 = 0
          ∧ (c.mode d ≠ .write → d ≠ 0 → t.me.get d = BitVec.ofNat 64 ((c.pc + 4).toNat))
          ∧ (c.mode d = .write → (t.me.strm[streamIx d]?.getD StreamReg.off).pushed
              = (c.strm[streamIx d]?.getD StreamReg.off).pushed ++ [BitVec.ofNat 64 ((c.pc + 4).toNat)] ∧ t.me.get d = c.get d)
          ∧ (∀ r, r ≠ d → t.me.get r = c.get r) ∧ t.me.sticky = c.sticky ∧ t.me.sup = c.sup ∧ t.me.hints = none
          ∧ memSame s t ∧ t.module = s.module ∧ t.parts = s.parts ∧ ∀ site n, (site, n) ≠ s.cur → t.ctx site n = s.ctx site n)

/-- Taking a trap in a context below 8 of any core. With tact = 0: psup takes sup, tact and sup become 1, sys.cause, sys.faddr and
sys.fstep take the trap's values, sys.epc the address of the word group's first word, pc sys.tvec; scalar words already issued have
completed. With tact = 1 the handler is not entered: the context stands at the end of its fault domain with nested 1, the second trap's
cause and the entry's epc and faddr (the cause is the model's choice, log entry 70), and that end is due. Either way x0 to x31, stream modes and positions, the four counters, sys.sticky, sys.srstate, sys.tvec, every other context
and memory keep their values. -/
def Obligations.TrapEntrySavesAndEnters : Prop :=
  ∀ (s : State) (site n : Nat) (cause : BitVec 5) (faddr : Addr) (fstep : BitVec 32), n < 8 →
    let c := s.ctx site n
    let t := s.trapAt site n cause faddr fstep
    let d := t.ctx site n
    let epc := match c.hints with
      | some g => g.start
      | none => c.pc
    (c.tact = false → d.psup = c.sup ∧ d.tact = true ∧ d.sup = true ∧ d.cause = cause ∧ d.epc = epc ∧ d.faddr = faddr
        ∧ d.fstep = fstep ∧ d.pc = c.tvec ∧ d.hints = none ∧ t.pending = s.pending)
      ∧ (c.tact = false → d.tepc = epc ∧ d.tfaddr = faddr ∧ d.ttime = s.timeAt site)
      ∧ (c.tact = true → d.hold = .suspending (.ending true cause c.tepc c.tfaddr c.fstep) ∧ d.pc = c.pc ∧ d.sup = c.sup ∧ d.tact = true
        ∧ d.epc = c.epc ∧ d.cause = c.cause ∧ t.pending = s.pending ++ [.ev (.suspensionPoint site n)])
      ∧ d.due = [] ∧ d.sb = c.due.foldl (fun sb m => sb &&& ~~~m) c.sb
      ∧ (∀ r, d.get r = c.get r) ∧ d.smode = c.smode ∧ d.spos = c.spos ∧ d.strm = c.strm
      ∧ d.ld = c.ld ∧ d.st = c.st ∧ d.cp = c.cp ∧ d.tl = c.tl ∧ d.sticky = c.sticky ∧ d.srstate = c.srstate ∧ d.tvec = c.tvec
      ∧ d.k = c.k ∧ d.task = c.task ∧ d.region = c.region ∧ d.vintage = c.vintage
      ∧ (∀ site' n', (site', n') ≠ (site, n) → t.ctx site' n' = s.ctx site' n')
      ∧ t.mem = s.mem ∧ t.routers = s.routers ∧ t.rims = s.rims ∧ t.parts = s.parts ∧ t.bands = s.bands ∧ t.module = s.module

/-- TRAP takes the trap TRAP with zext(imm16). ERET in supervisor mode traps ILLEGAL with tact = 0; with tact = 1 sup takes psup, tact
becomes 0 and the pc sys.epc (a stopped tile command whose fault was raised starts again; with none, nothing else changes). A HINT
word joins its word group and advances the pc, or traps ILLEGAL when its kind is already there. A word that is no instruction traps
ILLEGAL. A fetch fault traps XLATE or PROT with the address fetched, and at sys.tvec ends the fault domain with nested 1. -/
def Obligations.SystemWordsTrapReturnAndHint : Prop :=
  (∀ (s : State) (imm : BitVec 16) (c : Ctx), Issues s noHints [] [] true false false [] c →
      exec (.trap imm) s = .next (s.trap 0x0E (BitVec.ofNat 56 imm.toNat)))
    ∧ (∀ (s : State) (c : Ctx), Issues s noHints [] [] true true false [] c →
        (c.tact = false → exec .eret s = .next (s.trap 0x01 0))
          ∧ (c.tact = true →
              let r := s.setMe { c with sup := c.psup, tact := false, pc := c.epc, hints := none, hold := .none, stall := none,
                                        fetched := [], window := [] }
              exec .eret s = .next (r.resumeTile s.cur.1 s.cur.2)
                ∧ ((r.core s.cur.1).tileStuck s.cur.2 = false → exec .eret s = .next r)))
    ∧ (∀ (s : State) (g : HintGroup), s.me.occ = .running → s.me.hints.getD ⟨s.me.pc, none, none, none⟩ = g →
        let go := fun (h : HintGroup) => (.next (s.setMe { s.me with hints := some h, pc := s.me.pc + 4 }) : Out)
        (∀ p, exec (.hintImm p) s = if g.imm.isSome then .next (s.trap 0x01 0) else go { g with imm := some p })
          ∧ (∀ nt br, exec (.hintSched nt br) s = if g.sched.isSome then .next (s.trap 0x01 0) else go { g with sched := some (nt, br) })
          ∧ ∀ pv p f, exec (.hintMod pv p f) s = if g.mod.isSome then .next (s.trap 0x01 0) else go { g with mod := some (pv, p, f) })
    ∧ (∀ (s : State), s.me.occ = .running → exec .illegalEncoding s = .next (s.trap 0x01 0))
    ∧ ∀ (s : State) (f : FetchCause), s.me.occ = .running →
        let code : BitVec 5 := match f with
          | .xlate => 0x04
          | .prot => 0x05
        (s.me.pc ≠ s.me.tvec → exec (.instructionFetchFault f) s = .next (s.trap code s.me.pc))
          ∧ (s.me.pc = s.me.tvec → s.cur.2 < 8 → answers (exec (.instructionFetchFault f) s) fun t =>
              (∃ epc faddr fstep, t.me.hold = .suspending (.ending true code epc faddr fstep))
                ∧ t.pending = s.pending ++ [.ev (.suspensionPoint s.cur.1 s.cur.2)])

/-- SYSRD of each of the 21 registers completes whenever it issues and no earlier draw or sticky bit that it must wait for is
outstanding: x[d] takes the register's value, zero-extended; a read of the two time registers is logged as well; no sticky bit
and no other register changes (by the frame of a scalar result). -/
def Obligations.SysrdWritesTheRegister : Prop :=
  ∀ (s : State) (num : BitVec 8) (d : Reg) (c : Ctx), Issues s noHints [] [d] true false false [] c → num.toNat ≤ 0x14 →
    (num = 0x07 → c.due = []) → (num = 0x07 ∨ num = 0x0C → drawsBusy s = false) →
    let site := s.cur.1
    let ns := s.bandNs (site % 120 / 10)
    let obj := match s.declared site c c.syncreg.toNat with
      | some r => ((s.core site).objectOf c.vintage c.syncreg.toNat r).toNat
      | none => 0
    let v := BitVec.ofNat 64 ([(s.lcnOf site).getD 0, site, site % 120 / 10, s.cur.2, c.vintage.toNat,
      ns / 1000000000 % 2 ^ 32 * 2 ^ 32 + ns % 1000000000, ns / 1000000000 / 2 ^ 32 % 2 ^ 16, c.sticky.toNat, c.cause.toNat,
      c.epc.toNat, c.faddr.toNat, c.fstep.toNat, c.srstate.toNat, (if c.sup ∨ s.supSite site then 1 else 0) + 2 * c.prio.toNat, c.tvec.toNat,
      c.task.toNat, c.region.toNat, ((s.partAt site).map (·.lead)).getD 0, s.ncores site, c.syncreg.toNat, obj].getD num.toNat 0)
    let t := finishScalar s c d v 0
    exec (.sysrd num d) s = .next (if num = 0x05 ∨ num = 0x06 then t.logEv site 9 s.cur.2 v 0 0xFFFF 0 [] else t)

/-- SYSWR of each writable register completes whenever it issues (sys.sticky and sys.srstate when no earlier effect on them is
outstanding): sys.sticky loses the bits written with 1 among its six, sys.srstate takes the default for 0, the others take the low
bits of x[a]; only that register, the pc and the popped streams change. sys.epc and sys.tvec fault MISALIGN on a value that is not a
multiple of 4, sys.syncobj on one not of 8, and UNDECLARED when sys.syncreg names no region; else it binds the region. -/
def Obligations.SyswrWritesTheRegister : Prop :=
  ∀ (s : State) (a : Reg) (x : Word) (c : Ctx) (num : BitVec 8), Issues s noHints [a] [] true (supSys num.toNat) false [x] c →
    let addr : Addr := BitVec.ofNat 56 x.toNat
    let go := fun (e : Ctx) => (.next (s.setMe e.advance) : Out)
    (num = 0x07 → c.due = [] → s.me.due = [] → drawsBusy s = false → exec (.syswr num a) s = go { c with sticky := c.sticky &&& ~~~(x &&& 0x3F) })
      ∧ (num = 0x08 → exec (.syswr num a) s = go { c with cause := BitVec.ofNat 5 x.toNat })
      ∧ (num = 0x09 → exec (.syswr num a) s = if addr.toNat % 4 = 0 then go { c with epc := addr } else .next (s.trap 0x03 addr))
      ∧ (num = 0x0A → exec (.syswr num a) s = go { c with faddr := addr })
      ∧ (num = 0x0B → exec (.syswr num a) s = go { c with fstep := BitVec.ofNat 32 x.toNat &&& 0xC000FFFF })
      ∧ (num = 0x0C → drawsBusy s = false → exec (.syswr num a) s = go { c with srstate := if x = 0 then 0x9E3779B97F4A7C15 else x })
      ∧ (num = 0x0E → exec (.syswr num a) s = if addr.toNat % 4 = 0 then go { c with tvec := addr } else .next (s.trap 0x03 addr))
      ∧ (num = 0x13 → exec (.syswr num a) s = go { c with syncreg := BitVec.ofNat 8 x.toNat })
      ∧ (num = 0x14 → exec (.syswr num a) s =
          if addr.toNat % 8 ≠ 0 then .next (s.trap 0x03 addr)
          else match s.declared s.cur.1 c c.syncreg.toNat with
            | none => .next (s.trap 0x08 addr)
            | some r => .next ((s.setMe c.advance).updCore s.cur.1 fun k =>
              let k1 := { k with sync := (k.sync.filter fun b =>
                !(b.vint == c.vintage && b.region == c.syncreg.toNat)) ++ [⟨c.vintage, c.syncreg.toNat, addr⟩] }
              if r.intent = 3 then k1.dropLines c.vintage [r] else k1))

/-- LD at ea = x[a] + the immediate, modulo 2^56; a remote address of the own LCN counts as the local one. With ld at 63 the word does
not issue. A misaligned ea, and an 8-bit load through one of windows 1 to 7 of any core, trap MISALIGN. A private-window load, and a window load that the buffer holding its bytes admits, complete with the extended bytes in x[d]
whenever no unfinished copy or engine command holds the access back; a window load outside every buffer or reserved traps PROT, in a
state that admits no load BUFSTATE. Another core's window, and global bytes neither queued nor of a region that is cached, are asked of
their home: the load counts in ld, x[d] waits, and the request is sent. Queued bytes of the own context and the bytes of a cached line
are delivered, logged when their region is rw. -/
def Obligations.LoadsDeliverTheirBytes : Prop :=
  ∀ (d a : Reg) (sz : LdSize) (imm : BitVec 13) (s : State) (x : Word) (c : Ctx), Issues s memHints [a] [d] true false false [x] c →
    let ea : Addr := BitVec.ofNat 56 (x + c.imm13 imm).toNat
    let size := 2 ^ (sz.code % 4)
    let ext := fun (l : List Byte) =>
      if sz.code < 3 then BitVec.ofInt 64 ((BitVec.ofNat (8 * size) (leNat l)).toInt) else BitVec.ofNat 64 (leNat l)
    let site := s.cur.1
    let n := s.cur.2
    let va := ownLocal (s.lcn site) ea
    let free := Passes s (rangeOf (s.lcn site) n va size) false
    let got := fun (l : List Byte) => (.next (finishScalar s (c.noteOp .ld) d (ext l) 0) : Out)
    (63 ≤ c.ld → exec (.ld d a sz imm) s = .next s)
      ∧ (c.ld < 63 → ea.toNat % size ≠ 0 → exec (.ld d a sz imm) s = .next (s.trap 0x03 ea))
      ∧ (∀ w o, c.ld < 63 → size = 1 → w ≠ 0 → (spaceOf va = .loc ∧ placeOfLocal va.toNat = .win w o
          ∨ spaceOf va = .remote ∧ placeOfLocal (remoteLocal va) = .win w o) → exec (.ld d a sz imm) s = .next (s.trap 0x03 ea))
      ∧ (c.ld < 63 → ea.toNat % size = 0 →
        (0x8000000 ≤ va.toNat → va.toNat < 0x8004000 → free → exec (.ld d a sz imm) s
            = got (memRead s.mem (scrAddr site (0x2E0000 + 0x4000 * n + (va.toNat - 0x8000000))) size))
          ∧ (∀ w o, placeOfLocal va.toNat = .win w o → spaceOf va = .loc → (w = 0 ∨ 1 < size) → free → exec (.ld d a sz imm) s
            = match s.readWindow site c.vintage (.load n) w o size false with
              | .ok l => got l
              | .error cause => .next (s.trap cause ea))
          ∧ (∀ o, spaceOf va = .remote → remoteLcn va < s.ncores site → placeOfLocal (remoteLocal va) = .win 0 o → free →
            s.coreCanSend site (remoteLcn va) = true → exec (.ld d a sz imm) s
              = .next ((s.setMe ((c.startOp .ld ea false false (.load d size (decide (sz.code < 3)) none)).await d).advance).sendFromCore
                  site (remoteLcn va) n c.issued d.toNat c.vintage (.load (.core (va.toNat % 2 ^ 32)) size false false)))
          ∧ ∀ ppa idx r, (spaceOf va = .global ∨ spaceOf va = .committed) →
            s.checkGlobal site c.vintage c.region va size .load = .ok ppa idx r → free →
            (∀ l, spaceOf va = .global → s.myCore.forward n ppa size = .bytes l → l.length = size → exec (.ld d a sz imm) s = got l)
              ∧ (∀ p, s.partAt site = some p → (spaceOf va = .global → s.myCore.forward n ppa size = .none) →
                  s.cacheable site c.vintage va idx r = false → s.coreCanSend site (p.slotEp ppa) = true →
                  exec (.ld d a sz imm) s = .next ((s.setMe ((c.startOp .ld va true false
                    (.load d size (decide (sz.code < 3)) none)).await d).advance).sendFromCore site (p.slotEp ppa) n c.issued d.toNat
                      c.vintage (.load (.rim ppa) size (spaceOf va == .committed) false)))
              ∧ ∀ p l, s.partAt site = some p → (spaceOf va = .global → s.myCore.forward n ppa size = .none) →
                  s.cacheable site c.vintage va idx r = true → s.isReduction p c.vintage ppa size = false →
                  s.myCore.cachedLine c.vintage (spaceOf va == .committed) (ppa / 64 * 64) = some l → ppa % 64 + size ≤ l.data.length →
                  let v := ext ((l.data.drop (ppa % 64)).take size)
                  let t := finishScalar s (c.noteOp .ld) d v 0
                  exec (.ld d a sz imm) s = .next (if r.intent = 3 then t.logEv site 7 n v va 0xFFFF 0 [] else t))

/-- ST at ea = x[a] + the immediate, the memory in its canonical form, which it keeps. With st at 63 the word does not issue. A misaligned ea traps MISALIGN. A store to the private window, or by its owner to a filling
buffer, completes when nothing holds it back: exactly the size bytes at the scratchpad offset of ea take the low bytes of x[d], every
other byte of memory, every register, the sticky bits and the counters keep their values. An owner's store in another state traps
BUFSTATE, one outside every buffer or to a decoding or parameter window PROT. A store to another context's buffer is delivered and one
to another core sent, and one to a global region enters the write queue, each counted in st. -/
def Obligations.StoresWriteTheirBytes : Prop :=
  ∀ (d a : Reg) (sz : StSize) (imm : BitVec 13) (s : State) (x v : Word) (c : Ctx),
    Issues s memHints [a, d] [] true false false [x, v] c → s.cur.2 < 8 → Memory.wf s.mem = true →
    let ea : Addr := BitVec.ofNat 56 (x + c.imm13 imm).toNat
    let size := 2 ^ sz.code
    let data := leBytes size v.toNat
    let site := s.cur.1
    let n := s.cur.2
    let va := ownLocal (s.lcn site) ea
    let free := Passes s (rangeOf (s.lcn site) n va size) true
    let stored := fun (off : Nat) => answers (exec (.st d a sz imm) s) fun t =>
      (∀ k, k < size → memGet t.mem (scrAddr site (off + k)) = BitVec.ofNat 8 (v.toNat / 256 ^ k))
        ∧ (∀ m, (m < scrAddr site off ∨ scrAddr site off + size ≤ m) → memGet t.mem m = memGet s.mem m) ∧ Memory.wf t.mem = true
        ∧ t.me.pc = c.pc + 4 ∧ (∀ r, t.me.get r = c.get r) ∧ t.me.sticky = c.sticky ∧ t.me.st = c.st ∧ t.me.ld = c.ld
        ∧ t.parts = s.parts ∧ t.rims = s.rims ∧ t.routers = s.routers ∧ t.module = s.module
    (63 ≤ c.st → exec (.st d a sz imm) s = .next s)
      ∧ (c.st < 63 → ea.toNat % size ≠ 0 → exec (.st d a sz imm) s = .next (s.trap 0x03 ea))
      ∧ (c.st < 63 → ea.toNat % size = 0 →
        (0x8000000 ≤ va.toNat → va.toNat < 0x8004000 → free → stored (0x2E0000 + 0x4000 * n + (va.toNat - 0x8000000)))
          ∧ (0x10000000 ≤ va.toNat → va.toNat < 0x11000000 → free → ∀ i b, s.myCore.bufAt c.vintage (va.toNat - 0x10000000) size = some (i, b) →
              (b.owner = n → b.held = none → b.state = .filling → stored (va.toNat - 0x10000000))
                ∧ (b.owner = n → b.held = none → b.state ≠ .filling → exec (.st d a sz imm) s = .next (s.trap 0x07 ea))
                ∧ (b.owner ≠ n ∨ b.held ≠ none → exec (.st d a sz imm) s = .next ((s.setMe (c.startOp .st ea false true .store).advance).arriveWrite
                    site c.vintage (.local n c.issued) (.store (va.toNat - 0x10000000) data) false)))
          ∧ (0x10000000 ≤ va.toNat → va.toNat < 0x11000000 → free → s.myCore.bufAt c.vintage (va.toNat - 0x10000000) size = none →
              exec (.st d a sz imm) s = .next (s.trap 0x05 ea))
          ∧ ((0x11000000 ≤ va.toNat ∧ va.toNat < 0x17000000 ∨ 0x18000000 ≤ va.toNat ∧ va.toNat < 0x20000000
              ∨ 0x9000000 ≤ va.toNat ∧ va.toNat < 0x9080000) → exec (.st d a sz imm) s = .next (s.trap 0x05 ea))
          ∧ (∀ o, spaceOf va = .remote → remoteLcn va < s.ncores site → placeOfLocal (remoteLocal va) = .win 0 o → free →
              s.coreCanSend site (remoteLcn va) = true → exec (.st d a sz imm) s
                = .next ((s.setMe (c.startOp .st ea false true .store).advance).sendFromCore site (remoteLcn va) n c.issued 0 c.vintage
                    (.store (.core o) data (2 ^ size - 1))))
          ∧ ∀ ppa idx r q, spaceOf va = .global → s.checkGlobal site c.vintage c.region va size .store = .ok ppa idx r → free →
              s.myCore.enqueue n c.vintage c.issued ppa data = some q →
              exec (.st d a sz imm) s
                = .next (((s.setMyCore q).setMe (c.startOp .st ea true true .store).advance).due (.writeQueueDrain site n)))

/-- LDP at the offset o = x[a] + disp·size, modulo 2^64. With ld at 63 the word does not issue. An offset that is not a multiple of the size traps MISALIGN at the window's
base + o modulo 2^16; then an unbound window traps PARAM_UNBOUND at its base; then, with no acquire on its way, an offset at or above
the bound completes with x[d] = 0 and the PWOOB bit set; below it, a cached line's bytes are delivered extended, and a line that is
not cached is asked whole of its home, counted in ld. -/
def Obligations.ParameterLoadsAreBounded : Prop :=
  ∀ (d a : Reg) (sz : LdSize) (pw : BitVec 3) (disp : BitVec 10) (s : State) (x : Word) (c : Ctx),
    Issues s noHints [a] [d] true false false [x] c →
    let size := 2 ^ (sz.code % 4)
    let o := (x.toNat + disp.toNat * size) % 2 ^ 64
    let base : Addr := BitVec.ofNat 56 (0x9000000 + 0x10000 * pw.toNat)
    let faddr := base + BitVec.ofNat 56 (o % 2 ^ 16)
    let ext := fun (l : List Byte) =>
      if sz.code < 3 then BitVec.ofInt 64 ((BitVec.ofNat (8 * size) (leNat l)).toInt) else BitVec.ofNat 64 (leNat l)
    let site := s.cur.1
    (63 ≤ c.ld → exec (.ldp d a sz pw disp) s = .next s)
      ∧ (c.ld < 63 → o % size ≠ 0 → exec (.ldp d a sz pw disp) s = .next (s.trap 0x03 faddr))
      ∧ (c.ld < 63 → o % size = 0 → c.acquiring = false →
        (s.paramOf site c.vintage c.region pw.toNat = none → exec (.ldp d a sz pw disp) s = .next (s.trap 0x06 base))
          ∧ ∀ at' bound, s.paramOf site c.vintage c.region pw.toNat = some (at', bound) →
            (bound ≤ o → exec (.ldp d a sz pw disp) s = .next (finishScalar s (c.noteOp .ld) d 0 stickyPwoob))
              ∧ (o < bound → ∀ m p, s.translate site c.vintage (pageOf (BitVec.ofNat 56 (at' + o))) = .hit m → s.partAt site = some p →
                let va : Addr := BitVec.ofNat 56 (at' + o)
                let ppa := m.ppa + va.toNat % 65536
                let com := spaceOf va == .committed
                (m.rd = false → exec (.ldp d a sz pw disp) s = .next (s.trap 0x05 faddr))
                  ∧ (m.rd = true → ∀ l, s.myCore.cachedLine c.vintage com (ppa / 64 * 64) = some l → ppa % 64 + size ≤ l.data.length →
                    exec (.ldp d a sz pw disp) s
                      = .next (finishScalar s (c.noteOp .ld) d (ext ((l.data.drop (ppa % 64)).take size)) 0))
                  ∧ (m.rd = true → s.myCore.cachedLine c.vintage com (ppa / 64 * 64) = none →
                    s.coreCanSend site (p.slotEp ppa) = true → exec (.ldp d a sz pw disp) s
                      = .next ((s.setMe ((c.startOp .ld va true false (.load d size (decide (sz.code < 3)) (some (ppa / 64 * 64)))).await d).advance).sendFromCore
                          site (p.slotEp ppa) s.cur.2 c.issued d.toNat c.vintage (.load (.rim ppa) size com true)))))

/-- AMO, CAS and RED at ea = x[a] modulo 2^56, in a memory in its canonical form, which they keep. With their counter at 63 they do not issue. A misaligned ea traps MISALIGN. In the private window, with no release to wait for, the
word at ea takes the new value of the operation (swap, sum, bit operations, minimum or maximum, or the FP32 sum; of CAS the value of
x[b] when the old value equals x[d]), and AMO and CAS give the old value, sign-extended but for FADD, MINU and MAXU, to x[d], with
the sticky bits of FADD; every other byte of memory keeps its value. The owner of a filling buffer does the same after its pending
deliveries; in another state it traps BUFSTATE. An atomic on a global rw word is sent to its home, counted in ld or st. -/
def Obligations.AtomicsReadAndWriteTheirWord : Prop :=
  ∀ (d a b : Reg) (aop : AOp) (sz : ASize) (ord : Ord) (scope : Scope) (s : State) (x y z : Word) (c : Ctx), s.cur.2 < 8 →
    Memory.wf s.mem = true →
    let ea : Addr := BitVec.ofNat 56 x.toNat
    let w := 32 * 2 ^ sz.code
    let site := s.cur.1
    let n := s.cur.2
    let va := ownLocal (s.lcn site) ea
    let free := Passes s (rangeOf (s.lcn site) n va (w / 8)) true
    let iAmo := Issues s noHints [a, b] [d] true false false [x, y] c
    let iCas := Issues s noHints [a, b, d] [d] true false false [x, y, z] c
    let iRed := Issues s noHints [a, b] [] true false false [x, y] c
    let ready := ord = .none ∨ ord = .acq ∨ (s.releaseReady site c ea scope = true ∧ c.oldestPosted (fun _ => true) = none)
    let off := 0x2E0000 + 0x4000 * n + (va.toNat - 0x8000000)
    let old := leNat (memRead s.mem (scrAddr site off) (w / 8))
    let ext := fun (zero : Bool) => if zero then BitVec.ofNat 64 old else (BitVec.ofNat w old).signExtend 64
    let wrote := fun (t : State) (new : Nat) =>
      memRead t.mem (scrAddr site off) (w / 8) = leBytes (w / 8) new ∧ Memory.wf t.mem = true
        ∧ ∀ m, (m < scrAddr site off ∨ scrAddr site off + w / 8 ≤ m) → memGet t.mem m = memGet s.mem m
    (63 ≤ c.ld → (iAmo → exec (.amo d a b aop sz ord scope) s = .next s) ∧ (iCas → exec (.cas d a b sz ord scope) s = .next s))
      ∧ (63 ≤ c.st → iRed → exec (.red a b aop sz ord scope) s = .next s)
      ∧ (c.ld < 63 → c.st < 63 → ea.toNat % (w / 8) ≠ 0 → (iAmo → exec (.amo d a b aop sz ord scope) s = .next (s.trap 0x03 ea))
        ∧ (iCas → exec (.cas d a b sz ord scope) s = .next (s.trap 0x03 ea))
        ∧ (iRed → exec (.red a b aop sz ord scope) s = .next (s.trap 0x03 ea)))
      ∧ (c.ld < 63 → c.st < 63 → ea.toNat % (w / 8) = 0 → ready → free → 0x8000000 ≤ va.toNat → va.toNat < 0x8004000 →
        let e := amoNew aop w old y
        (iAmo → answers (exec (.amo d a b aop sz ord scope) s) fun t => wrote t e.bits ∧ t.me.pc = c.pc + 4
            ∧ t.me.get d = (if d = 0 then 0 else ext (decide (aop = .fadd ∨ aop = .minu ∨ aop = .maxu)))
            ∧ (∀ r, r ≠ d → t.me.get r = c.get r) ∧ t.me.sticky = stickyOr c.sticky e.flags)
          ∧ (iCas → answers (exec (.cas d a b sz ord scope) s) fun t =>
            wrote t (if old = z.toNat % 2 ^ w then y.toNat % 2 ^ w else old) ∧ t.me.pc = c.pc + 4
              ∧ t.me.get d = (if d = 0 then 0 else ext false) ∧ (∀ r, r ≠ d → t.me.get r = c.get r) ∧ t.me.sticky = c.sticky)
          ∧ (iRed → answers (exec (.red a b aop sz ord scope) s) fun t => wrote t e.bits ∧ t.me.pc = c.pc + 4
            ∧ ∀ r, t.me.get r = c.get r))
      ∧ (c.ld < 63 → c.st < 63 → ea.toNat % (w / 8) = 0 → ready → free → 0x10000000 ≤ va.toNat → va.toNat < 0x11000000 → ∀ i q,
        s.myCore.bufAt c.vintage (va.toNat - 0x10000000) (w / 8) = some (i, q) → q.owner = n → q.held = none →
        (q.state ≠ .filling → (iAmo → exec (.amo d a b aop sz ord scope) s = .next (s.trap 0x07 ea))
            ∧ (iCas → exec (.cas d a b sz ord scope) s = .next (s.trap 0x07 ea))
            ∧ (iRed → exec (.red a b aop sz ord scope) s = .next (s.trap 0x07 ea)))
          ∧ (q.state = .filling → s.pointHeld site n = false →
            let t := s.deliveryPoint site n
            let at' := fun (k : AtomK) (cmp : Word) (ret : Bool) =>
              t.atomicAtScr site c.vintage (va.toNat - 0x10000000) (s.atom k sz y cmp ret ord scope)
            let fin := fun (k : AtomK) (cmp : Word) (ret : Bool) (r : Option Reg) => (.next (finishAtomic (at' k cmp ret).1
              ((t.ctx site n).withPops c) r ea (s.atom k sz y cmp ret ord scope) (at' k cmp ret).2) : Out)
            (iAmo → exec (.amo d a b aop sz ord scope) s = fin (.amo aop) 0 true (some d))
              ∧ (iCas → exec (.cas d a b sz ord scope) s = fin .cas z true (some d))
              ∧ (iRed → exec (.red a b aop sz ord scope) s = fin (.amo aop) 0 false none)))

/-- ACQ on an rw global object word sends its read and holds the context; once the answer has come with no posted fault pending it
completes, and a refusal traps BUFSTATE or its cause. REL on such a word, with every access that it must wait for performed, sends
its addition, counted in st. FENCE completes when every earlier access is performed at its scope and no fault is posted, closing the
context's queued stores to joins; with one posted it raises the oldest. WAIT waits while a counter is above its operand; else, after
the pending deliveries, it raises the oldest posted fault that it counts, or COPY_ABORT, or completes with nothing written. -/
def Obligations.OrderingWordsWaitAndComplete : Prop :=
  ∀ (a : Reg) (scope : Scope) (ld st cp tl : BitVec 4) (s : State) (x : Word) (c : Ctx), s.cur.2 < 8 →
    let ea : Addr := BitVec.ofNat 56 x.toNat
    let site := s.cur.1
    let n := s.cur.2
    let one := Issues s noHints [a] [] true false false [x] c
    let none' := Issues s noHints [] [] true false false [] c
    let clear := c.oldestPosted (fun _ => true) = none
    (∀ p ppa idx r, one → ea.toNat % 8 = 0 → spaceOf ea = .global → s.partAt site = some p →
        s.checkGlobal site c.vintage c.region ea 8 .atom = .ok ppa idx r → s.isReduction p c.vintage ppa 8 = false →
        Passes s (rangeOf (s.lcn site) n ea 8) true → s.myCore.granuleQueued n ppa = false → s.coreCanSend site (p.slotEp ppa) = true →
        (s.me.hold = .none → clear → exec (.acq a scope) s
            = .next ((s.setMe { s.me.startOp .no ea true false (.acq (s.acquireRegs site c ea)) with hold := .acq }).sendFromCore site (p.slotEp ppa) n c.issued 0
                c.vintage (.atomic (.rim ppa) (s.atom .acq .w64 0 0 false .acq scope))))
          ∧ (s.releaseReady site c ea scope = true → clear → c.st < 63 → answers (exec (.rel a scope) s) fun t =>
            t.me.st = c.st + 1 ∧ t.me.pc = c.pc + 4 ∧ (∀ q, t.me.get q = c.get q) ∧ memSame s t))
      ∧ (one → s.me.hold = .acq → exec (.acq a scope) s = .next s)
      ∧ (one → s.me.hold = .acqDone none → clear → exec (.acq a scope) s = .next (s.setMe c.advance))
      ∧ (∀ cause, one → s.me.hold = .acqDone (some cause) →
        exec (.acq a scope) s = .next ((s.setMe { s.me with hold := .none }).trap cause ea))
      ∧ (none' → c.allPerformed scope = true → c.acquiring = false →
        (clear → exec (.fence scope) s = .next ((s.setMyCore (s.myCore.closeWq n)).setMe c.advance))
          ∧ ∀ p, c.oldestPosted (fun _ => true) = some p → exec (.fence scope) s = .next (s.raisePosted p))
      ∧ (none' → (c.allPerformed scope = false ∨ c.acquiring = true) → exec (.fence scope) s = .next s)
      ∧ (none' → (ld.toNat < c.ld ∨ st.toNat < c.st) → exec (.wait ld st cp tl) s = .next s)
      ∧ (none' → c.ld ≤ ld.toNat → c.st ≤ st.toNat → c.tl ≤ tl.toNat → c.cp ≤ cp.toNat → s.pointHeld site n = false →
        let t := s.deliveryPoint site n
        let count := fun (k : Cnt) => match k with
          | .ld => ld.toNat
          | .st => st.toNat
          | .cp => cp.toNat
          | .tl => tl.toNat
          | .no => 0
        let seen := fun (p : Posted) => !t.me.spared p.cnt (count p.cnt) p.id
        (t.me.oldestPosted seen = none → t.me.abortMask = 0 → exec (.wait ld st cp tl) s = .next (t.setMe t.me.advance))
          ∧ (t.me.oldestPosted seen = none → t.me.abortMask ≠ 0 → exec (.wait ld st cp tl) s
              = .next ((t.setMe t.me.abortRaised).trap 0x09 0))
          ∧ ∀ p, t.me.oldestPosted seen = some p → exec (.wait ld st cp tl) s = .next (t.raisePosted p))

/-- BFILL, BFULL, BDRAIN and BEMPTY apply the pending deliveries of their context and then move their buffer from empty to filling,
filling to full, full to draining and draining to empty, when no engine work in the buffer holds them; BFILL and BDRAIN make the
context the owner, BFULL and BEMPTY ask that it is. From another state, or another party, they trap BUFSTATE at the buffer's raw base
and change nothing else. BSTAT gives state, owner, size and base. Each is logged. While another context's BDECL of the buffer is not
answered, the words of the buffer wait, since transitions follow one another in issue order. -/
def Obligations.BufferWordsMakeTheirTransitions : Prop :=
  ∀ (buf : BitVec 6) (s : State) (c : Ctx), s.cur.2 < 8 → Issues s noHints [] [] true false false [] c →
    let site := s.cur.1
    let n := s.cur.2
    let b := s.myCore.buf c.vintage buf.toNat
    let raw : Addr := BitVec.ofNat 56 (0x10000000 + b.base)
    let fault := (.next (s.trap 0x07 raw) : Out)
    let mine := b.owner = n ∧ b.held = none
    let t := s.deliveryPoint site n
    let moves := fun (o : Out) (st : BState) (owner : Nat) => answers o fun u =>
      (u.core site).buf c.vintage buf.toNat = { b with state := st, owner := owner, held := none }
        ∧ (∀ k, k ≠ buf.toNat → (u.core site).buf c.vintage k = (t.core site).buf c.vintage k)
        ∧ u.me.pc = t.me.pc + 4 ∧ (∀ r, u.me.get r = t.me.get r) ∧ u.mem = t.mem
    let turn := s.myCore.declaring c.vintage buf.toNat n = false
    (s.myCore.declaring c.vintage buf.toNat n = true → exec (.bfill buf) s = .next s ∧ exec (.bdrain buf) s = .next s
        ∧ exec (.bfull buf) s = .next s ∧ exec (.bempty buf) s = .next s)
      ∧ (turn → b.state ≠ .empty → exec (.bfill buf) s = fault) ∧ (turn → b.state ≠ .full → exec (.bdrain buf) s = fault)
      ∧ (turn → b.state ≠ .filling ∨ ¬mine → exec (.bfull buf) s = fault)
      ∧ (turn → b.state ≠ .draining ∨ ¬mine → exec (.bempty buf) s = fault)
      ∧ (turn → s.pointHeld site n = false →
        (b.state = .empty → moves (exec (.bfill buf) s) .filling n)
          ∧ (b.state = .full → moves (exec (.bdrain buf) s) .draining n)
          ∧ (b.state = .filling → mine → if t.bufWriting site b then exec (.bfull buf) s = .next t else moves (exec (.bfull buf) s) .full n)
          ∧ (b.state = .draining → mine → if t.bufReading site b then exec (.bempty buf) s = .next t else moves (exec (.bempty buf) s) .empty n))
      ∧ (∀ d, turn → Issues s noHints [] [d] true false false [] c → exec (.bstat d buf) s = .next ((finishScalar s c d
          (BitVec.ofNat 64 (b.state.code + 2 ^ 3 * b.owner + 2 ^ 16 * (b.size / 64) + 2 ^ 32 * (b.base / 64))) 0).logEv site 5 n
          (BitVec.ofNat 64 (b.state.code + 2 ^ 3 * b.owner + 2 ^ 16 * (b.size / 64) + 2 ^ 32 * (b.base / 64))) raw 0xFFFF 0 []))

/-- BDECL, while its context is not held for it and no other context's BDECL of the buffer is unanswered: with x[b] ≠ 0 it traps BUFSTATE
on a declared buffer (before PROT where both hold: the model's choice, log entry 68) and PROT on a range outside the limits; with
x[b] = 0 it traps BUFSTATE unless the buffer is empty; else it holds its context with the report of buffer, base and size due. While held
it waits; accepted, it completes; refused, it traps PROT at the raw window's base + x[a]. BDECL_REPORT of a range that another admitted
launch holds declared, or that breaks the core's limits, answers no and changes no table; else it records the range and declares the
buffer empty with owner 0, that base and size, or gives the range up and undeclares the buffer. -/
def Obligations.BufferDeclarationsAreChecked : Prop :=
  (∀ (a b : Reg) (buf : BitVec 6) (s : State) (x y : Word) (c : Ctx), s.cur.2 < 8 → Issues s noHints [a, b] [] true false false [x, y] c →
    let site := s.cur.1
    let n := s.cur.2
    let e := s.myCore.buf c.vintage buf.toNat
    let bad : Addr := 0x10000000 + BitVec.ofNat 56 x.toNat
    let turn := s.me.hold = .none ∧ s.myCore.declaring c.vintage buf.toNat n = false
    let ask := (.next ((s.setMe { s.me with hold := .bdecl buf.toNat x.toNat y.toNat }).due (.bdeclReport site n)) : Out)
    ((∃ p q r, s.me.hold = .bdecl p q r) → exec (.bdecl a b buf) s = .next s)
      ∧ (s.me.hold = .none → s.myCore.declaring c.vintage buf.toNat n = true → exec (.bdecl a b buf) s = .next s)
      ∧ (s.me.hold = .bdeclDone true → exec (.bdecl a b buf) s = .next (s.setMe c.advance))
      ∧ (s.me.hold = .bdeclDone false → exec (.bdecl a b buf) s = .next ((s.setMe { s.me with hold := .none }).trap 0x05 bad))
      ∧ (turn → y ≠ 0 → (e.state ≠ .undeclared → exec (.bdecl a b buf) s = .next (s.trap 0x07 e.rawBase))
        ∧ (e.state = .undeclared → s.myCore.badRange x.toNat y.toNat = true → exec (.bdecl a b buf) s = .next (s.trap 0x05 bad))
        ∧ (e.state = .undeclared → s.myCore.badRange x.toNat y.toNat = false → exec (.bdecl a b buf) s = ask))
      ∧ (turn → y = 0 → (e.state ≠ .empty → exec (.bdecl a b buf) s = .next (s.trap 0x07 e.rawBase))
        ∧ (e.state = .empty → exec (.bdecl a b buf) s = ask)))
    ∧ ∀ (site n buf base size : Nat) (s : State) (p : Part), n < 8 → (s.ctx site n).hold = .bdecl buf base size → s.partAt site = some p →
      let v := (s.ctx site n).vintage
      let bad := p.declaredElsewhere v base size || (s.core site).badRange base size
      answers (exec (.bdeclReport site n) s) fun t =>
        (t.ctx site n).hold = .bdeclDone (decide (size = 0) || !bad)
          ∧ (size ≠ 0 → bad = false → (t.core site).buf v buf = ⟨.empty, 0, size, base, true, none⟩ ∧ ∃ q, t.part? p.lead = some q
            ∧ q.launches = p.launches.map fun l => if l.vint = v then { l with bufDyn := l.bufDyn ++ [(site, buf, base, size)] } else l)
          ∧ (size ≠ 0 → bad = true → t.parts = s.parts ∧ (t.core site).bufs = (s.core site).bufs)
          ∧ (size = 0 → (t.core site).buf v buf = Buf.none
            ∧ ∃ q, t.part? p.lead = some q ∧ ∀ l ∈ q.launches, l.vint = v → ∀ z ∈ l.bufDyn, ¬(z.1 = site ∧ z.2.1 = buf))

/-- GETA and PUTA of 8·(len+1) bytes between another core's raw window, or one granule of global memory, and the private window. A
misaligned remote or local address traps MISALIGN. When nothing holds the bytes back, the counter has room and the request may be sent,
the word completes: ld or st counts it, the tag's issue count advances by 1, and the request, for PUTA with the bytes read at issue, goes
to the core or home that holds the remote bytes. RECV completes after the pending deliveries with the oldest reply of its tag, removed
from the queue, or 0. TBIND with 0 unbinds its tag; with a legal record address it binds the record to the tag; else it traps. -/
def Obligations.MessagesAreIssuedAndReceived : Prop :=
  ∀ (tag len : BitVec 5) (a b d : Reg) (s : State) (x y : Word) (c : Ctx),
    let far : Addr := BitVec.ofNat 56 x.toNat
    let nearEa : Addr := BitVec.ofNat 56 y.toNat
    let size := 8 * (len.toNat + 1)
    let site := s.cur.1
    let n := s.cur.2
    let near := ownLocal (s.lcn site) nearEa
    let off := 0x2E0000 + 0x4000 * n + (near.toNat - 0x8000000)
    let two := Issues s noHints [a, b] [] true false false [x, y] c
    let seq := s.myCore.tagCnt[tag.toNat]?.getD 0
    let counted := s.setMyCore { s.myCore with tagCnt := s.myCore.tagCnt.setIfInBounds tag.toNat (seq + 1) }
    let sent := fun (k : Cnt) (global write : Bool) (what : OpWhat) (dep : Nat) (body : Body) =>
      (.next ((counted.setMe (c.startOp k far global write what).advance).sendFromCore site dep n c.issued 0 c.vintage body) : Out)
    let get := fun (global : Bool) => sent .ld global false (.geta tag.toNat len.toNat seq off 1 [] none)
    let put := fun (global : Bool) => sent .st global true (.puta tag.toNat len.toNat seq 1 none)
    let data := memRead s.mem (scrAddr site off) size
    (two → c.ld < 63 → c.st < 63 → far.toNat % 8 ≠ 0 → exec (.geta tag a b len) s = .next (s.trap 0x03 far) ∧ exec (.puta tag a b len) s = .next (s.trap 0x03 far))
      ∧ (two → c.ld < 63 → c.st < 63 → far.toNat % 8 = 0 → near.toNat % 8 ≠ 0 →
        exec (.geta tag a b len) s = .next (s.trap 0x03 nearEa) ∧ exec (.puta tag a b len) s = .next (s.trap 0x03 nearEa))
      ∧ (two → far.toNat % 8 = 0 → near.toNat % 8 = 0 → 0x8000000 ≤ near.toNat → near.toNat + size ≤ 0x8004000 →
        Passes s (rangeOf (s.lcn site) n far size) false → Passes s (rangeOf (s.lcn site) n far size) true →
        Passes s (rangeOf (s.lcn site) n near size) false → Passes s (rangeOf (s.lcn site) n near size) true → c.ld < 63 → c.st < 63 →
          (∀ w o, spaceOf far = .remote → remoteLcn far < s.ncores site → placeOfLocal (remoteLocal far) = .win w o →
            s.coreCanSend site (remoteLcn far) = true →
              exec (.geta tag a b len) s = get false (remoteLcn far) (.geta (.core (far.toNat % 2 ^ 32)) size)
                ∧ (w = 0 → exec (.puta tag a b len) s = put false (remoteLcn far) (.puta (.core o) data)))
            ∧ ∀ p ppa i r, spaceOf far = .global → far.toNat % 256 + size ≤ 256 → s.partAt site = some p →
              s.coreCanSend site (p.slotEp ppa) = true → s.myCore.wq.any (fun e => e.ctx == n && e.line / 256 == ppa / 256) = false →
                (s.checkGlobal site c.vintage c.region far size .load = .ok ppa i r →
                    exec (.geta tag a b len) s = get true (p.slotEp ppa) (.geta (.rim ppa) size))
                  ∧ (s.checkGlobal site c.vintage c.region far size .store = .ok ppa i r →
                    exec (.puta tag a b len) s = put true (p.slotEp ppa) (.puta (.rim ppa) data)))
      ∧ (Issues s noHints [] [d] true false false [] c → s.pointHeld site n = false →
        let t := s.deliveryPoint site n
        let k := t.core site
        let q := k.replies.filter fun r => r.tag == tag.toNat
        let done := fun (u : State) (w : Word) => (.next ((finishScalar u u.me d w 0).logEv site 9 n w 0 0xFFFF 0 []) : Out)
        (q = [] → exec (.recv d tag) s = done t 0)
          ∧ ∀ r rest, q = r :: rest → exec (.recv d tag) s
              = done ((t.setCore site { k with replies := k.replies.erase r }).joinReplies site k.repliesWait.length) r.word)
      ∧ (Issues s noHints [a] [] true false false [x] c →
        let bound := fun (v : Option TagBind) => { s.myCore with tagBind := s.myCore.tagBind.setIfInBounds tag.toNat v }
        let bind := fun (v : Option TagBind) => (.next (((s.setMyCore (bound v)).setMe c.advance).logEv site 9 n x 0 0xFFFF 0 []) : Out)
        (far = 0 → exec (.tbind tag a) s = bind none)
          ∧ (far ≠ 0 → (∀ h r, s.recAddr c far = .home h r → exec (.tbind tag a) s = bind (some ⟨r, c.vintage, n, c.region⟩))
            ∧ ∀ f, s.recAddr c far = .fault f → exec (.tbind tag a) s = .next (s.trap f far)))

/-- A record operation at its home. The 64 bytes of a record read back as the record. SPAWN of an idle record whose region is the
issuer's or a descendant, whose hint is below the region's core count and whose pc is a multiple of 4 answers 0, sets hint, radius and
priority, and leaves it ready with count 0, else waiting; else it changes nothing and answers 1, 2, 3 or 4 in that order. DECR takes 1 off
the count, releases a waiting record at 0, and is refused PROT at 0. DEPADD adds, and is refused PROT in a ready record or above 65,535.
A suspended record takes pc and slots and is released, an exited one is idle, a running one runs. -/
def Obligations.RecordOperationsFollowTheirRules : Prop :=
  ∀ (regs : List Region) (r : Rec) (hint : BitVec 16) (radius : BitVec 4) (prio : Option (BitVec 7)) (region : BitVec 32) (lcn : Nat)
    (amount : BitVec 16) (pc : Addr) (slots : Vector Word 6),
    let o := RecOp.spawn hint radius prio region lcn
    let h : BitVec 16 := if hint = 0xFFFF then BitVec.ofNat 16 lcn else hint
    let no := fun (status : Nat) => (⟨none, status, none, false⟩ : RecOut)
    let refuse : RecOut := ⟨none, 0, some 0x05, false⟩
    let released := fun (q : Rec) => (if q.count = 0 then ⟨some { q with state := 2 }, 0, none, true⟩
      else ⟨some { q with state := 1 }, 0, none, false⟩ : RecOut)
    recOf r.bytes = r ∧ r.bytes.length = 64
      ∧ (r.state ≠ 0 → o.run regs r = no 1)
      ∧ (r.state = 0 → (regs.length ≤ r.region.toNat ∨ descends regs region.toNat regs.length r.region.toNat = false) → o.run regs r = no 2)
      ∧ (∀ g, r.state = 0 → regs[r.region.toNat]? = some g → descends regs region.toNat regs.length r.region.toNat = true →
        (g.cores ≤ h.toNat → o.run regs r = no 3)
          ∧ (h.toNat < g.cores → r.pc.toNat % 4 ≠ 0 → o.run regs r = no 4)
          ∧ (h.toNat < g.cores → r.pc.toNat % 4 = 0 → o.run regs r = released { r with hint := h, radius := radius, prio := prio.getD g.prio }))
      ∧ (r.count = 0 → RecOp.decr.run regs r = refuse)
      ∧ (r.count ≠ 0 → r.count ≠ 1 ∨ r.state ≠ 1 → RecOp.decr.run regs r = ⟨some { r with count := r.count - 1 }, 0, none, false⟩)
      ∧ (r.count = 1 → r.state = 1 → RecOp.decr.run regs r = ⟨some { r with count := 0, state := 2 }, 0, none, true⟩)
      ∧ ((r.state = 2 ∨ 65535 < r.count.toNat + amount.toNat) → (RecOp.depadd amount).run regs r = refuse)
      ∧ (r.state ≠ 2 → r.count.toNat + amount.toNat ≤ 65535 → ∃ q, (RecOp.depadd amount).run regs r = ⟨some q, 0, none, false⟩
        ∧ q.count.toNat = r.count.toNat + amount.toNat ∧ q = { r with count := q.count })
      ∧ (RecOp.suspend pc slots).run regs r = released { r with pc := pc, slots := slots }
      ∧ RecOp.exit.run regs r = ⟨some { r with state := 0 }, 0, none, false⟩
      ∧ RecOp.running.run regs r = ⟨some { r with state := 3, cont := false }, 0, none, false⟩

/-- SPAWN, DECR and DEPADD of a record address x[a], modulo 2^56. One that is not a multiple of 64 traps MISALIGN. In a declared buffer of
the own raw window the operation is performed at once on the record's bytes, and answered: SPAWN with its status to x[d], counted in ld,
the others in st; SPAWN and DECR only when every earlier write, vector result and record operation of the context is performed. In another core's raw
window it is sent to that core. SPAWN takes hint and radius from x[b], the priority of a MOD HINT, and the context's region. -/
def Obligations.RecordWordsReachTheirRecord : Prop :=
  ∀ (d a b : Reg) (s : State) (x y : Word) (c : Ctx),
    let ea : Addr := BitVec.ofNat 56 x.toNat
    let site := s.cur.1
    let n := s.cur.2
    let lcn := s.lcn site
    let va := ownLocal lcn ea
    let sp := Issues s { mod := true, prio := true } [a, b] [d] true false false [x, y] c
    let de := Issues s noHints [a] [] true false false [x] c
    let da := Issues s noHints [a, b] [] true false false [x, y] c
    let spawn := RecOp.spawn (BitVec.ofNat 16 y.toNat) (BitVec.ofNat 4 (y.toNat / 2 ^ 16)) c.hintPrio c.region lcn
    let add := RecOp.depadd (BitVec.ofNat 16 y.toNat)
    let ready := s.recordReady site n
    (va.toNat % 64 ≠ 0 → (sp → exec (.spawn d a b) s = .next (s.trap 0x03 ea)) ∧ (de → exec (.decr a) s = .next (s.trap 0x03 ea))
        ∧ (da → exec (.depadd a b) s = .next (s.trap 0x03 ea)))
      ∧ (va.toNat % 64 = 0 → 0x10000000 ≤ va.toNat → va.toNat < 0x11000000 → c.acquiring = false →
        let off := va.toNat - 0x10000000
        let done := fun (c1 : Ctx) (o : RecOp) =>
          let r := (s.setMe c1.advance).recAtScr site c.vintage off o lcn 0
          (.next (r.1.complete site n c.issued { refused := r.2.refused, status := r.2.status }) : Out)
        (s.myCore.bufAt c.vintage off 64 = none → (sp → exec (.spawn d a b) s = .next (s.trap 0x05 ea))
            ∧ (de → exec (.decr a) s = .next (s.trap 0x05 ea)) ∧ (da → exec (.depadd a b) s = .next (s.trap 0x05 ea)))
          ∧ ∀ q, s.myCore.bufAt c.vintage off 64 = some q →
            (sp → ready = true → c.ld < 63 → exec (.spawn d a b) s = done ((c.startOp .ld ea false true (.spawn d)).await d) spawn)
              ∧ (de → ready = true → c.st < 63 → exec (.decr a) s = done (c.startOp .st ea false true .recop) .decr)
              ∧ (da → c.st < 63 → exec (.depadd a b) s = done (c.startOp .st ea false true .recop) add)
              ∧ (sp → ready = false → exec (.spawn d a b) s = .next s) ∧ (de → ready = false → exec (.decr a) s = .next s))
      ∧ (∀ o, va.toNat % 64 = 0 → spaceOf va = .remote → remoteLcn va < s.ncores site → placeOfLocal (remoteLocal va) = .win 0 o →
        c.acquiring = false → s.coreCanSend site (remoteLcn va) = true →
        let sent := fun (c1 : Ctx) (tag : Nat) (op : RecOp) =>
          (.next ((s.setMe c1.advance).sendFromCore site (remoteLcn va) n c.issued tag c.vintage (.recop (.core o) va op)) : Out)
        (sp → ready = true → c.ld < 63 → exec (.spawn d a b) s = sent ((c.startOp .ld ea false true (.spawn d)).await d) d.toNat spawn)
          ∧ (de → ready = true → c.st < 63 → exec (.decr a) s = sent (c.startOp .st ea false true .recop) 0 .decr)
          ∧ (da → c.st < 63 → exec (.depadd a b) s = sent (c.startOp .st ea false true .recop) 0 add))

/-- TSELF writes the record's address. SUSPEND in a task without a record traps PROT; else its context stands at a suspension point that
goes on at the next pc. EXIT stands at a suspension point with the low 32 bits of x[a] as status; in a trap handler it stands at the end of
its fault domain with sys.cause and sys.fstep, and with sys.epc and sys.faddr as the trap's entry left them. YIELD asks the district's pool once and waits; on the answer it stands at a suspension point,
or goes on with nothing changed. Each of these points is due; registers, streams, counters and memory keep their values. -/
def Obligations.TaskWordsSuspendExitAndYield : Prop :=
  ∀ (d a : Reg) (s : State) (x : Word) (c : Ctx),
    let none' := Issues s noHints [] [] true false false [] c
    let site := s.cur.1
    let n := s.cur.2
    let stands := fun (k : SuspKind) => (.next ((s.setMe { c with hold := .suspending k }).due (.suspensionPoint site n)) : Out)
    Writes (.tself d) noHints [] d true (fun _ e => BitVec.ofNat 64 e.task.toNat)
      ∧ (none' → (c.task = 0 → exec .suspend s = .next (s.trap 0x05 0)) ∧ (c.task ≠ 0 → exec .suspend s = stands (.suspend (c.pc + 4))))
      ∧ (Issues s noHints [a] [] true false false [x] c →
        exec (.exit a) s = if c.tact then stands (.ending false c.cause c.tepc c.tfaddr c.fstep) else stands (.exit (BitVec.ofNat 32 x.toNat)))
      ∧ (none' → (s.me.hold = .none → exec .yield s = .next ((s.setMe { s.me with hold := .yield }).due (.yieldQuery site n)))
        ∧ (s.me.hold = .yield → exec .yield s = .next s)
        ∧ (s.me.hold = .yieldDone true → exec .yield s = stands (.yields (c.pc + 4)))
        ∧ (s.me.hold = .yieldDone false → exec .yield s = .next (s.setMe c.advance)))

/-- CASKUSE waits for no answer at issue: x[d] waits and the query of every slot of the partition begins. PROVQ gives 1 when the core's
provisional list holds a vintage, else 0. CMTQ gives the code of the state of vintage x[a], or 0. IRREV of a switched vintage goes on; of
another it asks for the switch and holds its context, and waits while held. ABORT stops its context and starts the kill of its launch with
outcome 5 and the low 32 bits of x[a]. SCANNO gives the core's pass number. CKPT goes on at once where no log is kept or once its
boundary has been taken; else it holds its context and asks for one, and waits while held. -/
def Obligations.CommitWordsAskAndAnswer : Prop :=
  ∀ (d a : Reg) (s : State) (x : Word) (c : Ctx) (p : Part), s.partAt s.cur.1 = some p →
    let site := s.cur.1
    let n := s.cur.2
    let wr := Issues s noHints [] [d] true false false [] c
    let none' := Issues s noHints [] [] true false false [] c
    let logged := fun (v : Word) => (.next ((finishScalar s c d v 0).logEv site 9 n v 0 0xFFFF 0 []) : Out)
    let code := fun (v : VState) => match v with
      | .assigned => 1 | .running => 2 | .switched => 3 | .gating => 4 | .ready => 5 | .committing => 6 | .committed => 7
      | .ended => 8 | .relaunched => 9
    (wr → exec (.caskuse d) s = .next ((((s.setMe { c.startOp .no 0 false false (.query d) with sb := c.sb ||| regBit d }.advance).updPart
        p.lead fun r => r.updLaunch c.vintage fun k => { k with queries := k.queries ++ [⟨site, n, c.issued, List.range p.slots, [], 0⟩] })).later
          (.caskuseQuery p.lead 0 c.vintage.toNat)))
      ∧ (wr → exec (.scanno d) s = logged (BitVec.ofNat 64 s.myCore.pass))
      ∧ (wr → exec (.provq d) s = logged (if s.myCore.prov = [] then 0 else 1))
      ∧ (Issues s noHints [a] [d] true false false [x] c →
        (∀ e, List.find? (fun (e : BitVec 32 × VState) => e.1 == BitVec.ofNat 32 x.toNat) p.vstates = some e →
            exec (.cmtq d a) s = logged (BitVec.ofNat 64 (code e.2)))
          ∧ (List.find? (fun (e : BitVec 32 × VState) => e.1 == BitVec.ofNat 32 x.toNat) p.vstates = none → exec (.cmtq d a) s = logged 0))
      ∧ (none' → (s.switchedAt site c.vintage = true → exec .irrev s = .next (s.setMe c.advance))
        ∧ (s.switchedAt site c.vintage = false → s.me.hold = .irrev → exec .irrev s = .next s)
        ∧ (s.switchedAt site c.vintage = false → s.me.hold = .none → exec .irrev s
            = .next (((s.setPart p.lead (p.updLaunch c.vintage fun k => { k with switchAsked := true })).setMe
                { s.me with hold := .irrev, stall := some .switch }).later (.vintageSwitch p.lead c.vintage.toNat))))
      ∧ (Issues s noHints [a] [] true false false [x] c →
        exec (.abort a) s = .next (((s.setMe c).stopCtx site n).startKill p.lead c.vintage ⟨5, BitVec.ofNat 32 x.toNat, 0, false⟩))
      ∧ (none' → (s.me.hold = .ckptDone → exec .ckpt s = .next (s.setMe c.advance))
        ∧ (s.me.hold = .ckpt → exec .ckpt s = .next s)
        ∧ (s.me.hold = .none → s.keepAt site = none → exec .ckpt s = .next (s.setMe c.advance))
        ∧ (s.me.hold = .none → s.keepAt site ≠ none → exec .ckpt s = .next ((s.setMe { s.me with hold := .ckpt }).wantBoundary site)))

/-- Every vector word of opcodes 0x23 to 0x25, at its issue: ILLEGAL for slots, types, shapes and cplx, then LAYOUT for a swizzled operand,
then OVERLAP, then the data checks of its operands in the order ak, bk, dk, each trap with no effect; a word that passes enters the
sequencer and its context's window of 16 when there is room and nothing holds it. VLOOP of more words than the window holds traps
ILLEGAL; of count 0 it goes on with an empty window; else the checks of its repetitions trap, or it enters as one entry with an empty
window. VSYNC waits for the context's entries, then goes on with an empty window. -/
def Obligations.VectorWordsEnterTheSequencer : Prop :=
  (∀ (dk ak bk : Slot) (ty : DType) (rnd : Rnd) (sat : Bool),
    let r3 := fun (mk : Slot → Slot → Slot → DType → Rnd → Bool → Instr) (fn : VFn) => Sequenced (mk dk ak bk ty rnd sat) fn ty rnd sat dk ak bk
    let r2 := fun (mk : Slot → Slot → DType → Rnd → Bool → Instr) (fn : VFn) => Sequenced (mk dk ak ty rnd sat) fn ty rnd sat dk ak 0
    let p3 := fun (mk : Slot → Slot → Slot → DType → Instr) (fn : VFn) => Sequenced (mk dk ak bk ty) fn ty .rne false dk ak bk
    let p2 := fun (mk : Slot → Slot → DType → Instr) (fn : VFn) => Sequenced (mk dk ak ty) fn ty .rne false dk ak 0
    r3 .vadd .add ∧ r3 .vsub .sub ∧ r3 .vmul .mul ∧ r3 .vfma .fma ∧ r3 .vfms .fms ∧ r3 .vcmul .cmul ∧ r3 .vcmac .cmac
      ∧ r2 .vexp2 .exp2 ∧ r2 .vlog2 .log2 ∧ r2 .vrcp .rcp ∧ r2 .vrsqrt .rsqrt ∧ r2 .vcvt .cvt ∧ r2 .vrsum .rsum
      ∧ p3 .vmin .min ∧ p3 .vmax .max ∧ p3 .vand .and ∧ p3 .vor .or ∧ p3 .vxor .xor ∧ p3 .vshr .shr ∧ p3 .vsra .sra
      ∧ p3 .vceq .ceq ∧ p3 .vclt .clt ∧ p3 .vcle .cle ∧ p3 .vsel .sel ∧ p3 .vperm .perm ∧ p3 .vzip .zip ∧ p3 .vunzip .unzip
      ∧ p2 .vabs .abs ∧ p2 .vneg .neg ∧ p2 .vconj .conj ∧ p2 .vmov .mov ∧ p2 .vrmax .rmax ∧ p2 .vrmin .rmin ∧ p2 .vbcast .bcast
      ∧ p2 .vrev .rev ∧ Sequenced (.vshl dk ak bk ty sat) .shl ty .rne sat dk ak bk)
    ∧ (∀ (a : Reg) (m : BitVec 5) (s : State) (x : Word) (c : Ctx), Issues s noHints [a] [] false false false [x] c →
      let cnt := x.toNat % 2 ^ 32
      let body := c.window.drop (c.window.length - m.toNat)
      let failed := loopCheck s.myCore c.vintage (s.lcn s.cur.1) s.cur.2 body 1 cnt
      let e := entryOf s c body 1 cnt
      (c.window.length < m.toNat → exec (.vloop a m) s = .next (s.trap 0x01 0))
        ∧ (m.toNat ≤ c.window.length → cnt = 0 → exec (.vloop a m) s = .next (s.setMe { c.advance with window := [] }))
        ∧ (m.toNat ≤ c.window.length → cnt ≠ 0 →
          (∀ cause fa, failed = some (cause, fa) → exec (.vloop a m) s = .next (s.trap cause fa))
            ∧ (failed = none → (body.any VOp.draws = false ∨ s.myCore.tileDraws s.cur.2 = false) → s.myCore.vq.length < 16 →
              c.acquiring = false → e.heldBy s = none →
              exec (.vloop a m) s = .next (((s.setMyCore { s.myCore with vq := s.myCore.vq ++ [e] }).setMe
                { c.advance with window := [] }).due (.vectorFinish s.cur.1)))))
    ∧ ∀ (s : State) (c : Ctx), Issues s noHints [] [] false false false [] c →
      ((∃ e ∈ s.myCore.vq, e.ctx = s.cur.2) → exec .vsync s = .next s)
        ∧ ((∀ e ∈ s.myCore.vq, e.ctx ≠ s.cur.2) → exec .vsync s = .next (s.setMe { c.advance with window := [] }))

/-- One element of a form with T an integer type of width w and both sources of type T, without sat: sums, differences, products and
products with the old element wrap modulo 2^w; bitwise forms act on the patterns; a shift by the second source's unsigned pattern n is
a·2^n modulo 2^w, a / 2^n, or the signed value over 2^n; minimum and maximum pick by value; the compares give all ones or 0; VSEL picks by
the old element; VMOV copies; none sets a sticky bit. VRSUM wraps the sum along dimension 0. With sat a sum is clamped to T's range. VEXP2 of
an f32 gives the results of the spec's worked example. -/
def Obligations.VectorElementsFollowTheirForms : Prop :=
  (∀ (t : DType) (a b c : Nat) (dr : Word) (d x y : Shape), t.isInt = true → a < 2 ^ t.width → b < 2 ^ t.width → c < 2 ^ t.width →
    let w := t.width
    let val := fun (p : Nat) => if t.signed = true ∧ 2 ^ (w - 1) ≤ p then (p : Int) - 2 ^ w else (p : Int)
    let elem := fun (fn : VFn) => (⟨fn, t, .rne, false, false, d, x, y⟩ : VOp).elem t t a b c dr
    let mask := fun (q : Bool) => (⟨if q then 2 ^ w - 1 else 0, 0⟩ : Enc)
    let lo : Int := if t.signed then -(2 ^ (w - 1)) else 0
    let hi : Int := if t.signed then 2 ^ (w - 1) - 1 else 2 ^ w - 1
    elem .add = ⟨(a + b) % 2 ^ w, 0⟩ ∧ elem .sub = ⟨(a + (2 ^ w - b)) % 2 ^ w, 0⟩ ∧ elem .mul = ⟨a * b % 2 ^ w, 0⟩
      ∧ elem .fma = ⟨(a * b + c) % 2 ^ w, 0⟩ ∧ elem .fms = ⟨(a * b + (2 ^ w - c)) % 2 ^ w, 0⟩
      ∧ elem .neg = ⟨(2 ^ w - a) % 2 ^ w, 0⟩ ∧ elem .abs = ⟨(val a).natAbs % 2 ^ w, 0⟩
      ∧ elem .and = ⟨a &&& b, 0⟩ ∧ elem .or = ⟨a ||| b, 0⟩ ∧ elem .xor = ⟨a ^^^ b, 0⟩
      ∧ elem .shl = ⟨if w ≤ b then 0 else a * 2 ^ b % 2 ^ w, 0⟩ ∧ elem .shr = ⟨if w ≤ b then 0 else a / 2 ^ b, 0⟩
      ∧ (∃ q, elem .sra = ⟨q, 0⟩ ∧ q < 2 ^ w ∧ ((q : Int) - (if 2 ^ (w - 1) ≤ a then (a : Int) - 2 ^ w else a).fdiv (2 ^ min b w)) % 2 ^ w = 0)
      ∧ elem .min = ⟨if val a ≤ val b then a else b, 0⟩ ∧ elem .max = ⟨if val a ≤ val b then b else a, 0⟩
      ∧ elem .ceq = mask (a == b) ∧ elem .clt = mask (decide (val a < val b)) ∧ elem .cle = mask (decide (val a ≤ val b))
      ∧ elem .sel = ⟨if c ≠ 0 then a else b, 0⟩ ∧ elem .mov = ⟨a, 0⟩
      ∧ ((⟨.add, t, .rne, true, false, d, x, y⟩ : VOp).elem t t a b c dr).bits
          = ((max lo (min hi (val a + val b))) % 2 ^ w).toNat
      ∧ (⟨.rsum, t, .rne, false, false, d, x, y⟩ : VOp).rsum [decodeElem t a, decodeElem t b, decodeElem t c] dr 0
          = ⟨(a + b + c) % 2 ^ w, 0⟩)
    ∧ ∀ (d x y : Shape),
      let exp2 := fun (p : Nat) => (⟨.exp2, .f32, .rne, false, false, d, x, y⟩ : VOp).elem .f32 .f32 p 0 0 0
      exp2 0 = ⟨0x3F800000, 0⟩ ∧ exp2 0x3F000000 = ⟨0x3FB504F3, 0⟩ ∧ exp2 0xBF000000 = ⟨0x3F3504F3, 0⟩
        ∧ exp2 0x40500000 = ⟨0x411837F0, 0⟩ ∧ exp2 0xBF400000 = ⟨0x3F1837F0, 0⟩ ∧ exp2 0x3F800000 = ⟨0x40000000, 0⟩
        ∧ (exp2 0x43480000).bits = 0x7F800000 ∧ (exp2 0xC3480000).bits = 0 ∧ (exp2 0x43480000).flags = stickyInexact

/-- SHLD in broadcast mode of an address that is not a multiple of 64 traps MISALIGN; with its record in the shape store, or in the private
window when nothing holds the bytes back, a valid record enters the slot, sliced by the LCN, and an invalid one traps ILLEGAL. In table
mode SHLD traps PROT. SHOBJ traps PROT in broadcast mode and at or above the entry count; else its entry is bound. SHST in the private
window writes the slot's 64 bytes. SHSET writes a field whose value fits and leaves a valid record, else it traps ILLEGAL with the slot
unchanged; SHGET gives a field to x[b]. -/
def Obligations.ShapeWordsMoveRecords : Prop :=
  ∀ (k : Slot) (a b : Reg) (f : BitVec 8) (s : State) (x : Word) (c : Ctx), s.cur.2 < 8 →
    let addr : Addr := BitVec.ofNat 56 x.toNat
    let site := s.cur.1
    let lcn := s.lcn site
    let table := s.tableMode site c.vintage
    let va := ownLocal lcn addr
    let off := 0x2E0000 + 0x4000 * s.cur.2 + (va.toNat - 0x8000000)
    let one := Issues s noHints [a] [] false false false [x] c
    let ok := fun (r : Shape) => r.valid [] = true ∧ r.fld 28 = 0 ∧ r.fld 29 = 0
    let takes := fun (o : Out) (l : List Byte) => (ok (shapeOf l) → o = .next (s.setMe (c.setSlot k ((shapeOf l).slice lcn)).advance))
      ∧ (¬ok (shapeOf l) → o = .next (s.trap 0x01 0))
    let new := (c.slot k).setFld f.toNat x.toNat
    let fits := fitsField f.toNat x = true ∧ new.valid ((List.range 4).filter fun d => (c.slot k).slicedAway d && 3 + d != f.toNat) = true
    (one → table = true → exec (.shld k a) s = .next (s.trap 0x05 addr))
      ∧ (one → table = false → addr.toNat % 64 ≠ 0 → exec (.shld k a) s = .next (s.trap 0x03 addr))
      ∧ (one → table = false → addr.toNat % 64 = 0 →
        (∀ l, s.storedShape site c.vintage addr = some l → takes (exec (.shld k a) s) l)
          ∧ (s.storedShape site c.vintage addr = none → Passes s (rangeOf lcn s.cur.2 va 64) false → c.fetched = [] →
            (∀ p, s.me.hold ≠ .block p) → 0x8000000 ≤ va.toNat → va.toNat < 0x8004000 →
            takes (exec (.shld k a) s) (memRead s.mem (scrAddr site off) 64)))
      ∧ (one → table = false → exec (.shobj k a) s = .next (s.trap 0x05 0))
      ∧ (∀ p, one → table = true → s.partAt site = some p →
        let idx := x.toNat % 65536
        let l := s.viewRead p 0 true (p.objtab + 128 * idx) 128
        (p.objn ≤ idx → exec (.shobj k a) s = .next (s.trap 0x05 0))
          ∧ (idx < p.objn → ok (shapeOf l) → exec (.shobj k a) s = .next (s.setMe (c.setSlot k ((boundShape idx l).slice lcn)).advance))
          ∧ (idx < p.objn → ¬ok (shapeOf l) → exec (.shobj k a) s = .next (s.trap 0x01 0)))
      ∧ (one → Memory.wf s.mem = true → (table = false ∨ (c.slot k).tabv = false) → addr.toNat % 64 = 0 → Passes s (rangeOf lcn s.cur.2 va 64) true →
        0x8000000 ≤ va.toNat → va.toNat < 0x8004000 → answers (exec (.shst k a) s) fun t =>
          memRead t.mem (scrAddr site off) 64 = (c.slot k).bytes ∧ t.me.pc = c.pc + 4 ∧ t.me.k = c.k ∧ (∀ r, t.me.get r = c.get r)
            ∧ ∀ m, (m < scrAddr site off ∨ scrAddr site off + 64 ≤ m) → memGet t.mem m = memGet s.mem m)
      ∧ (one → addr.toNat % 64 ≠ 0 → (table = false ∨ (c.slot k).tabv = false) → exec (.shst k a) s = .next (s.trap 0x03 addr))
      ∧ (one → table = true → (c.slot k).tabv = true → exec (.shst k a) s = .next (s.trap 0x05 addr)
        ∧ exec (.shset k a f) s = .next (s.trap 0x05 0))
      ∧ (one → (table = false ∨ (c.slot k).tabv = false) → (fits → exec (.shset k a f) s = .next (s.setMe (c.setSlot k new).advance))
        ∧ (¬fits → exec (.shset k a f) s = .next (s.trap 0x01 0)))
      ∧ (Issues s noHints [] [b] true false false [] c → exec (.shget k b f) s = .next (finishScalar s c b ((c.slot k).fldWord f.toNat) 0))

/-- MMA, MMCX, MCONV, MACWR, MACRD, MACLR, MWLD and MEPI trap at the first check that fails: ILLEGAL for slots, types, shapes, image and record;
BUFSTATE for a tile that the context does not hold; LAYOUT at the base for a swizzle that does not match; then the data checks. A word that
passes enters the queue of 8 when there is room and nothing holds it, counted in tl but for MACLR. MWLD and MEPI check their address first.
MACQ of a free tile that no context waits for takes it, of the context's own goes on, of another's stalls behind it; MREL of a tile that
the context does not hold goes on, else it enters the queue, its context's stopped command on that tile gone. -/
def Obligations.TileWordsEnterTheQueue : Prop :=
  ∀ (acc : Tile) (ak kk : Slot) (w : WSlot) (ty : DType) (acq rel clr : Bool) (scope : Scope) (rnd : Rnd) (sat : Bool) (r : Reg)
    (s : State) (x : Word) (c : Ctx),
    let site := s.cur.1
    let n := s.cur.2
    let lcn := s.lcn site
    let core := s.myCore
    let v := c.vintage
    let a := c.slot ak
    let head := core.slotHeader w.toNat
    let img := head.getD []
    let ftz := Issues s ftzHints [] [] false false false [] c
    let plain := Issues s noHints [] [] false false false [] c
    let hold := core.holds acc.toNat n
    let room := core.tq.length < 8 ∧ c.acquiring = false
    let enters := fun (t : TCmd) => (.next (((s.setMyCore { core with tq := core.tq ++ [{ t with opId := some c.issued }] }).setMe
      (c.startOp .tl 0 false true (.tile t.tile)).advance).due (.tileCommandStart site core.tq.length)) : Out)
    let checked := fun (o : Out) (legal : Bool) (d : Shape) (data : Option (BitVec 5 × Addr)) (t : TCmd) =>
      (legal = false → o = .next (s.trap 0x01 0))
        ∧ (legal = true → hold = false → o = .next (s.trap 0x07 0))
        ∧ (legal = true → hold = true → d.swzMatches lcn = false → o = .next (s.trap 0x0F (BitVec.ofNat 56 d.base)))
        ∧ (legal = true → hold = true → d.swzMatches lcn = true →
          (∀ cause fa, data = some (cause, fa) → o = .next (s.trap cause fa))
            ∧ (data = none → room → c.tl < 63 → t.heldBy s = none → o = enters t))
    let atA := firstData core v lcn n 0 [(a, false)]
    let matrix := fun (fn : TFn) (k : Shape) => { newTCmd s c fn acc.toNat with
      w := w.toNat, ty := ty, clr := clr, a := a, kk := k, acqWait := if acq then c.notPerformed scope else [],
      relWait := if rel then c.notPerformed scope else [], reads := a.spanList core v lcn n }
    let common := !a.isEmpty && head.isSome && (imgType img == some ty) && a.aTypeOk lcn && a.swzLegal
    let mm := fun (cx : Bool) => common && (a.cplx == cx) && (imgCplx img == cx) && (a.size 0 == imgK img) && decide (1 ≤ a.size 1)
      && decide (a.size 1 ≤ 64) && (a.size 2 == 1) && (a.size 3 == 1)
    let k := c.slot kk
    let conv := common && !k.isEmpty && !a.cplx && (a.size 3 == 1) && k.windowOk && !imgCplx img
      && (imgK img == k.fld 17 * k.fld 18 * a.size 0)
    let dst := !a.isEmpty && a.isTile && (a.tileType lcn == some ty) && a.swzLegal && !(rnd == .rs && (a.remote lcn).isSome)
    let out := destCheck s v lcn n a
    (ftz → checked (exec (.mma acc ak w ty acq rel scope clr) s) (mm false) a atA (matrix .mma Shape.empty))
      ∧ (ftz → checked (exec (.mmcx acc ak w ty acq rel scope clr) s) (mm true) a atA (matrix .mmcx Shape.empty))
      ∧ (ftz → checked (exec (.mconv acc ak w ty kk acq rel scope clr) s) conv a atA (matrix .mconv k))
      ∧ (ftz → checked (exec (.macrd acc ak ty rnd sat) s) dst a out { newTCmd s c .macrd acc.toNat with
          ty := ty, rnd := rnd, sat := sat, d := a, writes := a.spanList core v lcn n })
      ∧ (plain → checked (exec (.macwr acc ak ty) s) (!a.isEmpty && a.isTile && (a.dtype lcn == some ty) && a.swzLegal) a atA
          { newTCmd s c .macwr acc.toNat with ty := ty, a := a, reads := a.spanList core v lcn n })
      ∧ (plain → (hold = false → exec (.maclr acc) s = .next (s.trap 0x07 0))
        ∧ (hold = true → room → exec (.maclr acc) s = .next (((s.setMyCore { core with tq := core.tq ++ [newTCmd s c .maclr acc.toNat] }).setMe
            c.advance).due (.tileCommandStart site core.tq.length))))
      ∧ (Issues s noHints [r] [] false false false [x] c →
        let ea : Addr := BitVec.ofNat 56 x.toNat
        let at' := ownLocal lcn ea
        let off := at'.toNat - 0x10000000
        let h := memRead s.mem (scrAddr site off) 64
        let t := { newTCmd s c .mwld 0 with w := w.toNat, ty := ty, rec' := h, recAt := off, reads := [(off, off + imgSize h)] }
        (ea.toNat % 64 ≠ 0 → exec (.mwld w r ty) s = .next (s.trap 0x03 ea))
          ∧ (ea.toNat % 64 = 0 → 0x10000000 ≤ at'.toNat → at'.toNat < 0x11000000 → Passes s (rangeOf lcn n at' 64) false →
            (∀ e, rangeCheck core v n at' 64 = .error e → exec (.mwld w r ty) s = .next (s.trap e ea))
              ∧ (rangeCheck core v n at' 64 = .ok off →
                ((imgValid h = false ∨ imgType h ≠ some ty) → exec (.mwld w r ty) s = .next (s.trap 0x01 0))
                  ∧ (imgValid h = true → imgType h = some ty →
                    (∀ e, rangeCheck core v n at' (imgSize h) = .error e → exec (.mwld w r ty) s = .next (s.trap e ea))
                      ∧ (∀ o, rangeCheck core v n at' (imgSize h) = .ok o → room → c.tl < 63 → t.heldBy s = none →
                        exec (.mwld w r ty) s = enters t)))))
      ∧ (Issues s ftzHints [r] [] false false false [x] c → n < 8 →
        let ea : Addr := BitVec.ofNat 56 x.toNat
        let at' := ownLocal lcn ea
        let off := 0x2E0000 + 0x4000 * n + (at'.toNat - 0x8000000)
        let l := memRead s.mem (scrAddr site off) 64
        let bias := epiVector l 0
        let scale := epiVector l 1
        let data := firstFail [epiCheck s v n (a.size 0) bias, epiCheck s v n (a.size 0) scale, out]
        (ea.toNat % 64 ≠ 0 → exec (.mepi acc ak r ty rnd sat) s = .next (s.trap 0x03 ea))
          ∧ (ea.toNat % 64 = 0 → 0x8000000 ≤ at'.toNat → at'.toNat < 0x8004000 → Passes s (rangeOf lcn n at' 64) false → c.fetched = [] →
            (∀ p, s.me.hold ≠ .block p) → checked (exec (.mepi acc ak r ty rnd sat) s) (dst && epiValid l) a data
              { newTCmd s c .mepi acc.toNat with
                ty := ty, rnd := rnd, sat := sat, d := a, rec' := l, writes := a.spanList core v lcn n,
                reads := [(off, off + 64)] ++ epiSpan s n (a.size 0) bias ++ epiSpan s n (a.size 0) scale }))
      ∧ (plain → core.tq.length < 8 → core.relPending acc.toNat n = false → core.unstarted n = false →
        let t := core.tile acc.toNat
        (t.holder = some n → exec (.macq acc) s = .next (s.setMe c.advance))
          ∧ (t.holder = none → t.image = none → t.waiters = [] → exec (.macq acc) s = .next ((s.setMe c.advance).takeTile site acc.toNat n v))
          ∧ (t.holder ≠ some n → (t.holder ≠ none ∨ t.image ≠ none) → t.waiters = [] → exec (.macq acc) s
              = .next ((s.setMe { s.me with stall := some (.tile acc.toNat) }).updCore site fun q => q.setTile acc.toNat { t with waiters := [n] })))
      ∧ (plain → (hold = false → exec (.mrel acc) s = .next (s.setMe c.advance))
        ∧ (hold = true → room → (∀ t ∈ core.tq, t.state ≠ .stopped) → exec (.mrel acc) s = .next (((s.setMyCore { core with
          tq := core.tq ++ [newTCmd s c .mrel acc.toNat] }).setMe c.advance).due (.tileCommandStart site core.tq.length))))

/-- A record address that is not a multiple of 64 traps MISALIGN; a record in the pattern store, or in the private window when nothing holds
its bytes back, is read. COPY, GATHER and SCATTER wait while their channel holds 4 transfers or another context's stream. With their records,
and index list, read: ILLEGAL for illegal records or a stream of the own context, OVERLAP for a destination written twice or meeting the
source, then the checks of source, destination and flag word, then PROT at the first index out of range when oobf is set. A word that passes
queues its transfer under the channel's next id, which x[d] takes; cp counts it; an index out of range without oobf sets GOOB. -/
def Obligations.CopiesAreCheckedAndQueued : Prop :=
  ∀ (d a b : Reg) (ch : BitVec 3) (wm oobf acq rel : Bool) (scope : Scope) (s : State) (x y : Word) (c : Ctx),
    let site := s.cur.1
    let n := s.cur.2
    let lcn := s.lcn site
    let ra : Addr := BitVec.ofNat 56 x.toNat
    let rb : Addr := BitVec.ofNat 56 y.toNat
    let chan := s.myCore.chan ch.toNat
    let is := Issues s ntHints [a, b] [d] true false false [x, y] c
    let fails := fun (l : List (Option (BitVec 5 × Addr))) (o : Out) => ∀ cause fa, firstFail l = some (cause, fa) → o = .next (s.trap cause fa)
    let queued := fun (o : Out) (z : Xfer) (flags : Word) => c.cp < 63 → c.acquiring = false →
      o = .next ((finishScalar (s.setMyCore (s.myCore.queueXfer ch.toNat { z with opId := some c.issued }))
        (c.startOp .cp (BitVec.ofInt 56 z.dst.spanI.1) false true (.copy ch.toNat z.id.toNat)) d (BitVec.ofNat 64 z.id.toNat) flags).due
          (.copyRequest site ch.toNat))
    let waits := 4 ≤ chan.live.length ∨ ∃ z, chan.stream = some z ∧ z.mine n = false
    let new := fun (kind : XKind) (p q : Pat) => { newXfer s c ch.toNat kind p q with
      rel := if rel then some scope else none, acqWait := if acq then c.notPerformed scope else [] }
    let own := chan.stream.isSome
    let order := fun (bad : Bool) (src dst : Pat) (peer : Bool) (last : Option (BitVec 5 × Addr)) =>
      [if bad then some (0x01, 0) else none, if !dst.once || s.spansShare src dst then some (0x02, 0) else none,
        s.patFail c src (.source peer), s.patFail c dst .dest, s.flagFail c dst rel, last]
    (ra.toNat % 64 ≠ 0 → ∀ k, withRecord s c ra k = .next (s.trap 0x03 ra))
      ∧ (∀ l, ra.toNat % 64 = 0 → s.storedPat site c.vintage ra = some l → RecordRead s c ra (patOf l))
      ∧ (ra.toNat % 64 = 0 → s.storedPat site c.vintage ra = none → Passes s (rangeOf lcn n (ownLocal lcn ra) 64) false → c.fetched = [] →
        (∀ q, s.me.hold ≠ .block q) → 0x8000000 ≤ (ownLocal lcn ra).toNat → (ownLocal lcn ra).toNat < 0x8004000 → n < 8 →
        RecordRead s c ra (patOf (memRead s.mem (scrAddr site (0x2E0000 + 0x4000 * n + ((ownLocal lcn ra).toNat - 0x8000000))) 64)))
      ∧ (is → waits → exec (.copy d a b ch wm acq rel scope) s = .next s ∧ exec (.gather d a b ch oobf acq rel scope) s = .next s
        ∧ exec (.scatter d a b ch oobf acq rel scope) s = .next s)
      ∧ (∀ src dst, is → ¬waits → RecordRead s c ra src → RecordRead s c rb dst →
        let bad := !src.valid || !dst.valid || src.esize != dst.esize || src.count != dst.count || (wm && !dst.canonical)
          || (spaceOf src.base == .peer && !src.dense) || own
        let checks := order bad src dst true none
        let o := exec (.copy d a b ch wm acq rel scope) s
        fails checks o ∧ (firstFail checks = none → queued o { new .copy src dst with wm := wm } 0))
      ∧ ∀ tab lin h l, is → ¬waits → RecordRead s c ra tab → RecordRead s c (ra + 64) lin →
        let scat := exec (.scatter d a b ch oobf acq rel scope) s
        let gath := exec (.gather d a b ch oobf acq rel scope) s
        let hdr := leNat h
        let m := hdr % 512
        let wd := idxBytes hdr
        let r := idxOf (tab.sizes.getD 1 1) wd l m
        let bad := !tab.tableOk || !lin.valid || tab.esize != lin.esize || lin.count != m * rowLen tab || own || !idxHeaderOk hdr
        let past := if oobf then r.2.map fun p => ((0x05 : BitVec 5), rb + BitVec.ofNat 56 (8 + wd * p)) else none
        let goob := if r.2.isSome then stickyGoob else 0
        (rb.toNat % 8 ≠ 0 → scat = .next (s.trap 0x03 rb) ∧ gath = .next (s.trap 0x03 rb))
          ∧ (rb.toNat % 8 = 0 → BytesRead s c 1 rb 8 h → BytesRead s c 40 (rb + 8) (if idxHeaderOk hdr then m * wd else 0) l →
            (fails (order bad lin tab false past) scat ∧ (firstFail (order bad lin tab false past) = none →
                queued scat { new .scatter lin tab with idx := r.1, count := m * rowLen tab } goob))
              ∧ fails (order bad tab lin false past) gath ∧ (firstFail (order bad tab lin false past) = none →
                queued gath { new .gather tab lin with idx := r.1, count := m * rowLen tab } goob))

/-- STRM and STRMW whose register is free of a pending result wait while the channel holds another context's work; with their record read they
trap ILLEGAL, OVERLAP or by the data checks, else they bind the register, with position 0, to the channel's next transfer. STRMEND of a register
that is no stream of the channel traps ILLEGAL; else it ends the stream, x[d] taking a free value. CWAIT of an id that has passed goes on, or
raises COPY_ABORT and clears the channel's abort bit; else it stalls. CDONE, CWM, CNEXT and CHSTAT give the channel's values. CABORT with no
transfer of its vintage on the channel goes on; else it aborts them, and waits while packets of theirs are out. -/
def Obligations.StreamAndChannelWords : Prop :=
  ∀ (d a : Reg) (ch : BitVec 3) (s : State) (x : Word) (c : Ctx),
    let site := s.cur.1
    let n := s.cur.2
    let chan := s.myCore.chan ch.toNat
    let ea : Addr := BitVec.ofNat 56 x.toNat
    let one := Issues s noHints [a] [] false false false [x] c
    let zero := Issues s noHints [] [] false false false [] c
    let query := fun (v : Word) => (.next ((finishScalar s c d v 0).logEv site 9 n v 0 0xFFFF 0 []) : Out)
    let id : BitVec 32 := BitVec.ofNat 32 x.toNat
    let gap := (chan.done - id).toNat
    (∀ (p : Pat) (write : Bool), one → c.clear d = true → chan.live.length < 4 → c.acquiring = false → RecordRead s c ea p →
      let o := if write then exec (.strmw d a ch) s else exec (.strm d a ch) s
      let bad := !p.valid || decide (3 < p.esize) || p.flag != 0 || (p.ext && p.pack) || (write && !p.canonical)
        || (spaceOf p.base == .peer && !p.dense) || c.mode d != .off || chan.live.any fun z => z.mine n
      let checks := [if bad then some ((0x01 : BitVec 5), (0 : Addr)) else none, if write && !p.once then some (0x02, 0) else none,
        s.patFail c p (if write then .dest else .stream)]
      let c1 := { c with
        issued := c.issued + 1, smode := c.smode.setIfInBounds (streamIx d) (if write then .write else .read),
        spos := c.spos.setIfInBounds (streamIx d) 0, strm := c.strm.setIfInBounds (streamIx d) ⟨ch.toNat, [], [], p.pops, false⟩ }
      let bound := (s.setMyCore (s.myCore.queueXfer ch.toNat { newXfer s c ch.toNat (if write then .wstream else .rstream) p p with
        wm := write })).setMe c1.advance
      (∀ cause fa, firstFail checks = some (cause, fa) → o = .next (s.trap cause fa))
        ∧ (firstFail checks = none → chan.live ≠ [] → o = .next s)
        ∧ (firstFail checks = none → chan.live = [] → o = .next (if write then bound else bound.due (.streamRefill site ch.toNat))))
      ∧ (zero → (c.mode d = .off ∨ (c.strm[streamIx d]?.getD StreamReg.off).ch ≠ ch.toNat) → exec (.strmend d ch) s = .next (s.trap 0x01 0))
      ∧ (zero → c.mode d ≠ .off → (c.strm[streamIx d]?.getD StreamReg.off).ch = ch.toNat →
        let t := s.endStream site n (streamIx d)
        ∃ v, exec (.strmend d ch) s = .next (t.setMe (t.me.put d v).advance))
      ∧ (one → (gap < 1 ∨ 2 ^ 31 ≤ gap) → exec (.cwait a ch) s = .next (s.setMe { s.me with stall := some (.done ch.toNat id) }))
      ∧ (one → 1 ≤ gap → gap < 2 ^ 31 → (c.abortMask.getLsbD ch.toNat = false → exec (.cwait a ch) s = .next (s.setMe c.advance))
        ∧ (c.abortMask.getLsbD ch.toNat = true → ∃ m, m.getLsbD ch.toNat = false
          ∧ (∀ i, i ≠ ch.toNat → m.getLsbD i = s.me.abortMask.getLsbD i)
          ∧ exec (.cwait a ch) s = .next ((s.setMe { s.me with abortMask := m }).trap 0x09 0)))
      ∧ (Issues s noHints [] [d] false false false [] c → exec (.cdone d ch) s = query (BitVec.ofNat 64 chan.done.toNat)
        ∧ exec (.cnext d ch) s = query (BitVec.ofNat 64 chan.next.toNat) ∧ exec (.chstat d ch) s = query chan.status
        ∧ (chan.live.all (fun z => !z.wm) = true → exec (.cwm d ch) s = query (BitVec.ofNat 64 chan.wm.toNat))
        ∧ ∀ z, List.find? (fun (z : Xfer) => z.wm) chan.live = some z → exec (.cwm d ch) s = query (BitVec.ofNat 64 (z.mark % 2 ^ 56)))
      ∧ (zero → s.me.hold = .none → (∀ z ∈ chan.xfers, z.vint ≠ c.vintage) → exec (.cabort ch) s = .next (s.setMe s.me.advance))
      ∧ (zero → s.me.hold = .none →
        let l := chan.live.filter fun z => z.vint == c.vintage
        let t := (l.foldl (fun u z => u.abortXfer site ch.toNat z.id (!z.mine n)) s).cutStreams site ch.toNat l
        let out := (t.myCore.chan ch.toNat).xfers.any fun z => z.vint == c.vintage && z.aborted
        exec (.cabort ch) s = .next (if out then t.setMe { t.me with hold := .cabort } else t.setMe t.me.advance))
      ∧ (zero → s.me.hold = .cabort → exec (.cabort ch) s
          = .next (if chan.xfers.any fun z => z.vint == c.vintage && z.aborted then s.setMe { s.me with hold := .cabort } else s.setMe s.me.advance))

/-- A collective word of a group at or above 48 traps PROT; of a group without a port, or of the other mode, ILLEGAL. CTB appends its word to the
open round: the contribution leaves when it is whole, the round then being the next; it waits while two results are not read and none has come.
CRD of a barrier, or of a round to which nothing was contributed, traps ILLEGAL; it waits for the result, traps COLL_TIMEOUT once on a
reported one, and else gives its next word, an f32 word narrowed. GSTAT gives the status word. CHAIN adds its word to its predecessor's total
and passes it on, or waits; after its timeout it passes its own word on, reported. -/
def Obligations.CollectiveWordsActOnTheirPort : Prop :=
  ∀ (d a : Reg) (grp : BitVec 6) (acq rel : Bool) (rnd : Rnd) (s : State) (x : Word) (c : Ctx),
    let site := s.cur.1
    let g := grp.toNat
    let one := Issues s noHints [a] [] false false false [x] c
    let wr := Issues s noHints [] [d] true false false [] c
    let both := Issues s noHints [a] [d] true false false [x] c
    let all := fun (o : Out) => (one → exec (.ctb a grp acq rel) s = o) ∧ (wr → exec (.crd d grp rnd) s = o ∧ exec (.gstat d grp) s = o)
      ∧ (both → exec (.chain d a grp) s = o)
    let stalled := fun (w : Await) => (.next (s.setMe { s.me with stall := some w }) : Out)
    (48 ≤ g → all (.next (s.trap 0x05 0)))
      ∧ (g < 48 → s.cport site g = none → all (.next (s.trap 0x01 0)))
      ∧ ∀ q, g < 48 → s.cport site g = some q → q.own = true →
        (one → q.conf.chain = true → exec (.ctb a grp acq rel) s = .next (s.trap 0x01 0))
          ∧ (both → q.conf.chain = false → exec (.chain d a grp) s = .next (s.trap 0x01 0))
          ∧ (one → q.conf.chain = false → (q.words ≠ [] ∨ (q.out = [] ∧ q.cr ≠ q.rr + 2)) →
            let ws := q.words ++ [x]
            let rels := q.rel ++ (if rel then (c.notPerformed .p).map fun o => (s.cur.2, o) else [])
            let q' := if ws.length < q.conf.words then { q with words := ws, wvint := c.vintage, rel := rels }
              else { q with words := [], rel := [], cr := q.cr + 1, out := q.out ++ [(⟨q.cr, c.vintage, ws, false, false, none, none⟩, rels)] }
            let c' := if acq then { c with rounds := c.rounds ++ [(g, q.cr)] } else c
            exec (.ctb a grp acq rel) s
              = .next (((((s.setCport site g q').setMe c'.advance).useGroup c.vintage g).logColl x).due (.contribution site g)))
          ∧ (one → q.conf.chain = false → q.words = [] → q.out = [] → q.cr = q.rr + 2 → q.current = none →
            exec (.ctb a grp acq rel) s = stalled (.result g q.rr.toNat))
          ∧ (wr → (q.conf.op = .barrier ∨ (rnd ≠ .rne ∧ (q.conf.oty = .f32 ∨ q.conf.oty.isInt = true))
              ∨ (q.current = none ∧ q.cr = q.rr ∧ q.words = [])) → exec (.crd d grp rnd) s = .next (s.trap 0x01 0))
          ∧ (wr → q.conf.op ≠ .barrier → (rnd = .rne ∨ (q.conf.oty ≠ .f32 ∧ q.conf.oty.isInt = false)) →
            (q.current = none → (q.cr ≠ q.rr ∨ q.words ≠ []) → exec (.crd d grp rnd) s = stalled (.result g q.rr.toNat))
              ∧ ∀ m, q.current = some m →
                (m.report ≠ none → q.tseen = false →
                  exec (.crd d grp rnd) s = .next ((s.setCport site g { q with tseen := true }).trap 0x0A 0))
                  ∧ ((m.report = none ∨ q.tseen = true) → (rnd = .rs → drawsBusy s = false) →
                    let w := m.words.getD q.rw 0
                    let r := if q.conf.ty = .f32 then narrowLanes q.conf.oty rnd w c.srstate else (w, 0, c.srstate)
                    let flags := r.2.1 ||| (if m.inexact then stickyInexact else 0) ||| (if m.invalid then stickyInvalid else 0)
                    let q' := if q.rw + 1 < q.conf.words then { q with rw := q.rw + 1 }
                      else { q with rr := q.rr + 1, rw := 0, tseen := false, held := q.held.filter fun h => h.round != q.rr }
                    exec (.crd d grp rnd) s
                      = .next ((finishScalar (s.setCport site g q') { c with srstate := r.2.2 } d r.1 flags).logColl r.1)))
          ∧ (wr → (∀ m, q.current = some m → exec (.gstat d grp) s = .next ((finishScalar s c d m.status 0).logColl m.status))
            ∧ (q.current = none → (q.cr ≠ q.rr ∨ q.words ≠ []) → exec (.gstat d grp) s = stalled (.result g q.rr.toNat))
            ∧ (q.current = none → q.cr = q.rr → q.words = [] → exec (.gstat d grp) s = .next ((finishScalar s c d q.last 0).logColl q.last)))
          ∧ (∀ p, both → q.conf.chain = true → s.partAt site = some p →
            let lcn := s.lcn site
            let l := s.chainLcns p g
            let mine : CMsg := ⟨q.cr, c.vintage, [x], false, false, none, none⟩
            let passes := fun (m : CMsg) (seen : Bool) =>
              let u := ((finishScalar (s.setCport site g { q with
                cr := q.cr + 1, tseen := seen, wait := none, preds := q.preds.filter fun b => b.round != q.cr })
                c d (m.words.headD 0) 0).useGroup c.vintage g).logColl (m.words.headD 0)
              ((∀ y ∈ l, y ≤ lcn) → exec (.chain d a grp) s = .next (u.sendUp q.root g 5 { m with routed := some (s.routedTo 2 0xFFFF lcn q.root) }))
                ∧ ∀ y, List.find? (fun y => decide (lcn < y)) l = some y → exec (.chain d a grp) s
                  = .next ((u.toPort (p.bound.getD y 0) (128 + g) { m with routed := some (s.routedTo 2 y lcn (p.bound.getD y 0)) }).due
                    (.chainPartial (p.bound.getD y 0) g))
            ((∀ y ∈ l, lcn ≤ y) → passes mine q.tseen)
              ∧ ((∃ y ∈ l, y < lcn) →
                (q.tseen = false →
                  (∀ m, List.find? (fun (m : CMsg) => m.round == q.cr) q.preds = some m →
                      passes { (q.conf.join m mine) with vint := c.vintage } false)
                    ∧ ((∀ m ∈ q.preds, m.round ≠ q.cr) →
                      let passing := ((s.chainBefore site g).map fun x => (s.core x).drained).getD false
                      let fresh := Timer.start (s.timerClock p) passing
                      let w := if s.me.stall = some (.beat g) then q.wait.getD fresh else fresh
                      exec (.chain d a grp) s
                        = .next ((s.setCport site g { q with wait := some w }).setMe { s.me with stall := some (.beat g) })))
                  ∧ (q.tseen = true → passes { mine with report := some ⟨true, 0, site⟩ } false)))

/-- CCFG in supervisor mode: a group at or above 48 traps PROT; a record address that is not a multiple of 64 traps MISALIGN; with header and
nodes read, a record that is no legal configuration, or whose nodes are no tree of the partition, traps ILLEGAL, and a legal one is sent to the
routers with the context held. It waits while held, and goes on once every router has answered. A router that takes
a configuration writes or clears its entry, and the last one's answer frees the issuing context. -/
def Obligations.GroupsAreConfigured : Prop :=
  (∀ (a : Reg) (grp : BitVec 6) (s : State) (x : Word) (c : Ctx), Issues s noHints [a] [] false true false [x] c →
    let at' : Addr := BitVec.ofNat 56 x.toNat
    (s.me.hold = .ccfg → exec (.ccfg a grp) s = .next s)
      ∧ (s.me.hold = .ccfgDone → exec (.ccfg a grp) s = .next (s.setMe c.advance))
      ∧ (s.me.hold = .none → 48 ≤ grp.toNat → exec (.ccfg a grp) s = .next (s.trap 0x05 0))
      ∧ (s.me.hold = .none → grp.toNat < 48 → at'.toNat % 64 ≠ 0 → exec (.ccfg a grp) s = .next (s.trap 0x03 at'))
      ∧ ∀ p h l, s.me.hold = .none → grp.toNat < 48 → at'.toNat % 64 = 0 → s.partAt s.cur.1 = some p → BytesRead s c 1 at' 64 h →
        let w := leNat (h.take 8)
        let n := w / 2 ^ 48 % 2 ^ 14
        let nodes := (List.range n).map fun i => nodeOf (leNat ((l.drop (8 * i)).take 8))
        let plain := (h.drop 8).all (· == 0) = true ∧ 1 ≤ n ∧ n ≤ 9120
        BytesRead s c 1200 (at' + 64) (8 * min 9120 n) l →
          ((¬plain ∨ confOf w = none ∨ nodeTable nodes = none ∨ ∃ t, nodeTable nodes = some t ∧ treeRoot p t = none) →
              exec (.ccfg a grp) s = .next (s.trap 0x01 0))
            ∧ ∀ conf t root, plain → confOf w = some conf → nodeTable nodes = some t → treeRoot p t = some root →
              let left := p.sites.filter fun y => !(s.router y).fenced
              let m : GroupMsg := ⟨grp.toNat, some conf, entriesOf p conf root t, s.cur.1, s.cur.2, left⟩
              exec (.ccfg a grp) s = .next (((s.setPart p.lead { p with cfgs := p.cfgs ++ [m] }).setMe
                { s.me with stall := none, hold := .ccfg }).due (.groupConfiguration (left.headD s.cur.1))))
    ∧ (∀ (site : Nat) (s : State) (p : Part) (m : GroupMsg), s.partAt site = some p →
      List.find? (fun (m : GroupMsg) => m.left.contains site) p.cfgs = some m →
      answers (exec (.groupConfiguration site) s) fun t => (t.router site).groups
        = (match Tbl.find? m.nodes site with
          | some e => Tbl.put (s.router site).groups m.grp e
          | none => Tbl.del (s.router site).groups m.grp))
    ∧ ∀ (site : Nat) (s : State) (p : Part) (m : GroupMsg), s.partAt site = some p →
      List.find? (fun (m : GroupMsg) => m.site == site && m.left.isEmpty) p.cfgs = some m → (s.ctx site m.ctx).hold = .ccfg → m.ctx < 8 →
      answers (exec (.groupConfigurationAnswer site) s) fun t => (t.ctx site m.ctx).hold = .ccfgDone

/-- A pending result of a context, in any order of readiness, becomes ready and its scoreboard bits clear. A cached line leaves, and only it. A
translation that the band's agent or a walk gives is cached at the core. The oldest unsent entry of a write queue is sent and marked. A suspension
point whose counters and vector work are done first raises the oldest posted fault, then an observed abort; else it gives up what the task held
and writes the record back, a domain's end taking neither trap; a yield that traps gives back the entry kept for it. A task stalled outside a word
group, with no posted fault and no abort to raise, leaves, when it has a record, its context as a continuation image. A pre-emption request
reserves the pool's first entry for the best victim; the victim's image is then saved and the entry accepted. A pre-empted image is restored into
an idle context that the budgets admit. -/
def Obligations.CoreEventsFollowTheirRules : Prop :=
  ∀ (s : State) (site ctx : Nat),
    let c := s.ctx site ctx
    let k := s.core site
    (c.due ≠ [] → ∃ i, i < c.due.length ∧ exec (.scalarResultReady site ctx) s
        = .next (s.setCtx site ctx { c with due := c.due.eraseIdx i, sb := c.sb &&& ~~~(c.due[i]?.getD 0) }))
      ∧ (∀ line, exec (.lineEviction site line) s
        = .next (s.setCore site { k with cache := k.cache.filter fun m => m.line != line }))
      ∧ (∀ page p v x, s.partAt site = some p → k.vintages = [v] →
        let held := (s.band (bandOf site)).agent.any fun y => y.vint == v && y.page == page
        let u := if held then s else s.readWalk p v page
        u.agentLook p (bandOf site) v page = some x →
        answers (exec (.translationMiss site page) s) fun t =>
          (t.core site).cached v page = some ⟨x.ppa, x.rd, x.wr, x.ex⟩ ∧ t.mem = u.mem ∧ ∀ n, t.ctx site n = u.ctx site n)
      ∧ (∀ e p, List.find? (fun (e : WqEntry) => e.ctx == ctx && !e.sent) k.wq = some e → s.partAt site = some p →
        s.coreCanSend site (p.slotEp e.line) = true →
        let s1 := s.setCore site { k with wq := k.wq.map fun x => if x = e then { x with sent := true } else x }
        exec (.writeQueueDrain site ctx) s
          = .next (s1.sendFromCore site (p.slotEp e.line) ctx (e.ids.headD 0) 0 e.vint (.store (.rim e.line) e.data e.mask)))
      ∧ (∀ q, c.hold = .suspending q → (∀ a b d e f, q ≠ .ending a b d e f) → c.occ = .running → s.quiet site ctx = true →
        let free := { c with hold := .none }
        let back := fun (t : State) => match q with
          | .yields _ => t.unreserve site ctx
          | _ => t
        (∀ f, c.oldestPosted (fun _ => true) = some f → exec (.suspensionPoint site ctx) s
            = .next (back ((s.setCtx site ctx { free with posted := c.posted.erase f }).trapAt site ctx f.cause f.faddr f.fstep)))
          ∧ (c.oldestPosted (fun _ => true) = none → c.abortMask ≠ 0 → exec (.suspensionPoint site ctx) s
            = .next (back ((s.setCtx site ctx free.abortRaised).trapAt site ctx 0x09 0 0)))
          ∧ (c.oldestPosted (fun _ => true) = none → c.abortMask = 0 →
            let s1 := ((s.deliveryPoint site ctx).endStreams site ctx).releaseTiles site ctx
            exec (.suspensionPoint site ctx) s = .next (((s1.detachCopies site ctx).wakeImages site).writeBack site ctx q)))
      ∧ (∀ a b d e f, c.hold = .suspending (.ending a b d e f) →
        let s0 := s.discardTiles site ctx
        (s0.ctx site ctx).hold = .suspending (.ending a b d e f) → (s0.ctx site ctx).occ = .running → s0.quiet site ctx = true →
        let s1 := ((s0.deliveryPoint site ctx).endStreams site ctx).releaseTiles site ctx
        exec (.suspensionPoint site ctx) s
          = .next (((s1.detachCopies site ctx).wakeImages site).writeBack site ctx (.ending a b d e f)))
      ∧ (∀ p w slot, s.partAt site = some p → c.stall = some w → p.freeSlot (s.lcn site) = some slot → c.occ = .running →
        c.issues = true → c.inGroup = false → c.task ≠ 0 → s.quiet site ctx = true →
        (∀ f, c.oldestPosted (fun _ => true) = some f → exec (.stallConversion site ctx) s
            = .next ((s.setCtx site ctx { c with posted := c.posted.erase f }).trapAt site ctx f.cause f.faddr f.fstep))
          ∧ (c.oldestPosted (fun _ => true) = none → c.abortMask ≠ 0 → exec (.stallConversion site ctx) s
            = .next ((s.setCtx site ctx c.abortRaised).trapAt site ctx 0x09 0 0))
          ∧ (c.oldestPosted (fun _ => true) = none → c.abortMask = 0 →
            let s1 := ((s.deliveryPoint site ctx).updCtx site ctx Ctx.drainScalar).saveImage site ctx slot .continuation
            exec (.stallConversion site ctx) s = .next ((s1.updCore site fun y => { y with
              tiles := y.tiles.map fun t => { t with waiters := t.waiters.filter (· != ctx) } }).writeBack site ctx .convert)))
      ∧ (∀ p slot i n la, s.partAt site = some p → s.lcnOf site ≠ none →
        List.find? (fun (i : Image) => i.slot == slot) (p.imagesOf (s.lcn site)) = some i → k.idleCtx = some n →
        p.launch? i.c.vintage = some la → i.kind = .preempted → la.places = true → k.budget la i.c.region.toNat none = true →
        k.fenced = false → k.drained = false → k.stopped = false →
        exec (.imageRestore site slot) s = .next (s.restoreImage site n i))
      ∧ (∀ part dist p e es y l n r, s.part? part = some p → (p.pool dist).preempt = none → (p.pool dist).entries = e :: es →
        s.keptFor (p.pool dist) e = false → bestVictim (s.victims p dist e) = some (y, l, n, r) →
        exec (.preemptionRequest part dist) s = .next ((s.setPart part
          (p.setPool dist { ((p.pool dist).reserve e.seq y n) with preempt := some (y, n) })).due (.preemption y n)))
      ∧ (∀ p l slot e, s.partAt site = some p → s.lcnOf site = some l → (p.pool (l / 64)).preempt = some (site, ctx) →
        c.occ = .running → c.ld = 0 → c.st = 0 → c.hints = none → c.hold = .none → (k.vq.any fun e => e.ctx == ctx) = false →
        k.rowsOut ctx = false → k.canStopTiles ctx = true → c.oldestPosted (fun _ => true) = none → p.freeSlot l = some slot →
        List.find? (fun (e : PoolEntry) => e.reserved == some (site, ctx)) (p.pool (l / 64)).entries = some e →
        let s1 := ((s.updCtx site ctx Ctx.drainScalar).stopTiles site ctx).deliveryPoint site ctx
        let s2 := (s1.saveImage site ctx slot .preempted).updCtx site ctx Ctx.leave
        let s3 := (s2.updPart p.lead fun r => r.setPool (l / 64) { r.pool (l / 64) with preempt := none }).logEv
          site 8 ctx (BitVec.ofNat 64 slot) c.task 0xFFFF 0 []
        (s3.eligible site none e.carr = true → exec (.preemption site ctx) s
            = .next ((s3.updPart p.lead fun r => r.setPool (l / 64) ((r.pool (l / 64)).without e.seq)).accept site ctx e.carr))
          ∧ (s3.eligible site none e.carr = false → exec (.preemption site ctx) s = .next ((s3.unreserve site ctx).due (.poolPull site))))

/-- A router offers a carriage that its core has not been offered: one of a killed vintage is dropped; an eligible core takes it into its
lowest idle context; at its hint's site an unaccepted one goes to the district's pool, or is counted ended when its fault domain is over;
elsewhere it is marked and routed on. A pool gives an arriving carriage to the oldest recorded pull that is eligible, else queues it after
every entry of its priority or a higher one. A context that yielded takes the entry reserved for it, else is idle. A pull takes what was
sent for it, else restores an image or takes the first eligible entry, else is recorded; one whose context is busy is withdrawn. An entry that its core cannot accept returns to its place. A YIELD's
query reserves the first eligible entry of at least the task's priority and answers. -/
def Obligations.CarriagesReachACoreOrAPool : Prop :=
  (∀ (s : State) (site : Nat) (p : Part) (h : Held) (f : Flit) (k : Carr), s.partAt site = some p →
    (s.router site).carriage site = some h →
    s.heldCarriage p site h = (f, k) →
    let gone := s.setRouter site ((s.router site).settleCarriage h site false)
    ((s.router site).discard.contains k.vint = true → exec (.carriage .request site) s = .next gone)
      ∧ ((s.router site).discard.contains k.vint = false →
        (∀ n, s.eligible site none k = true → (s.core site).idleCtx = some n → exec (.carriage .request site) s = .next (gone.accept site n k))
          ∧ (s.eligible site none k = false →
            (f.dsite = site → f.park = false → p.domainOver k = true →
              exec (.carriage .request site) s = .next (gone.updCore site fun c => c.endedOne k.vint 0))
              ∧ (f.dsite = site → f.park = false → p.domainOver k = false → exec (.carriage .request site) s = .next (gone.toPool p.lead k))
              ∧ ((f.dsite ≠ site ∨ f.park = true) → exec (.carriage .request site) s
                = .next ((s.setRouter site ((s.router site).settleCarriage h site true)).due (.flitRouting .request site))))))
    ∧ (∀ (s : State) (part d : Nat) (p : Part) (k : Carr) (rest : List Carr), s.part? part = some p → (p.pool d).arriving = k :: rest →
      let q := p.pool d
      let e : PoolEntry := ⟨q.nextSeq, k, none⟩
      let q1 := { q with arriving := rest, nextSeq := q.nextSeq + 1 }
      (∀ r, List.find? (fun (r : PullReq) => s.eligible r.site none k) q.pulls = some r → exec (.poolEntry part d) s
          = .next ((s.setPart part (p.setPool d { q1 with pulls := q1.pulls.erase r, sent := q1.sent ++ [(r.site, e)] })).due (.poolPull r.site)))
        ∧ ((∀ r ∈ q.pulls, s.eligible r.site none k = false) → exec (.poolEntry part d) s
          = .next ((s.setPart part (p.setPool d { q1 with entries := insertEntry e q1.entries })).callFor p d k)))
    ∧ (∀ (e : PoolEntry) (l : List PoolEntry), (∀ x ∈ l, x.seq < e.seq) →
      insertEntry e l = l.takeWhile (fun x => decide (e.carr.r.prio ≤ x.carr.r.prio)) ++ e :: l.dropWhile fun x => decide (e.carr.r.prio ≤ x.carr.r.prio))
    ∧ (∀ (s : State) (site l : Nat) (p : Part), s.partAt site = some p → s.lcnOf site = some l →
      let c := s.core site
      let q := p.pool (l / 64)
      (∀ n, c.fenced = false → c.drained = false → c.dead = false → c.stopped = false → c.idleCtx = some n → c.pull = none →
        (∀ x ∈ q.sent, x.1 ≠ site) → (∀ m < 8, (c.ctx m).occ ≠ .yielded) →
        (p.bestImage l = none →
          (∀ e, s.first q (fun e => s.eligible site none e.carr) = some e → exec (.poolPull site) s
              = .next (((s.setPart p.lead (p.setPool (l / 64) (q.without e.seq))).clearPull site).accept site n e.carr))
            ∧ (s.first q (fun e => s.eligible site none e.carr) = none →
              answers (exec (.poolPull site) s) fun t => (t.core site).pull = some n
                ∧ ∀ p', t.part? p.lead = some p' → (p'.pool (l / 64)).pulls = q.pulls ++ [⟨site, n⟩]))
          ∧ (∀ i, p.bestImage l = some i →
            s.first q (fun e => decide (i.c.prio < e.carr.r.prio) && s.eligible site none e.carr) = none →
            exec (.poolPull site) s = .next (s.due (.imageRestore site i.slot))))
        ∧ (∀ n e, c.fenced = false → c.drained = false → c.dead = false → c.stopped = false →
          ((List.range 8).find? fun m => (c.ctx m).occ == .yielded) = some n →
          (q.entries.find? fun e => e.reserved == some (site, n)) = some e → s.eligible site (some n) e.carr = true →
          exec (.poolPull site) s = .next (((s.updCtx site n fun x => { x with occ := .idle }).setPart p.lead
            (p.setPool (l / 64) (q.without e.seq))).accept site n e.carr))
        ∧ (∀ m, c.pull = some m → (c.ctx m).occ ≠ .idle → exec (.pullWithdraw site) s
          = .next (((s.setPart p.lead (p.setPool (l / 64) { q with pulls := q.pulls.filter fun r => r.site != site })).clearPull site).due
            (.poolPull site))))
    ∧ (∀ (s : State) (part d : Nat) (p : Part) (x : Nat × PoolEntry), s.part? part = some p →
      List.find? (fun (x : Nat × PoolEntry) => (s.core x.1).pull.isNone || !s.eligible x.1 none x.2.carr) (p.pool d).sent = some x →
      let wants := List.find? (fun (r : PullReq) => s.eligible r.site none x.2.carr) (p.pool d).pulls
      (wants = none → exec (.entryReturn part d) s = .next ((s.setPart part (p.setPool d { (p.pool d) with
          sent := (p.pool d).sent.erase x, entries := insertEntry x.2 (p.pool d).entries })).callFor p d x.2.carr))
        ∧ ∀ r, wants = some r → exec (.entryReturn part d) s = .next ((s.setPart part (p.setPool d { (p.pool d) with
          sent := (p.pool d).sent.erase x ++ [(r.site, x.2)], pulls := (p.pool d).pulls.erase r })).due (.poolPull r.site)))
    ∧ (∀ (s : State) (site ctx l : Nat) (p : Part), s.partAt site = some p → s.lcnOf site = some l → (s.ctx site ctx).hold = .yield →
      let c := s.ctx site ctx
      let q := p.pool (l / 64)
      let may := fun (e : PoolEntry) => decide (c.prio ≤ e.carr.r.prio) && s.eligible site (some ctx) e.carr
      (∀ e, c.task ≠ 0 → s.first q may = some e → exec (.yieldQuery site ctx) s
          = .next ((s.setPart p.lead (p.setPool (l / 64) (q.reserve e.seq site ctx))).updCtx site ctx fun x => { x with hold := .yieldDone true }))
        ∧ ((c.task = 0 ∨ s.first q may = none) →
          exec (.yieldQuery site ctx) s = .next (s.updCtx site ctx fun x => { x with hold := .yieldDone false })))

/-- A sent flit takes its pair's next number, modulo 4,096, and is offered at its router; a carriage takes none and names no source. A productive
port leads to a site one hop nearer. A flit that is not detoured leaves by the first productive port that can be taken. In a turn a router's ranked
flits take their outputs one after the other, each of the ports that the ones before it left: one of a killed vintage becomes void, a carriage of it
is gone; one at its site is ejected when its endpoint accepts it; a parked one at its rim goes to the siding; another leaves whenever some port is
free. A flit whose pair has 2,048 others unanswered is not injected. An ejected flit is applied next when its number is expected, is held when
it is early, and is dropped when it is a duplicate. Taking a flit in advances the expected number and brings the pair's next held flit, of either
plane, into order. A void flit is passed over. The siding keeps a parked flit in its list while its area has room, and releases a list's head when
its endpoint has 16 entries, or in step 3 of a rebinding; a band whose lists of the endpoint are empty then is done. -/
def Obligations.FlitsKeepTheirOrderAndReachTheirSite : Prop :=
  (∀ (s : State) (lead site sep dep ctx id tag : Nat) (rim : Bool) (v : BitVec 32) (b : Body) (p : Part), s.part? lead = some p →
    let t := s.send lead site rim sep dep ctx id tag v b
    let n := Tbl.get 0 (p.ep sep).next dep
    ∃ f p', t.part? lead = some p' ∧ t.router site = (s.router site).offer rim f ∧ t.pending = s.pending ++ [.ev (.flitRouting b.plane site)]
      ∧ f.body = b ∧ f.plane = b.plane ∧ f.part = lead ∧ f.dep = dep ∧ f.dsite = s.dsiteOf p site dep ∧ f.vint = v
      ∧ f.ctx = ctx ∧ f.id = id ∧ f.tag = tag ∧ f.inj = s.module.fc % 2 ^ 14
      ∧ (b.kind ≠ 6 → f.sep = sep ∧ f.seq = n ∧ Tbl.get 0 (p'.ep sep).next dep = (n + 1) % 4096)
      ∧ (b.kind = 6 → f.sep = 0xFFFF ∧ f.seq = 0 ∧ p'.ep sep = p.ep sep))
    ∧ (∀ site dst d, site < 9120 → dst < 9120 → d ∈ productive site dst →
      ∃ n, neighbour site d = some n ∧ n < 9120 ∧ hops n dst + 1 = hops site dst)
    ∧ (∀ f site i free up d, f.det = false → List.find? (fun d => free.contains d) (productive site (destSite f.dsite)) = some d →
      d ∈ up → ∃ g, route f site i free up = some (d, g) ∧ g.last = d ∧ g.det = false ∧ g.body = f.body ∧ g.dep = f.dep ∧ g.seq = f.seq)
    ∧ (∀ f site i free up d, d < 4 → d ∈ free → (∀ j, i = some j → j < 4) → ∃ e g, route f site i free up = some (e, g) ∧ e ∈ free)
    ∧ (∀ (s : State) (pl : Plane) (site : Nat) (p : Part), s.partAt site = some p →
      ((s.router site).fenced = true → exec (.flitRouting pl site) s = .next s)
        ∧ ((s.router site).fenced = false →
          let t := s.allocate pl site p.lead [] (s.ranked pl p (s.router site))
          exec (.flitRouting pl site) s = .next t ∨ exec (.flitRouting pl site) s = .next (t.dueOnce (.flitRouting pl site))))
    ∧ (∀ (s : State) (pl : Plane) (site lead : Nat) (p : Part) (taken : List Nat) (k : Slot') (f : Flit) (rest : List (Slot' × Flit)),
      s.part? lead = some p →
      (∀ s1 d, s.handle pl site p taken k f = some (s1, d) →
          s.allocate pl site lead taken ((k, f) :: rest) = s1.allocate pl site lead (taken ++ d) rest)
        ∧ (s.handle pl site p taken k f = none → s.allocate pl site lead taken ((k, f) :: rest) = s.allocate pl site lead taken rest))
    ∧ (∀ (s : State) (pl : Plane) (site : Nat) (p : Part) (taken : List Nat) (k : Slot') (f : Flit), s.closed site k = false →
      s.atRouter p site k f = f →
      let r := s.router site
      let gone := s.setRouter site (r.take pl k)
      (r.discard.contains f.vint = true → f.body.kind = 6 → s.handle pl site p taken k f = some (gone, []))
        ∧ (r.discard.contains f.vint = false → f.unoffered site = false →
          (f.park = true → destSite f.dsite = site → s.sidingUsed p (bandOf site) < 1677721 → s.handle pl site p taken k f
              = some ((s.setRouter site (r.replace pl k f)).due (.sidingAppend pl site), []))
            ∧ (f.park = false → s.parkedAt p site f = false → destSite f.dsite = site → f.body.kind ≠ 6 → isSlot f.dep = true →
              (p.ep f.dep).accepts f.dep (s.storeUsed p f.dep pl) f = true →
              let e := p.ep f.dep
              s.handle pl site p taken k f = some (((s.setPart p.lead (p.setEp f.dep
                (e.setPlane pl (e.arr pl ++ [f]) (e.store pl) (e.ins pl)))).setRouter site (r.take pl k)).due (.flitArrival pl p.lead f.dep), []))
            ∧ (f.park = false → s.parkedAt p site f = false → destSite f.dsite ≠ site → ∀ d n, s.port site d = some n →
              List.find? (fun d => (s.freePorts site taken).contains d) (productive site (destSite f.dsite)) = some d → f.det = false →
              ∃ t, s.handle pl site p taken k f = some (t, [d]))))
    ∧ (∀ (p : Part) (r : Router) (f : Flit), f.last = 4 → f.body.awaits = true → r.offCoreReq = [f] → r.offCoreRep = [] → r.offRimReq = [] →
      r.offRimRep = [] → (p.pairOut f.sep f.dep ≤ 2048 → p.injectable r [f] = some (0, f)) ∧ (2048 < p.pairOut f.sep f.dep → p.injectable r [f] = none))
    ∧ (∀ (s : State) (pl : Plane) (part ep : Nat) (p : Part) (f : Flit) (t : List Flit), s.part? part = some p → (p.ep ep).arr pl = f :: t →
      let e := p.ep ep
      let w := (f.seq + 4096 - Tbl.get 0 e.expct f.sep) % 4096
      let known := ∃ g ∈ e.ins pl ++ e.store pl, g.sep = f.sep ∧ g.seq = f.seq
      let put := fun (st ins : List Flit) => s.setPart part (p.setEp ep (e.setPlane pl t st ins))
      ((known ∨ 2048 ≤ w) → exec (.flitArrival pl part ep) s = .next (put (e.store pl) (e.ins pl)))
        ∧ (¬known → w = 0 → exec (.flitArrival pl part ep) s
          = .next ((put (e.store pl) (e.ins pl ++ [f])).due (eventOf part ep pl f.body)))
        ∧ (¬known → 0 < w → w < 2048 → exec (.flitArrival pl part ep) s = .next (put (e.store pl ++ [f]) (e.ins pl))))
    ∧ (∀ (s : State) (pl : Plane) (part ep : Nat) (p : Part) (f : Flit) (t : List Flit), s.part? part = some p →
      s.portHeld p ep pl = false → (p.ep ep).ins pl = f :: t → p.siding = [] →
      let e := p.ep ep
      let n := (Tbl.get 0 e.expct f.sep + 1) % 4096
      let e1 := { e.setPlane pl (e.arr pl) (e.store pl) t with expct := Tbl.put e.expct f.sep n }
      ∃ s1, s.takeIn part ep pl = some (f, s1)
        ∧ (f.body = .void → exec (.voidFlit pl part ep) s = .next s1)
        ∧ (takeFlit f.sep n e.reqStore = none → takeFlit f.sep n e.repStore = none → s1 = s.setPart part (p.setEp ep e1))
        ∧ (∀ g st, takeFlit f.sep n e.reqStore = some (g, st) →
          s1 = (s.setPart part (p.setEp ep { e1 with reqStore := st, reqIn := e1.reqIn ++ [g] })).due (eventOf part ep g.plane g.body))
        ∧ (∀ g st, takeFlit f.sep n e.reqStore = none → takeFlit f.sep n e.repStore = some (g, st) →
          s1 = (s.setPart part (p.setEp ep { e1 with repStore := st, repIn := e1.repIn ++ [g] })).due (eventOf part ep g.plane g.body)))
    ∧ (∀ (s : State) (pl : Plane) (site : Nat) (p : Part) (k : Slot') (f : Flit), s.partAt site = some p →
      List.find? (fun (e : Slot' × Flit) => e.2.park && destSite e.2.dsite == site) (s.ranked pl p (s.router site)) = some (k, f) →
      (s.sidingUsed p (bandOf site) < 1677721 → exec (.sidingAppend pl site) s
        = .next (((s.setRouter site ((s.router site).take pl k)).setPart p.lead (p.sidingAppend (bandOf site) { f with park := false })).later
          (.sidingRelease p.lead f.list)))
        ∧ (1677721 ≤ s.sidingUsed p (bandOf site) → exec (.sidingAppend pl site) s
          = .next ((s.notice (.sidingFull (bandOf site))).due (.flitRouting pl site))))
    ∧ (∀ (s : State) (part list : Nat) (p : Part) (l : SidingList) (f : Flit) (t : List Flit), s.part? part = some p →
      List.find? (fun (l : SidingList) => l.list == list && !l.flits.isEmpty) p.siding = some l → l.flits = f :: t →
      let site := releasePort (s.dsiteOf p (p.siteOf f.dep) f.dep)
      (s.releaseStage p f.dep = some false → exec (.sidingRelease part list) s = .next s)
        ∧ (s.releaseStage p f.dep = some true ∨ (s.releaseStage p f.dep = none ∧ s.storeUsed p f.dep f.plane + 16 ≤ storeSize f.dep) →
          s.parkedAt p site f = false →
          (s.systemBadAt l.band = true → exec (.sidingRelease part list) s = .next (s.due .warmReset)) ∧ (s.systemBadAt l.band = false →
          let g := { f with dsite := s.dsiteOf p site f.dep, inj := s.module.fc % 2 ^ 14, det := false, last := 0 }
          let left := (p.siding.map fun x => if x = l then { x with flits := t } else x).filter fun x => !x.flits.isEmpty
          let s1 := ((s.setPart part { p with siding := left }).setRouter site ((s.router site).offer true g)).due (.flitRouting f.plane site)
          let s2 := if s.releaseStage p f.dep = some true ∧ !({ p with siding := left }).hasParked l.band f.dep then
              s1.later (.rebindReleaseAck (10 * l.band) f.dep)
            else s1
          exec (.sidingRelease part list) s
            = .next (if left.any fun x => x.list == list then s2.later (.sidingRelease part list) else s2))))

/-- A home takes the next request of its endpoint and answers it: a load or GETA at a slot with the bytes its view reads, or with their
whole line, and the sticky bits of the folds among the bytes asked for, the row activated;
a store, PUTA, atomic or record operation at a slot when it is performed or refused with 0x12, else kept there until the switch; at a core's
port reads are read or wait behind a copy, and writes are delivered. A copy request at a slot sends one landing of all its bytes. A fault
message is answered with a resume packet when the walk gives the right, else with an abort. A resume clears the transfer's freeze and drops the
launch's translations; an abort packet aborts the transfer; a close ends its comparisons. Cellar traffic is kept by the owner's host. A write
of a launch that is not switched changes its own view of the written bytes only: no other launch's view and not the committed view. -/
def Obligations.RequestsAreServedAtTheirHome : Prop :=
  (∀ (s : State) (part ep : Nat) (f : Flit) (s1 : State) (p : Part), s.takeIn part ep .request = some (f, s1) → s1.part? part = some p →
    let site := p.siteOf ep
    let v := f.vint
    let t := s1.served site v
    let rimRead := fun (committed : Bool) (ppa n : Nat) => (s1.readAtHome p v ppa n).homeLoad p v committed ppa n
    let chan := fun (ppa : Nat) => p.chanOf (p.slotOf ppa)
    let thawed := fun (ch id : Nat) (v : BitVec 32) (c : Core) => { c.updXfer ch (BitVec.ofNat 32 id) (fun y => { y with frozen := false }) with
      xlat := c.xlat.filter fun e => e.vint != v }
    (∀ ppa n cm, f.body = .load (.rim ppa) n cm false → exec (.loadRequest part ep) s
        = .next ((s1.readAtHome p v ppa n).answer f (.data (rimRead cm ppa n).1 (rimRead cm ppa n).2 false false none)))
      ∧ (∀ ppa n cm, f.body = .load (.rim ppa) n cm true →
        let u := s1.readAtHome p v (ppa / 64 * 64) 64
        exec (.loadRequest part ep) s = .next (u.answer f (.data (u.homeLoad p v cm (ppa / 64 * 64) 64).1 (u.homeLoad p v cm ppa n).2
          false false none)))
      ∧ (∀ o n cm x, f.body = .load (.core o) n cm x → exec (.loadRequest part ep) s = .next (s1.readAtPort site f))
      ∧ (∀ line d m, f.body = .store (.rim line) d m →
        (∀ u, s1.homeStore p v line m d = .done u → exec (.storeRequest part ep) s = .next (u.answer f (.ack none 0)))
          ∧ (∀ u, s1.homeStore p v line m d = .full u → exec (.storeRequest part ep) s = .next (u.answer f (.ack (some 0x12) 0)))
          ∧ (∀ u, s1.homeStore p v line m d = .wait u → exec (.storeRequest part ep) s = .next (u.holdAtRim (chan line) f)))
      ∧ (∀ o d m, f.body = .store (.core o) d m →
        exec (.storeRequest part ep) s = .next (t.arriveWrite site v (.remote f) (.store o d) false))
      ∧ (∀ o d m, f.body = .row o d m → exec (.storeRequest part ep) s = .next (t.arriveWrite site v (.remote f) (.row o d m) false))
      ∧ (∀ ppa a, f.body = .atomic (.rim ppa) a →
        let s2 := s1.checkAtHome p v ppa (a.w / 8)
        (∀ u r, s2.atomicAtRim p v ppa a = .done u r → exec (.atomicRequest part ep) s
            = .next (u.answer f (if a.valued then .data r.bytes r.sticky r.miss r.sync r.refused else .ack r.refused r.status)))
          ∧ (∀ u, s2.atomicAtRim p v ppa a = .wait u → exec (.atomicRequest part ep) s = .next (u.holdAtRim (chan ppa) f)))
      ∧ (∀ o a, f.body = .atomic (.core o) a →
        exec (.atomicRequest part ep) s = .next (t.arriveWrite site v (.remote f) (.atomic o a) a.valued))
      ∧ (∀ ppa n, f.body = .geta (.rim ppa) n → exec (.activeMessage part ep) s
        = .next ((s1.readAtHome p v ppa n).answer f (.data (rimRead false ppa n).1 (rimRead false ppa n).2 false false none)))
      ∧ (∀ o n, f.body = .geta (.core o) n → exec (.activeMessage part ep) s = .next (s1.readAtPort site f))
      ∧ (∀ l u, (s1.homeStoreSeq p v l = .full u → s1.homeStoreAll p v l = .full (s1.startKill p.lead v ⟨4, 0, 0, false⟩))
        ∧ (s1.homeStoreSeq p v l = .done u → s1.homeStoreAll p v l = .done u)
        ∧ (s1.homeStoreSeq p v l = .wait u → s1.homeStoreAll p v l
          = .wait ((s1.updPart p.lead fun q => q.updLaunch v fun k => { k with switchAsked := true }).later (.vintageSwitch p.lead v.toNat))))
      ∧ (∀ ppa d, f.body = .puta (.rim ppa) d →
        (∀ u, s1.homeStoreAll p v (linePieces 8 ppa d) = .done u → exec (.activeMessage part ep) s = .next (u.answer f (.ack none 0)))
          ∧ (∀ u, s1.homeStoreAll p v (linePieces 8 ppa d) = .full u → exec (.activeMessage part ep) s
            = .next (u.answer f (.ack (some 0x12) 0)))
          ∧ (∀ u, s1.homeStoreAll p v (linePieces 8 ppa d) = .wait u → exec (.activeMessage part ep) s = .next (u.holdAtRim (chan ppa) f)))
      ∧ (∀ o d, f.body = .puta (.core o) d → exec (.activeMessage part ep) s = .next (t.arriveWrite site v (.remote f) (.store o d) false))
      ∧ (∀ ppa a o, f.body = .recop (.rim ppa) a o →
        (∀ u r, s1.recAtRim p v ppa a o = .done u r → exec (.recordOperation part ep) s = .next (u.answer f (.ack r.refused r.status)))
          ∧ (∀ u, s1.recAtRim p v ppa a o = .wait u → exec (.recordOperation part ep) s = .next (u.holdAtRim (chan ppa) f)))
      ∧ (∀ off a o, f.body = .recop (.core off) a o →
        ((s1.core site).bufAt v off 64 = none → exec (.recordOperation part ep) s = .next (s1.answer f (.ack (some 0x05) 0)))
          ∧ ((s1.core site).bufAt v off 64 ≠ none →
            let r := t.recAtScr site v off o f.sep f.seq
            exec (.recordOperation part ep) s = .next (r.1.answer f (.ack r.2.refused r.2.status))))
      ∧ (∀ reads cm dep k, f.body = .copyRead reads cm dep k →
        (isSlot ep = false → exec (.copyReadRequest part ep) s = .next (s1.readAtPort site f))
          ∧ (∀ ppa n d, isSlot ep = true → reads = [(ppa, n, d)] → exec (.copyReadRequest part ep) s
            = .next ((s1.readAtHome p v ppa n).sendLanding f dep k [(d, (rimRead cm ppa n).1)])))
      ∧ (∀ lo hi k wm, f.body = .open lo hi k wm →
        exec (.remoteOpen part ep) s = .next (t.arriveWrite site v (.remote f) (.open lo hi k wm) false))
      ∧ (∀ ch id va wr w, f.body = .faultMsg ch id va wr w →
        let m := (p.launch? w).bind fun l => s1.walkFrom p l.cmd.ptroot (pageOf va)
        let reply := fun (b : Body) => (.next ((s1.readWalk p w (pageOf va)).send part site false ep f.sep 9 0 0 0 b) : Out)
        (m = none → exec (.faultMessage part ep) s = reply (.abort ch id 0x04))
          ∧ ∀ q, m = some q → exec (.faultMessage part ep) s
            = reply (if (if wr then q.wr else q.rd) then .resume ch id w else .abort ch id 0x05))
      ∧ (∀ ch id w, f.body = .resume ch id w → exec (.resumePacket part ep) s
        = .next (((s1.setCore site (thawed ch id w (s1.core site))).due (.copyRequest site ch)).due (.streamRefill site ch)))
      ∧ (∀ ch id cause, f.body = .abort ch id cause →
        exec (.abortPacket part ep) s = .next (s1.abortXfer site ch (BitVec.ofNat 32 id) true))
      ∧ (∀ k outs, f.body = .close k outs →
        exec (.closePacket part ep) s
          = .next (((((s1.updCore site fun c => c.closeOpen k v outs).closeHeld p ep k).logEv site 4 0 2 0 f.sep f.seq []).wakeCopies site).dueLandings
            part))
      ∧ (∀ b lines n recs k y, f.body = .cellar b lines n recs false → Tbl.find? p.keeps f.sep = some k →
        k.host = some (site, y) → (s1.hostEp p site = ep) →
        let k1 := { k with part := k.part ++ lines, snapPart := k.snapPart + n, log := k.log ++ recs }
        let s2 := (s1.updKeep part f.sep fun _ => k1).answer f (.ack none 0)
        exec (.cellarTraffic part ep) s = .next (s2.noteHigh (p.siteOf f.sep))))
    ∧ (∀ (s : State) (site : Nat) (p : Part) (ep : Nat) (k : Keep), s.keepAt site = some (p, ep, k) →
      let high := k.host ≠ none ∧ 8192 + 2048 * (s.band (bandOf site)).hw.toNat < k.lines + (s.core site).dirty.length + 1024
      (high → k.want = false → k.copy = none → Due.highWater site ∉ s.pending → s.noteHigh site = s.later (.highWater site))
        ∧ (¬high ∨ k.want = true ∨ k.copy ≠ none → s.noteHigh site = s))
    ∧ (∀ (s : State) (p : Part) (v w : BitVec 32) (line mask i : Nat) (d : List Byte) (t : State) (h : Byte),
      let chan := p.chanOf (p.slotOf line)
      (s.rim chan).inPlace.contains v = false → (s.rim chan).reds = [] → (∀ e ∈ (s.rim chan).casks, e.data.length = 64) →
      0 < mask → i < 64 → p.launch? v ≠ none → s.homeStore p v line mask d = .done t →
      (mask / 2 ^ i % 2 = 1 → i < d.length → (t.rim chan).viewByte v false line i h = d.getD i 0)
        ∧ (mask / 2 ^ i % 2 = 0 → (t.rim chan).viewByte v false line i h = (s.rim chan).viewByte v false line i h)
        ∧ (w ≠ v → (t.rim chan).viewByte w false line i h = (s.rim chan).viewByte w false line i h)
        ∧ (t.rim chan).viewByte w true line i h = (s.rim chan).viewByte w true line i h
        ∧ t.mem = s.mem)

/-- A data reply frees its pair's count and gives its bytes to the operation of its tag; an acknowledgement goes by its reply context to the
core itself, the copy engine, the tile queue, the cellar or a context's operation. A channel's sender with room in its window opens a remote
destination first, else sends the request of the next elements, whose destinations lie in one 256-byte block, or freezes on a translation
fault; element by element source and destination keep their distance. A read stream with fewer than 32 pops asks for more, while an image
holds its task too. Of the landings that may be written that of the oldest-issued transfer is written, a WM transfer's in order, one of another
core once its open is taken; one of an aborted or closed transfer is dropped. A request waits while an earlier transfer has not landed where it
would land. An acknowledgement of a landing takes its packets from the window. A transfer whose
writes are performed adds its flag first, if it carries release, and then completes: it leaves its channel and done advances over the ids
that have completed. -/
def Obligations.RepliesAndCopiesRunToTheirEnd : Prop :=
  (∀ (s : State) (part ep : Nat) (f : Flit) (s1 : State) (p : Part), s.takeIn part ep .reply = some (f, s1) → s1.part? part = some p →
    let site := p.siteOf ep
    let s2 := s1.answered part ep f.sep f.vint
    (∀ b st m y r, f.body = .data b st m y r → exec (.dataReply part ep) s
        = .next ((s2.logReply site f (wordOf (b.take 8)) r b).dataToCtx site f { bytes := b, sticky := st, miss := m, sync := y, refused := r }))
      ∧ (∀ r q, f.body = .ack r q →
        let s3 := s2.logReply site f (BitVec.ofNat 64 q) r []
        exec (.acknowledgement part ep) s
          = .next (if f.ctx = 8 then (s3.ownAnswered site f.id r).wakeLaunches site
            else if f.ctx = 9 then s3.ackCopy site f r
            else if f.ctx = 10 then s3.ackTile site f r
            else if f.ctx = 11 then s2.ackCellar site f
            else s3.ackToCtx site f r q))
      ∧ (∀ (v : Word) (r : Option (BitVec 5)) (d : List Byte) (o : OutOp), f.ctx < 8 →
        List.find? (fun (o : OutOp) => o.id == f.id) (s2.ctx site f.ctx).ops = some o →
        s2.logReply site f v r d = s2.logEv site 2 f.ctx (match r with
          | some c => c.setWidth 64
          | none => v) o.addr f.sep f.seq d)
      ∧ (∀ l k p0, s.part? part = some p0 → f.body = .landing l k →
        exec (.landing part ep) s = .next (if k.parts ≤ 1 then (s1.addLand p0 ep k f.vint l [f.sep]).landOne p0 ep
          else s1.joinPart p0 (p0.siteOf ep) ⟨k, 1, l, f.vint, [f.sep]⟩))
      ∧ (∀ k l q, f.body = .landAck k l q none →
        exec (.landingAck part ep) s
          = .next (((s1.landAnswered part ep f.sep f.vint l).logEv site 2 0 0 0 f.sep f.seq []).ackLanding site k 1 q none))
      ∧ (∀ k q c, isSlot f.sep = false → f.body = .landAck k [f.sep] q (some c) →
        exec (.landingAck part ep) s = .next ((s2.logEv site 2 0 (c.setWidth 64) 0 f.sep f.seq []).ackLanding site k 1 q (some c))))
    ∧ (∀ (s : State) (site n : Nat) (f : Flit) (a : Answer) (o : OutOp), f.ctx = n → f.id ≠ idBlock →
      List.find? (fun (o : OutOp) => o.id == f.id) (s.ctx site n).ops = some o →
      (∀ d sz sx l, o.what = .load d sz sx l → s.rwLoad site n o.addr = false →
          s.dataToCtx site f a = s.complete site n f.id a)
        ∧ (∀ g l q y z w v, o.what = .geta g l q y z w v → s.dataToCtx site f a = s.messageAnswer site n f.id f.tag a.bytes a.sticky a.refused))
    ∧ (∀ (s : State) (site ch : Nat) (p : Part) (x : Xfer), s.partAt site = some p → ((s.core site).chan ch).sender = some x →
      x.frozen = false → x.packetsOut < 32 →
      (∀ d, x.remoteDest (s.lcn site) = some d → x.openSent = false → exec (.copyRequest site ch) s = .next (s.sendOpen site ch x d))
        ∧ ((x.remoteDest (s.lcn site) = none ∨ x.openSent = true) →
          (x.kind = .wstream → exec (.copyRequest site ch) s = .next (s.drainPushes p site ch x))
            ∧ (x.kind ≠ .wstream → ∀ y at' l, (s.nextReq p site x).2 = (y, at') :: l →
              let next := (s.nextReq p site x).1
              (∀ dep base, s.destOf p site x at' = .ok (dep, base) →
                  exec (.copyRequest site ch) s = .next (s.sendReq p site ch x next ((y, at') :: l) dep base))
                ∧ (∀ q, s.destOf p site x at' = .error (.miss q) →
                  exec (.copyRequest site ch) s = .next ((s.due (.translationMiss site q)).due (.copyRequest site ch)))
                ∧ (s.destOf p site x at' = .error .bad → exec (.copyRequest site ch) s = .next (s.freezeXfer site ch x at' true)))))
    ∧ (∀ (x : Xfer) (lim fuel n : Nat), ∀ e ∈ (x.nextReqFrom lim fuel n none 0 []).2,
      e.2 / 256 = ((x.nextReqFrom lim fuel n none 0 []).2.headD (none, 0)).2 / 256)
    ∧ (∀ (s : State) (site : Nat) (x : Xfer) (base first : Nat) (els : List (Option Nat × Nat)) (a d : Nat), (some a, d) ∈ els →
      (s.srcPlaces site x a x.src.elem).length = 1 →
      ∃ q ∈ s.piecesOf site x base first els, q.2.2 = base + d - first ∧ [(q.1, q.2.1)] = s.srcPlaces site x a x.src.elem)
    ∧ (∀ (s : State) (site ch : Nat) (p : Part) (x : Xfer), s.partAt site = some p →
      List.find? (fun (x : Xfer) => x.kind == .rstream && !x.ended) ((s.core site).chan ch).live = some x → x.frozen = false →
      x.pos < x.count →
      let c := s.ownerCtx site x
      let landed := ((List.find? (fun (e : SMode × StreamReg) => e.1 == .read && e.2.ch == ch && !e.2.aborted)
        (c.smode.toList.zip c.strm.toList)).map fun e => e.2.landed.length).getD 0
      let per := x.src.perPop
      let have' := landed + ((x.pos + per - 1) / per - x.fed)
      (32 ≤ have' → exec (.streamRefill site ch) s = .next s)
        ∧ (have' < 32 →
          let m := min (min (64 - have') (256 / x.src.popBytes) * per) (x.count - x.pos)
          let r := s.fitting p site x (fun m => (x.pos + m, x.refillReq x.pos m)) 3 m
          exec (.streamRefill site ch) s
            = .next (s.sendReq p site ch x r.1 r.2 ((s.lcnOf site).getD 0) (x.pos * x.src.elem))))
    ∧ (∀ (s : State) (p : Part) (ep : Nat) (l : Land), s.nextLanding p ep = some l →
      let gone := fun (t : State) => t.setLands p ep ((t.landsAt p ep).filter fun e => !e.key.same l.key)
      let after := fun (t : State) => ((t.forwardJoined p (p.siteOf ep)).wakeCopies (p.siteOf ep)).dueLandings p.lead
      let dropped := ((gone s).updCore (p.siteOf ep) fun c => c.dropLanding l.key).sendLandAck p ep l [] none
      (isSlot ep = true → s.landOne p ep = match s.homeStoreAll p l.vint (l.pieces.flatMap fun e => linePieces 8 e.1 e.2) with
          | .done t => ((gone t).sendLandAck p ep l l.pieces none).dueLandings p.lead
          | .full t => ((gone t).sendLandAck p ep l [] (some causeKilled)).dueLandings p.lead
          | .wait t => t)
        ∧ (∀ x, isSlot ep = false → ep = l.key.lcn → (s.core (p.siteOf ep)).xfer l.key.ch l.key.xfer = some x →
          (x.aborted = true → s.landOne p ep = after dropped)
            ∧ (x.aborted = false → ∀ t q r, s.writeLanding p ep l = .done t q r → s.landOne p ep = after ((gone t).sendLandAck p ep l q r)))
        ∧ (∀ o, isSlot ep = false → ep ≠ l.key.lcn → (s.core (p.siteOf ep)).openOf l.key = some o →
          (o.gone ≠ none → s.landOne p ep = after dropped)
            ∧ (o.gone = none → ∀ t q r, s.writeLanding p ep l = .done t q r → s.landOne p ep = after ((gone t).sendLandAck p ep l q r))))
    ∧ (∀ (s : State) (p : Part) (ep : Nat) (l : Land), s.nextLanding p ep = some l →
      l ∈ s.landsAt p ep ∧ (∀ e ∈ s.landsAt p ep, s.mayLand p ep e = true → l.key.age ≤ e.key.age)
        ∧ (∀ x, isSlot ep = false → ep = l.key.lcn → (s.core (p.siteOf ep)).xfer l.key.ch l.key.xfer = some x → x.aborted = false →
          x.kind ≠ .rstream → x.wm = true → x.landN = l.key.n)
        ∧ (isSlot ep = false → ep ≠ l.key.lcn → ∃ o, (s.core (p.siteOf ep)).openOf l.key = some o
          ∧ (o.gone = none → o.wm = true → o.landN = l.key.n)))
    ∧ (∀ (s : State) (site : Nat) (x : Xfer) (srcs dsts : List Range), s.reqWaits site x srcs dsts = false →
      ∀ d ∈ dsts, ∀ e ∈ (s.core site).xfers, e.2.age < x.age → e.2.holdsBack ((s.lcnOf site).getD 0) d = false)
    ∧ (∀ (s : State) (site m : Nat) (k : LandKey) (l : List (Nat × List Byte)) (x : Xfer), (s.core site).xfer k.ch k.xfer = some x →
      x.aborted = false →
      let x1 := { x with reqs := x.reqs.filterMap fun r => r.less k.n m }
      let s1 := s.updCore site fun c => (c.updXfer k.ch k.xfer fun _ => x1).landLines x.vint l
      let again : Instr := if x.kind = .rstream then .streamRefill site k.ch else .copyRequest site k.ch
      s.ackLanding site k m l none = ((s1.due again).wakeCopies site).due (.transferComplete site k.ch))
    ∧ (∀ (s : State) (site ch : Nat) (x : Xfer),
      List.find? (fun (x : Xfer) => x.written && x.flagState != .sent) ((s.core site).chan ch).xfers = some x →
      (x.rel.isSome = true → x.dst.flag ≠ 0 → x.flagState = .todo → exec (.transferComplete site ch) s = .next (s.addFlag site ch x))
        ∧ ((x.rel = none ∨ x.dst.flag = 0 ∨ x.flagState ≠ .todo) → exec (.transferComplete site ch) s = .next (s.xferDone site ch x)))
    ∧ ∀ (k : Chan) (x : Xfer), x.id = k.done → k.early.contains x.id = false → k.early.contains (x.id + 1) = false →
      ((k.finish x false).done = k.done + 1 ∧ (∀ y ∈ (k.finish x false).xfers, y.id ≠ x.id) ∧ (k.finish x false).early = k.early)

/-- The oldest vector entry that nothing holds back runs its repetitions in order; its sticky bits and generator go to its context. A tile
command starts when it is the first that may: queued, no earlier one of its context waiting, none before it on its tile or slot, its unit free.
A started one that nothing holds back finishes: an array command above level 0 sums its products into the tile and wants to fall; MWLD loads its
slot; MACLR clears, MACWR writes the tile; MREL frees it; a local MACRD or MEPI computes every row before it writes one. A row's acknowledgement
lets a remote one go on; the last one after a refusal stops it, posted with BUFSTATE. A step boundary takes a new cap, raises by one the first
`up` arrays by priority, age and site among those with an update to make below level 4 and the cap, and lowers the first `down` by age and
site of those above the cap or without an update; a want keeps the cycle from which it stands. -/
def Obligations.EnginesFinishTheirCommands : Prop :=
  (∀ (s : State) (site : Nat) (e : VEntry) (rest : List VEntry), (s.core site).vq = e :: rest → s.vectorWaits site e = false →
    let acc := runReps site e (s.lcn site) e.first (e.last + 1 - e.first) ⟨s, (s.ctx site e.ctx).srstate, 0⟩
    let t := acc.s.updCore site fun c => { c with vq := rest }
    exec (.vectorFinish site) s
      = .next (((t.updCtx site e.ctx fun c => { c.orSticky acc.flags with srstate := acc.gen }).wakeContext site e.ctx).wakeEngines site))
    ∧ (∀ (s : State) (site k : Nat) (t : TCmd), (s.core site).tq[k]? = some t → (s.core site).firstStart = some k → s.boundaryNear site = false →
      let s1 := s.setCore site ((s.core site).setCmd k { t with state := .running })
      exec (.tileCommandStart site k) s = .next ((s1.wantRise site).due (.tileCommandFinish site k)))
    ∧ (∀ (c : Core) (k : Nat), c.firstStart = some k → ∃ t, c.tq[k]? = some t ∧ t.state = .queued ∧ t.held = none
      ∧ (∀ e ∈ c.tq.take k, t.discards e = false → e.clashes t = false ∧ (e.ctx = t.ctx → e.held = none → e.state = .running))
      ∧ (t.fn.unit ≠ 0 → ∀ e ∈ c.tq, e.state = .running → e.fn.unit ≠ t.fn.unit)
      ∧ ∀ j < k, c.mayStart j = false)
    ∧ (∀ (s : State) (site k : Nat) (t : TCmd), (s.core site).tq[k]? = some t → t.state = .running → t.held = none →
      s.tileWaits site k t = false →
      let run := exec (.tileCommandFinish site k) s
      let img := s.scrRead site t.recAt (imgSize t.rec')
      ((t.fn = .mma ∨ t.fn = .mmcx ∨ t.fn = .mconv) →
          ((s.slew site).level = 0 → run = .next (s.wantRise site))
            ∧ ((s.slew site).level ≠ 0 → run = .next (((s.putTile site t (t.sums s site)).wantFall site).tileDone site k t)))
        ∧ (t.fn = .mwld → run = .next ((s.updCore site fun q =>
          { (q.markLines (slotLine t.w) t.vint ((img.length + 63) / 64)) with wslots := q.wslots.setIfInBounds t.w (some img) }).tileDone site k t))
        ∧ (t.fn = .maclr → run = .next ((s.putTile site t { (s.core site).tile t.tile with elems := [] }).tileDone site k t))
        ∧ (t.fn = .macwr → run = .next ((s.putTile site t (t.written s site)).tileDone site k t))
        ∧ (t.fn = .mrel → (s.core site).holds t.tile t.ctx = true → run = .next (((s.tileDone site k t).updCore site fun q =>
          { q with tq := q.tq.filter fun e => !(t.discards e) }).freeTile site t.tile t.ctx))
        ∧ (t.fn = .mrel → (s.core site).holds t.tile t.ctx = false → run = .next (s.tileDone site k t))
        ∧ ((t.fn = .macrd ∨ t.fn = .mepi) → t.d.remote (s.lcn site) = none →
          let r := t.allRows s site (s.ctx site t.ctx).srstate
          run = .next (((r.1.foldl (t.writeRow site) s).updCtx site t.ctx fun x => { x.orSticky r.2.2 with srstate := r.2.1 }).tileDone site k t))
        ∧ (∀ dest at', (t.fn = .macrd ∨ t.fn = .mepi) → t.d.remote (s.lcn site) = some (dest, at') →
          (t.d.size 1 ≤ t.step → t.sent = [] → t.refusedRow = none → run = .next (s.tileDone site k t))
            ∧ (t.step < t.d.size 1 → t.refusedRow = none → s.preempting site t.ctx = false → s.coreCanSend site dest = true →
              let r := t.row s site t.step 0
              let pk := t.packet (s.lcn site) at' t.step r.1
              let s1 := s.sendFromCore site dest 10 t.step t.tile t.vint (.row pk.1 pk.2.1 pk.2.2)
              run = .next (((s1.updCore site fun c => c.setCmd k { t with step := t.step + 1, sent := t.sent ++ [t.step] }).updCtx
                site t.ctx fun x => x.orSticky r.2.2).due (.tileCommandFinish site k)))))
    ∧ (∀ (s : State) (site tile k row : Nat) (t : TCmd) (ans : Option (BitVec 5)) (rest : List (Nat × Option (BitVec 5))),
      List.findIdx? (fun (t : TCmd) => t.tile == tile && t.drains && t.held.isNone && !t.answers.isEmpty) (s.core site).tq = some k →
      (s.core site).tq[k]? = some t → t.answers = (row, ans) :: rest →
      let t1 := { t with answers := rest, sent := t.sent.erase row }
      (ans = none → t.refusedRow = none → exec (.tileWriteAck site tile) s
          = .next ((s.setCore site ((s.core site).setCmd k { t1 with refusedRow := none })).due (.tileCommandFinish site k)))
        ∧ (∀ low, (ans ≠ none ∧ t.refusedRow = none ∧ low = row) ∨ (ans ≠ none ∧ ∃ r, t.refusedRow = some r ∧ low = min r row)
            ∨ (ans = none ∧ t.refusedRow = some low) →
          (t1.sent = [] → exec (.tileWriteAck site tile) s = .next (s.stopTile site k { t1 with refusedRow := some low } low))
            ∧ (t1.sent ≠ [] → exec (.tileWriteAck site tile) s
              = .next (s.setCore site ((s.core site).setCmd k { t1 with refusedRow := some low })))))
    ∧ (∀ (s : State) (site k row id n : Nat) (t : TCmd) (o : OutOp) (c : Ctx), n < 8 → t.ctx = n → t.opId = some id →
      (s.ctx site n).endOp id = some (o, c) → k < (s.core site).tq.length →
      let at' : Addr := BitVec.ofInt 56 (t.d.unitAddr (s.lcn site) ((t.d.rowUnits row).headD 0))
      ((s.stopTile site k t row).ctx site n).posted = c.posted ++ [⟨o.cnt, o.id, 0x07, at', BitVec.ofNat 32 (2 ^ 31 + row)⟩]
        ∧ ((s.stopTile site k t row).core site).tq[k]? = some { t with state := .stopped, opId := none, step := row })
    ∧ (∀ (x : SlewArray) (cap now : Nat) (can runs : Bool),
      let wants := can = true ∧ x.level < 4 ∧ x.level < cap
      let falls := cap < x.level ∨ (can = false ∧ 0 < x.level)
      let y := x.wants cap can runs now
      y.level = x.level ∧ (wants → y.rise = some (x.rise.getD now)) ∧ (¬ wants → y.rise = if runs then x.rise else none)
        ∧ (falls → y.fall = some (x.fall.getD now)) ∧ (¬ falls → y.fall = none))
    ∧ ∀ (s0 : State) (dom : Nat),
      let d0 := Tbl.get Domain.reset s0.doms dom
      let d := { d0 with cap := d0.capNext.getD d0.cap, capNext := none }
      let s1 := if d0.capNext = none then s0 else { s0 with doms := Tbl.put s0.doms dom d }
      let cmd := fun (site : Nat) => (s1.core site).arrayCmd
      let arrays := (s1.slewArrays dom).map fun e => (e.1, e.2.wants d.cap (s1.canUpdate e.1) (cmd e.1).isSome s0.module.fc)
      let s := arrays.foldl (fun t e => t.setSlew e.1 e.2) s1
      let prio := fun (e : Nat × SlewArray) => (((s.core e.1).arrayCmd).map fun t => (s.ctx e.1 t.ctx).prio.toNat).getD 0
      let older := fun (x y : Option Nat) (a b : Nat × SlewArray) =>
        decide (x.getD 0 < y.getD 0) || (x.getD 0 == y.getD 0 && decide (a.1 ≤ b.1))
      let rises := arrays.filter fun e => s.canUpdate e.1 && decide (e.2.level < 4) && decide (e.2.level < d.cap)
      let falls := arrays.filter fun e => decide (d.cap < e.2.level) || (!s.canUpdate e.1 && decide (0 < e.2.level))
      let up := ((sortBy (fun a b => decide (prio b < prio a) || (prio a == prio b && older a.2.rise b.2.rise a b)) rises).take d.up.toNat).map (·.1)
      let down := ((sortBy (fun a b => older a.2.fall b.2.fall a b) falls).take d.down.toNat).map (·.1)
      let raise := fun (t : State) (site : Nat) => (t.setSlew site { t.slew site with level := (t.slew site).level + 1 }).wakeEngines site
      let lower := fun (t : State) (site : Nat) =>
        let x := t.slew site
        t.setSlew site { x with
          level := x.level - 1, fall := if d.cap < x.level - 1 ∨ (s.canUpdate site = false ∧ 0 < x.level - 1) then x.fall else none }
      exec (.slewStepBoundary dom) s0 = .next (down.foldl lower (up.foldl raise s))

/-- A router takes the first message of a group on its way up: of the open round at an expected input that is empty it is kept, and the last
one closes the round and sends the total up or, at the root, down; of a later round it is parked; of an earlier one, or a second at one input,
it is discarded; with none on the way, the core's port sends its oldest contribution once its releases' accesses are performed, over the proxy
input when its router stands elsewhere. A result frees the entry for the next round and goes to every child and the own contributor; at a port
of its current round it is kept with its status. A timer that has counted timeout · 256 · (ht + 1) fc closes the round with a report of the
absent inputs, unless there is none, the round is closed or the timers stand still; a rebinding that ends lets the timers go on with the counts
they had. A CHAIN that has waited timeout · 256 fc for its beat traps COLL_TIMEOUT once. A predecessor's beat of a round not below cr is kept once.
A spared core's contribution and result go by proxy, a word a beat, and are taken when they are whole; the port of a stopped or replaying core
takes nothing. -/
def Obligations.RoundsCombineAndReturn : Prop :=
  (∀ (s : State) (site g : Nat),
    let r := s.router site
    let c := s.core site
    (∀ q m rest, takeUp g (fun q => q != 6) r.colUp = some (q, m, rest) →
        exec (.contribution site g) s = .next ((s.setRouter site { r with colUp := rest }).takeInput site g q m))
      ∧ (takeUp g (fun q => q != 6) r.colUp = none → ∀ q m rel t, s.cport site g = some q → q.out = (m, rel) :: t →
        ((∀ e ∈ rel, ∀ o ∈ (s.ctx site e.1).ops, o.id ≠ e.2) → exec (.contribution site g) s
            = .next ((if q.osite = site then (s.setCport site g { q with out := t }).sendUp site g 0 m
              else (m.split (s.routedTo 3 ((s.lcnOf site).getD 0xFFFF) ((s.lcnOf site).getD 0xFFFF) q.osite)).foldl (fun u b => u.sendUp q.osite g 6 b)
                (s.setCport site g { q with out := t })).wakeImages site))
          ∧ ((∃ e ∈ rel, ∃ o ∈ (s.ctx site e.1).ops, o.id = e.2) → exec (.contribution site g) s = .next s))
      ∧ (∀ q m rest e, takeUp g (fun q => q == 6) r.colUp = some (q, m, rest) → s.gentry site g = some e →
        let s1 := s.setRouter site { r with colUp := rest }
        (assemble (e.beats ++ [m]) m e.conf.words = none →
            exec (.proxyContribution site g) s = .next (s1.setGentry site g { e with beats := e.beats ++ [m] }))
          ∧ ∀ w, assemble (e.beats ++ [m]) m e.conf.words = some w → exec (.proxyContribution site g) s
            = .next ((s1.setGentry site g { e with beats := (e.beats ++ [m]).filter fun b => b.round != m.round }).takeInput site g 0 w))
      ∧ (∀ m rest, takeTag g r.colDown = some (m, rest) →
        exec (.result site g) s = .next ((s.setRouter site { r with colDown := rest }).forward site g m))
      ∧ (∀ m rest, takeTag g r.colDown = none → c.paused = false → takeTag g c.colIn = some (m, rest) →
        exec (.result site g) s = .next ((s.setCore site { c with colIn := rest }).portResult site g m))
      ∧ (c.paused = true → exec (.proxyResult site g) s = .next s ∧ exec (.chainPartial site g) s = .next s
        ∧ (takeTag g r.colDown = none → exec (.result site g) s = .next s))
      ∧ (∀ m rest q, c.paused = false → takeTag (64 + g) c.colIn = some (m, rest) → s.cport site g = some q →
        let s1 := s.setCore site { c with colIn := rest }
        let n := if q.conf.op = .barrier then 0 else q.conf.words
        (assemble (q.beats ++ [m]) m n = none → exec (.proxyResult site g) s = .next (s1.setCport site g { q with beats := q.beats ++ [m] }))
          ∧ ∀ w, assemble (q.beats ++ [m]) m n = some w → exec (.proxyResult site g) s
            = .next ((s1.setCport site g { q with beats := (q.beats ++ [m]).filter fun b => b.round != m.round }).portResult site g w))
      ∧ (∀ m rest q, c.paused = false → takeTag (128 + g) c.colIn = some (m, rest) → s.cport site g = some q →
        let s1 := s.setCore site { c with colIn := rest }
        let s1 := s1.logMsg site m
        ((m.round - q.cr).toNat < 2 ^ 15 → (∀ b ∈ q.preds, b.round ≠ m.round) →
            exec (.chainPartial site g) s = .next ((s1.setCport site g { q with preds := q.preds ++ [m] }).wakeImages site))
          ∧ ((2 ^ 15 ≤ (m.round - q.cr).toNat ∨ ∃ b ∈ q.preds, b.round = m.round) → exec (.chainPartial site g) s = .next s1)))
    ∧ (∀ (s : State) (site g port : Nat) (m : CMsg) (e : GEntry), s.gentry site g = some e →
      let e1 := { e with
        inputs := Tbl.put e.inputs port m, timer := if e.inputs.isEmpty then s.startTimer site g else e.timer }
      let takes := port ≠ 5 ∧ e.closed = false ∧ Tbl.find? e.inputs port = none ∧ port ∈ e.expects
        ∧ (∀ x, (e.inputs.head?.map (·.2)) = some x → x.vint = m.vint)
      (m.round = e.round → takes →
          (e1.absent ≠ [] → s.takeInput site g port m = s.setGentry site g e1)
            ∧ (e1.absent = [] → s.takeInput site g port m = s.closeRound site g e1 none))
        ∧ (m.round = e.round → port ≠ 5 → ¬takes → s.takeInput site g port m = s)
        ∧ (m.round = e.round → port = 5 → e.closed = false →
          s.takeInput site g port m = (s.setGentry site g { e with closed := true }).sendDown site g { m with routed := none })
        ∧ (m.round ≠ e.round → (m.round - e.round).toNat < 2 ^ 15 →
          s.takeInput site g port m = s.setGentry site g { e with parked := e.parked ++ [(port, m)] })
        ∧ (2 ^ 15 ≤ (m.round - e.round).toNat → s.takeInput site g port m = s))
    ∧ (∀ (s : State) (site g : Nat) (e : GEntry) (own : Option Report) (m : CMsg), e.total own = some m →
      let s1 := s.setGentry site g { e with closed := true }
      (e.parent = 0 → s.closeRound site g e own = s1.sendDown site g m)
        ∧ ∀ up, e.parent ≠ 0 → neighbour site (e.parent - 1) = some up →
          s.closeRound site g e own = s1.sendUp up g ((e.parent - 1 + 2) % 4 + 1) m)
    ∧ (∀ (s : State) (site g : Nat) (m : CMsg) (e : GEntry), s.gentry site g = some e → m.round = e.round →
      let t := s.forward site g m
      t.gentry site g = some { e with round := e.round + 1, inputs := [], closed := false, parked := [], timer := ⟨0, none⟩ }
        ∧ ∀ i y, i < 4 → e.child.getLsbD i = true → neighbour site i = some y → (g, m) ∈ (t.router y).colDown)
    ∧ (∀ (q : CPort) (m : CMsg), m.round = q.rr → (∀ h ∈ q.held, h.round ≠ m.round) → (m.round - q.cr).toNat ≥ 2 ^ 15 →
      q.take m = { q with held := q.held ++ [m], last := m.status })
    ∧ (∀ (s : State) (site g : Nat) (e : GEntry), s.gentry site g = some e →
      let mask := e.absent.foldl (fun m i => m + 2 ^ i) 0
      let now := ((s.partAt site).map s.timerClock).getD 0
      let stands := e.conf.timeout = 0 ∨ e.closed = true ∨ e.inputs = [] ∨ e.absent = [] ∨ s.timersStill site = true ∨ s.passHolds none site g = true
        ∨ e.timer.count now < e.conf.timeout * 256 * (e.ht + 1)
      (¬stands → exec (.collectiveTimerExpiry site g) s = .next (s.closeRound site g e (some ⟨false, mask, site⟩)))
        ∧ (stands → exec (.collectiveTimerExpiry site g) s = .next s))
    ∧ ∀ (s : State) (site n g : Nat) (q : CPort), (s.ctx site n).stall = some (.beat g) → s.cport site g = some q →
      q.conf.timeout ≠ 0 → (s.ctx site n).occ = .running → s.timersStill site = false →
      (∀ x, s.chainBefore site g = some x → (s.core x).drained = false) →
      let waited := (q.wait.getD ⟨0, none⟩).count (((s.partAt site).map s.timerClock).getD 0)
      (q.tseen = false → q.conf.timeout * 256 ≤ waited →
          exec (.chainTimeout site n) s = .next ((s.setCport site g { q with tseen := true, wait := none }).trapAt site n 0x0A 0 0))
        ∧ (q.tseen = true ∨ waited < q.conf.timeout * 256 → exec (.chainTimeout site n) s = .next s)
        ∧ (∀ (p : Part) (t : Timer) (a b ep : Nat), p.rebinding.filter (· != ep) = [] → (∀ f, p.stillFrom = some f → f ≤ a) →
          p.stillFc ≤ a → a ≤ b →
          let frozen := { s with module := { s.module with fc := b } }
          (∀ d, frozen.timerClock (p.startRebind a d) = p.stillFrom.getD a - p.stillFc)
            ∧ (p.stillFrom = some a → frozen.timerClock (p.endRebind b ep) = a - p.stillFc)
            ∧ (t.hold a).count b = t.count a ∧ ((t.hold a).goOn b).count b = t.count a)

/-- A core answers a done wave with its counts once the launch's writes issued on it are performed; the last answer is judged at the root:
two waves in a row with the same totals, made = ended, start the gating; a gating wave whose answers are all 0 makes the launch ready and asks
for the commit. The end of a domain stops its tasks on a core and counts the pool entries it is the hint of, and the core acknowledges when their operations have come. A kill stops the launch on
each core, aborts its transfers, drains its flits once they have gone, discards its cask, writing undo entries back, and cleans its cores
before its record is written. Each step begins with the last acknowledgement of the one before it. A slot releases a launch's locks, and with
the last slot the launch is gone. A completion message leaves on the port of its command, or on the other while that link is down. -/
def Obligations.LaunchesEndInTheirSteps : Prop :=
  (∀ (s : State) (site v : Nat) (p : Part) (l : Launch), s.partAt site = some p → p.launch? (BitVec.ofNat 32 v) = some l →
    l.vint = BitVec.ofNat 32 v →
    let w := BitVec.ofNat 32 v
    let c := s.core site
    let t := c.tallyOf w
    let left := l.acks.erase site
    let acked := s.setPart p.lead (p.updLaunch w fun k => { k with acks := left })
    let on := fun (f : Nat → State → State) (u : State) => u.onward p.bound site f
    (l.phase = .running → l.waveOut = true → s.halted site = false →
        let put := fun (k : Launch) => { k with todo := k.todo.erase site, answers := k.answers ++ [(site, t.made, t.ended, t.s)] }
        let wave := fun (y : Nat) (u : State) => if l.todo.contains y then u.due (.doneWave y v) else u
        (l.todo.contains site = true → c.writesDone w = true → exec (.doneWave site v) s
            = .next (on wave ((s.setPart p.lead (p.updLaunch w put)).due (.doneAnswer site v))))
          ∧ ((l.todo.contains site = false ∨ c.writesDone w = false) → exec (.doneWave site v) s = .next (on wave s)))
      ∧ (l.phase = .running → l.waveOut = true → l.todo.contains site = false → l.acks.contains site = true →
        (left ≠ [] → exec (.doneAnswer site v) s = .next acked)
          ∧ (left = [] → exec (.doneAnswer site v) s = .next (acked.judgeWave p l)))
      ∧ (l.phase = .gating → l.todo.contains site = true → l.acks ≠ [] → s.halted site = false → (∀ e ∈ c.prov, e.1 ≠ w) →
        let put := fun (_ : Launch) => { l with
          todo := l.todo.erase site, answers := l.answers ++ [(site, if c.adopted.contains w then 1 else 0, 0, 0)] }
        exec (.gatingWave site v) s = .next (on (fun y u => u.due (.gatingWave y v))
          ((s.updPart p.lead fun q => q.updLaunch w put).due (.gatingAnswer site v))))
      ∧ (l.phase = .gating → l.todo.contains site = false → l.acks.contains site = true →
        (left ≠ [] → exec (.gatingAnswer site v) s = .next acked)
          ∧ (left = [] → (∀ a ∈ l.answers, a.2.1 = 0) → exec (.gatingAnswer site v) s = .next ((s.setPart p.lead
            ((p.updLaunch w fun k => { k with phase := .ready, acks := [], answers := [], readyAt := s.module.fc }).setVState w .ready)).later
              (.commitStart p.lead)))
          ∧ (left = [] → (∃ a ∈ l.answers, a.2.1 ≠ 0) →
            let s1 := s.setPart p.lead (p.updLaunch w fun k => { k with acks := [], answers := [] })
            ((∃ a ∈ l.answers, a.2.1 = 1 ∧ (s.core a.1).unscanned w = false) →
                exec (.gatingAnswer site v) s = .next (s1.due (.gatingWave (p.bound.headD 0) v)))
              ∧ ((∀ a ∈ l.answers, a.2.1 = 1 → (s.core a.1).unscanned w = true) → exec (.gatingAnswer site v) s = .next s1)))
      ∧ (l.domTodo.contains site = true → s.halted site = false →
        let past := fun (region : BitVec 32) => l.domains.contains (p.domainOf w region)
        let mine := fun (x : Ctx) =>
          (x.occ == .running || x.occ == .staged) && !x.leaving && x.vintage == w && past x.region
        let beyond := fun (k : Carr) => k.vint == w && past (k.r.region.setWidth 32)
        let img := fun (i : Image) => i.held && i.c.vintage == w && past i.c.region
        let abort := fun (u : State) (l : List (Nat × Xfer)) => l.foldl (fun u e => u.abortXfer site e.1 e.2.id false) u
        let ended := fun (u : State) => u.updCore site fun c => c.endedOne w 0
        let stop := fun (t : State) (n : Nat) => if mine (t.ctx site n) then
            ended (abort (t.stopCtx site n) ((t.core site).xfers.filter fun e => e.2.ctx == n && e.2.held.isNone && !e.2.detached && !e.2.aborted))
          else t
        let drop := fun (t : State) (i : Image) =>
          ended (abort t ((t.core site).xfers.filter fun e => e.2.held == some i.slot && !e.2.detached && !e.2.aborted))
        let s2 := ((p.imagesOf (s.lcn site)).filter img).foldl drop ((List.range 8).foldl stop s)
        exec (.domainEnd site v) s = .next (on (fun y t => t.later (.domainEnd y v)) ((((s2.dropImages site p img).endEntries p.lead (s.lcn site) site beyond).updPart p.lead fun q =>
          q.updLaunch w fun k => { k with domTodo := k.domTodo.erase site }).later (.domainEndAck site v))))
      ∧ (l.places = true → l.domTodo.contains site = false → l.domAcks.contains site = true →
        (∀ n < 8, (c.ctx n).occ = .stopped → (c.ctx n).vintage = w → ∀ o ∈ (c.ctx n).ops, o.cnt = .cp) →
        let stopped := (List.range 8).filter fun n => (c.ctx n).occ == .stopped && (c.ctx n).vintage == w
        let free := fun (t : State) (n : Nat) => ((t.deliveryPoint site n).updCtx site n Ctx.leave).due (.poolPull site)
        exec (.domainEndAck site v) s = .next (((stopped.foldl free s).updPart p.lead fun q => q.updLaunch w fun k =>
          { k with domAcks := k.domAcks.erase site }).later (.doneWaveTimer p.lead v)))
      ∧ (l.phase = .kill1 → l.todo.contains site = true → s.halted site = false →
        let mine := (List.range 8).filter fun n => (c.ctx n).occ != .idle && (c.ctx n).vintage == w
        let s1 := (mine.foldl (fun t n => t.stopCtx site n) s).dropImages site p fun i => i.c.vintage == w
        exec (.killMessage site v) s = .next (on (fun y t => t.due (.killMessage y v)) ((s1.updPart p.lead fun q => q.updLaunch w fun k =>
          { k with todo := k.todo.erase site }).due (.killAck site v))))
      ∧ (l.phase = .kill1 → l.todo.contains site = false → l.acks.contains site = true →
        (left ≠ [] → exec (.killAck site v) s = .next acked)
          ∧ (left = [] → exec (.killAck site v) s = .next ((p.bound.foldl (fun t x => t.abortVintage x w)
            (s.setPart p.lead (p.updLaunch w fun k => { k with phase := .kill2, acks := [] }))).due (.drainWave (p.bound.headD 0) v))))
      ∧ (let sites := p.sites.filter fun x => !(s.router x).fenced
        (l.phase = .kill2 → (∃ x ∈ p.bound, ∃ e ∈ (s.core x).xfers, e.2.vint = w) → exec (.drainWave site v) s = .next s)
          ∧ (l.phase = .kill2 → (∀ x ∈ p.bound, ∀ e ∈ (s.core x).xfers, e.2.vint ≠ w) → exec (.drainWave site v) s
            = .next (((s.setPart p.lead (p.updLaunch w fun k => { k with phase := .kill3, todo := sites, acks := sites })).resetGroups p w).due
              (.drainWave (sites.headD 0) v)))
          ∧ (l.phase = .kill3 → l.todo.contains site = true → exec (.drainWave site v) s
            = .next ((((s.drainSite p site w).updPart p.lead fun q => q.updLaunch w fun k => { k with todo := k.todo.erase site }).due
              (.drainAck site v)).onward sites site fun y t => t.due (.drainWave y v))))
      ∧ (l.phase = .kill3 → l.todo.contains site = false → l.acks.contains site = true →
        let s1 := s.drainSite p site w
        (left ≠ [] → exec (.drainAck site v) s = .next (s1.updPart p.lead fun q => q.updLaunch w fun k => { k with acks := left }))
          ∧ (left = [] → exec (.drainAck site v) s = .next ((s1.updPart p.lead fun q => q.updLaunch w fun k =>
            { k with phase := .kill4, acks := [] }).later (.caskDiscard p.lead v)))))
    ∧ (∀ (r : Router) (v : BitVec 32) (f : Flit), f.vint = v →
      ((r.drain v).discard.contains v = true) ∧ (f.body.kind = 6 → voidFlits v [f] = []) ∧ (f.body.kind ≠ 6 → voidFlits v [f] = [{ f with body := .void }]))
    ∧ (∀ (s : State) (part slot v : Nat) (p : Part) (l : Launch), s.part? part = some p → p.launch? (BitVec.ofNat 32 v) = some l →
      let w := BitVec.ofNat 32 v
      (l.phase = .running → exec (.doneWaveTimer part v) s = .next (if l.waveOut then s else s.startWave p l.vint))
        ∧ (l.phase = .kill4 → exec (.caskDiscard part v) s = .next ((((s.rimsOf p).foldl (fun t c => t.discardAt p c w) s).updPart part fun q =>
          q.updLaunch w fun k => { k with phase := .kill5 }).later (.killCleanup part v)))
        ∧ (∀ how, l.phase = .kill5 → l.ending = some how →
          let s1 := p.bound.foldl (fun t x => if (Tbl.find? t.cores x).isSome then t.cleanCore x w else t) s
          exec (.killCleanup part v) s = .next (s1.finishLaunch part w how.outcome how.status how.addr how.relaunch))
        ∧ (l.phase = .unlocking → l.todo.contains slot = true →
          let ch := p.chanOf slot
          let s1 := if (s.rim ch).locks.isEmpty then s
            else s.setRim ch { s.rim ch with locks := (s.rim ch).locks.filter fun k => k.vint != l.vint }
          exec (.unlock part slot v) s = .next (((s1.updPart part fun q => q.updLaunch l.vint fun k => { k with todo := k.todo.erase slot }).due
            (.unlockAck part slot v)).onward (List.range p.slots) slot fun y t => t.due (.unlock part y v)))
        ∧ (l.phase = .unlocking → l.todo.contains slot = false → l.acks.contains slot = true →
          (l.acks.erase slot = [] → exec (.unlockAck part slot v) s
              = .next (s.setPart part { p with launches := p.launches.filter fun k => k.vint != l.vint }))
            ∧ (l.acks.erase slot ≠ [] → exec (.unlockAck part slot v) s
              = .next (s.setPart part (p.updLaunch l.vint fun k => { k with acks := l.acks.erase slot })))))
    ∧ ∀ (s : State) (part : Nat) (p : Part) (port : Requester) (b : List Byte) (rest : List (Requester × List Byte)), s.part? part = some p →
      p.messages = (port, b) :: rest → port ≠ .mgc →
      let up := fun (q : Requester) => if q = .sclB then s.module.upB else s.module.upA
      let mate : Requester := if port = .sclB then .sclA else .sclB
      let out := fun (q : Requester) =>
        let s1 := { s with module := { s.module with messages := s.module.messages ++ [(q, b)] } }
        let s2 := s1.setPart part { p with messages := rest }
        if rest.isEmpty then s2 else s2.later (.completionMessage part)
      (up port = true → exec (.completionMessage part) s = .next (out port))
        ∧ (up port = false → up mate = true → exec (.completionMessage part) s = .next (out mate))
        ∧ (up port = false → up mate = false → exec (.completionMessage part) s = .next s)

/-- With no intent standing the arbiter takes, of the ready launches that no older command of their queue holds, the one ready first, and writes its
intent; the acknowledged intent starts the broadcast. A slot publishes the launch: what its own view read is then what every committed view reads,
in one step, and memory keeps its bytes. The last acknowledgement is the commit instant: the intent goes and the launch finishes with outcome 0. A
slot merges the line of its oldest committed entry. A switch that was asked for is broadcast once no older vintage is left; a slot saves each
line's home bytes and merges its open entries, a full undo share starting the kill with CASKFULL with the entries before it switched; with the
last acknowledgement the launch is switched. A CASKUSE query counts each slot's entries and answers with 64 times their sum. -/
def Obligations.LaunchesCommitInOrder : Prop :=
  (∀ (s : State) (part : Nat) (p : Part), s.part? part = some p →
    (∀ l, p.intent = none → p.nextCommit = some l → exec (.commitStart part) s = .next ((s.setPart part
        { (p.updLaunch l.vint fun k => { k with phase := .intent }) with intent := some l.vint }).due (.commitIntentAck part)))
      ∧ (∀ v l, p.intent = some v → p.launch? v = some l → l.phase = .intent → exec (.commitIntentAck part) s
        = .next ((s.setPart part { (p.updLaunch l.vint fun k =>
            { k with phase := .committing, todo := List.range p.slots, acks := List.range p.slots }).setVState l.vint .committing with
              commitCount := p.commitCount + 1 }).due (.commitBroadcast part 0 l.vint.toNat)))
      ∧ (∀ l, p.nextCommit = some l → l ∈ p.launches ∧ l.phase = .ready ∧ p.olderCommand l.queue l.cmd.sub = false
        ∧ ∀ k ∈ p.launches, k.phase = .ready → p.olderCommand k.queue k.cmd.sub = false → l.readyAt ≤ k.readyAt)
      ∧ ∀ slot e, (let es := (s.rim (p.chanOf slot)).casks.filter fun e => e.state == .committed
          e ∈ es ∧ (∀ x ∈ es, x = e ∨ e.order < x.order)) →
        exec (.caskMerge part slot) s = .next (s.mergeLine p e.line))
    ∧ (∀ (s : State) (p : Part) (chan : Nat) (v w : BitVec 32) (order line i : Nat) (h : Byte), (s.rim chan).reds = [] →
      (∀ e ∈ (s.rim chan).casks, e.state = .committed → e.order < order) →
      (∀ a ∈ (s.rim chan).casks, ∀ b ∈ (s.rim chan).casks, a.state = .open → b.state = .open → a.vint = v → b.vint = v → a.line = b.line → a = b) →
      let t := s.publishAt p chan v order
      (t.rim chan).viewByte w true line i h = (s.rim chan).viewByte v false line i h ∧ t.mem = s.mem
        ∧ ∀ e ∈ (t.rim chan).casks, e.vint = v → e.state = .committed)
    ∧ (∀ (s : State) (part slot v : Nat) (p : Part) (l : Launch), s.part? part = some p → p.launch? (BitVec.ofNat 32 v) = some l →
      let ch := p.chanOf slot
      let share : EndHow := ⟨4, 0, 0, false⟩
      (l.phase = .committing → l.todo.contains slot = true →
          let s1 := if (Tbl.find? s.rims ch).isSome then s.publishAt p ch l.vint p.commitCount else s
          exec (.commitBroadcast part slot v) s = .next (((s1.updPart part fun q => q.updLaunch l.vint fun k =>
            { k with todo := k.todo.erase slot }).due (.commitAck part slot v)).onward (List.range p.slots) slot fun y t =>
              t.due (.commitBroadcast part y v)))
        ∧ (l.phase = .committing → l.todo.contains slot = false → l.acks.contains slot = true →
          let p1 := p.updLaunch l.vint fun k => { k with acks := l.acks.erase slot }
          (l.acks.erase slot ≠ [] → exec (.commitAck part slot v) s = .next (s.setPart part p1))
            ∧ (l.acks.erase slot = [] → exec (.commitAck part slot v) s = .next (((s.setPart part { p1 with intent := none }).finishLaunch
              part l.vint 0 l.status 0 false).wakeReads p)))
        ∧ (l.phase = .running → l.switchAsked = true → l.switchOut = false →
          (∀ k ∈ p.launches, k.phase = .unlocking ∨ vintageOlder k.vint l.vint = false) → exec (.vintageSwitch part v) s
            = .next ((s.setPart part (p.updLaunch l.vint fun k =>
              { k with switchOut := true, swTodo := List.range p.slots, swAcks := List.range p.slots })).later (.switch part 0 v)))
        ∧ (l.phase = .running → (∃ k ∈ p.launches, k.phase ≠ .unlocking ∧ vintageOlder k.vint l.vint = true) →
          exec (.vintageSwitch part v) s = .next s)
        ∧ (l.swTodo.contains slot = true →
          let open' := (s.rim ch).casks.filter fun e => e.state == .open && e.vint == l.vint
          (∀ s1, s.switchEntries p ch l.vint open' = (s1, false) → exec (.switch part slot v) s = .next (s1.startKill part l.vint share))
            ∧ ∀ s1, s.switchEntries p ch l.vint open' = (s1, true) → exec (.switch part slot v) s
              = .next (((s1.updPart part fun q => q.updLaunch l.vint fun k => { k with swTodo := k.swTodo.erase slot }).later
                (.switchAck part slot v)).onward (List.range p.slots) slot fun y t => t.later (.switch part y v)))
        ∧ (l.swTodo.contains slot = false → l.swAcks.contains slot = true →
          (l.swAcks.erase slot ≠ [] → exec (.switchAck part slot v) s
              = .next (s.setPart part (p.updLaunch l.vint fun k => { k with swAcks := l.swAcks.erase slot })))
            ∧ (l.swAcks.erase slot = [] →
              let s1 := s.setPart part ((p.updLaunch l.vint fun k => { k with swAcks := [], switched := true }).setVState l.vint .switched)
              let slots := (List.range p.slots).map p.chanOf
              let s2 := slots.foldl (fun t c => t.setRim c { t.rim c with inPlace := (t.rim c).inPlace ++ [l.vint] }) s1
              let go := fun (t : State) (c : Nat) => if (t.rim c).waiting.isEmpty && (t.rim c).lands.isEmpty then t else t.resumeRim p c l.vint
              exec (.switchAck part slot v) s = .next (p.bound.foldl (fun t x => t.wakeImages x) (slots.foldl go s2))))
        ∧ (∀ q, List.find? (fun (q : CaskQuery) => q.todo.contains slot) l.queries = some q →
          let n := (s.rim ch).entriesOf l.vint l.switched
          let q1 := { q with todo := q.todo.erase slot, counts := q.counts ++ [(slot, n)] }
          exec (.caskuseQuery part slot v) s = .next (((s.setPart part (p.updLaunch l.vint fun k =>
            { k with queries := k.queries.replace q q1 })).later (.caskuseAnswer part slot v)).onward (List.range p.slots) slot fun y t =>
              t.later (.caskuseQuery part y v)))
        ∧ (∀ q n, List.find? (fun (q : CaskQuery) => q.counts.any fun e => e.1 == slot) l.queries = some q →
          List.find? (fun (e : Nat × Nat) => e.1 == slot) q.counts = some (slot, n) →
          let left := q.counts.filter fun e => e.1 != slot
          let w := 64 * (q.sum + n)
          (q.todo = [] → left = [] → exec (.caskuseAnswer part slot v) s
              = .next (((s.setPart part (p.updLaunch l.vint fun k => { k with queries := k.queries.erase q })).logEv q.site 9 q.ctx
                (BitVec.ofNat 64 w) 0 0xFFFF 0 []).complete q.site q.ctx q.id { bytes := leBytes 8 w }))
            ∧ ((q.todo ≠ [] ∨ left ≠ []) → exec (.caskuseAnswer part slot v) s = .next (s.setPart part (p.updLaunch l.vint fun k =>
              { k with queries := k.queries.replace q { q with counts := left, sum := q.sum + n } })))))
    ∧ ∀ (s : State) (p : Part) (chan : Nat) (v : BitVec 32) (e : CaskEntry) (t : List CaskEntry),
      let s0 := s.mergeLine p e.line
      let r := s0.rim chan
      let saved : CaskEntry := ⟨e.line, s0.homeRead p e.line 64, 2 ^ 64 - 1, v, .undo, 0⟩
      let held := (r.casks.filter fun u => u.state == .undo && u.vint == v).length
      (65536 ≤ held → s.switchEntries p chan v (e :: t) = (s, false))
        ∧ (held < 65536 → s.switchEntries p chan v (e :: t)
          = ((s0.setRim chan { r with casks := r.casks.erase e ++ [saved] }).homeWriteLine p e.line e.mask e.data).switchEntries p chan v t)

/-- A submitted command of 128 bytes joins an accepting queue that holds fewer than 32 and is answered with its number; else status 1, 4 or 5. The
engine reads the head of the next queue: a command whose record cannot be written, or that meets lost system storage, flushes its queue, invalid
tables end it with outcome 7, a lost granule of them with outcome 6, a good one takes the next vintage, 0 left out, while fewer than 64 launches
stand. A waiting launch is admitted when no older waiting one conflicts with it, its cask and buffers fit, a group is free and no admitted one
conflicts; running ones of lower priority that block it are ended for relaunch. Each slot locks its ranges; after the last the records are filled
core by core; then the seeds go out, or are staged until the start time, when each band fires its own. A deadline that has come, a KILL write and
an operator's kill end the launch with 2 and 1. -/
def Obligations.LaunchesAreAdmittedAndStarted : Prop :=
  (∀ (s : State) (scl : Requester) (part q : Nat) (d : List Byte) (p : Part) (x : LQueue), s.portUp scl = true → s.module.warm = false →
    s.part? part = some p → p.queues[q]? = some x →
    let ask := exec (.submit scl part q d) s
    (d.length ≠ 128 → ask = .next (s.respond scl 1 []))
      ∧ (d.length = 128 → s.partBusy p = true → ask = .next (s.respond scl 5 []))
      ∧ (d.length = 128 → s.partBusy p = false → (x.en = false ∨ x.flushed = true ∨ 32 ≤ x.cmds.length) → ask = .next (s.respond scl 4 []))
      ∧ (d.length = 128 → s.partBusy p = false → x.en = true → x.flushed = false → x.cmds.length < 32 →
        let add := fun (y : LQueue) => { y with cmds := y.cmds ++ [cmdOf d y.subs scl], subs := y.subs + 1 }
        ask = .next (((s.setPart part { p with queues := p.queues.modify q add }).later (.launchTake part)).respond scl 0 (leBytes 8 x.subs.toNat)))
      ∧ (∀ en, (s.holdsSem scl = false → exec (.qctlEnable scl part q en) s = .next (s.respond scl 3 []))
        ∧ (s.holdsSem scl = true →
          let set := fun (y : LQueue) => { y with en := en, flushed := y.flushed && !en }
          exec (.qctlEnable scl part q en) s
            = .next (((s.setPart part { p with queues := p.queues.modify q set }).later (.launchTake part)).respond scl 0 [])))
      ∧ (s.holdsSem scl = false → exec (.qctlFlush scl part q) s = .next (s.respond scl 3 []))
      ∧ (s.holdsSem scl = true → exec (.qctlFlush scl part q) s = .next ((((s.flushQueue part q).updPart part fun r =>
          { r with queues := r.queues.modify q fun y => { y with flushed := false } }).examine part).respond scl 0 [])))
    ∧ (∀ (s : State) (part v : Nat), exec (.killWrite part v) s = .next (s.startKill part (BitVec.ofNat 32 v) ⟨1, 0, 0, false⟩)
      ∧ (s.module.mgc.recovery = false → exec (.operatorKill part v) s = .next (s.startKill part (BitVec.ofNat 32 v) ⟨1, 0, 0, false⟩)))
    ∧ (∀ (s : State) (part : Nat) (p : Part) (v : BitVec 32) (l : Launch) (how : EndHow), s.part? part = some p → p.launch? v = some l →
      ((l.phase = .committing ∨ l.phase = .unlocking ∨ l.phase = .kill3) → s.startKill part v how = s)
        ∧ (l.phase = .running → ∃ q, (s.startKill part v how).part? part = some q ∧ (s.startKill part v how).mem = s.mem
          ∧ (s.startKill part v how).pending = s.pending ++ [.ev (.killMessage (p.bound.headD 0) v.toNat)]
          ∧ ∀ k, q.launch? v = some k → l.vint = v → k.phase = .kill1 ∧ k.ending = some how ∧ k.todo = p.bound ∧ k.acks = p.bound))
    ∧ (∀ (s : State) (part q : Nat) (p : Part) (c : Cmd), s.part? part = some p → p.stopped = false → s.module.warm = false →
      List.find? (fun q => (p.headOf q).isSome) ((List.range 16).map fun i => (p.turn + i) % 16) = some q → p.headOf q = some c →
      let s0 := s.setPart part { p with turn := (q + 1) % 16 }
      let drop := fun (x : LQueue) => { x with cmds := x.cmds.drop 1 }
      (p.cmplFits c = false ∨ s.systemBadAt p.lead = true → exec (.launchTake part) s = .next (((s0.updPart part fun r => { r with
          queues := r.queues.modify q fun x => { x with flushed := true } }).flushQueue part q).examine part))
        ∧ (∀ g, p.cmplFits c = true → s.systemBadAt p.lead = false → s.lostTable p c = some g → exec (.launchTake part) s
          = .next (((s0.updPart part fun r => { r with queues := r.queues.modify q drop }).endCommandAt part q 6 c 0 g).later (.launchTake part)))
        ∧ (p.cmplFits c = true → s.systemBadAt p.lead = false → s.lostTable p c = none → s.readLaunch p q c = none → exec (.launchTake part) s
          = .next (((s0.updPart part fun r => { r with queues := r.queues.modify q drop }).endCommand part q 7 c 0).later (.launchTake part)))
        ∧ (∀ l, p.cmplFits c = true → s.systemBadAt p.lead = false → s.lostTable p c = none → s.readLaunch p q c = some l →
          let standing := (p.launches.filter fun k => k.phase != .unlocking).length
          (64 ≤ standing → exec (.launchTake part) s = .next s)
            ∧ (standing < 64 →
              let next : BitVec 32 := if p.vcount + 1 = 0 then 1 else p.vcount + 1
              exec (.launchTake part) s = .next (((s0.updPart part fun r => ({ r with
                vcount := next, launches := r.launches ++ [{ l with vint := p.vcount }] }).setVState p.vcount .assigned).later
                (.admission part p.vcount.toNat)).examine part))))
    ∧ (∀ (s : State) (part v g : Nat) (p : Part) (w : Launch), s.part? part = some p → p.launch? (BitVec.ofNat 32 v) = some w →
      w.phase = .waiting → p.freeGroup = some g →
      let admitted := p.launches.filter (·.admitted)
      let may := (∀ l ∈ p.launches, l.phase = .waiting → vintageOlder l.vint w.vint = true → l.conflicts w = false)
        ∧ admitted.foldl (fun n l => n + l.cask) w.cask ≤ p.poolBytes ∧ ∀ e ∈ w.bufDecl, p.declaredElsewhere w.vint e.2.1 e.2.2 = false
      let blocks := admitted.filter fun l => l.conflicts w
      (¬may → exec (.admission part v) s = .next s)
        ∧ (may → blocks = [] →
          let p1 := p.updLaunch w.vint fun k => { k with
            phase := .locking, grp := some g, ranges := s.lockRanges p w, todo := List.range p.slots, acks := List.range p.slots }
          exec (.admission part v) s = .next (((s.setPart part { p1 with queues := p1.queues.modify w.queue fun x =>
            { x with cmds := x.cmds.filter fun c => c.sub != w.cmd.sub } }).due (.lock part 0 v)).later (.launchTake part)))
        ∧ (may → blocks ≠ [] →
          let yields := ∀ l ∈ blocks, l.phase = .running ∧ l.switched = false ∧ l.rootPrio < w.rootPrio
          (yields → exec (.admission part v) s = .next (blocks.foldl (fun t l => t.startKill part l.vint ⟨0, 0, 0, true⟩) s))
            ∧ (¬yields → exec (.admission part v) s = .next s)))
    ∧ (∀ (s : State) (part slot v : Nat) (p : Part) (l : Launch), s.part? part = some p → p.launch? (BitVec.ofNat 32 v) = some l →
      let ch := p.chanOf slot
      (l.phase = .locking → l.todo.contains slot = true →
          let s1 := s.setRim ch { s.rim ch with locks := (s.rim ch).locks ++ [⟨l.vint, l.ranges⟩] }
          exec (.lock part slot v) s = .next (((s1.updPart part fun q => q.updLaunch l.vint fun k => { k with todo := k.todo.erase slot }).due
            (.lockAck part slot v)).onward (List.range p.slots) slot fun y t => t.due (.lock part y v)))
        ∧ (l.phase = .locking → l.todo.contains slot = false → l.acks.contains slot = true →
          (l.acks.erase slot ≠ [] → exec (.lockAck part slot v) s
              = .next (s.setPart part (p.updLaunch l.vint fun k => { k with acks := l.acks.erase slot })))
            ∧ (∀ root g, l.acks.erase slot = [] → l.grp = some g →
              let now := s.partNs part
              let go := fun (k : Launch) => { k with
                phase := .filling, acks := [], todo := p.visits, tadmit := now, late := l.start.any fun t => decide (t ≤ now + 20000),
                deadlineAt := l.cmd.keptDeadline.or (l.deadns.map fun d => l.start.getD now + d),
                fillShapes := if l.table then [] else s.section p l.cmd.shsec l.cmd.shn, fillPats := s.section p l.cmd.patsec l.cmd.patn }
              let s1 := s.setPart part ((p.updLaunch l.vint go).setVState l.vint .running)
              s1.standingRoot p = some root → exec (.lockAck part slot v) s
                = .next (((s1.layGroup p g (entriesOf p confG1 root (s1.standingNodes p root))).later
                    (.recordStoreFill (p.visits.headD 0) v)).killSections p l)))
        ∧ (l.phase = .staged → l.todo = [] → l.start.getD 0 ≤ s.module.clock.ns →
          let bands := (List.range p.nb).map (p.lead + ·)
          exec (.startTimeReached part v) s = .next (bands.foldl (fun t b => t.later (.fireWave b v))
            (s.setPart part (p.updLaunch l.vint fun k => { k with todo := bands, tstart := s.partNs part }))))
        ∧ (l.phase = .staged → s.module.clock.ns < l.start.getD 0 → exec (.startTimeReached part v) s = .next s)
        ∧ (∀ t, l.deadlineAt = some t → exec (.deadlineExpiry part v) s
          = .next (if t ≤ s.module.clock.ns then s.startKill part l.vint ⟨2, 0, 0, false⟩ else s)))
    ∧ (∀ (s : State) (site v : Nat) (p : Part) (l : Launch), s.partAt site = some p → p.launch? (BitVec.ofNat 32 v) = some l →
      l.phase = .filling → l.todo.contains site = true →
      let bufs : Tbl Buf := l.bufDecl.foldl (fun t e => Tbl.put t e.1 ⟨.empty, 0, e.2.2, e.2.1, false, none⟩) []
      let put := fun (c : Core) => { c with
        pats := if l.fillPats.isEmpty then c.pats else Tbl.put c.pats v l.fillPats,
        shapes := if l.fillShapes.isEmpty then c.shapes else Tbl.put c.shapes v l.fillShapes,
        bufs := if bufs.isEmpty then c.bufs else Tbl.put c.bufs v bufs }
      let s2 := (s.updCore site put).updPart p.lead fun q => q.updLaunch l.vint fun k => { k with todo := l.todo.erase site }
      (l.todo.erase site ≠ [] → exec (.recordStoreFill site v) s = .next (s2.onward p.visits site fun y t => t.later (.recordStoreFill y v)))
        ∧ (l.todo.erase site = [] → exec (.recordStoreFill site v) s = .next (s2.filled p { l with todo := [] })))
    ∧ ∀ (s : State) (band v : Nat) (p : Part) (l : Launch), s.partOfBand band = some p → p.launch? (BitVec.ofNat 32 v) = some l →
      l.phase = .staged → l.todo.contains band = true →
      let s1 := (l.seedLcns.filter fun i => bandOf (p.bound.getD i 0) == band).foldl (fun t i => t.fireSeed p l i) s
      let s2 := s1.updPart p.lead fun q => q.updLaunch (BitVec.ofNat 32 v) fun k => { k with todo := l.todo.erase band }
      exec (.fireWave band v) s = .next (if (l.todo.erase band).isEmpty then s2.running p.lead (BitVec.ofNat 32 v) l.tstart else s2)

/-- The interval timer asks for a boundary. A boundary does not fall inside an open word group. A wanted boundary with no copy under way captures the snapshot and every dirty line, completes the
scalar words, releases a CKPT, logs itself under the interval's number and starts the copy; a core without a cellar closes the interval at
once. The copy sends, one flit after another, the records of the log, then its lines by three, then the snapshot, and the close line last, when
everything is acknowledged and no earlier record is left. Past the high water a core asks for a boundary and an expedited pass. The close line
acknowledged ends the copy; a boundary, a fold or a scan that waited for it goes on. A fold applies the intervals that its pass validated to the mirror and
frees them with the records before the last boundary, and a core that a full cellar held goes on. A core whose host is lost takes a substitute, a boundary and a pass at the head. -/
def Obligations.IntervalsAreCapturedCopiedAndFolded : Prop :=
  (∀ (s : State) (site : Nat) (p : Part) (ep : Nat) (k : Keep), s.keepAt site = some (p, ep, k) →
    let c := s.core site
    let asked := (s.updKeep p.lead ep fun q => { q with want := true }).due (.checkpointBoundary site)
    exec (.intervalTimer site) s = .next asked
      ∧ (c.ctxs.toList.any Ctx.inGroup = true → exec (.checkpointBoundary site) s = .next s)
      ∧ (k.want = true → k.copy = none → c.paused = false → c.ctxs.toList.any Ctx.inGroup = false →
        let lines := s.lineCopies site (c.dirty.map (·.1))
        let c1 := c.capture
        let iv : Ival := ⟨k.num, c.en, s.timeAt site, site, { c1 with log := [] }, lines⟩
        let s1 := (s.setCore site c1).logEv site 12 0 (k.num.setWidth 64) 0 0xFFFF 0 []
        (∀ h, k.host = some h → exec (.checkpointBoundary site) s = .next (((s1.updKeep p.lead ep fun q => if q.host.isSome then
              { q with num := q.num + 1, want := false, copy := some iv, left := lines, snapLeft := 1024, out := 0, closeSent := false }
            else { q with num := q.num + 1, want := false }).wakeEngines site).later (.cellarCopy site)))
          ∧ (k.host = none → c.drained = false → exec (.checkpointBoundary site) s = .next ((s1.updKeep p.lead ep fun q => if q.host.isSome then
              { q with num := q.num + 1, want := false, copy := some iv, left := lines, snapLeft := 1024, out := 0, closeSent := false }
            else { q with num := q.num + 1, want := false }).wakeEngines site)))
      ∧ (∀ h id b k1, k.host = some h → c.stopped = false → c.fenced = false → p.canSend ep (s.hostEp p h.1) = true → k.lines < cellarSize →
        k.nextFlit c.log = some (id, b, k1) → exec (.cellarCopy site) s
          = .next (((s.updKeep p.lead ep fun _ => k1).send p.lead site false ep (s.hostEp p h.1) 11 id h.1 0 b).later (.cellarCopy site)))
      ∧ (k.host ≠ none → 8192 + 2048 * (s.band (bandOf site)).hw.toNat < k.lines + c.dirty.length + 1024 →
        exec (.highWater site) s = .next (asked.requestPass site false))
      ∧ (k.lines + c.dirty.length + 1024 ≤ 8192 + 2048 * (s.band (bandOf site)).hw.toNat → exec (.highWater site) s = .next s)
      ∧ (∀ iv, k.copy = some iv → k.closeSent = true → k.out = 0 →
        let s1 := s.updKeep p.lead ep fun q => { q with copy := none, closeSent := false }
        let s2 := if k.want then s1.due (.checkpointBoundary site) else s1
        exec (.intervalClose site) s
          = .next ((if c.drained = true ∧ k.want = false then s2.later (.scanPass site) else s2).noteHigh site))
      ∧ (k.fold = true →
        let s1 := (s.updKeep p.lead ep fun _ => k.folded).later (.cellarCopy site)
        exec (.mirrorFold site) s = .next (if 16384 ≤ k.lines ∧ k.folded.lines < 16384 then s1.resume site else s1))
      ∧ (k.fold = false → exec (.mirrorFold site) s = .next s)
      ∧ (∀ h, k.host = some h → s.usable h.1 = true → h.2 = 0 → exec (.cellarHostLoss site) s = .next s)
      ∧ (∀ h, k.host = some h → s.usable h.1 = false →
        let bare := { k with host := none }
        let host := s.chooseHost { p with keeps := Tbl.put p.keeps ep bare } site
        exec (.cellarHostLoss site) s = .next (((s.updKeep p.lead ep fun _ => { bare with
          host := host, copy := none, left := [], snapLeft := 0, out := 0, closeSent := false, sent := 0, ivals := [], part := [],
          snapPart := 0, log := [], whole := true }).wantBoundary site).requestPass site true)))
    ∧ (∀ (c : Core) (n : Nat), n < 8 → c.capture.dirty = [] ∧ (c.capture.ctx n).due = [] ∧ (c.capture.ctx n).x = (c.ctx n).x
      ∧ (c.capture.ctx n).pc = (c.ctx n).pc ∧ ((c.ctx n).hold = .ckpt → (c.capture.ctx n).hold = .ckptDone)
      ∧ ((c.ctx n).hold ≠ .ckpt → (c.capture.ctx n).hold = (c.ctx n).hold))
    ∧ (∀ (k : Keep) (log : List LogRec) (iv : Ival), k.copy = some iv →
      (k.sent = 0 → log ≠ [] →
          ∃ r, r ≠ [] ∧ r <+: log ∧ k.nextFlit log = some (0, .cellar k.num [] 0 r false, { k with sent := r.length }))
        ∧ ((k.sent ≠ 0 ∨ log = []) → k.left ≠ [] → k.nextFlit log
          = some (1, .cellar iv.num (k.left.take 3) 0 [] false, { k with left := k.left.drop 3, out := k.out + 1 }))
        ∧ ((k.sent ≠ 0 ∨ log = []) → k.left = [] → k.snapLeft ≠ 0 → k.nextFlit log
          = some (1, .cellar iv.num [] (min 3 k.snapLeft) [] false, { k with snapLeft := k.snapLeft - min 3 k.snapLeft, out := k.out + 1 }))
        ∧ (log = [] → k.left = [] → k.snapLeft = 0 → k.out = 0 → k.closeSent = false → k.nextFlit log
          = some (1, .cellar iv.num [] 0 [] true, { k with closeSent := true, out := 1 })))
    ∧ (∀ (k : Keep) (last : Ival), (k.ivals.filter fun iv => beforeEn iv.num k.foldNum).getLast? = some last →
      (∀ iv, iv ∈ k.folded.ivals ↔ iv ∈ k.ivals ∧ beforeEn iv.num k.foldNum = false) ∧ k.folded.fold = false ∧ k.folded.mirror.num = last.num ∧ k.folded.mirror.snap = last.snap
        ∧ k.folded.mirror.pass = k.foldPass ∧ (∀ r, r ∈ k.folded.log ↔ r ∈ k.log ∧ beforeEn r.en last.en = false)
        ∧ (∀ e, (k.ivals.filter fun iv => beforeEn iv.num k.foldNum) = [last] → last.lines = [e] → Tbl.find? k.folded.mirror.lines e.1 = some e.2.2
          ∧ ∀ j, j ≠ e.1 → Tbl.find? k.folded.mirror.lines j = Tbl.find? k.mirror.lines j))
    ∧ ∀ (s : State) (p : Part) (site : Nat), s.usable (buddyOf site) = true → (buddyOf site, 0) ∉ p.cellarsUsed →
      s.chooseHost p site = some (buddyOf site, 0)

/-- A rotation gives its next core a pass while its limit allows: the core is drained, takes a boundary and is scanned; a pass raises its pass number,
empties its provisional list, asks for the fold of the intervals that it validated, or hands over a whole mirror, and lets it run on; a failed
scan retires the site. A watchdog traps a held context with WATCHDOG, or stops a core whose engine stands still. A detected error fences a failed
router, around which the ring is then laid, and a core that is not yet out. A sparing parks the endpoint's entry at every router, restores the
core on the reserve, binds the endpoint to it, releases the parked lists, once none of them is left replays the log record by record and ends;
each broadcast's last acknowledgement begins the next step. A diagnostic scan that passes ends the reserve's adoption; one that fails retires the
site. A sweep goes around the ring, adds errors at job cores, takes the least pass number, and marks the ring broken, with a notice to the
management controller, when it does not come back. -/
def Obligations.FailedCoresAreSparedAndPassesRotate : Prop :=
  (∀ (s : State) (part d x : Nat) (p : Part), s.part? part = some p →
    let r := p.rota d
    let sites := s.rotaSites p d
    let i := r.next % sites.length
    let pos := (indexOf sites x).getD 0
    r.rot = none → r.passing.length < rotaLimit d → sites ≠ [] →
    List.find? (fun x => !r.queue.contains x && !r.passing.contains x && !(s.core x).paused) (sites.drop i ++ sites.take i) = some x →
    let turned : Rota := { r with next := (pos + 1) % sites.length, rot := some x, passing := r.passing ++ [x] }
    0 < i → i ≤ pos → exec (.rotationPass part d) s = .next ((s.updPart part fun q => { q with rotas := Tbl.put q.rotas d turned }).beginPass x))
    ∧ (∀ (s : State) (site : Nat), s.inPass site = true → (s.core site).drained = true → (s.core site).paused = false →
      (∀ p ep k, s.keepAt site = some (p, ep, k) → k.want = false ∧ k.copy = none) →
      ∃ n, exec (.scanPass site) s = .next ((s.setCore site { s.core site with scanning := true, corr := (s.core site).corr + n }).later
        (.scanPassResult site true)) ∧ n < 4)
    ∧ (∀ (s : State) (site : Nat) (p : Part), s.partAt site = some p → (s.core site).scanning = true → s.isReserve p site = false →
      (exec (.scanPassResult site false) s = .next ((s.endPass site).failCore site true))
        ∧ ((s.band (bandOf site)).sthr = 0 →
          let c1 := { s.core site with
            scanning := false, drained := false, pass := ((s.core site).pass + 1) % 2 ^ 32, prov := [], scanAsked := false }
          let s1 := (s.setCore site c1).endPass site
          (∀ q ep k, s1.keepAt site = some (q, ep, k) → (s1.band (bandOf site)).sthr = 0 → k.whole = false → exec (.scanPassResult site true) s
              = .next ((((s1.updKeep p.lead ep fun k => { k with fold := true, foldPass := c1.pass, foldNum := k.num }).later
                (.mirrorFold site)).resume site).regate p))
            ∧ (∀ q ep k, s1.keepAt site = some (q, ep, k) → (s1.band (bandOf site)).sthr = 0 → k.whole = true → exec (.scanPassResult site true) s
              = .next (((s1.updKeep p.lead ep fun _ => s1.wholeMirror site { k with foldPass := c1.pass }).resume site).regate p))
            ∧ (s1.keepAt site = none → exec (.scanPassResult site true) s = .next ((s1.resume site).regate p))))
    ∧ (∀ (s : State) (site n : Nat),
      let counts := s.coreIssues site = true ∧ s.inPass site = false ∧ s.timersStill site = false
      ((s.ctx site n).watched ((s.core site).tq.any fun t => t.ctx == n && t.held.isNone) = true → counts →
        exec (.contextWatchdog site n) s = .next (s.trapAt site n 0x0B 0 0))
        ∧ (counts → (s.core site).holdsWork = true → (s.core site).dead = false → (s.core site).retired = false →
          (s.core site).fenced = false → exec (.coreWatchdog site) s = .next (s.errorAt site))
        ∧ (s.partAt site = none → (s.core site).dead = false → (s.core site).retired = false → (s.core site).fenced = false →
          ∃ t, (t = s ∨ t = s.fenceRouter site) ∧ answers (exec (.detectedError site) s) fun u =>
            u = t.errorAt site ∨ ∃ q, (t.errorAt site).partAt site = some q ∧ ∃ w, (w = t.errorAt site ∨ w = (t.errorAt site).layAround q site)
              ∧ u = w.resendReady q)
        ∧ (s.partAt site = none → s.inPass site = false → s.errorAt site = s.dropSite site)
        ∧ (∀ p, s.partAt site = some p → (s.band (bandOf site)).sparing = none →
          s.errorAt site = (if s.inPass site then s.endPass site else s).failCore site (s.inPass site))
        ∧ (∀ p, s.partAt site = some p → ∃ router : Bool, (router = true → (s.router site).fenced = false) ∧
          let t := if router then s.fenceRouter site else s
          let u := if (s.core site).dead || (s.core site).retired || ((s.core site).fenced && !(s.core site).replaying) then t else t.errorAt site
          ∀ q, u.partAt site = some q → exec (.detectedError site) s
            = .next ((if router && !u.recovering site then u.layAround q site else u).resendReady q)))
    ∧ (∀ (s : State) (site ep b : Nat) (p : Part) (x : Sparing), s.partAt site = some p → s.sparingOf p ep = some (b, x) →
      let rest := x.todo.filter (· != site)
      let seen := fun (act : State) => act.setSparing b (some { x with todo := rest })
      let go := fun (f : Nat → Due) (t : State) => match rest with
        | y :: _ => t.later (f y)
        | [] => t
      let y := { x with acks := x.acks.filter (· != site) }
      let s1 := s.setSparing b (some y)
      let last := x.todo.contains site = false ∧ x.acks.contains site = true ∧ y.acks = []
      (x.step = .fence → x.todo.contains site = true → exec (.rebindFence site ep) s
          = .next (go (.rebindFence · ep) ((seen (s.rebindAt site ep (x.site, .parked))).later (.rebindFenceAck site ep))))
        ∧ (x.step = .bind → x.todo.contains site = true → exec (.rebindBind site ep) s
          = .next (go (.rebindBind · ep) ((seen (s.rebindAt site ep (x.reserve, .bound))).later (.rebindBindAck site ep))))
        ∧ (x.step = .release → x.todo.contains site = true → exec (.rebindRelease site ep) s
          = .next (go (.rebindRelease · ep) ((seen (s.wakeSiding p ep)).later (.rebindReleaseAck site ep))))
        ∧ (x.step = .fence → last → exec (.rebindFenceAck site ep) s
          = .next ((s1.setSparing b (some { y with step := .restore })).later (.sparingRestore b)))
        ∧ (x.step = .bind → last → exec (.rebindBindAck site ep) s
          = .next ((s1.setSparing b (some { y with step := .release })).later (.sparingRelease b)))
        ∧ (x.step = .release → p.hasParked (bandOf site) ep = true → exec (.rebindReleaseAck site ep) s = .next s)
        ∧ (x.step = .release → p.hasParked (bandOf site) ep = false → last →
          let again := fun (l : Launch) => if l.phase = .filling then { l with todo := p.visits } else l
          let q := { p with launches := p.launches.map again }
          let fill := fun (u : State) (l : Launch) =>
            if l.phase = .filling then u.later (.recordStoreFill (p.visits.headD 0) l.vint.toNat) else u
          exec (.rebindReleaseAck site ep) s = .next ((q.launches.foldl fill
            ((s1.setPart p.lead q).setSparing b (some { y with step := .replay }))).later (.logReplay x.reserve))))
    ∧ (∀ (s : State) (b : Nat) (x : Sparing) (p : Part) (k : Keep), (s.band b).sparing = some x → s.partOfBand b = some p →
      Tbl.find? p.keeps x.ep = some k →
      (x.step = .restore → k.fold = false → s.chooseReserve p x.site = none → exec (.sparingRestore b) s = .next (s.noReserve p b x))
        ∧ (∀ r, x.step = .restore → k.fold = false → x.scan = true → s.chooseReserve p x.site = some r →
          let t := s.updCore x.site fun c => { c with retired := true }
          let t1 := (p.hostedAt fun h => h.1 == r && h.2 != 0).foldl (fun u o => u.later (.cellarHostLoss o)) t
          let core := { k.mirror.core (t.core r).pass x.core.prov with replaying := true }
          exec (.sparingRestore b) s = .next ((((t1.setCore r core).loadLines r k.mirror.lines).setSparing b
            (some { x with step := .bind, reserve := r, replay := [], scan := true })).later (.sparingBind b)))
        ∧ (∀ r h, x.step = .restore → k.fold = false → x.scan = false → k.host = some h → s.usable h.1 = true →
          s.chooseReserve p x.site = some r →
          let from' := ((k.ivals.getLast?).map (·.en)).getD k.mirror.en
          answers (exec (.sparingRestore b) s) fun t => ∃ y, (t.band b).sparing = some y ∧ y.step = .bind ∧ y.reserve = r ∧ y.ep = x.ep
            ∧ (t.core r).replaying = true ∧ (t.core r).pass = (s.core r).pass ∧ (.sparingBind b) ∈ t.pending
            ∧ (y.scan = false → y.replay = (k.log.filter fun e => beforeEn from' e.en) ++ x.core.log.drop k.sent
              ∧ (t.core r).adopted = x.core.prov.map (·.1)) ∧ (y.scan = true → y.replay = []))
        ∧ (x.step = .bind → x.todo = [] → x.acks = [] → (s.router (p.siteOf x.ep)).fenced = false →
          answers (exec (.sparingBind b) s) fun t => ∃ q, t.part? p.lead = some q
            ∧ (x.ep < 0x8000 → q.bound = renameSite (p.siteOf x.ep) x.reserve p.bound ∧ q.sups = p.sups)
            ∧ (0x8000 ≤ x.ep → q.bound = p.bound ∧ q.sups = renameSite (p.siteOf x.ep) x.reserve p.sups)
            ∧ q.ring = revisit (p.siteOf x.ep) x.reserve (indexOf q.bound x.reserve) p.ring
            ∧ (.rebindBind ((s.liveRouters p).headD x.reserve) x.ep) ∈ t.pending)
        ∧ (x.step = .release → x.todo = [] → x.acks = [] →
          let rims := (List.range p.nb).map fun k => 10 * (p.lead + k)
          exec (.sparingRelease b) s = .next ((s.setSparing b (some { x with todo := rims, acks := rims })).later
            (.rebindRelease (rims.headD 0) x.ep))))
    ∧ (∀ (s : State) (site : Nat) (x : Sparing), (s.band (bandOf site)).sparing = some x → x.step = .replay → x.reserve = site →
      (x.replay = [] → exec (.logReplay site) s = .next (s.later (.replayEnd site)))
        ∧ (∀ r rest, x.replay = r :: rest → exec (.logReplay site) s
          = .next (((s.setSparing (bandOf site) (some { x with replay := rest })).replayRec site r).later (.logReplay site)))
        ∧ (∀ p k, x.replay = [] → s.partAt site = some p → Tbl.find? p.keeps x.ep = some k →
          exec (.replayEnd site) s = .next (s.endSparing p (bandOf site) x k)))
    ∧ (∀ (s : State) (site ep : Nat) (p : Part), s.partAt site = some p → (s.band (bandOf site)).sparing = none →
      List.find? (fun (e : Nat × Nat) => e.1 == site) (s.band (bandOf site)).diag = some (site, ep) →
      let b := bandOf site
      let s1 := s.setBand b { s.band b with diag := (s.band b).diag.filter fun e => e.1 != site }
      exec (.diagnosticScanResult site true) s = .next ((s1.updCore (p.siteOf ep) fun c => { c with adopted := [] }).regate p)
        ∧ (Tbl.find? p.keeps ep = none → exec (.diagnosticScanResult site false) s = .next (s1.updCore site fun c => { c with retired := true })))
    ∧ (∀ (s : State) (part : Nat) (p : Part), s.part? part = some p →
      (∀ e l, p.sweep = none → p.ring = e :: l → exec (.healthSweepStart part) s
          = .next ((s.setPart part { p with sweep := some ⟨0, 0, 2 ^ 32 - 1⟩ }).later (.healthSweep e.site)))
        ∧ (∀ w, p.sweep = some w → exec (.ringSweepTimeout part) s
          = .next ((s.setPart part { p with sweep := none, ringBroken := true, ring := (s.ringOf p).getD p.ring }).notice (.ringBroken part))))
    ∧ ∀ (s : State) (site : Nat) (p : Part) (w : Sweep) (e : RingEntry), s.partAt site = some p → p.sweep = some w →
      p.ring[w.pos]? = some e → e.site = site →
      let c := s.core site
      let w1 : Sweep := if e.lcn.isSome then ⟨w.pos + 1, w.errs + c.corr, min w.pass c.pass⟩ else { w with pos := w.pos + 1 }
      (∀ n, p.ring[w.pos + 1]? = some n → exec (.healthSweep site) s
          = .next ((s.setPart p.lead { p with sweep := some w1 }).later (.healthSweep n.site)))
        ∧ (p.ring[w.pos + 1]? = none → exec (.healthSweep site) s
          = .next (s.setPart p.lead { p with sweep := none, ringBroken := false, health := (w1.errs % 2 ^ 32, w1.pass) }))

/-- Port down: no response. Warm reset: status 5. Otherwise a read or write of an address or size outside R520 and R521, or of a partition that does
not exist, has status 1; a read of global memory below the capacity gives its committed bytes, or waits while a commit is under way; a write there
has status 2 on a locked granule, else stores. Spaces 1 to 3 read and write the bytes of their tables, spaces 4 to 7 have status 1, a 128-byte
write of a queue's slot is a submission. A read of SEM acquires it when free; without it, writes of tns, tstep and PCTL have status 3. A read of
tsec latches tns for that port. tns sets the counter with the seconds written before (or those current: the model's choice); tstep adds. A 1PPS
edge latches the counter; a distribution sets each band's copy within 4 ns (its amount is free, log 7). PCTL 1 at a lead band whose record can be
carried out and PCTL 2 at a band of an idle partition start their operations, which end with PCTL 0; others have status 1 or 5; the end of one
whose configuration cannot be built leaves its bands clear. A port that goes down drops its requests and frees its semaphore. -/
def Obligations.HostPortsReadAndWrite : Prop :=
  (∀ (s : State) (scl : Requester) (addr len : Nat) (data : List Byte),
    let asks : List Instr := [.hostMemoryRead scl addr len, .hostMemoryWrite scl addr data, .registerWrite scl addr data, .semRead scl,
      .semWrite scl, .tsecRead scl, .tnsWrite scl len, .timeStep scl len, .pctlCreate scl len, .pctlDissolve scl len]
    (s.portUp scl = false → ∀ i ∈ asks, exec i s = .next s)
      ∧ (s.portUp scl = true → s.module.warm = true → ∀ i ∈ asks, exec i s = .next (s.respond scl 5 [])))
    ∧ (∀ (s : State) (scl : Requester) (addr len : Nat) (data : List Byte), s.portUp scl = true → s.module.warm = false →
      (2 ^ 52 ≤ addr ∨ len % 8 ≠ 0 ∨ len < 8 ∨ 256 < len ∨ addr % 8 ≠ 0 ∨ 256 < addr % 256 + len →
        exec (.hostMemoryRead scl addr len) s = .next (s.respond scl 1 []))
        ∧ (2 ^ 52 ≤ addr ∨ data.length % 8 ≠ 0 ∨ data.length < 8 ∨ 256 < data.length ∨ addr % 8 ≠ 0 ∨ 256 < addr % 256 + data.length →
          exec (.hostMemoryWrite scl addr data) s = .next (s.respond scl 1 []) ∧ exec (.registerWrite scl addr data) s = .next (s.respond scl 1 [])))
    ∧ (∀ (s : State) (scl : Requester) (space part off len : Nat) (data : List Byte), s.portUp scl = true → s.module.warm = false →
      space < 8 → part < 16 → off < 2 ^ 44 → len % 8 = 0 → 8 ≤ len → off % 8 = 0 → off % 256 + len ≤ 256 → data.length = len →
      let addr := space * 2 ^ 48 + part * 2 ^ 44 + off
      (s.part? part = none → exec (.hostMemoryRead scl addr len) s = .next (s.respond scl 1 [])
          ∧ exec (.hostMemoryWrite scl addr data) s = .next (s.respond scl 1 []))
        ∧ (∀ p, s.part? part = some p → space = 0 →
          (p.capacity < off + len → p.committing = false → exec (.hostMemoryRead scl addr len) s = .next (s.respond scl 1 []))
            ∧ (off + len ≤ p.capacity → p.committing = false → exec (.hostMemoryRead scl addr len) s
              = .next (s.respond scl 0 (s.committedRead p off len)))
            ∧ (p.committing = true → exec (.hostMemoryRead scl addr len) s
              = .next { s with module := { s.module with held := s.module.held ++ [(scl, addr, len)] } })
            ∧ (p.capacity < off + len → exec (.hostMemoryWrite scl addr data) s = .next (s.respond scl 1 []))
            ∧ (off + len ≤ p.capacity → s.hostLocked p off len = true → exec (.hostMemoryWrite scl addr data) s = .next (s.respond scl 2 []))
            ∧ (off + len ≤ p.capacity → s.hostLocked p off len = false → len < 256 → exec (.hostMemoryWrite scl addr data) s
              = .next ((s.committedWrite p off data).respond scl 0 [])))
        ∧ (∀ p, s.part? part = some p → 1 ≤ space → space ≤ 3 →
          exec (.hostMemoryRead scl addr len) s = .next (match s.hostBytes p space off len with
            | some l => (if space = 2 then s.readMirror p (off / 2 ^ 22) else s).respond scl 0 l
            | none => s.respond scl 1 [])
          ∧ exec (.hostMemoryWrite scl addr data) s = .next ((s.hostWrite p space off data).2.respond scl (s.hostWrite p space off data).1 []))
        ∧ (∀ p, s.part? part = some p → 4 ≤ space → exec (.hostMemoryRead scl addr len) s = .next (s.respond scl 1 [])
          ∧ exec (.hostMemoryWrite scl addr data) s = .next (s.respond scl 1 []))
        ∧ (∀ p, s.part? part = some p → space = 0 → len = 256 → off + len ≤ p.capacity → s.hostLocked p off len = false →
          exec (.hostMemoryWrite scl addr data) s = .next (((s.committedWrite p off data).updPart p.lead fun (q : Part) =>
            { q with lost := q.lost.filter fun g => g != off }).respond scl 0 [])))
    ∧ (∀ (s : State) (scl : Requester) (part off len : Nat), s.portUp scl = true → s.module.warm = false →
      part < 16 → off < 2 ^ 44 → len % 8 = 0 → 8 ≤ len → off % 8 = 0 → off % 256 + len ≤ 256 →
      exec (.hostMemoryRead scl (8 * 2 ^ 48 + part * 2 ^ 44 + off) len) s = .next (match s.readRegs scl part (wordOffs off len) with
        | some (t, l) => t.respond scl 0 l
        | none => s.respond scl 1 []))
    ∧ (∀ (s : State) (scl : Requester) (part off w : Nat), s.portUp scl = true → s.module.warm = false → part < 16 → off < 2 ^ 44 → off % 8 = 0 →
      w < 2 ^ 64 →
      let r := s.writeReg scl part off w
      exec (.registerWrite scl (8 * 2 ^ 48 + part * 2 ^ 44 + off) (leBytes 8 w)) s = .next (r.2.respond scl r.1 [])
        ∧ (0x1000 ≤ off → exec (.hostMemoryWrite scl (8 * 2 ^ 48 + part * 2 ^ 44 + off) (leBytes 8 w)) s = .next (r.2.respond scl r.1 [])))
    ∧ (∀ (s : State) (scl : Requester) (part q : Nat) (data : List Byte), s.portUp scl = true → s.module.warm = false → part < 16 → q < 16 →
      data.length = 128 → exec (.hostMemoryWrite scl (8 * 2 ^ 48 + part * 2 ^ 44 + 256 * q) data) s = exec (.submit scl part q data) s)
    ∧ (∀ (s : State) (scl : Requester), s.portUp scl = true → s.module.warm = false →
      let m := s.module
      (scl ≠ .mgc → m.sem = .free → exec (.semRead scl) s = .next ({ s with module := { m with sem := ownerOf scl, semGen := m.semGen + 1 } }.respond
          scl 0 (leBytes 8 ((if scl = Requester.sclA then 1 else 2) + 2 ^ 16 * (m.semGen + 1).toNat))))
        ∧ (m.sem = .free → exec (.semRead .mgc) s = .next (s.respond .mgc 0 (leBytes 8 (2 ^ 16 * m.semGen.toNat))))
        ∧ (m.sem ≠ .free → exec (.semRead scl) s
          = .next (s.respond scl 0 (leBytes 8 ((if m.sem = SemOwner.sclA then 1 else 2) + 2 ^ 16 * m.semGen.toNat))))
        ∧ (s.holdsSem scl = true → exec (.semWrite scl) s = .next ({ s with module := { m with sem := .free } }.respond scl 0 []))
        ∧ (s.holdsSem scl = false → exec (.semWrite scl) s = .next (s.respond scl 3 []) ∧ (∀ x, exec (.tnsWrite scl x) s = .next (s.respond scl 3 []))
          ∧ (∀ x, exec (.timeStep scl x) s = .next (s.respond scl 3 [])) ∧ (∀ b, exec (.pctlCreate scl b) s = .next (s.respond scl 3 []))
          ∧ (∀ b, exec (.pctlDissolve scl b) s = .next (s.respond scl 3 []))))
    ∧ (∀ (s : State), exec .mgcSemFree s = .next { s with module := { s.module with sem := .free } })
    ∧ (∀ (s : State) (scl : Requester), s.portUp scl = true → s.module.warm = false →
      let m := s.module
      (exec (.tsecRead scl) s = .next ({ s with module := { m with
          latch := m.latch.filter (fun (e : Requester × BitVec 32) => e.1 != scl) ++ [(scl, BitVec.ofNat 32 (m.clock.ns % 1000000000))] } }.respond scl 0
            (leBytes 8 (m.clock.ns / 1000000000 % 2 ^ 48))))
        ∧ (s.holdsSem scl = true →
          (∀ x, 999999999 < x → exec (.tnsWrite scl x) s = .next (s.respond scl 1 []))
            ∧ (∀ x sec, x ≤ 999999999 → m.stagedSec = some sec → exec (.tnsWrite scl x) s
              = .next ((s.setClock (sec.toNat * 1000000000 + x)).respond scl 0 []))
            ∧ (∀ x, x ≤ 999999999 → m.stagedSec = none → exec (.tnsWrite scl x) s
              = .next ((s.setClock (m.clock.ns / 1000000000 % 2 ^ 48 * 1000000000 + x)).respond scl 0 []))
            ∧ (∀ x : Int, exec (.timeStep scl x) s = .next ((s.setClock ((m.clock.ns : Int) + x).toNat).respond scl 0 []))
            ∧ (∀ b, 12 ≤ b → exec (.pctlCreate scl b) s = .next (s.respond scl 1 []) ∧ exec (.pctlDissolve scl b) s = .next (s.respond scl 1 []))
            ∧ (∀ b, b < 12 → (s.band b).record.lead.toNat ≠ b → exec (.pctlCreate scl b) s = .next (s.respond scl 1 []))
            ∧ (∀ b, b < 12 → (s.band b).record.lead.toNat = b →
              ((s.band b).pctl ≠ 0 ∨ s.configOk (s.band b).record = false → exec (.pctlCreate scl b) s = .next (s.respond scl 5 []))
                ∧ ((s.band b).pctl = 0 → s.configOk (s.band b).record = true → exec (.pctlCreate scl b) s
                  = .next (((s.setBand b { s.band b with pctl := 1 }).later (.pctlOperationEnd b)).respond scl 0 [])))
            ∧ (∀ b, b < 12 → s.partOfBand b = none → exec (.pctlDissolve scl b) s = .next (s.respond scl 5 []))
            ∧ (∀ b p, b < 12 → s.partOfBand b = some p →
              (p.busy = true ∨ s.partBusy p = true → exec (.pctlDissolve scl b) s = .next (s.respond scl 5 []))
                ∧ (p.busy = false → s.partBusy p = false →
                  let q := { p with queues := p.queues.map fun x => { x with en := false } }
                  exec (.pctlDissolve scl b) s
                    = .next ((((s.setPart p.lead q).setBand b { s.band b with pctl := 2 }).later (.pctlOperationEnd b)).respond scl 0 [])))))
    ∧ (∀ (s : State), answers (exec .ppsEdge s) fun t =>
      t.module.ppsec = BitVec.ofNat 48 (s.module.clock.ns / 1000000000) ∧ t.module.ppns = BitVec.ofNat 32 (s.module.clock.ns % 1000000000)
        ∧ t.module.clock = s.module.clock ∧ t.mem = s.mem)
    ∧ (∀ (s : State), exec .timeDistributionSend s = .next ((List.range 12).foldl (fun t b => t.later (.timeDistribution b)) s))
    ∧ (∀ (s : State) (b : Nat), ∃ k : Int, -4 ≤ k ∧ k ≤ 4
        ∧ exec (.timeDistribution b) s = .next (s.setBand b { s.band b with floor := s.bandNs b, skew := k }))
    ∧ (∀ (s : State) (b : Nat),
      let done := fun (t : State) => t.setBand b { t.band b with pctl := 0 }
      let c := (s.band b).record
      ((s.band b).pctl = 2 → ∀ p, s.partOfBand b = some p → exec (.pctlOperationEnd b) s = .next (done (s.clearBands p.lead p.nb)))
        ∧ ((s.band b).pctl = 1 → ∀ p, s.part? b = some p → p.nb = c.nb.toNat →
          exec (.pctlOperationEnd b) s = .next (done (s.installConfig p c true)))
        ∧ ((s.band b).pctl = 0 → exec (.pctlOperationEnd b) s = .next s)
        ∧ ((s.band b).pctl = 1 → s.part? b = none → (s.clearBands c.lead.toNat c.nb.toNat).buildPart c = none →
          exec (.pctlOperationEnd b) s = .next (done (s.clearBands c.lead.toNat c.nb.toNat)))
        ∧ (∀ t, exec (.pctlOperationEnd b) s = .next t → (s.band b).pctl = 1 ∨ (s.band b).pctl = 2 → (t.band b).pctl = 0)
        ∧ ((s.band b).pctl = 1 → s.part? b = none → ∀ p, (s.clearBands c.lead.toNat c.nb.toNat).buildPart c = some p →
          exec (.pctlOperationEnd b) s
            = .next (done (((s.clearBands c.lead.toNat c.nb.toNat).installConfig p c false).trainLinks p))))
    ∧ ∀ (s : State) (scl : Requester), answers (exec (.sclLinkDown scl) s) fun t =>
      (scl = .sclA → t.module.upA = false ∧ t.module.upB = s.module.upB) ∧ (scl = .sclB → t.module.upB = false ∧ t.module.upA = s.module.upA)
        ∧ (∀ e ∈ t.module.held, e.1 ≠ scl) ∧ t.module.responses = s.module.responses ∧ t.parts = s.parts ∧ t.mem = s.mem
        ∧ (scl ≠ .mgc → s.holdsSem scl = true → t.module.sem = .free) ∧ (scl ≠ .mgc → s.holdsSem scl = false → t.module.sem = s.module.sem)

/-- At a running port whose direction does not retrain: a corrupt flit is counted and asks for a nak; a data flit of window 0 is stored, e counts on;
with the store full it is dropped; windows 1 to 2,047 ask for a nak, higher ones repeat e. A nak, or a replay timeout, resends the replay buffer
from the ack, before any new flit, unless the direction is resending already. A lost lane in use retrains the direction at the widest intact width
or takes the port down; one not in use is marked. A retrain flit sets the sender's direction, and takes a port down whose direction retrains; its
end sets the width and resends. A full training without an intact quarter leaves the port down; otherwise it is up with both numbers 0. en and rt
act as R548 says. A pull is held, sent over the link and answered with its landing or PROT; a request no longer held has its data dropped; with no
port of the entry up, it is refused. An export request reads committed bytes or is refused. A channel picks its code, and its blocks move to
donors' spares one by one; a block of a bad burst is rebound as one block. -/
def Obligations.LinksDeliverOnceAndInOrder : Prop :=
  (∀ (s : State) (port : Nat) (f : LinkFlit) (rest : List LinkFlit), (s.link port).line = f :: rest →
    let x := { s.link port with line := rest }
    let s1 := s.setLink port x
    let y := { x with replay := afterAck f.ack x.replay, peerHold := f.hold }
    let t1 := (s1.setLink port y).flushLink port
    let z := t1.link port
    (f.kind = 1 → (x.runs = false ∨ x.rerx.isSome = true) → exec (.linkDataFlit port) s = .next s1)
      ∧ (f.kind = 1 → x.runs = true → x.rerx = none →
        (x.corrupt f = true → exec (.linkDataFlit port) s
            = .next ((s1.setLink port { x with crcerr := if x.crcerr = 65535 then x.crcerr else x.crcerr + 1 }).sendNak port))
          ∧ (x.corrupt f = false →
            (f.seq = z.e → 1024 ≤ z.store.length → exec (.linkDataFlit port) s = .next t1)
              ∧ (f.seq = z.e → z.store.length < 1024 →
                let t2 := (t1.setLink port { z with e := z.e + 1, nak := none, store := z.store ++ [f] }).emit port 0 0 z.txw .none
                (∀ r, f.body = .request r → exec (.linkDataFlit port) s = .next (t2.later (.exportRequest port)))
                  ∧ (∀ id l, f.body = .data id l → exec (.linkDataFlit port) s = .next (t2.later (.peerDataReturn port))))
              ∧ (f.seq ≠ z.e → (f.seq - z.e).toNat < 2048 → exec (.linkDataFlit port) s = .next (t1.sendNak port))
              ∧ (2048 ≤ (f.seq - z.e).toNat → exec (.linkDataFlit port) s = .next (t1.emit port 0 0 z.txw .none))))
      ∧ (f.kind = 0 → x.runs = true → x.rerx = none → x.corrupt f = false → exec (.linkIdleFlit port) s = .next t1)
      ∧ (f.kind = 2 → x.runs = true → x.rerx = none → x.corrupt f = false →
        (y.replay = [] ∨ y.retx.isSome = true → exec (.linkNakFlit port) s = .next t1)
          ∧ (y.replay ≠ [] → y.retx = none → exec (.linkNakFlit port) s
            = .next ((((s1.setLink port y).setLink port { y with replays := if y.replays = 65535 then y.replays else y.replays + 1 }).resend
              port y.replay).flushLink port)))
      ∧ (f.kind = 3 → x.runs = true → x.rerx.isSome = true → exec (.linkRetrainFlit port) s = .next (s.dropLink port 1))
      ∧ (f.kind = 3 → x.runs = true → x.rerx = none →
        ((f.bad = true ∨ f.width = 7) → exec (.linkRetrainFlit port) s
            = .next ((s1.setLink port { x with crcerr := if x.crcerr = 65535 then x.crcerr else x.crcerr + 1 }).sendNak port))
          ∧ (f.bad = false → f.width ≠ 7 →
            exec (.linkRetrainFlit port) s = .next (s.setLink port { y with state := 3, retx := some f.width }))))
    ∧ (∀ (s : State) (port : Nat) (w : BitVec 3),
      let x := s.link port
      (x.replay ≠ [] → x.runs = true → x.retx = none → exec (.linkReplayTimeout port) s
          = .next ((s.setLink port { x with replays := if x.replays = 65535 then x.replays else x.replays + 1 }).resend port x.replay))
        ∧ (x.retx = some w → x.replay = [] → x.runs = true → x.rerx = none → exec (.retrainComplete port true) s
          = .next ((s.setLink port { x with retx := none, txw := w, state := 2 }).flushLink port))
        ∧ (x.rerx = some w → x.runs = true → x.retx = none → exec (.retrainComplete port false) s
          = .next (s.setLink port { x with rerx := none, rxw := w, state := 2 })))
    ∧ (∀ (s : State) (port lane : Nat), (s.link port).runs = true → lane < 16 →
      let x := s.link port
      let x1 := { x with lost := x.lost ||| (1 <<< lane) }
      (x.rerx = none → (widthLanes x.rxw.toNat).contains lane = false → exec (.laneLoss port lane) s = .next (s.setLink port x1))
        ∧ (x.rerx = none → (widthLanes x.rxw.toNat).contains lane = true →
          (intactWidth x1.lost = none ∨ x.retx.isSome = true → exec (.laneLoss port lane) s = .next ((s.setLink port x1).dropLink port 1))
            ∧ (∀ w, x.retx = none → intactWidth x1.lost = some w → exec (.laneLoss port lane) s
              = .next ((s.setLink port { x1 with rerx := some w, nak := none, state := 3 }).emit port 3 0 w .none))))
    ∧ (∀ (s : State) (port lanes pmod pport : Nat),
      let x := s.link port
      let lost := ~~~(BitVec.ofNat 16 lanes)
      let trains := x.state = 1 ∧ x.en = true ∧ s.module.number.isSome = true ∧ (s.partOfBand (port / 2)).isSome = true
      (x.runs = true → exec (.portDown port) s = .next (s.dropLink port 1))
        ∧ (x.en = true → exec (.bhlRetrain port) s = .next ((s.setLink port { x with rt := true }).dropLink port 1))
        ∧ (exec (.bhlEnable port false) s = .next ((s.setLink port { x with en := false }).dropLink port 0))
        ∧ (x.state = 0 → exec (.bhlEnable port true) s = .next ((s.setLink port { x with en := true }).dropLink port 1))
        ∧ (x.state ≠ 0 → exec (.bhlEnable port true) s = .next (s.setLink port { x with en := true }))
        ∧ (trains → intactWidth lost = none → exec (.fullTrainingComplete port lanes pmod pport) s
          = .next (s.setLink port { x with lost := lost, rt := false, state := 0 }))
        ∧ (∀ w, trains → intactWidth lost = some w → (s.link port).held = [] → (∀ q, q ≠ port → (s.link q).held = []) →
          answers (exec (.fullTrainingComplete port lanes pmod pport) s) fun t =>
            let y := t.link port
            y.state = 2 ∧ y.next = 0 ∧ y.e = 0 ∧ y.replay = [] ∧ y.lost = lost ∧ y.txw = w ∧ y.rxw = w ∧ y.rt = false
              ∧ y.pmod = BitVec.ofNat 16 pmod ∧ y.pport = BitVec.ofNat 5 pport))
    ∧ (∀ (s : State) (port : Nat) (p : Part) (f : Flit) (s1 : State) (r : PeerRef) (o : Nat) (ds : List (Nat × Nat)) (d : Nat) (k : LandKey),
      s.partOfBand (port / 2) = some p → s.takeIn p.lead (portEp port) .request = some (f, s1) → f.body = .pull r o ds d k →
      ((s1.holdPull port f).link port).runs = true → exec (.peerRequest port) s = .next (s1.holdPull port f))
    ∧ (∀ (s : State) (port : Nat) (f : LinkFlit) (rest : List LinkFlit), (s.link port).store = f :: rest →
      let x := s.link port
      let s1 := (s.setLink port { x with store := rest }).wakeStore port
      (∀ r, f.body = .request r →
        ((s.part? r.epart = none ∨ ∃ p, s.part? r.epart = some p ∧ ((port / 2 < p.lead ∨ p.lead + p.nb ≤ port / 2) ∨ p.exportEntry r.window = none
            ∨ ∃ b n, p.exportEntry r.window = some (b, n) ∧ n < r.off + r.len)) →
          exec (.exportRequest port) s = .next (s1.sendLink port (.refusal r.id 0x05)))
          ∧ (∀ p b n, s.part? r.epart = some p → p.lead ≤ port / 2 → port / 2 < p.lead + p.nb → p.exportEntry r.window = some (b, n) →
            r.off + r.len ≤ n → b + r.off + r.len ≤ p.capacity →
            (p.committing = true → exec (.exportRequest port) s = .next s)
              ∧ (p.committing = false → exec (.exportRequest port) s
                = .next (s1.sendLink port (.data r.id (s.committedRead p (b + r.off) r.len))))))
        ∧ (∀ id, (∃ l, f.body = .data id l) ∨ (∃ c, f.body = .refusal id c) →
          let t := (s.setLink port { x with store := rest, held := x.held.filter fun h => h.id != id }).wakeStore port
          (List.find? (fun (h : HeldPull) => h.id == id) x.held = none → exec (.peerDataReturn port) s = .next t)
            ∧ (∀ h l, List.find? (fun (h : HeldPull) => h.id == id) x.held = some h → f.body = .data id l →
              exec (.peerDataReturn port) s = .next (t.answerPull h l none))
            ∧ (∀ h c, List.find? (fun (h : HeldPull) => h.id == id) x.held = some h → f.body = .refusal id c →
              exec (.peerDataReturn port) s = .next (t.answerPull h [] (some c)))))
    ∧ (∀ (s : State) (p : Part) (part entry q : Nat), s.part? part = some p → (s.link q).runs = false → p.lead ≤ q / 2 → q / 2 < p.lead + p.nb →
      q < 24 → (∀ h ∈ (s.link q).held, ∃ r, h.peer = some r ∧ r.entry = entry ∧ p.peerPorts r.mask = [q]) →
      (∀ q', q' ≠ q → (s.link q').held = []) → (s.link q).held ≠ [] →
      exec (.peerFailoverTimeout part entry) s
        = .next ((s.link q).held.foldl (fun u h => u.answerPull h [] (some 0x09)) (s.setLink q { s.link q with held := [] })))
    ∧ (∀ (s : State) (chan : Nat),
      let r := s.rim chan
      (r.bursts < 2 ^ 20 → exec (.codeWindowEnd chan) s = .next s)
        ∧ (2 ^ 20 ≤ r.bursts → exec (.codeWindowEnd chan) s = .next (s.setRim chan
          { r with code := if r.mode = 0 then BitVec.ofNat 2 r.bestCode else r.code, bursts := 0, trans := (0, 0, 0) })))
    ∧ (∀ (r : Rim) (k : Nat), r.bestCode = k → k ≠ r.code.toNat → k < 3 ∧ (∀ j, j < 3 → r.cost k ≤ r.cost j)
      ∧ r.cost r.code.toNat ≤ 16 * (r.cost r.code.toNat - r.cost k))
    ∧ (∀ (s : State) (chan : Nat) (p : Part), s.partOfBand (chan / 128) = some p → (s.rim chan).chState = 0 →
      ((s.rim chan).rq = true ∨ 4 ≤ (s.rim chan).uncorr.toNat) →
      let r := s.rim chan
      let need := (31744 - r.blocks.length) + (s.lentBy p chan).length
      (s.freeSpares p chan < need → exec (.channelRetirementRequest chan) s = .next (s.setRim chan { r with rq := false }))
        ∧ (need ≤ s.freeSpares p chan → exec (.channelRetirementRequest chan) s
          = .next ((s.setRim chan { r with chState := 1, nextBlock := 0, donor := chan }).later (.blockMove chan))))
    ∧ (∀ (s : State) (chan d : Nat) (p : Part), s.partOfBand (chan / 128) = some p → (s.rim chan).chState = 1 → (s.rim chan).rebind = [] →
      s.nextDonor p chan (s.rim chan).donor = some d →
      let r := s.rim chan
      let k := (s.rim d).freeSpare
      let onward := fun (t : State) =>
        (Host.Outcome.next ((t.setRim chan { t.rim chan with nextBlock := r.nextBlock + 1, donor := d }).later (.blockMove chan)) : Out)
      (r.nextBlock < 31744 → (Tbl.find? r.blocks r.nextBlock).isSome = false →
        let l := s.loseBlock p chan r.nextBlock chan (65536 * r.nextBlock)
        let m := l.moveBlock chan (65536 * r.nextBlock) d (0x7C000000 + 65536 * k)
        let t := m.setRim d { m.rim d with spares := Tbl.put (m.rim d).spares k () }
        let q := t.rim chan
        exec (.blockMove chan) s = onward (t.setRim chan { q with
          blocks := Tbl.put q.blocks r.nextBlock (d, k), moved := Tbl.put q.moved r.nextBlock () }))
        ∧ (r.nextBlock < 31744 → (Tbl.find? r.blocks r.nextBlock).isSome = true → exec (.blockMove chan) s = onward s)
        ∧ (31744 ≤ r.nextBlock → s.lentBy p chan = [] →
          exec (.blockMove chan) s = .next (s.setRim chan { r with chState := 2, rq := false, spares := [] }))
        ∧ (∀ c n more, 31744 ≤ r.nextBlock → s.lentBy p chan = (c, n) :: more →
          let old := ((Tbl.find? (s.rim c).blocks n).map (·.2)).getD 0
          let t := s.giveBlock p c n chan (0x7C000000 + 65536 * old) d
          exec (.blockMove chan) s = .next ((t.setRim chan { t.rim chan with donor := d }).later (.blockMove chan))))
    ∧ (∀ (s : State) (p : Part) (slotChan n chan a d : Nat), s.part? p.lead = some p →
      let k := (s.rim d).freeSpare
      let t := s.giveBlock p slotChan n chan a d
      Tbl.find? (t.rim slotChan).blocks n = some (d, k) ∧ (Tbl.find? (t.rim slotChan).moved n).isSome = true
        ∧ (Tbl.find? (t.rim d).spares k).isSome = true
        ∧ ((∀ e ∈ (s.rim chan).weak, e.2 = false) → t.parts = s.parts))
    ∧ ∀ (s : State) (chan n : Nat) (rest : List Nat) (p : Part), s.partOfBand (chan / 128) = some p → (s.rim chan).rebind = n :: rest →
      let s0 := s.setRim chan { s.rim chan with rebind := rest }
      let ds := s0.donors p chan chan
      (ds = [] → exec (.blockMove chan) s = .next s0)
        ∧ (∀ d, ds[n % ds.length]? = some d → (Tbl.find? (s.rim chan).moved n).isSome = false →
          exec (.blockMove chan) s = .next ((s0.giveBlock p chan n chan (65536 * n) d).later (.blockMove chan)))

/-- Under-voltage starts a ride-through, each domain's cap at most 2, and its end restores the caps, a change asked for in between held until then;
over-voltage is reported; the loss of input power, a ride-through too long, a lost coolant flow, or more than 120 degrees switch the rails off,
more than 110 start a warm reset. Above 98 % of the budget the domains of partitions above their shares go down by 1; after 1 ms below 95 % each
lowered one goes up by 1 every 1 ms. A sag is marked and counted to 65,535; 20 µs of it lower the cap to 2. Above 95 degrees a cap goes down by 1,
at least to 1, below 90 up again. A management read is answered with the register's word and taken; a write sets it; unlisted addresses read 0 and
ignore writes. A missed heartbeat spares the supervisor, a second within 1 s is a warm reset, as is a full siding. The controller's watchdog
restarts it alone. Firmware loads when its signature holds and its version is not below the counter, else the module is in recovery mode. A report
concatenates what R568 lists (its layout is the model's, see the log). -/
def Obligations.ManagementFollowsItsRules : Prop :=
  (∀ (s : State),
    let m := s.module.mgc
    (m.input = .full → answers (exec .inputUndervoltage s) fun t => t.module.mgc.input = .ride ∧ t.mem = s.mem ∧ t.parts = s.parts ∧ t.cores = s.cores
        ∧ ∀ d, d < 24 → (t.dom d).capNext = some (min (s.dom d).asked 2) ∧ (t.dom d).saved = some (s.dom d).asked ∧ (t.dom d).cap = (s.dom d).cap)
      ∧ (m.input = .ride → exec .rideThroughLimit s = .next s.unpowered
        ∧ answers (exec .rideThroughEnd s) fun t => t.module.mgc.input = .full ∧ t.mem = s.mem ∧ t.parts = s.parts
          ∧ ∀ d c, d < 24 → (s.dom d).saved = some c → (t.dom d).capNext = some c ∧ (t.dom d).saved = none)
      ∧ (m.input ≠ .ride → exec .rideThroughLimit s = .next s ∧ exec .rideThroughEnd s = .next s)
      ∧ (m.input ≠ .off → exec .inputPowerLoss s = .next s.unpowered ∧ exec .coolantFlowLoss s = .next s.unpowered)
      ∧ (m.input = .off → exec .inputPowerLoss s = .next s ∧ exec .coolantFlowLoss s = .next s)
      ∧ exec .inputOvervoltage s = .next (s.setMgc { m with overVolt := true })
      ∧ (s.unpowered.mem = [] ∧ s.unpowered.parts = [] ∧ s.unpowered.pending = [] ∧ s.unpowered.module.mgc.input = .off
        ∧ s.unpowered.module.upA = false ∧ s.unpowered.module.upB = false))
    ∧ (∀ (s : State) (watts : List Nat), s.module.mgc.input ≠ .off →
      let m := s.module.mgc
      let total := (List.range 24).foldl (fun n d => n + watts.getD d 0) 0
      let draws := fun (p : Part) => p.doms.foldl (fun n d => n + watts.getD d 0) 0
      (98 * m.budget < 100 * total → answers (exec (.powerMeasurement watts) s) fun t => t.mem = s.mem ∧ t.parts = s.parts
          ∧ (∀ d, d < 24 → (t.dom d).power = watts.getD d 0 / 2 % 65536)
          ∧ ∀ d, d < 24 → (∀ p ∈ s.parts.map (·.2), m.shareOf p < draws p → d ∉ p.doms) →
            (t.dom d).capNext = (s.dom d).capNext ∧ (t.dom d).lowered = (s.dom d).lowered)
        ∧ (98 * m.budget < 100 * total → ∀ q, s.parts.map (·.2) = [q] → m.shareOf q < draws q → q.lead + q.nb ≤ 12 →
          answers (exec (.powerMeasurement watts) s) fun t => ∀ d ∈ q.doms, 0 < (s.dom d).wanted →
            (t.dom d).wanted = (s.dom d).wanted - 1 ∧ (t.dom d).lowered = (s.dom d).lowered + 1
              ∧ ((s.dom d).saved = none → (t.dom d).capNext = some ((s.dom d).asked - 1)))
        ∧ (100 * total < 95 * m.budget → ¬ 98 * m.budget < 100 * total → answers (exec (.powerMeasurement watts) s) fun t =>
          t.module.mgc.low = m.low + 1 ∧ ∀ d, d < 24 →
            ((m.low < 10 ∨ m.low % 10 ≠ 0 ∨ (s.dom d).lowered = 0) → (t.dom d).capNext = (s.dom d).capNext ∧ (t.dom d).lowered = (s.dom d).lowered)
              ∧ (10 ≤ m.low → m.low % 10 = 0 → 0 < (s.dom d).lowered →
                (t.dom d).wanted = min 4 ((s.dom d).wanted + 1) ∧ (t.dom d).lowered + 1 = (s.dom d).lowered
                  ∧ ((s.dom d).saved = none → (t.dom d).capNext = some (min 4 ((s.dom d).asked + 1)))))
        ∧ (95 * m.budget ≤ 100 * total → 100 * total ≤ 98 * m.budget → answers (exec (.powerMeasurement watts) s) fun t =>
          t.module.mgc.low = 0 ∧ ∀ d, d < 24 → (t.dom d).capNext = (s.dom d).capNext ∧ (t.dom d).lowered = (s.dom d).lowered))
    ∧ (∀ (s : State) (d : Nat), d < 24 →
      let x := s.dom d
      (x.sag = false → exec (.sagDetect d) s = .next (s.setDom d { x with sag := true, sagn := if x.sagn = 65535 then x.sagn else x.sagn + 1 }))
        ∧ (x.sag = true → exec (.sagDetect d) s = .next s)
        ∧ (exec (.sagClear d) s = .next (s.setDom d { x with sag := false }))
        ∧ (∀ c, (x.saved = none → x.ask c = { x with capNext := some c })
          ∧ (x.saved ≠ none → x.ask c = { x with capNext := some (min c 2), saved := some c }))
        ∧ (x.sag = true → exec (.sagCapLower d) s = .next (s.setDom d { x.ask (min x.wanted 2) with sagcap := true }))
        ∧ (95 < x.temp → 1 < x.wanted →
          exec (.overtemperatureStep d) s = .next (s.setDom d { x.ask (x.wanted - 1) with heated := x.heated + 1 }))
        ∧ (95 < x.temp → x.wanted ≤ 1 → exec (.overtemperatureStep d) s = .next s)
        ∧ (x.temp < 90 → 0 < x.heated →
          exec (.overtemperatureStep d) s = .next (s.setDom d { x.ask (min 4 (x.wanted + 1)) with heated := x.heated - 1 }))
        ∧ (90 ≤ x.temp → x.temp ≤ 95 → exec (.overtemperatureStep d) s = .next s)
        ∧ (∀ n, s.module.mgc.input ≠ .off →
          let s1 := s.setDom d { x with temp := min n 255 }
          (n ≤ 110 → exec (.overtemperature d n) s = .next s1)
            ∧ (110 < n → n ≤ 120 → exec (.overtemperature d n) s = .next s1.warmReset)
            ∧ (120 < n → exec (.overtemperature d n) s = .next s1.unpowered)))
    ∧ (∀ (s : State) (band block off : Nat) (w : Word), band < 16 → block < 16 → off < 2 ^ 24 → s.module.mgc.input ≠ .off →
      s.module.mgc.recovery = false →
      let addr := band * 2 ^ 28 + block * 2 ^ 24 + off
      let reads := fun (s1 : State) (v : Nat) => exec (.managementRequest addr none) s = .next ((s1.setMgc { s1.module.mgc with
        responses := s1.module.mgc.responses ++ [BitVec.ofNat 64 v] }).later .managementResponse)
      let writes := fun (t : State) => exec (.managementRequest addr (some w)) s = .next t
      (band < 12 → block = 1 → off = 0 ∨ off = 0x10 →
        let d := 2 * band + off / 16
        reads s ((s.dom d).up.toNat + 2 ^ 8 * (s.dom d).down.toNat + 2 ^ 16 * (s.dom d).asked) ∧ writes (s.setDom d ((s.dom d).setControl w.toNat)))
        ∧ (band < 12 → block = 1 → off = 8 ∨ off = 0x18 →
          let d := 2 * band + off / 16
          let x := s.dom d
          reads s ((if x.sag then 1 else 0) + (if x.sagcap then 2 else 0) + 2 ^ 16 * x.sagn.toNat + 2 ^ 32 * x.temp + 2 ^ 48 * x.power)
            ∧ writes (s.setDom d (x.setStatus w.toNat)))
        ∧ (band < 12 → block = 2 → off = 0 → reads s (s.band band).control ∧ writes (s.setBand band ((s.band band).setControl w.toNat)))
        ∧ (∀ q, q < 128 → band < 12 → block = 3 → off = 16 * q →
          let c := 128 * band + q
          reads s (s.rim c).control ∧ (w.toNat / 2 ^ 14 % 2 = 0 → writes (s.setRim c ((s.rim c).setControl w.toNat)))
            ∧ (w.toNat / 2 ^ 14 % 2 = 1 → writes ((s.setRim c ((s.rim c).setControl w.toNat)).later (.channelRetirementRequest c))))
        ∧ (∀ q, q < 128 → band < 12 → block = 3 → off = 16 * q + 8 → reads s (s.rim (128 * band + q)).seed.toNat
          ∧ writes (s.setRim (128 * band + q) ((s.rim (128 * band + q)).setSeed w.toNat)))
        ∧ (band < 12 → block = 4 → off = 0 ∨ off = 0x10 →
          let p := 2 * band + off / 16
          reads s (s.link p).control ∧ writes (s.writeLink p w.toNat))
        ∧ (band = 15 → block = 0 → off = 0 → reads s ((s.module.number.map (·.toNat)).getD 0) ∧ writes (s.setNumber w.toNat))
        ∧ (band = 15 → block = 0 → off = 8 → (w = 1 → writes s.warmReset) ∧ (w = 2 → writes s.coldBringup) ∧ (w ≠ 1 → w ≠ 2 → writes s) ∧ reads s 0)
        ∧ (band = 15 → block = 0 → off = 0x10 → w = 1 → writes { s with module := { s.module with sem := .free } })
        ∧ ((12 ≤ band ∧ band ≠ 15) ∨ (band < 12 ∧ (block = 0 ∨ 5 ≤ block)) ∨ (band = 15 ∧ 2 ≤ block) → reads s 0 ∧ writes s))
    ∧ (∀ (s : State) (w : Word) (rest : List Word), s.module.mgc.responses = w :: rest →
      exec .managementResponse s = .next (s.setMgc { s.module.mgc with responses := rest, taken := s.module.mgc.taken ++ [w] }))
    ∧ (∀ (s : State) (b : Nat), b < 12 → s.module.warm = false → s.module.booting = false → s.module.mgc.input ≠ .off →
      let s1 := s.setBand b { s.band b with missAt := some s.module.fc }
      ((s.band b).missAt = none → exec (.heartbeatMiss b) s = .next (s1.failCore (s.supOf b) false))
        ∧ (∀ t, (s.band b).missAt = some t → t + 1400000000 < s.module.fc → exec (.heartbeatMiss b) s = .next (s1.failCore (s.supOf b) false))
        ∧ (∀ t, (s.band b).missAt = some t → s.module.fc ≤ t + 1400000000 → exec (.heartbeatMiss b) s = .next s1.warmReset)
        ∧ (∀ p, s.partOfBand b = some p → (sidingSize ≤ p.sidingUsed b → exec (.sidingFullTimeout b) s = .next s.warmReset)
          ∧ (p.sidingUsed b < sidingSize → exec (.sidingFullTimeout b) s = .next s)))
    ∧ (∀ (s : State), answers (exec .mgcWatchdog s) fun t => t.module.mgc.restarts = s.module.mgc.restarts + 1 ∧ t.cores = s.cores ∧ t.parts = s.parts
      ∧ t.mem = s.mem ∧ t.module.clock = s.module.clock ∧ t.module.rate = s.module.rate ∧ t.doms = s.doms ∧ t.module.mgc.images = s.module.mgc.images)
    ∧ (∀ (s : State) (x : FirmwareImage),
      let m := s.module.mgc
      let good := Config.signatureValid (leBytes 64 x.digest.toNat) x.signature = true ∧ m.rollback.toNat ≤ x.version.toNat
      (good → exec (.firmwareUpdate x) s = .next (s.setMgc
          { m with recovery := false, images := m.images.filter (fun (i : FirmwareImage) => i.kind != x.kind) ++ [x] }))
        ∧ (¬ good → exec (.firmwareUpdate x) s = .next (s.setMgc { m with recovery := true })))
    ∧ ∀ (s : State) (nonce : List Byte), nonce.length ≤ 64 → s.module.mgc.recovery = false →
      let m := s.module
      let number := leBytes 2 ((m.number.map (·.toNat)).getD 0)
      let digests := m.mgc.images.flatMap fun (i : FirmwareImage) => leBytes 64 i.digest.toNat
      answers (exec (.attestationRequest nonce) s) fun t => ∃ code r, code.length = 1
        ∧ r = nonce ++ number ++ code ++ digests ++ leBytes 4 m.mgc.rollback.toNat ++ leBytes 4 s.fencedCount
        ∧ t.module.mgc.reports = m.mgc.reports ++ [r ++ Config.attest r] ∧ t.cores = s.cores ∧ t.parts = s.parts ∧ t.mem = s.mem

/-- At reset every band is unassigned, memory lists nothing, every context is idle, the ports are up, the semaphore is free, the time registers and the
recovery, limiter, channel and link registers hold the reset values of their tables, and the state is sound; unlisted memory and registers without a
reset value are the model's choice (log entries 2 and 3). A warm reset, when none runs, stops the ports' requests, ends every task, downs every link,
keeps of each partition's launches those admitted and not under commit, and calls its end; with no partition, memory and the management controller's
state stay. Its end frees SEM, accepts requests, writes the preserved list, keeps the queues' commands and empties the launches. A second failure
within ten minutes is a cold bring-up, the first one is tried again (the model's choice, see the log). A cold bring-up leaves every band unassigned,
memory unwritten and the ports down, keeps dead and retired sites, and its end brings the ports up. -/
def Obligations.ResetsLeaveTheirState : Prop :=
  (State.reset.parts = [] ∧ State.reset.mem = [] ∧ Memory.wf State.reset.mem = true ∧ State.reset.pending = [] ∧ State.reset.Sound
    ∧ State.reset.module.sem = .free ∧ State.reset.module.semGen = 0 ∧ State.reset.module.rate = 0xB6DB6DB7 ∧ State.reset.module.clock = ⟨0, 0⟩
    ∧ State.reset.module.ppsec = 0 ∧ State.reset.module.ppns = 0 ∧ State.reset.portUp .sclA = true ∧ State.reset.portUp .sclB = true
    ∧ (∀ site n, (State.reset.ctx site n).occ = .idle)
    ∧ (∀ b, (State.reset.band b).control = 250 + 2 ^ 16 * 2 + 2 ^ 20 * 22 + 2 ^ 32 * 16 ∧ State.reset.partOfBand b = none)
    ∧ (∀ d, (State.reset.dom d).control = 4 + 2 ^ 8 * 4 + 2 ^ 16 * 4 ∧ (State.reset.dom d).status = 0)
    ∧ (∀ q, (State.reset.link q).control = 2 ^ 24 ∧ (State.reset.link q).counts = 0)
    ∧ (∀ c, (State.reset.rim c).control = 2 ^ 4 * 9))
    ∧ (∀ (s : State), s.module.warm = true ∨ s.module.booting = true ∨ s.module.mgc.input = .off → exec .warmReset s = .next s)
    ∧ (∀ (s : State), s.module.warm = false → s.module.booting = false → s.module.mgc.input ≠ .off →
      answers (exec .warmReset s) fun t => t.module.warm = true ∧ t.module.held = [] ∧ t.module.latch = [] ∧ t.module.stagedSec = none
        ∧ t.links = [] ∧ t.pending = [.warmResetEnd] ∧ (∀ site n, t.ctx site n = Ctx.reset)
        ∧ (∀ site, (t.core site).dead = (s.core site).dead ∧ (t.core site).retired = (s.core site).retired)
        ∧ (∀ b, (t.band b).control = Band.reset.control ∧ (t.band b).pcfg = (s.band b).pcfg)
        ∧ (s.parts = [] → t.mem = s.mem ∧ t.parts = [] ∧ t.module = { s.module with warm := true, held := [], latch := [], stagedSec := none })
        ∧ (∀ lead p, s.parts = [(lead, p)] → ∃ q, t.part? lead = some q ∧ q.intent = none
          ∧ q.launches = (p.launches.filter fun (l : Launch) => l.admitted && l.phase != .committing).map fun (l : Launch) => { l with phase := .warm })
        ∧ (∀ lead p, s.parts = [(lead, p)] → p.launches = [] → (∀ c, (s.rim c).casks = []) → t.mem = s.mem))
    ∧ (∀ (s : State), (s.module.warm = false → exec .warmResetEnd s = .next s)
      ∧ (s.module.warm = true → answers (exec .warmResetEnd s) fun t =>
        t.module.warm = false ∧ t.module.sem = .free ∧ t.module.semGen = 0 ∧ t.module.tieFirstA = true ∧ t.module.clock = s.module.clock
          ∧ (∀ lead p, s.parts = [(lead, p)] → p.lead = lead → p.pcfg.lead.toNat = lead → p.launches = [] → ∃ q, t.part? lead = some q ∧ q.launches = []
            ∧ q.preservedN = p.lost.length ∧ q.preserved = p.lost.take 131071 ∧ q.queues = p.queues ∧ q.flog = p.flog ∧ q.lost = p.lost)))
    ∧ (∀ (s : State),
      (s.module.warm = false → exec .warmResetFailure s = .next s)
        ∧ (s.module.warm = true → s.module.mgc.warmFails = 0 ∨ s.module.mgc.failAt + 840000000000 < s.module.fc → exec .warmResetFailure s
          = .next { s with module := { s.module with mgc := { s.module.mgc with warmFails := 1, failAt := s.module.fc } } })
        ∧ (s.module.warm = true → 0 < s.module.mgc.warmFails → s.module.fc ≤ s.module.mgc.failAt + 840000000000 →
          exec .warmResetFailure s = exec .coldBringup s))
    ∧ (∀ (s : State),
      (s.module.booting = true ∨ s.module.mgc.recovery = true → exec .coldBringup s = .next s)
        ∧ (s.module.booting = false → s.module.mgc.recovery = false → answers (exec .coldBringup s) fun t =>
          t.module.booting = true ∧ t.module.number = none ∧ t.parts = [] ∧ t.mem = [] ∧ t.pending = [.coldBringupEnd] ∧ t.module.mgc.input = .full
            ∧ t.portUp .sclA = false ∧ t.portUp .sclB = false ∧ t.module.code = s.module.code ∧ t.links = []
            ∧ (∀ site n, t.ctx site n = Ctx.reset)))
    ∧ ∀ (s : State), (s.module.booting = true → exec .coldBringupEnd s
        = .next { s with module := { s.module with booting := false, upA := true, upB := true } })
      ∧ (s.module.booting = false → exec .coldBringupEnd s = .next s)

/-- Sound: the memory has its canonical form; in every context x0 is 0 and the pc, sys.epc, sys.tvec and the start of an open word group are
word-aligned. For every sound state, also one that no run reaches, and every context: when the next turn runs a word of the scalar pipeline, a branch or
jump, TRAP, ERET, SYSRD or SYSWR, or a word that is no instruction, in any form, inside a word group or not, and whether it issues, waits or traps, the state after the step
is sound and memory is as before; the partitions are as before unless that of the core has a granule on its lost list, whose fetch ends
its launch. That reset is sound is part of ResetsLeaveTheirState. -/
def Obligations.ScalarStepsKeepTheMachineSound : Prop :=
  ∀ (s t : State) (site n : Nat) (rest : List Turn), s.Sound → s.order = .issue site n :: rest →
    let s1 := { s.begin with order := rest }
    scalarWord (instrOfFetch (s1.fetch site (s1.ctx site n).vintage (s1.ctx site n).pc)) = true → step s = .next t →
    t.Sound ∧ t.mem = s.mem ∧ ((∀ p, s.partAt site = some p → p.lost = []) → t.parts = s.parts)
end

