-- ==== Sys2Proof/Laws/Tables.lean ====
section
/-!
SUPPORT. The laws of keyed tables and of memory: a read after a write, other keys untouched, and the rising form kept.
-/

namespace Sys2Proof

/-! ## Tables -/

@[simp] theorem Tbl.find?_nil {α : Type} (i : Nat) : Tbl.find? ([] : Tbl α) i = none := rfl

/-- A key holds what was put there. -/
@[simp] theorem Tbl.find?_put_same {α : Type} (t : Tbl α) (i : Nat) (v : α) : Tbl.find? (Tbl.put t i v) i = some v := by
  induction t with
  | nil => simp [Tbl.put, Tbl.find?]
  | cons e t ih =>
    obtain ⟨k, w⟩ := e
    simp only [Tbl.put]
    split
    · simp [Tbl.find?]
    · split
      · simp [Tbl.find?]
      · rename_i h
        simp [Tbl.find?, Ne.symm h, ih]

/-- Another key holds what it held. -/
theorem Tbl.find?_put_ne {α : Type} (t : Tbl α) (i j : Nat) (v : α) (h : j ≠ i) :
    Tbl.find? (Tbl.put t i v) j = Tbl.find? t j := by
  induction t with
  | nil => simp [Tbl.put, Tbl.find?, Ne.symm h]
  | cons e t ih =>
    obtain ⟨k, w⟩ := e
    simp only [Tbl.put]
    split
    · simp [Tbl.find?, Ne.symm h]
    · split
      · rename_i h2
        subst h2
        simp [Tbl.find?, Ne.symm h]
      · simp only [Tbl.find?]
        split
        · rfl
        · exact ih

/-- What a table holds at a key after a put. -/
theorem Tbl.find?_put {α : Type} (t : Tbl α) (i j : Nat) (v : α) :
    Tbl.find? (Tbl.put t i v) j = if j = i then some v else Tbl.find? t j := by
  split
  · rename_i h
    rw [h, Tbl.find?_put_same]
  · rename_i h
    exact Tbl.find?_put_ne t i j v h

@[simp] theorem Tbl.get_put_same {α : Type} (d : α) (t : Tbl α) (i : Nat) (v : α) : Tbl.get d (Tbl.put t i v) i = v := by
  simp [Tbl.get]

theorem Tbl.get_put {α : Type} (d : α) (t : Tbl α) (i j : Nat) (v : α) :
    Tbl.get d (Tbl.put t i v) j = if j = i then v else Tbl.get d t j := by
  simp only [Tbl.get, Tbl.find?_put]
  split <;> rfl

/-- Rising from a bound implies rising from a lower one. -/
theorem Tbl.risesFrom_mono {α : Type} {t : Tbl α} {a b : Nat} (h : a ≤ b) (ht : Tbl.risesFrom b t = true) :
    Tbl.risesFrom a t = true := by
  cases t with
  | nil => rfl
  | cons e t =>
    simp only [Tbl.risesFrom, Bool.and_eq_true, decide_eq_true_eq] at ht ⊢
    exact ⟨by omega, ht.2⟩

/-- A put keeps the keys rising. -/
theorem Tbl.risesFrom_put {α : Type} {t : Tbl α} {a : Nat} (i : Nat) (v : α) (h : a ≤ i) (ht : Tbl.risesFrom a t = true) :
    Tbl.risesFrom a (Tbl.put t i v) = true := by
  induction t generalizing a with
  | nil => simp [Tbl.put, Tbl.risesFrom, h]
  | cons e t ih =>
    obtain ⟨k, w⟩ := e
    simp only [Tbl.risesFrom, Bool.and_eq_true, decide_eq_true_eq] at ht
    simp only [Tbl.put]
    split
    · simp only [Tbl.risesFrom, Bool.and_eq_true, decide_eq_true_eq]
      exact ⟨h, by omega, ht.2⟩
    · split
      · rename_i h2
        subst h2
        simp only [Tbl.risesFrom, Bool.and_eq_true, decide_eq_true_eq]
        exact ht
      · simp only [Tbl.risesFrom, Bool.and_eq_true, decide_eq_true_eq]
        exact ⟨ht.1, ih (by omega) ht.2⟩

/-- A delete keeps the keys rising. -/
theorem Tbl.risesFrom_del {α : Type} {t : Tbl α} {a : Nat} (i : Nat) (ht : Tbl.risesFrom a t = true) :
    Tbl.risesFrom a (Tbl.del t i) = true := by
  induction t generalizing a with
  | nil => rfl
  | cons e t ih =>
    obtain ⟨k, w⟩ := e
    simp only [Tbl.risesFrom, Bool.and_eq_true, decide_eq_true_eq] at ht
    simp only [Tbl.del]
    split
    · exact Tbl.risesFrom_mono (by omega) ht.2
    · simp only [Tbl.risesFrom, Bool.and_eq_true, decide_eq_true_eq]
      exact ⟨ht.1, ih ht.2⟩

/-- A filter keeps the keys rising. -/
theorem Tbl.risesFrom_filter {α : Type} {t : Tbl α} {a : Nat} (p : Nat × α → Bool) (ht : Tbl.risesFrom a t = true) :
    Tbl.risesFrom a (t.filter p) = true := by
  induction t generalizing a with
  | nil => rfl
  | cons e t ih =>
    obtain ⟨k, w⟩ := e
    simp only [Tbl.risesFrom, Bool.and_eq_true, decide_eq_true_eq] at ht
    simp only [List.filter]
    split
    · simp only [Tbl.risesFrom, Bool.and_eq_true, decide_eq_true_eq]
      exact ⟨ht.1, ih ht.2⟩
    · exact Tbl.risesFrom_mono (by omega) (ih ht.2)

/-- A key below a rising table's bound is not in it. -/
theorem Tbl.find?_low {α : Type} {t : Tbl α} {a i : Nat} (h : i < a) (ht : Tbl.risesFrom a t = true) : Tbl.find? t i = none := by
  induction t generalizing a with
  | nil => rfl
  | cons e t ih =>
    obtain ⟨k, w⟩ := e
    simp only [Tbl.risesFrom, Bool.and_eq_true, decide_eq_true_eq] at ht
    have hk : k ≠ i := by omega
    simp only [Tbl.find?, hk, if_false]
    exact ih (by omega) ht.2

/-- A deleted key is absent from a rising table, the others stay. -/
theorem Tbl.find?_del {α : Type} {t : Tbl α} {a : Nat} (i j : Nat) (ht : Tbl.risesFrom a t = true) :
    Tbl.find? (Tbl.del t i) j = if j = i then none else Tbl.find? t j := by
  induction t generalizing a with
  | nil => simp [Tbl.del]
  | cons e t ih =>
    obtain ⟨k, w⟩ := e
    simp only [Tbl.risesFrom, Bool.and_eq_true, decide_eq_true_eq] at ht
    simp only [Tbl.del]
    by_cases h : i = k
    · subst h
      simp only [if_true]
      by_cases hj : j = i
      · subst hj
        simp [Tbl.find?_low (Nat.lt_succ_self j) ht.2]
      · simp [hj, Tbl.find?, Ne.symm hj]
    · simp only [h, if_false, Tbl.find?, ih ht.2]
      by_cases hj : j = i
      · subst hj
        simp [Ne.symm h]
      · simp [hj]

end Sys2Proof

namespace Sys2Proof.Machine

open Sys2Proof

/-! ## Memory -/

/-- A put of a byte that is not the unlisted one lists no unlisted byte. -/
theorem memNoZero_put {m : List Host.Cell} (a : Nat) {v : Byte} (hv : v ≠ unlistedByte) (h : memNoZero m = true) :
    memNoZero (Tbl.put m a v) = true := by
  induction m with
  | nil => simp [Tbl.put, memNoZero, hv]
  | cons e t ih =>
    obtain ⟨k, w⟩ := e
    simp only [memNoZero, Bool.and_eq_true] at h
    simp only [Tbl.put]
    split
    · simp [memNoZero, hv, h.1, h.2]
    · split
      · simp [memNoZero, hv, h.2]
      · simp [memNoZero, h.1, ih h.2]

theorem memNoZero_del {m : List Host.Cell} (a : Nat) (h : memNoZero m = true) : memNoZero (Tbl.del m a) = true := by
  induction m with
  | nil => rfl
  | cons e t ih =>
    obtain ⟨k, w⟩ := e
    simp only [memNoZero, Bool.and_eq_true] at h
    simp only [Tbl.del]
    split
    · exact h.2
    · simp [memNoZero, h.1, ih h.2]

theorem memNoZero_filter {m : List Host.Cell} (p : Host.Cell → Bool) (h : memNoZero m = true) :
    memNoZero (m.filter p) = true := by
  induction m with
  | nil => rfl
  | cons e t ih =>
    obtain ⟨k, w⟩ := e
    simp only [memNoZero, Bool.and_eq_true] at h
    simp only [List.filter]
    split
    · simp [memNoZero, h.1, ih h.2]
    · exact ih h.2

/-- Writing a byte keeps memory's canonical form. -/
theorem memSet_wf {m : List Host.Cell} (a : Nat) (v : Byte) (h : Memory.wf m = true) : Memory.wf (memSet m a v) = true := by
  simp only [Memory.wf, Bool.and_eq_true, Tbl.rises] at h ⊢
  simp only [memSet]
  split
  · exact ⟨Tbl.risesFrom_del a h.1, memNoZero_del a h.2⟩
  · rename_i hv
    exact ⟨Tbl.risesFrom_put a v (Nat.zero_le a) h.1, memNoZero_put a hv h.2⟩

/-- Writing bytes keeps memory's canonical form. -/
theorem memWrite_wf {m : List Host.Cell} (a : Nat) (l : List Byte) (h : Memory.wf m = true) :
    Memory.wf (memWrite m a l) = true := by
  induction l generalizing m a with
  | nil => exact h
  | cons b t ih => exact ih (a + 1) (memSet_wf a b h)

theorem memWriteMask_wf {m : List Host.Cell} (a mask : Nat) (l : List Byte) (h : Memory.wf m = true) :
    Memory.wf (memWriteMask m a mask l) = true := by
  induction l generalizing m a mask with
  | nil => exact h
  | cons b t ih =>
    simp only [memWriteMask]
    apply ih
    split
    · exact memSet_wf a b h
    · exact h

theorem memory_filter_wf {m : List Host.Cell} (p : Host.Cell → Bool) (h : Memory.wf m = true) :
    Memory.wf (m.filter p) = true := by
  simp only [Memory.wf, Bool.and_eq_true, Tbl.rises] at h ⊢
  exact ⟨Tbl.risesFrom_filter p h.1, memNoZero_filter p h.2⟩

theorem memory_nil_wf : Memory.wf [] = true := rfl

/-- A byte written reads back; every other byte reads as before. -/
theorem memGet_memSet {m : List Host.Cell} (a b : Nat) (v : Byte) (h : Memory.wf m = true) :
    memGet (memSet m a v) b = if b = a then v else memGet m b := by
  simp only [Memory.wf, Bool.and_eq_true, Tbl.rises] at h
  simp only [memSet, memGet, Tbl.get]
  split
  · rename_i hv
    rw [Tbl.find?_del a b h.1]
    split
    · simp [hv]
    · rfl
  · rw [Tbl.find?_put]
    split <;> rfl

/-- What a byte reads as after bytes are written from a on. -/
theorem memGet_memWrite {m : List Host.Cell} (a b : Nat) (l : List Byte) (h : Memory.wf m = true) :
    memGet (memWrite m a l) b = if a ≤ b ∧ b < a + l.length then l.getD (b - a) 0 else memGet m b := by
  induction l generalizing m a with
  | nil =>
    simp only [memWrite, List.length_nil, Nat.add_zero]
    rw [if_neg (by omega)]
  | cons x t ih =>
    simp only [memWrite, List.length_cons]
    rw [ih (a + 1) (memSet_wf a x h), memGet_memSet a b x h]
    by_cases h1 : b = a
    · subst h1
      rw [if_neg (by omega), if_pos rfl, if_pos (by omega)]
      simp
    · by_cases h2 : a + 1 ≤ b ∧ b < a + 1 + t.length
      · rw [if_pos h2, if_pos (by omega)]
        have : b - a = b - (a + 1) + 1 := by omega
        rw [this, List.getD_cons_succ]
      · rw [if_neg h2, if_neg h1, if_neg (by omega)]

/-- A byte outside the bytes written reads as before. -/
theorem memGet_memWrite_outside {m : List Host.Cell} (a b : Nat) (l : List Byte) (h : Memory.wf m = true)
    (hb : b < a ∨ a + l.length ≤ b) : memGet (memWrite m a l) b = memGet m b := by
  rw [memGet_memWrite a b l h, if_neg (by omega)]

end Sys2Proof.Machine
end

