-- ==== Sys2Proof/Laws/State.lean ====
section
/-!
SUPPORT. One lemma per field of the state per update of it, so that no proof unfolds a record update; what reading a core, a
context, a router or a partition gives after an update; and the same for the fields of a context.
-/

namespace Sys2Proof.Machine

open Sys2Proof

/-! ## Fields of the state after an update -/

@[simp] theorem State.setCore_routers (s : State) (site : Nat) (c : Core) : (s.setCore site c).routers = s.routers := rfl
@[simp] theorem State.setCore_rims (s : State) (site : Nat) (c : Core) : (s.setCore site c).rims = s.rims := rfl
@[simp] theorem State.setCore_parts (s : State) (site : Nat) (c : Core) : (s.setCore site c).parts = s.parts := rfl
@[simp] theorem State.setCore_bands (s : State) (site : Nat) (c : Core) : (s.setCore site c).bands = s.bands := rfl
@[simp] theorem State.setCore_doms (s : State) (site : Nat) (c : Core) : (s.setCore site c).doms = s.doms := rfl
@[simp] theorem State.setCore_links (s : State) (site : Nat) (c : Core) : (s.setCore site c).links = s.links := rfl
@[simp] theorem State.setCore_mem (s : State) (site : Nat) (c : Core) : (s.setCore site c).mem = s.mem := rfl
@[simp] theorem State.setCore_module (s : State) (site : Nat) (c : Core) : (s.setCore site c).module = s.module := rfl
@[simp] theorem State.setCore_tick (s : State) (site : Nat) (c : Core) : (s.setCore site c).tick = s.tick := rfl
@[simp] theorem State.setCore_order (s : State) (site : Nat) (c : Core) : (s.setCore site c).order = s.order := rfl
@[simp] theorem State.setCore_pending (s : State) (site : Nat) (c : Core) : (s.setCore site c).pending = s.pending := rfl
@[simp] theorem State.setCore_cur (s : State) (site : Nat) (c : Core) : (s.setCore site c).cur = s.cur := rfl
@[simp] theorem State.updCore_routers (s : State) (site : Nat) (f : Core → Core) : (s.updCore site f).routers = s.routers := rfl
@[simp] theorem State.updCore_rims (s : State) (site : Nat) (f : Core → Core) : (s.updCore site f).rims = s.rims := rfl
@[simp] theorem State.updCore_parts (s : State) (site : Nat) (f : Core → Core) : (s.updCore site f).parts = s.parts := rfl
@[simp] theorem State.updCore_bands (s : State) (site : Nat) (f : Core → Core) : (s.updCore site f).bands = s.bands := rfl
@[simp] theorem State.updCore_doms (s : State) (site : Nat) (f : Core → Core) : (s.updCore site f).doms = s.doms := rfl
@[simp] theorem State.updCore_links (s : State) (site : Nat) (f : Core → Core) : (s.updCore site f).links = s.links := rfl
@[simp] theorem State.updCore_mem (s : State) (site : Nat) (f : Core → Core) : (s.updCore site f).mem = s.mem := rfl
@[simp] theorem State.updCore_module (s : State) (site : Nat) (f : Core → Core) : (s.updCore site f).module = s.module := rfl
@[simp] theorem State.updCore_tick (s : State) (site : Nat) (f : Core → Core) : (s.updCore site f).tick = s.tick := rfl
@[simp] theorem State.updCore_order (s : State) (site : Nat) (f : Core → Core) : (s.updCore site f).order = s.order := rfl
@[simp] theorem State.updCore_pending (s : State) (site : Nat) (f : Core → Core) : (s.updCore site f).pending = s.pending := rfl
@[simp] theorem State.updCore_cur (s : State) (site : Nat) (f : Core → Core) : (s.updCore site f).cur = s.cur := rfl
@[simp] theorem State.setCtx_routers (s : State) (site n : Nat) (x : Ctx) : (s.setCtx site n x).routers = s.routers := rfl
@[simp] theorem State.setCtx_rims (s : State) (site n : Nat) (x : Ctx) : (s.setCtx site n x).rims = s.rims := rfl
@[simp] theorem State.setCtx_parts (s : State) (site n : Nat) (x : Ctx) : (s.setCtx site n x).parts = s.parts := rfl
@[simp] theorem State.setCtx_bands (s : State) (site n : Nat) (x : Ctx) : (s.setCtx site n x).bands = s.bands := rfl
@[simp] theorem State.setCtx_doms (s : State) (site n : Nat) (x : Ctx) : (s.setCtx site n x).doms = s.doms := rfl
@[simp] theorem State.setCtx_links (s : State) (site n : Nat) (x : Ctx) : (s.setCtx site n x).links = s.links := rfl
@[simp] theorem State.setCtx_mem (s : State) (site n : Nat) (x : Ctx) : (s.setCtx site n x).mem = s.mem := rfl
@[simp] theorem State.setCtx_module (s : State) (site n : Nat) (x : Ctx) : (s.setCtx site n x).module = s.module := rfl
@[simp] theorem State.setCtx_tick (s : State) (site n : Nat) (x : Ctx) : (s.setCtx site n x).tick = s.tick := rfl
@[simp] theorem State.setCtx_order (s : State) (site n : Nat) (x : Ctx) : (s.setCtx site n x).order = s.order := rfl
@[simp] theorem State.setCtx_pending (s : State) (site n : Nat) (x : Ctx) : (s.setCtx site n x).pending = s.pending := rfl
@[simp] theorem State.setCtx_cur (s : State) (site n : Nat) (x : Ctx) : (s.setCtx site n x).cur = s.cur := rfl
@[simp] theorem State.updCtx_routers (s : State) (site n : Nat) (f : Ctx → Ctx) : (s.updCtx site n f).routers = s.routers := rfl
@[simp] theorem State.updCtx_rims (s : State) (site n : Nat) (f : Ctx → Ctx) : (s.updCtx site n f).rims = s.rims := rfl
@[simp] theorem State.updCtx_parts (s : State) (site n : Nat) (f : Ctx → Ctx) : (s.updCtx site n f).parts = s.parts := rfl
@[simp] theorem State.updCtx_bands (s : State) (site n : Nat) (f : Ctx → Ctx) : (s.updCtx site n f).bands = s.bands := rfl
@[simp] theorem State.updCtx_doms (s : State) (site n : Nat) (f : Ctx → Ctx) : (s.updCtx site n f).doms = s.doms := rfl
@[simp] theorem State.updCtx_links (s : State) (site n : Nat) (f : Ctx → Ctx) : (s.updCtx site n f).links = s.links := rfl
@[simp] theorem State.updCtx_mem (s : State) (site n : Nat) (f : Ctx → Ctx) : (s.updCtx site n f).mem = s.mem := rfl
@[simp] theorem State.updCtx_module (s : State) (site n : Nat) (f : Ctx → Ctx) : (s.updCtx site n f).module = s.module := rfl
@[simp] theorem State.updCtx_tick (s : State) (site n : Nat) (f : Ctx → Ctx) : (s.updCtx site n f).tick = s.tick := rfl
@[simp] theorem State.updCtx_order (s : State) (site n : Nat) (f : Ctx → Ctx) : (s.updCtx site n f).order = s.order := rfl
@[simp] theorem State.updCtx_pending (s : State) (site n : Nat) (f : Ctx → Ctx) : (s.updCtx site n f).pending = s.pending := rfl
@[simp] theorem State.updCtx_cur (s : State) (site n : Nat) (f : Ctx → Ctx) : (s.updCtx site n f).cur = s.cur := rfl
@[simp] theorem State.setMe_routers (s : State) (x : Ctx) : (s.setMe x).routers = s.routers := rfl
@[simp] theorem State.setMe_rims (s : State) (x : Ctx) : (s.setMe x).rims = s.rims := rfl
@[simp] theorem State.setMe_parts (s : State) (x : Ctx) : (s.setMe x).parts = s.parts := rfl
@[simp] theorem State.setMe_bands (s : State) (x : Ctx) : (s.setMe x).bands = s.bands := rfl
@[simp] theorem State.setMe_doms (s : State) (x : Ctx) : (s.setMe x).doms = s.doms := rfl
@[simp] theorem State.setMe_links (s : State) (x : Ctx) : (s.setMe x).links = s.links := rfl
@[simp] theorem State.setMe_mem (s : State) (x : Ctx) : (s.setMe x).mem = s.mem := rfl
@[simp] theorem State.setMe_module (s : State) (x : Ctx) : (s.setMe x).module = s.module := rfl
@[simp] theorem State.setMe_tick (s : State) (x : Ctx) : (s.setMe x).tick = s.tick := rfl
@[simp] theorem State.setMe_order (s : State) (x : Ctx) : (s.setMe x).order = s.order := rfl
@[simp] theorem State.setMe_pending (s : State) (x : Ctx) : (s.setMe x).pending = s.pending := rfl
@[simp] theorem State.setMe_cur (s : State) (x : Ctx) : (s.setMe x).cur = s.cur := rfl
@[simp] theorem State.setMyCore_routers (s : State) (c : Core) : (s.setMyCore c).routers = s.routers := rfl
@[simp] theorem State.setMyCore_rims (s : State) (c : Core) : (s.setMyCore c).rims = s.rims := rfl
@[simp] theorem State.setMyCore_parts (s : State) (c : Core) : (s.setMyCore c).parts = s.parts := rfl
@[simp] theorem State.setMyCore_bands (s : State) (c : Core) : (s.setMyCore c).bands = s.bands := rfl
@[simp] theorem State.setMyCore_doms (s : State) (c : Core) : (s.setMyCore c).doms = s.doms := rfl
@[simp] theorem State.setMyCore_links (s : State) (c : Core) : (s.setMyCore c).links = s.links := rfl
@[simp] theorem State.setMyCore_mem (s : State) (c : Core) : (s.setMyCore c).mem = s.mem := rfl
@[simp] theorem State.setMyCore_module (s : State) (c : Core) : (s.setMyCore c).module = s.module := rfl
@[simp] theorem State.setMyCore_tick (s : State) (c : Core) : (s.setMyCore c).tick = s.tick := rfl
@[simp] theorem State.setMyCore_order (s : State) (c : Core) : (s.setMyCore c).order = s.order := rfl
@[simp] theorem State.setMyCore_pending (s : State) (c : Core) : (s.setMyCore c).pending = s.pending := rfl
@[simp] theorem State.setMyCore_cur (s : State) (c : Core) : (s.setMyCore c).cur = s.cur := rfl
@[simp] theorem State.setRouter_cores (s : State) (site : Nat) (r : Router) : (s.setRouter site r).cores = s.cores := rfl
@[simp] theorem State.setRouter_rims (s : State) (site : Nat) (r : Router) : (s.setRouter site r).rims = s.rims := rfl
@[simp] theorem State.setRouter_parts (s : State) (site : Nat) (r : Router) : (s.setRouter site r).parts = s.parts := rfl
@[simp] theorem State.setRouter_bands (s : State) (site : Nat) (r : Router) : (s.setRouter site r).bands = s.bands := rfl
@[simp] theorem State.setRouter_doms (s : State) (site : Nat) (r : Router) : (s.setRouter site r).doms = s.doms := rfl
@[simp] theorem State.setRouter_links (s : State) (site : Nat) (r : Router) : (s.setRouter site r).links = s.links := rfl
@[simp] theorem State.setRouter_mem (s : State) (site : Nat) (r : Router) : (s.setRouter site r).mem = s.mem := rfl
@[simp] theorem State.setRouter_module (s : State) (site : Nat) (r : Router) : (s.setRouter site r).module = s.module := rfl
@[simp] theorem State.setRouter_tick (s : State) (site : Nat) (r : Router) : (s.setRouter site r).tick = s.tick := rfl
@[simp] theorem State.setRouter_order (s : State) (site : Nat) (r : Router) : (s.setRouter site r).order = s.order := rfl
@[simp] theorem State.setRouter_pending (s : State) (site : Nat) (r : Router) : (s.setRouter site r).pending = s.pending := rfl
@[simp] theorem State.setRouter_cur (s : State) (site : Nat) (r : Router) : (s.setRouter site r).cur = s.cur := rfl
@[simp] theorem State.setRim_cores (s : State) (chan : Nat) (r : Rim) : (s.setRim chan r).cores = s.cores := rfl
@[simp] theorem State.setRim_routers (s : State) (chan : Nat) (r : Rim) : (s.setRim chan r).routers = s.routers := rfl
@[simp] theorem State.setRim_parts (s : State) (chan : Nat) (r : Rim) : (s.setRim chan r).parts = s.parts := rfl
@[simp] theorem State.setRim_bands (s : State) (chan : Nat) (r : Rim) : (s.setRim chan r).bands = s.bands := rfl
@[simp] theorem State.setRim_doms (s : State) (chan : Nat) (r : Rim) : (s.setRim chan r).doms = s.doms := rfl
@[simp] theorem State.setRim_links (s : State) (chan : Nat) (r : Rim) : (s.setRim chan r).links = s.links := rfl
@[simp] theorem State.setRim_mem (s : State) (chan : Nat) (r : Rim) : (s.setRim chan r).mem = s.mem := rfl
@[simp] theorem State.setRim_module (s : State) (chan : Nat) (r : Rim) : (s.setRim chan r).module = s.module := rfl
@[simp] theorem State.setRim_tick (s : State) (chan : Nat) (r : Rim) : (s.setRim chan r).tick = s.tick := rfl
@[simp] theorem State.setRim_order (s : State) (chan : Nat) (r : Rim) : (s.setRim chan r).order = s.order := rfl
@[simp] theorem State.setRim_pending (s : State) (chan : Nat) (r : Rim) : (s.setRim chan r).pending = s.pending := rfl
@[simp] theorem State.setRim_cur (s : State) (chan : Nat) (r : Rim) : (s.setRim chan r).cur = s.cur := rfl
@[simp] theorem State.setLink_cores (s : State) (port : Nat) (x : BhlPort) : (s.setLink port x).cores = s.cores := rfl
@[simp] theorem State.setLink_routers (s : State) (port : Nat) (x : BhlPort) : (s.setLink port x).routers = s.routers := rfl
@[simp] theorem State.setLink_rims (s : State) (port : Nat) (x : BhlPort) : (s.setLink port x).rims = s.rims := rfl
@[simp] theorem State.setLink_parts (s : State) (port : Nat) (x : BhlPort) : (s.setLink port x).parts = s.parts := rfl
@[simp] theorem State.setLink_bands (s : State) (port : Nat) (x : BhlPort) : (s.setLink port x).bands = s.bands := rfl
@[simp] theorem State.setLink_doms (s : State) (port : Nat) (x : BhlPort) : (s.setLink port x).doms = s.doms := rfl
@[simp] theorem State.setLink_mem (s : State) (port : Nat) (x : BhlPort) : (s.setLink port x).mem = s.mem := rfl
@[simp] theorem State.setLink_module (s : State) (port : Nat) (x : BhlPort) : (s.setLink port x).module = s.module := rfl
@[simp] theorem State.setLink_tick (s : State) (port : Nat) (x : BhlPort) : (s.setLink port x).tick = s.tick := rfl
@[simp] theorem State.setLink_order (s : State) (port : Nat) (x : BhlPort) : (s.setLink port x).order = s.order := rfl
@[simp] theorem State.setLink_pending (s : State) (port : Nat) (x : BhlPort) : (s.setLink port x).pending = s.pending := rfl
@[simp] theorem State.setLink_cur (s : State) (port : Nat) (x : BhlPort) : (s.setLink port x).cur = s.cur := rfl
@[simp] theorem State.setPart_cores (s : State) (lead : Nat) (p : Part) : (s.setPart lead p).cores = s.cores := rfl
@[simp] theorem State.setPart_routers (s : State) (lead : Nat) (p : Part) : (s.setPart lead p).routers = s.routers := rfl
@[simp] theorem State.setPart_rims (s : State) (lead : Nat) (p : Part) : (s.setPart lead p).rims = s.rims := rfl
@[simp] theorem State.setPart_bands (s : State) (lead : Nat) (p : Part) : (s.setPart lead p).bands = s.bands := rfl
@[simp] theorem State.setPart_doms (s : State) (lead : Nat) (p : Part) : (s.setPart lead p).doms = s.doms := rfl
@[simp] theorem State.setPart_links (s : State) (lead : Nat) (p : Part) : (s.setPart lead p).links = s.links := rfl
@[simp] theorem State.setPart_mem (s : State) (lead : Nat) (p : Part) : (s.setPart lead p).mem = s.mem := rfl
@[simp] theorem State.setPart_module (s : State) (lead : Nat) (p : Part) : (s.setPart lead p).module = s.module := rfl
@[simp] theorem State.setPart_tick (s : State) (lead : Nat) (p : Part) : (s.setPart lead p).tick = s.tick := rfl
@[simp] theorem State.setPart_order (s : State) (lead : Nat) (p : Part) : (s.setPart lead p).order = s.order := rfl
@[simp] theorem State.setPart_pending (s : State) (lead : Nat) (p : Part) : (s.setPart lead p).pending = s.pending := rfl
@[simp] theorem State.setPart_cur (s : State) (lead : Nat) (p : Part) : (s.setPart lead p).cur = s.cur := rfl
@[simp] theorem State.due_cores (s : State) (i : Instr) : (s.due i).cores = s.cores := rfl
@[simp] theorem State.due_routers (s : State) (i : Instr) : (s.due i).routers = s.routers := rfl
@[simp] theorem State.due_rims (s : State) (i : Instr) : (s.due i).rims = s.rims := rfl
@[simp] theorem State.due_parts (s : State) (i : Instr) : (s.due i).parts = s.parts := rfl
@[simp] theorem State.due_bands (s : State) (i : Instr) : (s.due i).bands = s.bands := rfl
@[simp] theorem State.due_doms (s : State) (i : Instr) : (s.due i).doms = s.doms := rfl
@[simp] theorem State.due_links (s : State) (i : Instr) : (s.due i).links = s.links := rfl
@[simp] theorem State.due_mem (s : State) (i : Instr) : (s.due i).mem = s.mem := rfl
@[simp] theorem State.due_module (s : State) (i : Instr) : (s.due i).module = s.module := rfl
@[simp] theorem State.due_tick (s : State) (i : Instr) : (s.due i).tick = s.tick := rfl
@[simp] theorem State.due_order (s : State) (i : Instr) : (s.due i).order = s.order := rfl
@[simp] theorem State.due_cur (s : State) (i : Instr) : (s.due i).cur = s.cur := rfl
@[simp] theorem State.later_cores (s : State) (d : Due) : (s.later d).cores = s.cores := rfl
@[simp] theorem State.later_routers (s : State) (d : Due) : (s.later d).routers = s.routers := rfl
@[simp] theorem State.later_rims (s : State) (d : Due) : (s.later d).rims = s.rims := rfl
@[simp] theorem State.later_parts (s : State) (d : Due) : (s.later d).parts = s.parts := rfl
@[simp] theorem State.later_bands (s : State) (d : Due) : (s.later d).bands = s.bands := rfl
@[simp] theorem State.later_doms (s : State) (d : Due) : (s.later d).doms = s.doms := rfl
@[simp] theorem State.later_links (s : State) (d : Due) : (s.later d).links = s.links := rfl
@[simp] theorem State.later_mem (s : State) (d : Due) : (s.later d).mem = s.mem := rfl
@[simp] theorem State.later_module (s : State) (d : Due) : (s.later d).module = s.module := rfl
@[simp] theorem State.later_tick (s : State) (d : Due) : (s.later d).tick = s.tick := rfl
@[simp] theorem State.later_order (s : State) (d : Due) : (s.later d).order = s.order := rfl
@[simp] theorem State.later_cur (s : State) (d : Due) : (s.later d).cur = s.cur := rfl
@[simp] theorem State.setBand_cores (s : State) (b : Nat) (x : Band) : (s.setBand b x).cores = s.cores := rfl
@[simp] theorem State.setBand_routers (s : State) (b : Nat) (x : Band) : (s.setBand b x).routers = s.routers := rfl
@[simp] theorem State.setBand_rims (s : State) (b : Nat) (x : Band) : (s.setBand b x).rims = s.rims := rfl
@[simp] theorem State.setBand_parts (s : State) (b : Nat) (x : Band) : (s.setBand b x).parts = s.parts := rfl
@[simp] theorem State.setBand_doms (s : State) (b : Nat) (x : Band) : (s.setBand b x).doms = s.doms := rfl
@[simp] theorem State.setBand_links (s : State) (b : Nat) (x : Band) : (s.setBand b x).links = s.links := rfl
@[simp] theorem State.setBand_mem (s : State) (b : Nat) (x : Band) : (s.setBand b x).mem = s.mem := rfl
@[simp] theorem State.setBand_module (s : State) (b : Nat) (x : Band) : (s.setBand b x).module = s.module := rfl
@[simp] theorem State.setBand_tick (s : State) (b : Nat) (x : Band) : (s.setBand b x).tick = s.tick := rfl
@[simp] theorem State.setBand_order (s : State) (b : Nat) (x : Band) : (s.setBand b x).order = s.order := rfl
@[simp] theorem State.setBand_pending (s : State) (b : Nat) (x : Band) : (s.setBand b x).pending = s.pending := rfl
@[simp] theorem State.setBand_cur (s : State) (b : Nat) (x : Band) : (s.setBand b x).cur = s.cur := rfl
@[simp] theorem State.scrWrite_cores (s : State) (site off : Nat) (d : List Byte) : (s.scrWrite site off d).cores = s.cores := rfl
@[simp] theorem State.scrWrite_routers (s : State) (site off : Nat) (d : List Byte) : (s.scrWrite site off d).routers = s.routers := rfl
@[simp] theorem State.scrWrite_rims (s : State) (site off : Nat) (d : List Byte) : (s.scrWrite site off d).rims = s.rims := rfl
@[simp] theorem State.scrWrite_parts (s : State) (site off : Nat) (d : List Byte) : (s.scrWrite site off d).parts = s.parts := rfl
@[simp] theorem State.scrWrite_bands (s : State) (site off : Nat) (d : List Byte) : (s.scrWrite site off d).bands = s.bands := rfl
@[simp] theorem State.scrWrite_doms (s : State) (site off : Nat) (d : List Byte) : (s.scrWrite site off d).doms = s.doms := rfl
@[simp] theorem State.scrWrite_links (s : State) (site off : Nat) (d : List Byte) : (s.scrWrite site off d).links = s.links := rfl
@[simp] theorem State.scrWrite_module (s : State) (site off : Nat) (d : List Byte) : (s.scrWrite site off d).module = s.module := rfl
@[simp] theorem State.scrWrite_tick (s : State) (site off : Nat) (d : List Byte) : (s.scrWrite site off d).tick = s.tick := rfl
@[simp] theorem State.scrWrite_order (s : State) (site off : Nat) (d : List Byte) : (s.scrWrite site off d).order = s.order := rfl
@[simp] theorem State.scrWrite_pending (s : State) (site off : Nat) (d : List Byte) : (s.scrWrite site off d).pending = s.pending := rfl
@[simp] theorem State.scrWrite_cur (s : State) (site off : Nat) (d : List Byte) : (s.scrWrite site off d).cur = s.cur := rfl
@[simp] theorem State.resultDue_cores (s : State) : (s.resultDue).cores = s.cores := rfl
@[simp] theorem State.resultDue_routers (s : State) : (s.resultDue).routers = s.routers := rfl
@[simp] theorem State.resultDue_rims (s : State) : (s.resultDue).rims = s.rims := rfl
@[simp] theorem State.resultDue_parts (s : State) : (s.resultDue).parts = s.parts := rfl
@[simp] theorem State.resultDue_bands (s : State) : (s.resultDue).bands = s.bands := rfl
@[simp] theorem State.resultDue_doms (s : State) : (s.resultDue).doms = s.doms := rfl
@[simp] theorem State.resultDue_links (s : State) : (s.resultDue).links = s.links := rfl
@[simp] theorem State.resultDue_mem (s : State) : (s.resultDue).mem = s.mem := rfl
@[simp] theorem State.resultDue_module (s : State) : (s.resultDue).module = s.module := rfl
@[simp] theorem State.resultDue_tick (s : State) : (s.resultDue).tick = s.tick := rfl
@[simp] theorem State.resultDue_order (s : State) : (s.resultDue).order = s.order := rfl
@[simp] theorem State.resultDue_cur (s : State) : (s.resultDue).cur = s.cur := rfl
@[simp] theorem State.due_pending (s : State) (i : Instr) : (s.due i).pending = s.pending ++ [.ev i] := rfl
@[simp] theorem State.later_pending (s : State) (d : Due) : (s.later d).pending = s.pending ++ [d] := rfl

@[simp] theorem State.updPart_cores (s : State) (lead : Nat) (f : Part → Part) : (s.updPart lead f).cores = s.cores := by
  simp only [State.updPart]; split <;> rfl
@[simp] theorem State.updPart_routers (s : State) (lead : Nat) (f : Part → Part) : (s.updPart lead f).routers = s.routers := by
  simp only [State.updPart]; split <;> rfl
@[simp] theorem State.updPart_rims (s : State) (lead : Nat) (f : Part → Part) : (s.updPart lead f).rims = s.rims := by
  simp only [State.updPart]; split <;> rfl
@[simp] theorem State.updPart_bands (s : State) (lead : Nat) (f : Part → Part) : (s.updPart lead f).bands = s.bands := by
  simp only [State.updPart]; split <;> rfl
@[simp] theorem State.updPart_doms (s : State) (lead : Nat) (f : Part → Part) : (s.updPart lead f).doms = s.doms := by
  simp only [State.updPart]; split <;> rfl
@[simp] theorem State.updPart_links (s : State) (lead : Nat) (f : Part → Part) : (s.updPart lead f).links = s.links := by
  simp only [State.updPart]; split <;> rfl
@[simp] theorem State.updPart_mem (s : State) (lead : Nat) (f : Part → Part) : (s.updPart lead f).mem = s.mem := by
  simp only [State.updPart]; split <;> rfl
@[simp] theorem State.updPart_module (s : State) (lead : Nat) (f : Part → Part) : (s.updPart lead f).module = s.module := by
  simp only [State.updPart]; split <;> rfl
@[simp] theorem State.updPart_tick (s : State) (lead : Nat) (f : Part → Part) : (s.updPart lead f).tick = s.tick := by
  simp only [State.updPart]; split <;> rfl
@[simp] theorem State.updPart_order (s : State) (lead : Nat) (f : Part → Part) : (s.updPart lead f).order = s.order := by
  simp only [State.updPart]; split <;> rfl
@[simp] theorem State.updPart_pending (s : State) (lead : Nat) (f : Part → Part) : (s.updPart lead f).pending = s.pending := by
  simp only [State.updPart]; split <;> rfl
@[simp] theorem State.updPart_cur (s : State) (lead : Nat) (f : Part → Part) : (s.updPart lead f).cur = s.cur := by
  simp only [State.updPart]; split <;> rfl

/-! ## Reading after an update -/

@[simp] theorem State.core_setCore_same (s : State) (site : Nat) (c : Core) : (s.setCore site c).core site = c := by
  simp [State.core, State.setCore]

theorem State.core_setCore (s : State) (site k : Nat) (c : Core) :
    (s.setCore site c).core k = if k = site then c else s.core k := by
  simp only [State.core, State.setCore, Tbl.get_put]

@[simp] theorem Core.ctx_setCtx_same (c : Core) (n : Nat) (x : Ctx) (h : n < 8) : (c.setCtx n x).ctx n = x := by
  simp [Core.ctx, Core.setCtx, h]

theorem Core.ctx_setCtx_ne (c : Core) (n k : Nat) (x : Ctx) (h : k ≠ n) : (c.setCtx n x).ctx k = c.ctx k := by
  simp only [Core.ctx, Core.setCtx, Vector.getElem?_setIfInBounds]
  rw [if_neg (Ne.symm h)]

@[simp] theorem State.ctx_setCtx_same (s : State) (site n : Nat) (x : Ctx) (h : n < 8) : (s.setCtx site n x).ctx site n = x := by
  simp [State.ctx, State.setCtx, h]

/-- Another context reads as before. -/
theorem State.ctx_setCtx_ne (s : State) (site n a b : Nat) (x : Ctx) (h : (a, b) ≠ (site, n)) :
    (s.setCtx site n x).ctx a b = s.ctx a b := by
  simp only [State.ctx, State.setCtx, State.core_setCore]
  split
  · rename_i h1
    subst h1
    exact Core.ctx_setCtx_ne _ _ _ _ fun h2 => h (by rw [h2])
  · rfl

@[simp] theorem State.me_setMe (s : State) (x : Ctx) (h : s.cur.2 < 8) : (s.setMe x).me = x := by
  simp only [State.me, State.setMe]
  exact State.ctx_setCtx_same s s.cur.1 s.cur.2 x h

theorem State.ctx_setMe_ne (s : State) (x : Ctx) (a b : Nat) (h : (a, b) ≠ s.cur) : (s.setMe x).ctx a b = s.ctx a b :=
  State.ctx_setCtx_ne s s.cur.1 s.cur.2 a b x h

@[simp] theorem State.ctx_due (s : State) (i : Instr) (a b : Nat) : (s.due i).ctx a b = s.ctx a b := rfl
@[simp] theorem State.ctx_later (s : State) (d : Due) (a b : Nat) : (s.later d).ctx a b = s.ctx a b := rfl
@[simp] theorem State.me_due (s : State) (i : Instr) : (s.due i).me = s.me := rfl
@[simp] theorem State.me_later (s : State) (d : Due) : (s.later d).me = s.me := rfl
@[simp] theorem State.me_resultDue (s : State) : s.resultDue.me = s.me := rfl
@[simp] theorem State.core_due (s : State) (i : Instr) (a : Nat) : (s.due i).core a = s.core a := rfl
@[simp] theorem State.core_later (s : State) (d : Due) (a : Nat) : (s.later d).core a = s.core a := rfl
@[simp] theorem State.part?_due (s : State) (i : Instr) (a : Nat) : (s.due i).part? a = s.part? a := rfl
@[simp] theorem State.part?_later (s : State) (d : Due) (a : Nat) : (s.later d).part? a = s.part? a := rfl
@[simp] theorem State.part?_setCore (s : State) (site : Nat) (c : Core) (a : Nat) : (s.setCore site c).part? a = s.part? a := rfl
@[simp] theorem State.part?_setRim (s : State) (c : Nat) (r : Rim) (a : Nat) : (s.setRim c r).part? a = s.part? a := rfl

@[simp] theorem State.part?_setPart_same (s : State) (lead : Nat) (p : Part) : (s.setPart lead p).part? lead = some p := by
  simp [State.part?, State.setPart]

theorem State.part?_setPart (s : State) (lead k : Nat) (p : Part) :
    (s.setPart lead p).part? k = if k = lead then some p else s.part? k := by
  simp only [State.part?, State.setPart, Tbl.find?_put]

theorem State.part?_updPart (s : State) (lead : Nat) (f : Part → Part) (p : Part) (h : s.part? lead = some p) :
    (s.updPart lead f).part? lead = some (f p) := by
  simp [State.updPart, h]

@[simp] theorem State.router_setRouter_same (s : State) (site : Nat) (r : Router) : (s.setRouter site r).router site = r := by
  simp [State.router, State.setRouter]

@[simp] theorem State.rim_setRim_same (s : State) (chan : Nat) (r : Rim) : (s.setRim chan r).rim chan = r := by
  simp [State.rim, State.setRim]

@[simp] theorem State.link_setLink_same (s : State) (port : Nat) (x : BhlPort) : (s.setLink port x).link port = x := by
  simp [State.link, State.setLink]

@[simp] theorem State.band_setBand_same (s : State) (b : Nat) (x : Band) : (s.setBand b x).band b = x := by
  simp [State.band, State.setBand]

/-! ## Registers -/

/-- x0 reads zero (R28). -/
@[simp] theorem Ctx.get_zero (c : Ctx) : c.get 0 = 0 := rfl

/-- A register reads what was written, x0 zero (R28). -/
@[simp] theorem Ctx.get_put_same (c : Ctx) (r : Reg) (v : Word) : (c.put r v).get r = if r = 0 then 0 else v := by
  simp only [Ctx.get, Ctx.put]
  split
  · rfl
  · simp

/-- Another register keeps its value. -/
theorem Ctx.get_put_ne (c : Ctx) (r q : Reg) (v : Word) (h : q ≠ r) : (c.put r v).get q = c.get q := by
  simp only [Ctx.get, Ctx.put]
  split
  · rfl
  · split
    · rfl
    · have : r.toNat ≠ q.toNat := fun e => h (BitVec.eq_of_toNat_eq e.symm)
      simp [Vector.getElem_set, this]

@[simp] theorem Ctx.put_occ (c : Ctx) (r : Reg) (v : Word) : (c.put r v).occ = c.occ := by
  simp only [Ctx.put]; split <;> rfl
@[simp] theorem Ctx.put_pc (c : Ctx) (r : Reg) (v : Word) : (c.put r v).pc = c.pc := by
  simp only [Ctx.put]; split <;> rfl
@[simp] theorem Ctx.put_k (c : Ctx) (r : Reg) (v : Word) : (c.put r v).k = c.k := by
  simp only [Ctx.put]; split <;> rfl
@[simp] theorem Ctx.put_sb (c : Ctx) (r : Reg) (v : Word) : (c.put r v).sb = c.sb := by
  simp only [Ctx.put]; split <;> rfl
@[simp] theorem Ctx.put_due (c : Ctx) (r : Reg) (v : Word) : (c.put r v).due = c.due := by
  simp only [Ctx.put]; split <;> rfl
@[simp] theorem Ctx.put_smode (c : Ctx) (r : Reg) (v : Word) : (c.put r v).smode = c.smode := by
  simp only [Ctx.put]; split <;> rfl
@[simp] theorem Ctx.put_spos (c : Ctx) (r : Reg) (v : Word) : (c.put r v).spos = c.spos := by
  simp only [Ctx.put]; split <;> rfl
@[simp] theorem Ctx.put_strm (c : Ctx) (r : Reg) (v : Word) : (c.put r v).strm = c.strm := by
  simp only [Ctx.put]; split <;> rfl
@[simp] theorem Ctx.put_ld (c : Ctx) (r : Reg) (v : Word) : (c.put r v).ld = c.ld := by
  simp only [Ctx.put]; split <;> rfl
@[simp] theorem Ctx.put_st (c : Ctx) (r : Reg) (v : Word) : (c.put r v).st = c.st := by
  simp only [Ctx.put]; split <;> rfl
@[simp] theorem Ctx.put_cp (c : Ctx) (r : Reg) (v : Word) : (c.put r v).cp = c.cp := by
  simp only [Ctx.put]; split <;> rfl
@[simp] theorem Ctx.put_tl (c : Ctx) (r : Reg) (v : Word) : (c.put r v).tl = c.tl := by
  simp only [Ctx.put]; split <;> rfl
@[simp] theorem Ctx.put_issued (c : Ctx) (r : Reg) (v : Word) : (c.put r v).issued = c.issued := by
  simp only [Ctx.put]; split <;> rfl
@[simp] theorem Ctx.put_ops (c : Ctx) (r : Reg) (v : Word) : (c.put r v).ops = c.ops := by
  simp only [Ctx.put]; split <;> rfl
@[simp] theorem Ctx.put_recent (c : Ctx) (r : Reg) (v : Word) : (c.put r v).recent = c.recent := by
  simp only [Ctx.put]; split <;> rfl
@[simp] theorem Ctx.put_posted (c : Ctx) (r : Reg) (v : Word) : (c.put r v).posted = c.posted := by
  simp only [Ctx.put]; split <;> rfl
@[simp] theorem Ctx.put_abortMask (c : Ctx) (r : Reg) (v : Word) : (c.put r v).abortMask = c.abortMask := by
  simp only [Ctx.put]; split <;> rfl
@[simp] theorem Ctx.put_window (c : Ctx) (r : Reg) (v : Word) : (c.put r v).window = c.window := by
  simp only [Ctx.put]; split <;> rfl
@[simp] theorem Ctx.put_psup (c : Ctx) (r : Reg) (v : Word) : (c.put r v).psup = c.psup := by
  simp only [Ctx.put]; split <;> rfl
@[simp] theorem Ctx.put_tact (c : Ctx) (r : Reg) (v : Word) : (c.put r v).tact = c.tact := by
  simp only [Ctx.put]; split <;> rfl
@[simp] theorem Ctx.put_sup (c : Ctx) (r : Reg) (v : Word) : (c.put r v).sup = c.sup := by
  simp only [Ctx.put]; split <;> rfl
@[simp] theorem Ctx.put_prio (c : Ctx) (r : Reg) (v : Word) : (c.put r v).prio = c.prio := by
  simp only [Ctx.put]; split <;> rfl
@[simp] theorem Ctx.put_sticky (c : Ctx) (r : Reg) (v : Word) : (c.put r v).sticky = c.sticky := by
  simp only [Ctx.put]; split <;> rfl
@[simp] theorem Ctx.put_cause (c : Ctx) (r : Reg) (v : Word) : (c.put r v).cause = c.cause := by
  simp only [Ctx.put]; split <;> rfl
@[simp] theorem Ctx.put_epc (c : Ctx) (r : Reg) (v : Word) : (c.put r v).epc = c.epc := by
  simp only [Ctx.put]; split <;> rfl
@[simp] theorem Ctx.put_faddr (c : Ctx) (r : Reg) (v : Word) : (c.put r v).faddr = c.faddr := by
  simp only [Ctx.put]; split <;> rfl
@[simp] theorem Ctx.put_fstep (c : Ctx) (r : Reg) (v : Word) : (c.put r v).fstep = c.fstep := by
  simp only [Ctx.put]; split <;> rfl
@[simp] theorem Ctx.put_srstate (c : Ctx) (r : Reg) (v : Word) : (c.put r v).srstate = c.srstate := by
  simp only [Ctx.put]; split <;> rfl
@[simp] theorem Ctx.put_tvec (c : Ctx) (r : Reg) (v : Word) : (c.put r v).tvec = c.tvec := by
  simp only [Ctx.put]; split <;> rfl
@[simp] theorem Ctx.put_task (c : Ctx) (r : Reg) (v : Word) : (c.put r v).task = c.task := by
  simp only [Ctx.put]; split <;> rfl
@[simp] theorem Ctx.put_region (c : Ctx) (r : Reg) (v : Word) : (c.put r v).region = c.region := by
  simp only [Ctx.put]; split <;> rfl
@[simp] theorem Ctx.put_vintage (c : Ctx) (r : Reg) (v : Word) : (c.put r v).vintage = c.vintage := by
  simp only [Ctx.put]; split <;> rfl
@[simp] theorem Ctx.put_syncreg (c : Ctx) (r : Reg) (v : Word) : (c.put r v).syncreg = c.syncreg := by
  simp only [Ctx.put]; split <;> rfl
@[simp] theorem Ctx.put_dirtyK (c : Ctx) (r : Reg) (v : Word) : (c.put r v).dirtyK = c.dirtyK := by
  simp only [Ctx.put]; split <;> rfl
@[simp] theorem Ctx.put_dirtyL (c : Ctx) (r : Reg) (v : Word) : (c.put r v).dirtyL = c.dirtyL := by
  simp only [Ctx.put]; split <;> rfl
@[simp] theorem Ctx.put_loadslots (c : Ctx) (r : Reg) (v : Word) : (c.put r v).loadslots = c.loadslots := by
  simp only [Ctx.put]; split <;> rfl
@[simp] theorem Ctx.put_retReg (c : Ctx) (r : Reg) (v : Word) : (c.put r v).retReg = c.retReg := by
  simp only [Ctx.put]; split <;> rfl
@[simp] theorem Ctx.put_hints (c : Ctx) (r : Reg) (v : Word) : (c.put r v).hints = c.hints := by
  simp only [Ctx.put]; split <;> rfl
@[simp] theorem Ctx.put_hold (c : Ctx) (r : Reg) (v : Word) : (c.put r v).hold = c.hold := by
  simp only [Ctx.put]; split <;> rfl
@[simp] theorem Ctx.put_stall (c : Ctx) (r : Reg) (v : Word) : (c.put r v).stall = c.stall := by
  simp only [Ctx.put]; split <;> rfl
@[simp] theorem Ctx.put_ttime (c : Ctx) (r : Reg) (v : Word) : (c.put r v).ttime = c.ttime := by
  simp only [Ctx.put]; split <;> rfl
@[simp] theorem Ctx.put_fetched (c : Ctx) (r : Reg) (v : Word) : (c.put r v).fetched = c.fetched := by
  simp only [Ctx.put]; split <;> rfl
@[simp] theorem Ctx.put_held (c : Ctx) (r : Reg) (v : Word) : (c.put r v).held = c.held := by
  simp only [Ctx.put]; split <;> rfl
@[simp] theorem Ctx.put_rounds (c : Ctx) (r : Reg) (v : Word) : (c.put r v).rounds = c.rounds := by
  simp only [Ctx.put]; split <;> rfl
@[simp] theorem Ctx.put_hint (c : Ctx) (r : Reg) (v : Word) : (c.put r v).hint = c.hint := by
  simp only [Ctx.put]; split <;> rfl
@[simp] theorem Ctx.put_radius (c : Ctx) (r : Reg) (v : Word) : (c.put r v).radius = c.radius := by
  simp only [Ctx.put]; split <;> rfl
@[simp] theorem Ctx.advance_occ (c : Ctx) : c.advance.occ = c.occ := rfl
@[simp] theorem Ctx.advance_k (c : Ctx) : c.advance.k = c.k := rfl
@[simp] theorem Ctx.advance_sb (c : Ctx) : c.advance.sb = c.sb := rfl
@[simp] theorem Ctx.advance_due (c : Ctx) : c.advance.due = c.due := rfl
@[simp] theorem Ctx.advance_smode (c : Ctx) : c.advance.smode = c.smode := rfl
@[simp] theorem Ctx.advance_spos (c : Ctx) : c.advance.spos = c.spos := rfl
@[simp] theorem Ctx.advance_strm (c : Ctx) : c.advance.strm = c.strm := rfl
@[simp] theorem Ctx.advance_ld (c : Ctx) : c.advance.ld = c.ld := rfl
@[simp] theorem Ctx.advance_st (c : Ctx) : c.advance.st = c.st := rfl
@[simp] theorem Ctx.advance_cp (c : Ctx) : c.advance.cp = c.cp := rfl
@[simp] theorem Ctx.advance_tl (c : Ctx) : c.advance.tl = c.tl := rfl
@[simp] theorem Ctx.advance_issued (c : Ctx) : c.advance.issued = c.issued := rfl
@[simp] theorem Ctx.advance_ops (c : Ctx) : c.advance.ops = c.ops := rfl
@[simp] theorem Ctx.advance_recent (c : Ctx) : c.advance.recent = c.recent := rfl
@[simp] theorem Ctx.advance_posted (c : Ctx) : c.advance.posted = c.posted := rfl
@[simp] theorem Ctx.advance_abortMask (c : Ctx) : c.advance.abortMask = c.abortMask := rfl
@[simp] theorem Ctx.advance_window (c : Ctx) : c.advance.window = c.window := rfl
@[simp] theorem Ctx.advance_psup (c : Ctx) : c.advance.psup = c.psup := rfl
@[simp] theorem Ctx.advance_tact (c : Ctx) : c.advance.tact = c.tact := rfl
@[simp] theorem Ctx.advance_sup (c : Ctx) : c.advance.sup = c.sup := rfl
@[simp] theorem Ctx.advance_prio (c : Ctx) : c.advance.prio = c.prio := rfl
@[simp] theorem Ctx.advance_sticky (c : Ctx) : c.advance.sticky = c.sticky := rfl
@[simp] theorem Ctx.advance_cause (c : Ctx) : c.advance.cause = c.cause := rfl
@[simp] theorem Ctx.advance_epc (c : Ctx) : c.advance.epc = c.epc := rfl
@[simp] theorem Ctx.advance_faddr (c : Ctx) : c.advance.faddr = c.faddr := rfl
@[simp] theorem Ctx.advance_fstep (c : Ctx) : c.advance.fstep = c.fstep := rfl
@[simp] theorem Ctx.advance_srstate (c : Ctx) : c.advance.srstate = c.srstate := rfl
@[simp] theorem Ctx.advance_tvec (c : Ctx) : c.advance.tvec = c.tvec := rfl
@[simp] theorem Ctx.advance_task (c : Ctx) : c.advance.task = c.task := rfl
@[simp] theorem Ctx.advance_region (c : Ctx) : c.advance.region = c.region := rfl
@[simp] theorem Ctx.advance_vintage (c : Ctx) : c.advance.vintage = c.vintage := rfl
@[simp] theorem Ctx.advance_syncreg (c : Ctx) : c.advance.syncreg = c.syncreg := rfl
@[simp] theorem Ctx.advance_dirtyK (c : Ctx) : c.advance.dirtyK = c.dirtyK := rfl
@[simp] theorem Ctx.advance_dirtyL (c : Ctx) : c.advance.dirtyL = c.dirtyL := rfl
@[simp] theorem Ctx.advance_loadslots (c : Ctx) : c.advance.loadslots = c.loadslots := rfl
@[simp] theorem Ctx.advance_retReg (c : Ctx) : c.advance.retReg = c.retReg := rfl
@[simp] theorem Ctx.advance_ttime (c : Ctx) : c.advance.ttime = c.ttime := rfl
@[simp] theorem Ctx.advance_held (c : Ctx) : c.advance.held = c.held := rfl
@[simp] theorem Ctx.advance_rounds (c : Ctx) : c.advance.rounds = c.rounds := rfl
@[simp] theorem Ctx.advance_hint (c : Ctx) : c.advance.hint = c.hint := rfl
@[simp] theorem Ctx.advance_radius (c : Ctx) : c.advance.radius = c.radius := rfl
@[simp] theorem Ctx.advance_x (c : Ctx) : c.advance.x = c.x := rfl
@[simp] theorem Ctx.advance_dirtyX (c : Ctx) : c.advance.dirtyX = c.dirtyX := rfl
@[simp] theorem Ctx.advance_pc (c : Ctx) : c.advance.pc = c.pc + 4 := rfl
@[simp] theorem Ctx.pend_occ (c : Ctx) (m : BitVec 32) : (c.pend m).occ = c.occ := by
  simp only [Ctx.pend]; split <;> rfl
@[simp] theorem Ctx.pend_pc (c : Ctx) (m : BitVec 32) : (c.pend m).pc = c.pc := by
  simp only [Ctx.pend]; split <;> rfl
@[simp] theorem Ctx.pend_k (c : Ctx) (m : BitVec 32) : (c.pend m).k = c.k := by
  simp only [Ctx.pend]; split <;> rfl
@[simp] theorem Ctx.pend_smode (c : Ctx) (m : BitVec 32) : (c.pend m).smode = c.smode := by
  simp only [Ctx.pend]; split <;> rfl
@[simp] theorem Ctx.pend_spos (c : Ctx) (m : BitVec 32) : (c.pend m).spos = c.spos := by
  simp only [Ctx.pend]; split <;> rfl
@[simp] theorem Ctx.pend_strm (c : Ctx) (m : BitVec 32) : (c.pend m).strm = c.strm := by
  simp only [Ctx.pend]; split <;> rfl
@[simp] theorem Ctx.pend_ld (c : Ctx) (m : BitVec 32) : (c.pend m).ld = c.ld := by
  simp only [Ctx.pend]; split <;> rfl
@[simp] theorem Ctx.pend_st (c : Ctx) (m : BitVec 32) : (c.pend m).st = c.st := by
  simp only [Ctx.pend]; split <;> rfl
@[simp] theorem Ctx.pend_cp (c : Ctx) (m : BitVec 32) : (c.pend m).cp = c.cp := by
  simp only [Ctx.pend]; split <;> rfl
@[simp] theorem Ctx.pend_tl (c : Ctx) (m : BitVec 32) : (c.pend m).tl = c.tl := by
  simp only [Ctx.pend]; split <;> rfl
@[simp] theorem Ctx.pend_issued (c : Ctx) (m : BitVec 32) : (c.pend m).issued = c.issued := by
  simp only [Ctx.pend]; split <;> rfl
@[simp] theorem Ctx.pend_ops (c : Ctx) (m : BitVec 32) : (c.pend m).ops = c.ops := by
  simp only [Ctx.pend]; split <;> rfl
@[simp] theorem Ctx.pend_recent (c : Ctx) (m : BitVec 32) : (c.pend m).recent = c.recent := by
  simp only [Ctx.pend]; split <;> rfl
@[simp] theorem Ctx.pend_posted (c : Ctx) (m : BitVec 32) : (c.pend m).posted = c.posted := by
  simp only [Ctx.pend]; split <;> rfl
@[simp] theorem Ctx.pend_abortMask (c : Ctx) (m : BitVec 32) : (c.pend m).abortMask = c.abortMask := by
  simp only [Ctx.pend]; split <;> rfl
@[simp] theorem Ctx.pend_window (c : Ctx) (m : BitVec 32) : (c.pend m).window = c.window := by
  simp only [Ctx.pend]; split <;> rfl
@[simp] theorem Ctx.pend_psup (c : Ctx) (m : BitVec 32) : (c.pend m).psup = c.psup := by
  simp only [Ctx.pend]; split <;> rfl
@[simp] theorem Ctx.pend_tact (c : Ctx) (m : BitVec 32) : (c.pend m).tact = c.tact := by
  simp only [Ctx.pend]; split <;> rfl
@[simp] theorem Ctx.pend_sup (c : Ctx) (m : BitVec 32) : (c.pend m).sup = c.sup := by
  simp only [Ctx.pend]; split <;> rfl
@[simp] theorem Ctx.pend_prio (c : Ctx) (m : BitVec 32) : (c.pend m).prio = c.prio := by
  simp only [Ctx.pend]; split <;> rfl
@[simp] theorem Ctx.pend_sticky (c : Ctx) (m : BitVec 32) : (c.pend m).sticky = c.sticky := by
  simp only [Ctx.pend]; split <;> rfl
@[simp] theorem Ctx.pend_cause (c : Ctx) (m : BitVec 32) : (c.pend m).cause = c.cause := by
  simp only [Ctx.pend]; split <;> rfl
@[simp] theorem Ctx.pend_epc (c : Ctx) (m : BitVec 32) : (c.pend m).epc = c.epc := by
  simp only [Ctx.pend]; split <;> rfl
@[simp] theorem Ctx.pend_faddr (c : Ctx) (m : BitVec 32) : (c.pend m).faddr = c.faddr := by
  simp only [Ctx.pend]; split <;> rfl
@[simp] theorem Ctx.pend_fstep (c : Ctx) (m : BitVec 32) : (c.pend m).fstep = c.fstep := by
  simp only [Ctx.pend]; split <;> rfl
@[simp] theorem Ctx.pend_srstate (c : Ctx) (m : BitVec 32) : (c.pend m).srstate = c.srstate := by
  simp only [Ctx.pend]; split <;> rfl
@[simp] theorem Ctx.pend_tvec (c : Ctx) (m : BitVec 32) : (c.pend m).tvec = c.tvec := by
  simp only [Ctx.pend]; split <;> rfl
@[simp] theorem Ctx.pend_task (c : Ctx) (m : BitVec 32) : (c.pend m).task = c.task := by
  simp only [Ctx.pend]; split <;> rfl
@[simp] theorem Ctx.pend_region (c : Ctx) (m : BitVec 32) : (c.pend m).region = c.region := by
  simp only [Ctx.pend]; split <;> rfl
@[simp] theorem Ctx.pend_vintage (c : Ctx) (m : BitVec 32) : (c.pend m).vintage = c.vintage := by
  simp only [Ctx.pend]; split <;> rfl
@[simp] theorem Ctx.pend_syncreg (c : Ctx) (m : BitVec 32) : (c.pend m).syncreg = c.syncreg := by
  simp only [Ctx.pend]; split <;> rfl
@[simp] theorem Ctx.pend_dirtyK (c : Ctx) (m : BitVec 32) : (c.pend m).dirtyK = c.dirtyK := by
  simp only [Ctx.pend]; split <;> rfl
@[simp] theorem Ctx.pend_dirtyL (c : Ctx) (m : BitVec 32) : (c.pend m).dirtyL = c.dirtyL := by
  simp only [Ctx.pend]; split <;> rfl
@[simp] theorem Ctx.pend_loadslots (c : Ctx) (m : BitVec 32) : (c.pend m).loadslots = c.loadslots := by
  simp only [Ctx.pend]; split <;> rfl
@[simp] theorem Ctx.pend_retReg (c : Ctx) (m : BitVec 32) : (c.pend m).retReg = c.retReg := by
  simp only [Ctx.pend]; split <;> rfl
@[simp] theorem Ctx.pend_hints (c : Ctx) (m : BitVec 32) : (c.pend m).hints = c.hints := by
  simp only [Ctx.pend]; split <;> rfl
@[simp] theorem Ctx.pend_hold (c : Ctx) (m : BitVec 32) : (c.pend m).hold = c.hold := by
  simp only [Ctx.pend]; split <;> rfl
@[simp] theorem Ctx.pend_stall (c : Ctx) (m : BitVec 32) : (c.pend m).stall = c.stall := by
  simp only [Ctx.pend]; split <;> rfl
@[simp] theorem Ctx.pend_ttime (c : Ctx) (m : BitVec 32) : (c.pend m).ttime = c.ttime := by
  simp only [Ctx.pend]; split <;> rfl
@[simp] theorem Ctx.pend_fetched (c : Ctx) (m : BitVec 32) : (c.pend m).fetched = c.fetched := by
  simp only [Ctx.pend]; split <;> rfl
@[simp] theorem Ctx.pend_held (c : Ctx) (m : BitVec 32) : (c.pend m).held = c.held := by
  simp only [Ctx.pend]; split <;> rfl
@[simp] theorem Ctx.pend_rounds (c : Ctx) (m : BitVec 32) : (c.pend m).rounds = c.rounds := by
  simp only [Ctx.pend]; split <;> rfl
@[simp] theorem Ctx.pend_hint (c : Ctx) (m : BitVec 32) : (c.pend m).hint = c.hint := by
  simp only [Ctx.pend]; split <;> rfl
@[simp] theorem Ctx.pend_radius (c : Ctx) (m : BitVec 32) : (c.pend m).radius = c.radius := by
  simp only [Ctx.pend]; split <;> rfl
@[simp] theorem Ctx.pend_x (c : Ctx) (m : BitVec 32) : (c.pend m).x = c.x := by
  simp only [Ctx.pend]; split <;> rfl
@[simp] theorem Ctx.pend_dirtyX (c : Ctx) (m : BitVec 32) : (c.pend m).dirtyX = c.dirtyX := by
  simp only [Ctx.pend]; split <;> rfl
@[simp] theorem Ctx.orSticky_occ (c : Ctx) (w : Word) : (c.orSticky w).occ = c.occ := rfl
@[simp] theorem Ctx.orSticky_pc (c : Ctx) (w : Word) : (c.orSticky w).pc = c.pc := rfl
@[simp] theorem Ctx.orSticky_k (c : Ctx) (w : Word) : (c.orSticky w).k = c.k := rfl
@[simp] theorem Ctx.orSticky_sb (c : Ctx) (w : Word) : (c.orSticky w).sb = c.sb := rfl
@[simp] theorem Ctx.orSticky_due (c : Ctx) (w : Word) : (c.orSticky w).due = c.due := rfl
@[simp] theorem Ctx.orSticky_smode (c : Ctx) (w : Word) : (c.orSticky w).smode = c.smode := rfl
@[simp] theorem Ctx.orSticky_spos (c : Ctx) (w : Word) : (c.orSticky w).spos = c.spos := rfl
@[simp] theorem Ctx.orSticky_strm (c : Ctx) (w : Word) : (c.orSticky w).strm = c.strm := rfl
@[simp] theorem Ctx.orSticky_ld (c : Ctx) (w : Word) : (c.orSticky w).ld = c.ld := rfl
@[simp] theorem Ctx.orSticky_st (c : Ctx) (w : Word) : (c.orSticky w).st = c.st := rfl
@[simp] theorem Ctx.orSticky_cp (c : Ctx) (w : Word) : (c.orSticky w).cp = c.cp := rfl
@[simp] theorem Ctx.orSticky_tl (c : Ctx) (w : Word) : (c.orSticky w).tl = c.tl := rfl
@[simp] theorem Ctx.orSticky_issued (c : Ctx) (w : Word) : (c.orSticky w).issued = c.issued := rfl
@[simp] theorem Ctx.orSticky_ops (c : Ctx) (w : Word) : (c.orSticky w).ops = c.ops := rfl
@[simp] theorem Ctx.orSticky_recent (c : Ctx) (w : Word) : (c.orSticky w).recent = c.recent := rfl
@[simp] theorem Ctx.orSticky_posted (c : Ctx) (w : Word) : (c.orSticky w).posted = c.posted := rfl
@[simp] theorem Ctx.orSticky_abortMask (c : Ctx) (w : Word) : (c.orSticky w).abortMask = c.abortMask := rfl
@[simp] theorem Ctx.orSticky_window (c : Ctx) (w : Word) : (c.orSticky w).window = c.window := rfl
@[simp] theorem Ctx.orSticky_psup (c : Ctx) (w : Word) : (c.orSticky w).psup = c.psup := rfl
@[simp] theorem Ctx.orSticky_tact (c : Ctx) (w : Word) : (c.orSticky w).tact = c.tact := rfl
@[simp] theorem Ctx.orSticky_sup (c : Ctx) (w : Word) : (c.orSticky w).sup = c.sup := rfl
@[simp] theorem Ctx.orSticky_prio (c : Ctx) (w : Word) : (c.orSticky w).prio = c.prio := rfl
@[simp] theorem Ctx.orSticky_cause (c : Ctx) (w : Word) : (c.orSticky w).cause = c.cause := rfl
@[simp] theorem Ctx.orSticky_epc (c : Ctx) (w : Word) : (c.orSticky w).epc = c.epc := rfl
@[simp] theorem Ctx.orSticky_faddr (c : Ctx) (w : Word) : (c.orSticky w).faddr = c.faddr := rfl
@[simp] theorem Ctx.orSticky_fstep (c : Ctx) (w : Word) : (c.orSticky w).fstep = c.fstep := rfl
@[simp] theorem Ctx.orSticky_srstate (c : Ctx) (w : Word) : (c.orSticky w).srstate = c.srstate := rfl
@[simp] theorem Ctx.orSticky_tvec (c : Ctx) (w : Word) : (c.orSticky w).tvec = c.tvec := rfl
@[simp] theorem Ctx.orSticky_task (c : Ctx) (w : Word) : (c.orSticky w).task = c.task := rfl
@[simp] theorem Ctx.orSticky_region (c : Ctx) (w : Word) : (c.orSticky w).region = c.region := rfl
@[simp] theorem Ctx.orSticky_vintage (c : Ctx) (w : Word) : (c.orSticky w).vintage = c.vintage := rfl
@[simp] theorem Ctx.orSticky_syncreg (c : Ctx) (w : Word) : (c.orSticky w).syncreg = c.syncreg := rfl
@[simp] theorem Ctx.orSticky_dirtyK (c : Ctx) (w : Word) : (c.orSticky w).dirtyK = c.dirtyK := rfl
@[simp] theorem Ctx.orSticky_dirtyL (c : Ctx) (w : Word) : (c.orSticky w).dirtyL = c.dirtyL := rfl
@[simp] theorem Ctx.orSticky_loadslots (c : Ctx) (w : Word) : (c.orSticky w).loadslots = c.loadslots := rfl
@[simp] theorem Ctx.orSticky_retReg (c : Ctx) (w : Word) : (c.orSticky w).retReg = c.retReg := rfl
@[simp] theorem Ctx.orSticky_hints (c : Ctx) (w : Word) : (c.orSticky w).hints = c.hints := rfl
@[simp] theorem Ctx.orSticky_hold (c : Ctx) (w : Word) : (c.orSticky w).hold = c.hold := rfl
@[simp] theorem Ctx.orSticky_stall (c : Ctx) (w : Word) : (c.orSticky w).stall = c.stall := rfl
@[simp] theorem Ctx.orSticky_ttime (c : Ctx) (w : Word) : (c.orSticky w).ttime = c.ttime := rfl
@[simp] theorem Ctx.orSticky_fetched (c : Ctx) (w : Word) : (c.orSticky w).fetched = c.fetched := rfl
@[simp] theorem Ctx.orSticky_held (c : Ctx) (w : Word) : (c.orSticky w).held = c.held := rfl
@[simp] theorem Ctx.orSticky_rounds (c : Ctx) (w : Word) : (c.orSticky w).rounds = c.rounds := rfl
@[simp] theorem Ctx.orSticky_hint (c : Ctx) (w : Word) : (c.orSticky w).hint = c.hint := rfl
@[simp] theorem Ctx.orSticky_radius (c : Ctx) (w : Word) : (c.orSticky w).radius = c.radius := rfl
@[simp] theorem Ctx.orSticky_x (c : Ctx) (w : Word) : (c.orSticky w).x = c.x := rfl
@[simp] theorem Ctx.orSticky_dirtyX (c : Ctx) (w : Word) : (c.orSticky w).dirtyX = c.dirtyX := rfl
@[simp] theorem Ctx.advance_get (c : Ctx) (r : Reg) : (c.advance).get r = c.get r := by
  simp only [Ctx.get, Ctx.advance_x]
@[simp] theorem Ctx.pend_get (c : Ctx) (m : BitVec 32) (r : Reg) : (c.pend m).get r = c.get r := by
  simp only [Ctx.get, Ctx.pend_x]
@[simp] theorem Ctx.orSticky_get (c : Ctx) (w : Word) (r : Reg) : (c.orSticky w).get r = c.get r := by
  simp only [Ctx.get, Ctx.orSticky_x]

/-- A pending mark sets the scoreboard bits. -/
@[simp] theorem Ctx.pend_sb (c : Ctx) (m : BitVec 32) : (c.pend m).sb = c.sb ||| m := by
  simp only [Ctx.pend]
  split
  · rename_i h
    simp [h]
  · rfl

end Sys2Proof.Machine
end

