-- ==== Sys2Proof/Laws/Access.lean ====
section
/-!
SUPPORT. What the shared operations of an access can do: one that nothing holds back has its effect.
-/

namespace Sys2Proof.Machine

open Sys2Proof

/-- An access that passes has its effect. -/
theorem gated_free {s : State} {r : Option Range} {w : Bool} (k : Out) (h : Passes s r w) : gated s r w k = k := by
  obtain ⟨h1, h2, h3⟩ := h
  have hgone : s.goneSpans = [] := by
    unfold State.goneSpans
    split
    · rename_i e
      exact List.filter_eq_nil_iff.mpr fun q hq => by simpa using h2 _ _ _ _ _ e q hq
    · rfl
  unfold gated
  rw [hgone]
  dsimp only
  rw [if_neg (by simp [h1])]
  cases r with
  | none => rfl
  | some q => simp [h3 q rfl]

/-- The bytes of a load size, and its extension. -/
theorem LdSize.bytes_code (sz : LdSize) : LdSize.bytes sz = 2 ^ (sz.code % 4) := by cases sz <;> rfl
theorem LdSize.sext_code (sz : LdSize) : LdSize.sext sz = decide (sz.code < 3) := by cases sz <;> rfl

end Sys2Proof.Machine
end

