-- ==== Sys2Proof/Laws/Dispatch.lean ====
section
/-!
SUPPORT. One lemma per constructor of `Instr`: the dispatch calls its meaning. Proofs about an instruction start from these and
never unfold the dispatch.
-/

namespace Sys2Proof.Machine

open Sys2Proof

@[simp] theorem exec_add (d a b s) : exec (.add d a b) s = execAdd d a b s := rfl
@[simp] theorem exec_sub (d a b s) : exec (.sub d a b) s = execSub d a b s := rfl
@[simp] theorem exec_and (d a b s) : exec (.and d a b) s = execAnd d a b s := rfl
@[simp] theorem exec_or (d a b s) : exec (.or d a b) s = execOr d a b s := rfl
@[simp] theorem exec_xor (d a b s) : exec (.xor d a b) s = execXor d a b s := rfl
@[simp] theorem exec_andn (d a b s) : exec (.andn d a b) s = execAndn d a b s := rfl
@[simp] theorem exec_sll (d a b s) : exec (.sll d a b) s = execSll d a b s := rfl
@[simp] theorem exec_srl (d a b s) : exec (.srl d a b) s = execSrl d a b s := rfl
@[simp] theorem exec_sra (d a b s) : exec (.sra d a b) s = execSra d a b s := rfl
@[simp] theorem exec_ror (d a b s) : exec (.ror d a b) s = execRor d a b s := rfl
@[simp] theorem exec_slt (d a b s) : exec (.slt d a b) s = execSlt d a b s := rfl
@[simp] theorem exec_sltu (d a b s) : exec (.sltu d a b) s = execSltu d a b s := rfl
@[simp] theorem exec_min (d a b s) : exec (.min d a b) s = execMin d a b s := rfl
@[simp] theorem exec_max (d a b s) : exec (.max d a b) s = execMax d a b s := rfl
@[simp] theorem exec_minu (d a b s) : exec (.minu d a b) s = execMinu d a b s := rfl
@[simp] theorem exec_maxu (d a b s) : exec (.maxu d a b) s = execMaxu d a b s := rfl
@[simp] theorem exec_mul (d a b s) : exec (.mul d a b) s = execMul d a b s := rfl
@[simp] theorem exec_mulh (d a b s) : exec (.mulh d a b) s = execMulh d a b s := rfl
@[simp] theorem exec_mulhu (d a b s) : exec (.mulhu d a b) s = execMulhu d a b s := rfl
@[simp] theorem exec_mulx (d a b s) : exec (.mulx d a b) s = execMulx d a b s := rfl
@[simp] theorem exec_mulxu (d a b s) : exec (.mulxu d a b) s = execMulxu d a b s := rfl
@[simp] theorem exec_div (d a b s) : exec (.div d a b) s = execDiv d a b s := rfl
@[simp] theorem exec_divu (d a b s) : exec (.divu d a b) s = execDivu d a b s := rfl
@[simp] theorem exec_rem (d a b s) : exec (.rem d a b) s = execRem d a b s := rfl
@[simp] theorem exec_remu (d a b s) : exec (.remu d a b) s = execRemu d a b s := rfl
@[simp] theorem exec_addw (d a b s) : exec (.addw d a b) s = execAddw d a b s := rfl
@[simp] theorem exec_subw (d a b s) : exec (.subw d a b) s = execSubw d a b s := rfl
@[simp] theorem exec_mulw (d a b s) : exec (.mulw d a b) s = execMulw d a b s := rfl
@[simp] theorem exec_clz (d a s) : exec (.clz d a) s = execClz d a s := rfl
@[simp] theorem exec_ctz (d a s) : exec (.ctz d a) s = execCtz d a s := rfl
@[simp] theorem exec_popc (d a s) : exec (.popc d a) s = execPopc d a s := rfl
@[simp] theorem exec_sextb (d a s) : exec (.sextb d a) s = execSextb d a s := rfl
@[simp] theorem exec_sexth (d a s) : exec (.sexth d a) s = execSexth d a s := rfl
@[simp] theorem exec_sextw (d a s) : exec (.sextw d a) s = execSextw d a s := rfl
@[simp] theorem exec_zextw (d a s) : exec (.zextw d a) s = execZextw d a s := rfl
@[simp] theorem exec_bext (d a b s) : exec (.bext d a b) s = execBext d a b s := rfl
@[simp] theorem exec_bextu (d a b s) : exec (.bextu d a b) s = execBextu d a b s := rfl
@[simp] theorem exec_bins (d a b s) : exec (.bins d a b) s = execBins d a b s := rfl
@[simp] theorem exec_divt (d a b s) : exec (.divt d a b) s = execDivt d a b s := rfl
@[simp] theorem exec_remt (d a b s) : exec (.remt d a b) s = execRemt d a b s := rfl
@[simp] theorem exec_addi (d a imm s) : exec (.addi d a imm) s = execAddi d a imm s := rfl
@[simp] theorem exec_andi (d a imm s) : exec (.andi d a imm) s = execAndi d a imm s := rfl
@[simp] theorem exec_ori (d a imm s) : exec (.ori d a imm) s = execOri d a imm s := rfl
@[simp] theorem exec_xori (d a imm s) : exec (.xori d a imm) s = execXori d a imm s := rfl
@[simp] theorem exec_slti (d a imm s) : exec (.slti d a imm) s = execSlti d a imm s := rfl
@[simp] theorem exec_lui (d imm s) : exec (.lui d imm) s = execLui d imm s := rfl
@[simp] theorem exec_slli (d a pos s) : exec (.slli d a pos) s = execSlli d a pos s := rfl
@[simp] theorem exec_srli (d a pos s) : exec (.srli d a pos) s = execSrli d a pos s := rfl
@[simp] theorem exec_srai (d a pos s) : exec (.srai d a pos) s = execSrai d a pos s := rfl
@[simp] theorem exec_rori (d a pos s) : exec (.rori d a pos) s = execRori d a pos s := rfl
@[simp] theorem exec_bexti (d a pos len s) : exec (.bexti d a pos len) s = execBexti d a pos len s := rfl
@[simp] theorem exec_bextui (d a pos len s) : exec (.bextui d a pos len) s = execBextui d a pos len s := rfl
@[simp] theorem exec_binsi (d a pos len s) : exec (.binsi d a pos len) s = execBinsi d a pos len s := rfl
@[simp] theorem exec_fadd (d a b rnd ftz s) : exec (.fadd d a b rnd ftz) s = execFadd d a b rnd ftz s := rfl
@[simp] theorem exec_fsub (d a b rnd ftz s) : exec (.fsub d a b rnd ftz) s = execFsub d a b rnd ftz s := rfl
@[simp] theorem exec_fmul (d a b rnd ftz s) : exec (.fmul d a b rnd ftz) s = execFmul d a b rnd ftz s := rfl
@[simp] theorem exec_fdiv (d a b rnd ftz s) : exec (.fdiv d a b rnd ftz) s = execFdiv d a b rnd ftz s := rfl
@[simp] theorem exec_fsqrt (d a rnd ftz s) : exec (.fsqrt d a rnd ftz) s = execFsqrt d a rnd ftz s := rfl
@[simp] theorem exec_fma (d a b rnd ftz s) : exec (.fma d a b rnd ftz) s = execFma d a b rnd ftz s := rfl
@[simp] theorem exec_fms (d a b rnd ftz s) : exec (.fms d a b rnd ftz) s = execFms d a b rnd ftz s := rfl
@[simp] theorem exec_fmin (d a b ftz s) : exec (.fmin d a b ftz) s = execFmin d a b ftz s := rfl
@[simp] theorem exec_fmax (d a b ftz s) : exec (.fmax d a b ftz) s = execFmax d a b ftz s := rfl
@[simp] theorem exec_fabs (d a s) : exec (.fabs d a) s = execFabs d a s := rfl
@[simp] theorem exec_fneg (d a s) : exec (.fneg d a) s = execFneg d a s := rfl
@[simp] theorem exec_fsgnj (d a b s) : exec (.fsgnj d a b) s = execFsgnj d a b s := rfl
@[simp] theorem exec_feq (d a b ftz s) : exec (.feq d a b ftz) s = execFeq d a b ftz s := rfl
@[simp] theorem exec_flt (d a b ftz s) : exec (.flt d a b ftz) s = execFlt d a b ftz s := rfl
@[simp] theorem exec_fle (d a b ftz s) : exec (.fle d a b ftz) s = execFle d a b ftz s := rfl
@[simp] theorem exec_fclass (d a s) : exec (.fclass d a) s = execFclass d a s := rfl
@[simp] theorem exec_fcvt (d a dt st rnd sat ftz s) : exec (.fcvt d a dt st rnd sat ftz) s = execFcvt d a dt st rnd sat ftz s := rfl
@[simp] theorem exec_beq (a b off s) : exec (.beq a b off) s = execBeq a b off s := rfl
@[simp] theorem exec_bne (a b off s) : exec (.bne a b off) s = execBne a b off s := rfl
@[simp] theorem exec_blt (a b off s) : exec (.blt a b off) s = execBlt a b off s := rfl
@[simp] theorem exec_bge (a b off s) : exec (.bge a b off) s = execBge a b off s := rfl
@[simp] theorem exec_bltu (a b off s) : exec (.bltu a b off) s = execBltu a b off s := rfl
@[simp] theorem exec_bgeu (a b off s) : exec (.bgeu a b off) s = execBgeu a b off s := rfl
@[simp] theorem exec_jal (d off s) : exec (.jal d off) s = execJal d off s := rfl
@[simp] theorem exec_jalr (d a imm s) : exec (.jalr d a imm) s = execJalr d a imm s := rfl
@[simp] theorem exec_ld (d a sz imm s) : exec (.ld d a sz imm) s = execLd d a sz imm s := rfl
@[simp] theorem exec_st (d a sz imm s) : exec (.st d a sz imm) s = execSt d a sz imm s := rfl
@[simp] theorem exec_ldp (d a sz pw disp s) : exec (.ldp d a sz pw disp) s = execLdp d a sz pw disp s := rfl
@[simp] theorem exec_geta (tag a b len s) : exec (.geta tag a b len) s = execGeta tag a b len s := rfl
@[simp] theorem exec_puta (tag a b len s) : exec (.puta tag a b len) s = execPuta tag a b len s := rfl
@[simp] theorem exec_recv (d tag s) : exec (.recv d tag) s = execRecv d tag s := rfl
@[simp] theorem exec_tbind (tag a s) : exec (.tbind tag a) s = execTbind tag a s := rfl
@[simp] theorem exec_amo (d a b aop sz ord scope s) : exec (.amo d a b aop sz ord scope) s = execAmo d a b aop sz ord scope s := rfl
@[simp] theorem exec_cas (d a b sz ord scope s) : exec (.cas d a b sz ord scope) s = execCas d a b sz ord scope s := rfl
@[simp] theorem exec_red (a b aop sz ord scope s) : exec (.red a b aop sz ord scope) s = execRed a b aop sz ord scope s := rfl
@[simp] theorem exec_acq (a scope s) : exec (.acq a scope) s = execAcq a scope s := rfl
@[simp] theorem exec_rel (a scope s) : exec (.rel a scope) s = execRel a scope s := rfl
@[simp] theorem exec_fence (scope s) : exec (.fence scope) s = execFence scope s := rfl
@[simp] theorem exec_wait (ld st cp tl s) : exec (.wait ld st cp tl) s = execWait ld st cp tl s := rfl
@[simp] theorem exec_bdecl (a b buf s) : exec (.bdecl a b buf) s = execBdecl a b buf s := rfl
@[simp] theorem exec_bfill (buf s) : exec (.bfill buf) s = execBfill buf s := rfl
@[simp] theorem exec_bfull (buf s) : exec (.bfull buf) s = execBfull buf s := rfl
@[simp] theorem exec_bdrain (buf s) : exec (.bdrain buf) s = execBdrain buf s := rfl
@[simp] theorem exec_bempty (buf s) : exec (.bempty buf) s = execBempty buf s := rfl
@[simp] theorem exec_bstat (d buf s) : exec (.bstat d buf) s = execBstat d buf s := rfl
@[simp] theorem exec_spawn (d a b s) : exec (.spawn d a b) s = execSpawn d a b s := rfl
@[simp] theorem exec_suspend (s) : exec .suspend s = execSuspend s := rfl
@[simp] theorem exec_exit (a s) : exec (.exit a) s = execExit a s := rfl
@[simp] theorem exec_decr (a s) : exec (.decr a) s = execDecr a s := rfl
@[simp] theorem exec_yield (s) : exec .yield s = execYield s := rfl
@[simp] theorem exec_depadd (a b s) : exec (.depadd a b) s = execDepadd a b s := rfl
@[simp] theorem exec_tself (d s) : exec (.tself d) s = execTself d s := rfl
@[simp] theorem exec_ctb (a grp acq rel s) : exec (.ctb a grp acq rel) s = execCtb a grp acq rel s := rfl
@[simp] theorem exec_crd (d grp rnd s) : exec (.crd d grp rnd) s = execCrd d grp rnd s := rfl
@[simp] theorem exec_chain (d a grp s) : exec (.chain d a grp) s = execChain d a grp s := rfl
@[simp] theorem exec_gstat (d grp s) : exec (.gstat d grp) s = execGstat d grp s := rfl
@[simp] theorem exec_ccfg (a grp s) : exec (.ccfg a grp) s = execCcfg a grp s := rfl
@[simp] theorem exec_copy (d a b ch wm acq rel scope s) : exec (.copy d a b ch wm acq rel scope) s = execCopy d a b ch wm acq rel scope s := rfl
@[simp] theorem exec_cwait (a ch s) : exec (.cwait a ch) s = execCwait a ch s := rfl
@[simp] theorem exec_cdone (d ch s) : exec (.cdone d ch) s = execCdone d ch s := rfl
@[simp] theorem exec_cwm (d ch s) : exec (.cwm d ch) s = execCwm d ch s := rfl
@[simp] theorem exec_cnext (d ch s) : exec (.cnext d ch) s = execCnext d ch s := rfl
@[simp] theorem exec_chstat (d ch s) : exec (.chstat d ch) s = execChstat d ch s := rfl
@[simp] theorem exec_cabort (ch s) : exec (.cabort ch) s = execCabort ch s := rfl
@[simp] theorem exec_strm (d a ch s) : exec (.strm d a ch) s = execStrm d a ch s := rfl
@[simp] theorem exec_strmw (d a ch s) : exec (.strmw d a ch) s = execStrmw d a ch s := rfl
@[simp] theorem exec_strmend (d ch s) : exec (.strmend d ch) s = execStrmend d ch s := rfl
@[simp] theorem exec_gather (d a b ch oobf acq rel scope s) : exec (.gather d a b ch oobf acq rel scope) s = execGather d a b ch oobf acq rel scope s := rfl
@[simp] theorem exec_scatter (d a b ch oobf acq rel scope s) : exec (.scatter d a b ch oobf acq rel scope) s = execScatter d a b ch oobf acq rel scope s := rfl
@[simp] theorem exec_vadd (dk ak bk ty rnd sat s) : exec (.vadd dk ak bk ty rnd sat) s = execVadd dk ak bk ty rnd sat s := rfl
@[simp] theorem exec_vsub (dk ak bk ty rnd sat s) : exec (.vsub dk ak bk ty rnd sat) s = execVsub dk ak bk ty rnd sat s := rfl
@[simp] theorem exec_vmul (dk ak bk ty rnd sat s) : exec (.vmul dk ak bk ty rnd sat) s = execVmul dk ak bk ty rnd sat s := rfl
@[simp] theorem exec_vfma (dk ak bk ty rnd sat s) : exec (.vfma dk ak bk ty rnd sat) s = execVfma dk ak bk ty rnd sat s := rfl
@[simp] theorem exec_vfms (dk ak bk ty rnd sat s) : exec (.vfms dk ak bk ty rnd sat) s = execVfms dk ak bk ty rnd sat s := rfl
@[simp] theorem exec_vmin (dk ak bk ty s) : exec (.vmin dk ak bk ty) s = execVmin dk ak bk ty s := rfl
@[simp] theorem exec_vmax (dk ak bk ty s) : exec (.vmax dk ak bk ty) s = execVmax dk ak bk ty s := rfl
@[simp] theorem exec_vabs (dk ak ty s) : exec (.vabs dk ak ty) s = execVabs dk ak ty s := rfl
@[simp] theorem exec_vneg (dk ak ty s) : exec (.vneg dk ak ty) s = execVneg dk ak ty s := rfl
@[simp] theorem exec_vand (dk ak bk ty s) : exec (.vand dk ak bk ty) s = execVand dk ak bk ty s := rfl
@[simp] theorem exec_vor (dk ak bk ty s) : exec (.vor dk ak bk ty) s = execVor dk ak bk ty s := rfl
@[simp] theorem exec_vxor (dk ak bk ty s) : exec (.vxor dk ak bk ty) s = execVxor dk ak bk ty s := rfl
@[simp] theorem exec_vshl (dk ak bk ty sat s) : exec (.vshl dk ak bk ty sat) s = execVshl dk ak bk ty sat s := rfl
@[simp] theorem exec_vshr (dk ak bk ty s) : exec (.vshr dk ak bk ty) s = execVshr dk ak bk ty s := rfl
@[simp] theorem exec_vsra (dk ak bk ty s) : exec (.vsra dk ak bk ty) s = execVsra dk ak bk ty s := rfl
@[simp] theorem exec_vcmul (dk ak bk ty rnd sat s) : exec (.vcmul dk ak bk ty rnd sat) s = execVcmul dk ak bk ty rnd sat s := rfl
@[simp] theorem exec_vcmac (dk ak bk ty rnd sat s) : exec (.vcmac dk ak bk ty rnd sat) s = execVcmac dk ak bk ty rnd sat s := rfl
@[simp] theorem exec_vconj (dk ak ty s) : exec (.vconj dk ak ty) s = execVconj dk ak ty s := rfl
@[simp] theorem exec_vmov (dk ak ty s) : exec (.vmov dk ak ty) s = execVmov dk ak ty s := rfl
@[simp] theorem exec_vexp2 (dk ak ty rnd sat s) : exec (.vexp2 dk ak ty rnd sat) s = execVexp2 dk ak ty rnd sat s := rfl
@[simp] theorem exec_vlog2 (dk ak ty rnd sat s) : exec (.vlog2 dk ak ty rnd sat) s = execVlog2 dk ak ty rnd sat s := rfl
@[simp] theorem exec_vrcp (dk ak ty rnd sat s) : exec (.vrcp dk ak ty rnd sat) s = execVrcp dk ak ty rnd sat s := rfl
@[simp] theorem exec_vrsqrt (dk ak ty rnd sat s) : exec (.vrsqrt dk ak ty rnd sat) s = execVrsqrt dk ak ty rnd sat s := rfl
@[simp] theorem exec_vcvt (dk ak ty rnd sat s) : exec (.vcvt dk ak ty rnd sat) s = execVcvt dk ak ty rnd sat s := rfl
@[simp] theorem exec_vrsum (dk ak ty rnd sat s) : exec (.vrsum dk ak ty rnd sat) s = execVrsum dk ak ty rnd sat s := rfl
@[simp] theorem exec_vrmax (dk ak ty s) : exec (.vrmax dk ak ty) s = execVrmax dk ak ty s := rfl
@[simp] theorem exec_vrmin (dk ak ty s) : exec (.vrmin dk ak ty) s = execVrmin dk ak ty s := rfl
@[simp] theorem exec_vceq (dk ak bk ty s) : exec (.vceq dk ak bk ty) s = execVceq dk ak bk ty s := rfl
@[simp] theorem exec_vclt (dk ak bk ty s) : exec (.vclt dk ak bk ty) s = execVclt dk ak bk ty s := rfl
@[simp] theorem exec_vcle (dk ak bk ty s) : exec (.vcle dk ak bk ty) s = execVcle dk ak bk ty s := rfl
@[simp] theorem exec_vsel (dk ak bk ty s) : exec (.vsel dk ak bk ty) s = execVsel dk ak bk ty s := rfl
@[simp] theorem exec_vperm (dk ak bk ty s) : exec (.vperm dk ak bk ty) s = execVperm dk ak bk ty s := rfl
@[simp] theorem exec_vbcast (dk ak ty s) : exec (.vbcast dk ak ty) s = execVbcast dk ak ty s := rfl
@[simp] theorem exec_vzip (dk ak bk ty s) : exec (.vzip dk ak bk ty) s = execVzip dk ak bk ty s := rfl
@[simp] theorem exec_vunzip (dk ak bk ty s) : exec (.vunzip dk ak bk ty) s = execVunzip dk ak bk ty s := rfl
@[simp] theorem exec_vrev (dk ak ty s) : exec (.vrev dk ak ty) s = execVrev dk ak ty s := rfl
@[simp] theorem exec_vloop (a n s) : exec (.vloop a n) s = execVloop a n s := rfl
@[simp] theorem exec_vsync (s) : exec .vsync s = execVsync s := rfl
@[simp] theorem exec_shld (k a s) : exec (.shld k a) s = execShld k a s := rfl
@[simp] theorem exec_shobj (k a s) : exec (.shobj k a) s = execShobj k a s := rfl
@[simp] theorem exec_shst (k a s) : exec (.shst k a) s = execShst k a s := rfl
@[simp] theorem exec_shset (k a field s) : exec (.shset k a field) s = execShset k a field s := rfl
@[simp] theorem exec_shget (k b field s) : exec (.shget k b field) s = execShget k b field s := rfl
@[simp] theorem exec_mma (acc ak w ty acq rel scope clr s) : exec (.mma acc ak w ty acq rel scope clr) s = execMma acc ak w ty acq rel scope clr s := rfl
@[simp] theorem exec_mmcx (acc ak w ty acq rel scope clr s) : exec (.mmcx acc ak w ty acq rel scope clr) s = execMmcx acc ak w ty acq rel scope clr s := rfl
@[simp] theorem exec_mconv (acc ak w ty kk acq rel scope clr s) : exec (.mconv acc ak w ty kk acq rel scope clr) s = execMconv acc ak w ty kk acq rel scope clr s := rfl
@[simp] theorem exec_mwld (w a ty s) : exec (.mwld w a ty) s = execMwld w a ty s := rfl
@[simp] theorem exec_maclr (acc s) : exec (.maclr acc) s = execMaclr acc s := rfl
@[simp] theorem exec_macrd (acc ks ty rnd sat s) : exec (.macrd acc ks ty rnd sat) s = execMacrd acc ks ty rnd sat s := rfl
@[simp] theorem exec_macwr (acc ks ty s) : exec (.macwr acc ks ty) s = execMacwr acc ks ty s := rfl
@[simp] theorem exec_mepi (acc ks a ty rnd sat s) : exec (.mepi acc ks a ty rnd sat) s = execMepi acc ks a ty rnd sat s := rfl
@[simp] theorem exec_macq (acc s) : exec (.macq acc) s = execMacq acc s := rfl
@[simp] theorem exec_mrel (acc s) : exec (.mrel acc) s = execMrel acc s := rfl
@[simp] theorem exec_sysrd (num d s) : exec (.sysrd num d) s = execSysrd num d s := rfl
@[simp] theorem exec_syswr (num a s) : exec (.syswr num a) s = execSyswr num a s := rfl
@[simp] theorem exec_trap (imm s) : exec (.trap imm) s = execTrap imm s := rfl
@[simp] theorem exec_eret (s) : exec .eret s = execEret s := rfl
@[simp] theorem exec_ckpt (s) : exec .ckpt s = execCkpt s := rfl
@[simp] theorem exec_caskuse (d s) : exec (.caskuse d) s = execCaskuse d s := rfl
@[simp] theorem exec_scanno (d s) : exec (.scanno d) s = execScanno d s := rfl
@[simp] theorem exec_provq (d s) : exec (.provq d) s = execProvq d s := rfl
@[simp] theorem exec_irrev (s) : exec .irrev s = execIrrev s := rfl
@[simp] theorem exec_cmtq (d a s) : exec (.cmtq d a) s = execCmtq d a s := rfl
@[simp] theorem exec_abort (a s) : exec (.abort a) s = execAbort a s := rfl
@[simp] theorem exec_hintImm (payload s) : exec (.hintImm payload) s = execHintImm payload s := rfl
@[simp] theorem exec_hintSched (nt br s) : exec (.hintSched nt br) s = execHintSched nt br s := rfl
@[simp] theorem exec_hintMod (pv prio ftz s) : exec (.hintMod pv prio ftz) s = execHintMod pv prio ftz s := rfl
@[simp] theorem exec_writeQueueDrain (site ctx s) : exec (.writeQueueDrain site ctx) s = execWriteQueueDrain site ctx s := rfl
@[simp] theorem exec_bdeclReport (site ctx s) : exec (.bdeclReport site ctx) s = execBdeclReport site ctx s := rfl
@[simp] theorem exec_flitRouting (plane site s) : exec (.flitRouting plane site) s = execFlitRouting plane site s := rfl
@[simp] theorem exec_flitArrival (plane part ep s) : exec (.flitArrival plane part ep) s = execFlitArrival plane part ep s := rfl
@[simp] theorem exec_loadRequest (part ep s) : exec (.loadRequest part ep) s = execLoadRequest part ep s := rfl
@[simp] theorem exec_storeRequest (part ep s) : exec (.storeRequest part ep) s = execStoreRequest part ep s := rfl
@[simp] theorem exec_atomicRequest (part ep s) : exec (.atomicRequest part ep) s = execAtomicRequest part ep s := rfl
@[simp] theorem exec_copyReadRequest (part ep s) : exec (.copyReadRequest part ep) s = execCopyReadRequest part ep s := rfl
@[simp] theorem exec_remoteOpen (part ep s) : exec (.remoteOpen part ep) s = execRemoteOpen part ep s := rfl
@[simp] theorem exec_activeMessage (part ep s) : exec (.activeMessage part ep) s = execActiveMessage part ep s := rfl
@[simp] theorem exec_carriage (plane site s) : exec (.carriage plane site) s = execCarriage plane site s := rfl
@[simp] theorem exec_recordOperation (part ep s) : exec (.recordOperation part ep) s = execRecordOperation part ep s := rfl
@[simp] theorem exec_faultMessage (part ep s) : exec (.faultMessage part ep) s = execFaultMessage part ep s := rfl
@[simp] theorem exec_resumePacket (part ep s) : exec (.resumePacket part ep) s = execResumePacket part ep s := rfl
@[simp] theorem exec_abortPacket (part ep s) : exec (.abortPacket part ep) s = execAbortPacket part ep s := rfl
@[simp] theorem exec_cellarTraffic (part ep s) : exec (.cellarTraffic part ep) s = execCellarTraffic part ep s := rfl
@[simp] theorem exec_dataReply (part ep s) : exec (.dataReply part ep) s = execDataReply part ep s := rfl
@[simp] theorem exec_acknowledgement (part ep s) : exec (.acknowledgement part ep) s = execAcknowledgement part ep s := rfl
@[simp] theorem exec_landing (part ep s) : exec (.landing part ep) s = execLanding part ep s := rfl
@[simp] theorem exec_landingAck (part ep s) : exec (.landingAck part ep) s = execLandingAck part ep s := rfl
@[simp] theorem exec_voidFlit (plane part ep s) : exec (.voidFlit plane part ep) s = execVoidFlit plane part ep s := rfl
@[simp] theorem exec_copyRequest (site ch s) : exec (.copyRequest site ch) s = execCopyRequest site ch s := rfl
@[simp] theorem exec_transferComplete (site ch s) : exec (.transferComplete site ch) s = execTransferComplete site ch s := rfl
@[simp] theorem exec_streamRefill (site ch s) : exec (.streamRefill site ch) s = execStreamRefill site ch s := rfl
@[simp] theorem exec_closePacket (part ep s) : exec (.closePacket part ep) s = execClosePacket part ep s := rfl
@[simp] theorem exec_sidingAppend (plane site s) : exec (.sidingAppend plane site) s = execSidingAppend plane site s := rfl
@[simp] theorem exec_sidingRelease (part list s) : exec (.sidingRelease part list) s = execSidingRelease part list s := rfl
@[simp] theorem exec_poolEntry (part dist s) : exec (.poolEntry part dist) s = execPoolEntry part dist s := rfl
@[simp] theorem exec_poolPull (site s) : exec (.poolPull site) s = execPoolPull site s := rfl
@[simp] theorem exec_pullWithdraw (site s) : exec (.pullWithdraw site) s = execPullWithdraw site s := rfl
@[simp] theorem exec_entryReturn (part dist s) : exec (.entryReturn part dist) s = execEntryReturn part dist s := rfl
@[simp] theorem exec_yieldQuery (site ctx s) : exec (.yieldQuery site ctx) s = execYieldQuery site ctx s := rfl
@[simp] theorem exec_suspensionPoint (site ctx s) : exec (.suspensionPoint site ctx) s = execSuspensionPoint site ctx s := rfl
@[simp] theorem exec_stallConversion (site ctx s) : exec (.stallConversion site ctx) s = execStallConversion site ctx s := rfl
@[simp] theorem exec_preemptionRequest (part dist s) : exec (.preemptionRequest part dist) s = execPreemptionRequest part dist s := rfl
@[simp] theorem exec_preemption (site ctx s) : exec (.preemption site ctx) s = execPreemption site ctx s := rfl
@[simp] theorem exec_imageRestore (site slot s) : exec (.imageRestore site slot) s = execImageRestore site slot s := rfl
@[simp] theorem exec_vectorFinish (site s) : exec (.vectorFinish site) s = execVectorFinish site s := rfl
@[simp] theorem exec_tileCommandStart (site k s) : exec (.tileCommandStart site k) s = execTileCommandStart site k s := rfl
@[simp] theorem exec_tileCommandFinish (site k s) : exec (.tileCommandFinish site k) s = execTileCommandFinish site k s := rfl
@[simp] theorem exec_tileWriteAck (site tile s) : exec (.tileWriteAck site tile) s = execTileWriteAck site tile s := rfl
@[simp] theorem exec_slewStepBoundary (dom s) : exec (.slewStepBoundary dom) s = execSlewStepBoundary dom s := rfl
@[simp] theorem exec_contribution (site grp s) : exec (.contribution site grp) s = execContribution site grp s := rfl
@[simp] theorem exec_result (site grp s) : exec (.result site grp) s = execResult site grp s := rfl
@[simp] theorem exec_chainPartial (site grp s) : exec (.chainPartial site grp) s = execChainPartial site grp s := rfl
@[simp] theorem exec_proxyContribution (site grp s) : exec (.proxyContribution site grp) s = execProxyContribution site grp s := rfl
@[simp] theorem exec_proxyResult (site grp s) : exec (.proxyResult site grp) s = execProxyResult site grp s := rfl
@[simp] theorem exec_groupConfiguration (site s) : exec (.groupConfiguration site) s = execGroupConfiguration site s := rfl
@[simp] theorem exec_groupConfigurationAnswer (site s) : exec (.groupConfigurationAnswer site) s = execGroupConfigurationAnswer site s := rfl
@[simp] theorem exec_collectiveTimerExpiry (site grp s) : exec (.collectiveTimerExpiry site grp) s = execCollectiveTimerExpiry site grp s := rfl
@[simp] theorem exec_chainTimeout (site ctx s) : exec (.chainTimeout site ctx) s = execChainTimeout site ctx s := rfl
@[simp] theorem exec_doneWave (site v s) : exec (.doneWave site v) s = execDoneWave site v s := rfl
@[simp] theorem exec_doneAnswer (site v s) : exec (.doneAnswer site v) s = execDoneAnswer site v s := rfl
@[simp] theorem exec_doneWaveTimer (part v s) : exec (.doneWaveTimer part v) s = execDoneWaveTimer part v s := rfl
@[simp] theorem exec_gatingWave (site v s) : exec (.gatingWave site v) s = execGatingWave site v s := rfl
@[simp] theorem exec_gatingAnswer (site v s) : exec (.gatingAnswer site v) s = execGatingAnswer site v s := rfl
@[simp] theorem exec_killMessage (site v s) : exec (.killMessage site v) s = execKillMessage site v s := rfl
@[simp] theorem exec_killAck (site v s) : exec (.killAck site v) s = execKillAck site v s := rfl
@[simp] theorem exec_domainEnd (site v s) : exec (.domainEnd site v) s = execDomainEnd site v s := rfl
@[simp] theorem exec_domainEndAck (site v s) : exec (.domainEndAck site v) s = execDomainEndAck site v s := rfl
@[simp] theorem exec_drainWave (site v s) : exec (.drainWave site v) s = execDrainWave site v s := rfl
@[simp] theorem exec_drainAck (site v s) : exec (.drainAck site v) s = execDrainAck site v s := rfl
@[simp] theorem exec_caskDiscard (part v s) : exec (.caskDiscard part v) s = execCaskDiscard part v s := rfl
@[simp] theorem exec_killCleanup (part v s) : exec (.killCleanup part v) s = execKillCleanup part v s := rfl
@[simp] theorem exec_lock (part slot v s) : exec (.lock part slot v) s = execLock part slot v s := rfl
@[simp] theorem exec_lockAck (part slot v s) : exec (.lockAck part slot v) s = execLockAck part slot v s := rfl
@[simp] theorem exec_unlock (part slot v s) : exec (.unlock part slot v) s = execUnlock part slot v s := rfl
@[simp] theorem exec_unlockAck (part slot v s) : exec (.unlockAck part slot v) s = execUnlockAck part slot v s := rfl
@[simp] theorem exec_commitStart (part s) : exec (.commitStart part) s = execCommitStart part s := rfl
@[simp] theorem exec_commitIntentAck (part s) : exec (.commitIntentAck part) s = execCommitIntentAck part s := rfl
@[simp] theorem exec_commitBroadcast (part slot v s) : exec (.commitBroadcast part slot v) s = execCommitBroadcast part slot v s := rfl
@[simp] theorem exec_commitAck (part slot v s) : exec (.commitAck part slot v) s = execCommitAck part slot v s := rfl
@[simp] theorem exec_completionMessage (part s) : exec (.completionMessage part) s = execCompletionMessage part s := rfl
@[simp] theorem exec_vintageSwitch (part v s) : exec (.vintageSwitch part v) s = execVintageSwitch part v s := rfl
@[simp] theorem exec_switch (part slot v s) : exec (.switch part slot v) s = execSwitch part slot v s := rfl
@[simp] theorem exec_switchAck (part slot v s) : exec (.switchAck part slot v) s = execSwitchAck part slot v s := rfl
@[simp] theorem exec_caskuseQuery (part slot v s) : exec (.caskuseQuery part slot v) s = execCaskuseQuery part slot v s := rfl
@[simp] theorem exec_caskuseAnswer (part slot v s) : exec (.caskuseAnswer part slot v) s = execCaskuseAnswer part slot v s := rfl
@[simp] theorem exec_caskMerge (part slot s) : exec (.caskMerge part slot) s = execCaskMerge part slot s := rfl
@[simp] theorem exec_launchTake (part s) : exec (.launchTake part) s = execLaunchTake part s := rfl
@[simp] theorem exec_admission (part v s) : exec (.admission part v) s = execAdmission part v s := rfl
@[simp] theorem exec_startTimeReached (part v s) : exec (.startTimeReached part v) s = execStartTimeReached part v s := rfl
@[simp] theorem exec_fireWave (band v s) : exec (.fireWave band v) s = execFireWave band v s := rfl
@[simp] theorem exec_deadlineExpiry (part v s) : exec (.deadlineExpiry part v) s = execDeadlineExpiry part v s := rfl
@[simp] theorem exec_recordStoreFill (site v s) : exec (.recordStoreFill site v) s = execRecordStoreFill site v s := rfl
@[simp] theorem exec_healthSweepStart (part s) : exec (.healthSweepStart part) s = execHealthSweepStart part s := rfl
@[simp] theorem exec_healthSweep (site s) : exec (.healthSweep site) s = execHealthSweep site s := rfl
@[simp] theorem exec_ringSweepTimeout (part s) : exec (.ringSweepTimeout part) s = execRingSweepTimeout part s := rfl
@[simp] theorem exec_rebindFence (site ep s) : exec (.rebindFence site ep) s = execRebindFence site ep s := rfl
@[simp] theorem exec_rebindFenceAck (site ep s) : exec (.rebindFenceAck site ep) s = execRebindFenceAck site ep s := rfl
@[simp] theorem exec_rebindBind (site ep s) : exec (.rebindBind site ep) s = execRebindBind site ep s := rfl
@[simp] theorem exec_rebindBindAck (site ep s) : exec (.rebindBindAck site ep) s = execRebindBindAck site ep s := rfl
@[simp] theorem exec_rebindRelease (site ep s) : exec (.rebindRelease site ep) s = execRebindRelease site ep s := rfl
@[simp] theorem exec_rebindReleaseAck (site ep s) : exec (.rebindReleaseAck site ep) s = execRebindReleaseAck site ep s := rfl
@[simp] theorem exec_managementRequest (addr wdata s) : exec (.managementRequest addr wdata) s = execManagementRequest addr wdata s := rfl
@[simp] theorem exec_managementResponse (s) : exec .managementResponse s = execManagementResponse s := rfl
@[simp] theorem exec_timeDistribution (band s) : exec (.timeDistribution band) s = execTimeDistribution band s := rfl
@[simp] theorem exec_translationMiss (site page s) : exec (.translationMiss site page) s = execTranslationMiss site page s := rfl
@[simp] theorem exec_intervalTimer (site s) : exec (.intervalTimer site) s = execIntervalTimer site s := rfl
@[simp] theorem exec_highWater (site s) : exec (.highWater site) s = execHighWater site s := rfl
@[simp] theorem exec_checkpointBoundary (site s) : exec (.checkpointBoundary site) s = execCheckpointBoundary site s := rfl
@[simp] theorem exec_cellarCopy (site s) : exec (.cellarCopy site) s = execCellarCopy site s := rfl
@[simp] theorem exec_intervalClose (site s) : exec (.intervalClose site) s = execIntervalClose site s := rfl
@[simp] theorem exec_mirrorFold (site s) : exec (.mirrorFold site) s = execMirrorFold site s := rfl
@[simp] theorem exec_detectedError (site s) : exec (.detectedError site) s = execDetectedError site s := rfl
@[simp] theorem exec_sparingRestore (band s) : exec (.sparingRestore band) s = execSparingRestore band s := rfl
@[simp] theorem exec_sparingBind (band s) : exec (.sparingBind band) s = execSparingBind band s := rfl
@[simp] theorem exec_sparingRelease (band s) : exec (.sparingRelease band) s = execSparingRelease band s := rfl
@[simp] theorem exec_logReplay (site s) : exec (.logReplay site) s = execLogReplay site s := rfl
@[simp] theorem exec_replayEnd (site s) : exec (.replayEnd site) s = execReplayEnd site s := rfl
@[simp] theorem exec_diagnosticScanResult (site pass s) : exec (.diagnosticScanResult site pass) s = execDiagnosticScanResult site pass s := rfl
@[simp] theorem exec_cellarHostLoss (site s) : exec (.cellarHostLoss site) s = execCellarHostLoss site s := rfl
@[simp] theorem exec_rotationPass (part dist s) : exec (.rotationPass part dist) s = execRotationPass part dist s := rfl
@[simp] theorem exec_scanPass (site s) : exec (.scanPass site) s = execScanPass site s := rfl
@[simp] theorem exec_scanPassResult (site pass s) : exec (.scanPassResult site pass) s = execScanPassResult site pass s := rfl
@[simp] theorem exec_contextWatchdog (site ctx s) : exec (.contextWatchdog site ctx) s = execContextWatchdog site ctx s := rfl
@[simp] theorem exec_coreWatchdog (site s) : exec (.coreWatchdog site) s = execCoreWatchdog site s := rfl
@[simp] theorem exec_codeWindowEnd (chan s) : exec (.codeWindowEnd chan) s = execCodeWindowEnd chan s := rfl
@[simp] theorem exec_channelRetirementRequest (chan s) : exec (.channelRetirementRequest chan) s = execChannelRetirementRequest chan s := rfl
@[simp] theorem exec_blockMove (chan s) : exec (.blockMove chan) s = execBlockMove chan s := rfl
@[simp] theorem exec_hostMemoryRead (scl addr len s) : exec (.hostMemoryRead scl addr len) s = execHostMemoryRead scl addr len s := rfl
@[simp] theorem exec_hostMemoryWrite (scl addr data s) : exec (.hostMemoryWrite scl addr data) s = execHostMemoryWrite scl addr data s := rfl
@[simp] theorem exec_submit (scl part q data s) : exec (.submit scl part q data) s = execSubmit scl part q data s := rfl
@[simp] theorem exec_qctlEnable (scl part q en s) : exec (.qctlEnable scl part q en) s = execQctlEnable scl part q en s := rfl
@[simp] theorem exec_qctlFlush (scl part q s) : exec (.qctlFlush scl part q) s = execQctlFlush scl part q s := rfl
@[simp] theorem exec_killWrite (part v s) : exec (.killWrite part v) s = execKillWrite part v s := rfl
@[simp] theorem exec_pctlCreate (scl band s) : exec (.pctlCreate scl band) s = execPctlCreate scl band s := rfl
@[simp] theorem exec_pctlDissolve (scl band s) : exec (.pctlDissolve scl band) s = execPctlDissolve scl band s := rfl
@[simp] theorem exec_pctlOperationEnd (band s) : exec (.pctlOperationEnd band) s = execPctlOperationEnd band s := rfl
@[simp] theorem exec_semRead (scl s) : exec (.semRead scl) s = execSemRead scl s := rfl
@[simp] theorem exec_semWrite (scl s) : exec (.semWrite scl) s = execSemWrite scl s := rfl
@[simp] theorem exec_tsecRead (scl s) : exec (.tsecRead scl) s = execTsecRead scl s := rfl
@[simp] theorem exec_tnsWrite (scl ns s) : exec (.tnsWrite scl ns) s = execTnsWrite scl ns s := rfl
@[simp] theorem exec_timeStep (scl ns s) : exec (.timeStep scl ns) s = execTimeStep scl ns s := rfl
@[simp] theorem exec_registerWrite (scl addr data s) : exec (.registerWrite scl addr data) s = execRegisterWrite scl addr data s := rfl
@[simp] theorem exec_ppsEdge (s) : exec .ppsEdge s = execPpsEdge s := rfl
@[simp] theorem exec_sclLinkDown (scl s) : exec (.sclLinkDown scl) s = execSclLinkDown scl s := rfl
@[simp] theorem exec_warmReset (s) : exec .warmReset s = execWarmReset s := rfl
@[simp] theorem exec_coldBringup (s) : exec .coldBringup s = execColdBringup s := rfl
@[simp] theorem exec_mgcSemFree (s) : exec .mgcSemFree s = execMgcSemFree s := rfl
@[simp] theorem exec_linkDataFlit (port s) : exec (.linkDataFlit port) s = execLinkDataFlit port s := rfl
@[simp] theorem exec_linkIdleFlit (port s) : exec (.linkIdleFlit port) s = execLinkIdleFlit port s := rfl
@[simp] theorem exec_linkNakFlit (port s) : exec (.linkNakFlit port) s = execLinkNakFlit port s := rfl
@[simp] theorem exec_linkRetrainFlit (port s) : exec (.linkRetrainFlit port) s = execLinkRetrainFlit port s := rfl
@[simp] theorem exec_linkReplayTimeout (port s) : exec (.linkReplayTimeout port) s = execLinkReplayTimeout port s := rfl
@[simp] theorem exec_laneLoss (port lane s) : exec (.laneLoss port lane) s = execLaneLoss port lane s := rfl
@[simp] theorem exec_retrainComplete (port tx s) : exec (.retrainComplete port tx) s = execRetrainComplete port tx s := rfl
@[simp] theorem exec_portDown (port s) : exec (.portDown port) s = execPortDown port s := rfl
@[simp] theorem exec_fullTrainingComplete (port lanes pmod pport s) : exec (.fullTrainingComplete port lanes pmod pport) s = execFullTrainingComplete port lanes pmod pport s := rfl
@[simp] theorem exec_bhlRetrain (port s) : exec (.bhlRetrain port) s = execBhlRetrain port s := rfl
@[simp] theorem exec_bhlEnable (port en s) : exec (.bhlEnable port en) s = execBhlEnable port en s := rfl
@[simp] theorem exec_peerRequest (port s) : exec (.peerRequest port) s = execPeerRequest port s := rfl
@[simp] theorem exec_exportRequest (port s) : exec (.exportRequest port) s = execExportRequest port s := rfl
@[simp] theorem exec_peerDataReturn (port s) : exec (.peerDataReturn port) s = execPeerDataReturn port s := rfl
@[simp] theorem exec_peerFailoverTimeout (part entry s) : exec (.peerFailoverTimeout part entry) s = execPeerFailoverTimeout part entry s := rfl
@[simp] theorem exec_inputUndervoltage (s) : exec .inputUndervoltage s = execInputUndervoltage s := rfl
@[simp] theorem exec_rideThroughLimit (s) : exec .rideThroughLimit s = execRideThroughLimit s := rfl
@[simp] theorem exec_rideThroughEnd (s) : exec .rideThroughEnd s = execRideThroughEnd s := rfl
@[simp] theorem exec_inputPowerLoss (s) : exec .inputPowerLoss s = execInputPowerLoss s := rfl
@[simp] theorem exec_inputOvervoltage (s) : exec .inputOvervoltage s = execInputOvervoltage s := rfl
@[simp] theorem exec_powerMeasurement (watts s) : exec (.powerMeasurement watts) s = execPowerMeasurement watts s := rfl
@[simp] theorem exec_sagDetect (dom s) : exec (.sagDetect dom) s = execSagDetect dom s := rfl
@[simp] theorem exec_sagClear (dom s) : exec (.sagClear dom) s = execSagClear dom s := rfl
@[simp] theorem exec_sagCapLower (dom s) : exec (.sagCapLower dom) s = execSagCapLower dom s := rfl
@[simp] theorem exec_overtemperature (dom temp s) : exec (.overtemperature dom temp) s = execOvertemperature dom temp s := rfl
@[simp] theorem exec_overtemperatureStep (dom s) : exec (.overtemperatureStep dom) s = execOvertemperatureStep dom s := rfl
@[simp] theorem exec_coolantFlowLoss (s) : exec .coolantFlowLoss s = execCoolantFlowLoss s := rfl
@[simp] theorem exec_heartbeatMiss (band s) : exec (.heartbeatMiss band) s = execHeartbeatMiss band s := rfl
@[simp] theorem exec_sidingFullTimeout (band s) : exec (.sidingFullTimeout band) s = execSidingFullTimeout band s := rfl
@[simp] theorem exec_mgcWatchdog (s) : exec .mgcWatchdog s = execMgcWatchdog s := rfl
@[simp] theorem exec_operatorKill (part v s) : exec (.operatorKill part v) s = execOperatorKill part v s := rfl
@[simp] theorem exec_firmwareUpdate (image s) : exec (.firmwareUpdate image) s = execFirmwareUpdate image s := rfl
@[simp] theorem exec_attestationRequest (data s) : exec (.attestationRequest data) s = execAttestationRequest data s := rfl
@[simp] theorem exec_illegalEncoding (s) : exec .illegalEncoding s = execIllegalEncoding s := rfl
@[simp] theorem exec_instructionFetchFault (cause s) : exec (.instructionFetchFault cause) s = execInstructionFetchFault cause s := rfl
@[simp] theorem exec_lineEviction (site line s) : exec (.lineEviction site line) s = execLineEviction site line s := rfl
@[simp] theorem exec_scalarResultReady (site ctx s) : exec (.scalarResultReady site ctx) s = execScalarResultReady site ctx s := rfl
@[simp] theorem exec_warmResetEnd (s) : exec .warmResetEnd s = execWarmResetEnd s := rfl
@[simp] theorem exec_warmResetFailure (s) : exec .warmResetFailure s = execWarmResetFailure s := rfl
@[simp] theorem exec_coldBringupEnd (s) : exec .coldBringupEnd s = execColdBringupEnd s := rfl
@[simp] theorem exec_timeDistributionSend (s) : exec .timeDistributionSend s = execTimeDistributionSend s := rfl

end Sys2Proof.Machine
end

