-- ==== Sys2Proof/Laws/Issue.lean ====
section
/-!
SUPPORT. What the issue of a word can do (R71, R142): the effect of a word that issues, and all its other outcomes.
-/

namespace Sys2Proof.Machine

open Sys2Proof

/-- A word that issues has its effect. -/
theorem issueWord_issues {s : State} {u : HintUse} {srcs dests : List Reg} {plain priv pair : Bool} {vs : List Word} {c : Ctx}
    (k : Issued → Out) (h : Issues s u srcs dests plain priv pair vs c) :
    issueWord s u srcs dests plain priv pair k = k ⟨c, vs⟩ := by
  obtain ⟨h1, h2, h3, h4, h5⟩ := h
  simp [issueWord, h1, h2, h3, h4, h5]

/-- Everything the issue of a word can do: it is refused on a context that runs no task; it traps; it waits with at most a note of
its stall; or it issues and has its effect. -/
theorem issueWord_cases (s : State) (u : HintUse) (srcs dests : List Reg) (plain priv pair : Bool) (k : Issued → Out) :
    (s.me.occ ≠ .running ∧ issueWord s u srcs dests plain priv pair k = .refused .noContext)
      ∨ (∃ cause, decodeCheck s.me u srcs dests plain (priv && !s.supSite s.cur.1) pair = some cause
          ∧ issueWord s u srcs dests plain priv pair k = .next (s.trap cause 0))
      ∨ (∃ ch, s.me.abortedStream (srcs ++ dests) = some ch
          ∧ issueWord s u srcs dests plain priv pair k
              = .next ((s.setMe { s.me with abortMask := s.me.abortMask &&& ~~~((1 : BitVec 8) <<< ch) }).trap causeCopyAbort 0))
      ∨ issueWord s u srcs dests plain priv pair k = .next (stallOn s s.me srcs dests)
      ∨ ∃ vs c, Issues s u srcs dests plain priv pair vs c ∧ issueWord s u srcs dests plain priv pair k = k ⟨c, vs⟩ := by
  by_cases h1 : s.me.occ = .running
  · right
    cases h2 : decodeCheck s.me u srcs dests plain (priv && !s.supSite s.cur.1) pair with
    | some cause => exact .inl ⟨cause, rfl, by simp [issueWord, h1, h2]⟩
    | none =>
      right
      cases h3 : s.me.abortedStream (srcs ++ dests) with
      | some ch => exact .inl ⟨ch, rfl, by simp [issueWord, h1, h2, h3]⟩
      | none =>
        right
        cases h4 : s.me.sources srcs with
        | none => exact .inl (by simp [issueWord, h1, h2, h3, h4])
        | some r =>
          by_cases h5 : dests.all r.2.destReady = true
          · exact .inr ⟨r.1, r.2, ⟨h1, h2, h3, h4, h5⟩, by simp [issueWord, h1, h2, h3, h4, h5]⟩

          · exact .inl (by simp [issueWord, h1, h2, h3, h4, h5])
  · exact .inl ⟨h1, by simp [issueWord, h1]⟩

end Sys2Proof.Machine
end

