-- ==== Sys2Proof/Laws/Memory.lean ====
section
/-!
SUPPORT. Every operation that writes memory keeps its canonical form: writes at home, scratchpad writes, a scratchpad restored or
moved, a block moved, a placed word.
-/

namespace Sys2Proof.Machine

open Sys2Proof

/-- Bytes set one by one keep the canonical form. -/
theorem memSet_foldl_wf {α : Type} (f : α → Nat) (g : α → Byte) (l : List α) {m : List Host.Cell} (h : Memory.wf m = true) :
    Memory.wf (l.foldl (fun m e => memSet m (f e) (g e)) m) = true := by
  induction l generalizing m with
  | nil => exact h
  | cons e t ih => exact ih (memSet_wf _ _ h)

/-- The memory of a state that is one of two with the same memory. -/
theorem State.mem_ite (p : Prop) [Decidable p] {a b : State} (h : a.mem = b.mem) : (if p then a else b).mem = b.mem := by
  split
  · exact h
  · rfl

theorem State.scrWrite_wf (s : State) (site off : Nat) (d : List Byte) (h : Memory.wf s.mem = true) :
    Memory.wf (s.scrWrite site off d).mem = true := memWrite_wf _ _ h

theorem State.homeWriteLine_wf (s : State) (p : Part) (line mask : Nat) (data : List Byte) (h : Memory.wf s.mem = true) :
    Memory.wf (s.homeWriteLine p line mask data).mem = true := by
  unfold State.homeWriteLine
  refine Eq.trans (congrArg Memory.wf (State.mem_ite _ ?_)) ?_
  · rfl
  · exact memWriteMask_wf _ _ _ h

theorem State.loadLines_wf (s : State) (site : Nat) (lines : Tbl (List Byte)) (h : Memory.wf s.mem = true) :
    Memory.wf (s.loadLines site lines).mem = true := by
  have go : ∀ (l : Tbl (List Byte)) (t : State), Memory.wf t.mem = true →
      Memory.wf (l.foldl (fun t e => if e.1 < 49152 then t.scrWrite site (64 * e.1) e.2 else t) t).mem = true := by
    intro l
    induction l with
    | nil => exact fun _ ht => ht
    | cons e l ih =>
      intro t ht
      refine ih _ ?_
      dsimp only
      split
      · exact State.scrWrite_wf _ _ _ _ ht
      · exact ht
  exact go _ _ (memory_filter_wf _ h)

theorem State.moveScratch_wf (s : State) (a b : Nat) (h : Memory.wf s.mem = true) : Memory.wf (s.moveScratch a b).mem = true :=
  memSet_foldl_wf _ _ _ (memory_filter_wf _ h)

theorem State.moveBlock_wf (s : State) (c a d b : Nat) (h : Memory.wf s.mem = true) : Memory.wf (s.moveBlock c a d b).mem = true :=
  memSet_foldl_wf _ _ _ (memory_filter_wf _ h)

theorem State.withFetchWord_wf (s : State) (nbits w : Nat) (h : Memory.wf s.mem = true) : Memory.wf (s.withFetchWord nbits w).mem = true :=
  memWrite_wf _ _ h

/-- A scratchpad write reads back. -/
theorem State.scrRead_scrWrite (s : State) (site off : Nat) (d : List Byte) (h : Memory.wf s.mem = true) (a : Nat)
    (ha : a < scrAddr site off ∨ scrAddr site off + d.length ≤ a) : memGet (s.scrWrite site off d).mem a = memGet s.mem a :=
  memGet_memWrite_outside _ _ _ h ha

end Sys2Proof.Machine
end

