-- ==== Sys2Proof/Laws/Sound.lean ====
section
/-!
SUPPORT. What keeps a context and the machine sound: the shared operations by which a word completes, traps, waits or returns.
-/

namespace Sys2Proof.Machine

open Sys2Proof

/-! ## Contexts -/

theorem Ctx.reset_sound : Ctx.reset.sound := by
  refine ⟨by decide, by decide, by decide, by decide, ?_⟩
  intro h hh
  cases hh

/-- Four bytes on, an aligned address is aligned. -/
theorem aligned_next {pc : Addr} (h : pc.toNat % 4 = 0) : (pc + 4).toNat % 4 = 0 := by
  rw [BitVec.toNat_add, show (4 : Addr).toNat = 4 from rfl]
  omega

/-- The target of a branch or jump from an aligned address is aligned. -/
theorem target_aligned {n : Nat} {pc : Addr} (off : BitVec n) (h : pc.toNat % 4 = 0) : (target pc off).toNat % 4 = 0 := by
  simp only [target]
  rw [BitVec.toNat_add, BitVec.toNat_shiftLeft, Nat.shiftLeft_eq]
  omega

/-- The fields that soundness is about. -/
theorem Ctx.sound_of_eq {c d : Ctx} (h : c.sound) (hx : d.x = c.x) (hp : d.pc = c.pc) (he : d.epc = c.epc) (hv : d.tvec = c.tvec)
    (hh : d.hints = c.hints) : d.sound := by
  obtain ⟨h1, h2, h3, h4, h5⟩ := h
  refine ⟨?_, ?_, ?_, ?_, ?_⟩
  · rw [hx]; exact h1
  · rw [hp]; exact h2
  · rw [he]; exact h3
  · rw [hv]; exact h4
  · rw [hh]; exact h5

theorem Ctx.sound_put {c : Ctx} (d : Reg) (v : Word) (h : c.sound) : (c.put d v).sound := by
  unfold Ctx.put
  split
  · exact h
  · rename_i hd
    obtain ⟨h1, h2⟩ := h
    refine ⟨?_, h2⟩
    have : d.toNat ≠ 0 := fun e => hd (BitVec.eq_of_toNat_eq e)
    simp [this, h1]

theorem Ctx.sound_result {c : Ctx} (d : Reg) (v : Word) (h : c.sound) : (c.result d v).sound := by
  unfold Ctx.result
  split
  · exact h
  · exact c.sound_put d v h

theorem Ctx.sound_pend {c : Ctx} (m : BitVec 32) (h : c.sound) : (c.pend m).sound := by
  unfold Ctx.pend
  split <;> exact h

theorem Ctx.sound_advance {c : Ctx} (h : c.sound) : c.advance.sound :=
  ⟨h.1, aligned_next h.2.1, h.2.2.1, h.2.2.2.1, fun _ e => by cases e⟩

/-- The start of a word group is aligned. -/
theorem Ctx.groupStart_aligned {c : Ctx} (h : c.sound) : c.groupStart.toNat % 4 = 0 := by
  unfold Ctx.groupStart
  split
  · rename_i g hg
    exact h.2.2.2.2 g hg
  · exact h.2.1

theorem Ctx.sound_enterTrap {c : Ctx} (cause : BitVec 5) (fa : Addr) (fs : BitVec 32) (h : c.sound) : (c.enterTrap cause fa fs).sound :=
  ⟨h.1, h.2.2.2.1, c.groupStart_aligned h, h.2.2.2.1, fun _ e => by cases e⟩

theorem Ctx.sound_takeTrap {c : Ctx} (cause : BitVec 5) (fa : Addr) (fs : BitVec 32) (h : c.sound) : (c.takeTrap cause fa fs).sound := by
  unfold Ctx.takeTrap
  split
  · exact h
  · exact c.sound_enterTrap cause fa fs h

theorem Ctx.sound_returnFromTrap {c : Ctx} (h : c.sound) : c.returnFromTrap.sound :=
  ⟨h.1, h.2.2.1, h.2.2.1, h.2.2.2.1, fun _ e => by cases e⟩

/-- Reading the sources changes streams alone. -/
theorem Ctx.sound_sources {c c1 : Ctx} {l : List Reg} {vs : List Word} (h : c.sound) (e : c.sources l = some (vs, c1)) : c1.sound := by
  induction l generalizing c vs with
  | nil => cases e; exact h
  | cons r t ih =>
    simp only [Ctx.sources] at e
    split at e
    · cases e
    · rename_i v c2 h2
      have hc2 : c2.sound := by
        simp only [Ctx.source] at h2
        split at h2
        · split at h2
          · cases h2; exact h
          · split at h2
            · cases h2; exact h
            · cases h2
        · split at h2
          · cases h2; exact h
          · cases h2
      split at e
      · cases e
      · rename_i vs' c3 h3
        cases e
        exact ih hc2 h3

/-! ## States -/

/-- A context read after one was written. -/
theorem State.ctx_setCtx (s : State) (site n site' n' : Nat) (x : Ctx) :
    (s.setCtx site n x).ctx site' n' = if site' = site ∧ n' = n ∧ n < 8 then x else s.ctx site' n' := by
  by_cases hs : site' = site
  · subst hs
    simp only [State.setCtx, State.ctx, State.core, State.setCore, Tbl.get_put, if_true]
    simp only [Core.setCtx, Core.ctx, Vector.getElem?_setIfInBounds]
    by_cases hn : n = n'
    · subst hn
      by_cases h8 : n < 8 <;> simp [h8]
    · simp [hn, Ne.symm hn]
  · simp [State.setCtx, State.ctx, State.core, State.setCore, Tbl.get_put, hs]

theorem State.sound_setCtx {s : State} (site n : Nat) {x : Ctx} (h : s.Sound) (hx : x.sound) : (s.setCtx site n x).Sound := by
  refine ⟨h.1, fun site' n' => ?_⟩
  rw [State.ctx_setCtx]
  split
  · exact hx
  · exact h.2 site' n'

theorem State.sound_setMe {s : State} {x : Ctx} (h : s.Sound) (hx : x.sound) : (s.setMe x).Sound := s.sound_setCtx _ _ h hx

/-- A change of a core that leaves its contexts. -/
theorem State.sound_updCore {s : State} (site : Nat) {f : Core → Core} (h : s.Sound) (hf : (f (s.core site)).ctxs = (s.core site).ctxs) :
    (s.updCore site f).Sound := by
  refine ⟨h.1, fun site' n' => ?_⟩
  have e : (s.updCore site f).ctx site' n' = s.ctx site' n' := by
    by_cases hs : site' = site
    · subst hs
      simp [State.updCore, State.ctx, State.core, State.setCore, Core.ctx] at hf ⊢
      rw [hf]
    · simp [State.updCore, State.ctx, State.core, State.setCore, Tbl.get_put, hs]
  rw [e]
  exact h.2 site' n'

/-- A state with the same cores and memory. -/
theorem State.sound_of_eq {s t : State} (h : s.Sound) (hc : t.cores = s.cores) (hm : t.mem = s.mem) : t.Sound := by
  refine ⟨by rw [hm]; exact h.1, fun site n => ?_⟩
  have e : t.ctx site n = s.ctx site n := by simp only [State.ctx, State.core, hc]
  rw [e]
  exact h.2 site n

theorem State.sound_trapAt {s : State} (site n : Nat) (cause : BitVec 5) (fa : Addr) (fs : BitVec 32) (h : s.Sound) :
    (s.trapAt site n cause fa fs).Sound := by
  have e : (s.updCtx site n fun c => { c.takeTrap cause fa fs with ttime := if c.tact then c.ttime else s.timeAt site }).Sound :=
    State.sound_setCtx _ _ h (Ctx.sound_of_eq (Ctx.sound_takeTrap cause fa fs (h.2 site n)) rfl rfl rfl rfl rfl)
  unfold State.trapAt
  dsimp only
  split
  · exact State.sound_of_eq e rfl rfl
  · exact e

theorem State.sound_trap {s : State} (cause : BitVec 5) (fa : Addr) (h : s.Sound) : (s.trap cause fa).Sound := s.sound_trapAt _ _ _ _ _ h

theorem State.trapAt_mem (s : State) (site n : Nat) (cause : BitVec 5) (fa : Addr) (fs : BitVec 32) :
    (s.trapAt site n cause fa fs).mem = s.mem := by
  unfold State.trapAt
  dsimp only
  split <;> rfl

theorem State.trapAt_parts (s : State) (site n : Nat) (cause : BitVec 5) (fa : Addr) (fs : BitVec 32) :
    (s.trapAt site n cause fa fs).parts = s.parts := by
  unfold State.trapAt
  dsimp only
  split <;> rfl

/-- The completion of a scalar word. -/
theorem sound_finishScalar {s : State} {c : Ctx} (d : Reg) (v flags : Word) (h : s.Sound) (hc : c.sound) : (finishScalar s c d v flags).Sound := by
  have e : (((c.result d v).pend (regBit d)).orSticky flags).sound := Ctx.sound_pend _ (Ctx.sound_result d v hc)
  have g := State.sound_setMe h (Ctx.sound_advance e)
  exact State.sound_of_eq g rfl rfl

theorem finishScalar_mem (s : State) (c : Ctx) (d : Reg) (v flags : Word) : (finishScalar s c d v flags).mem = s.mem := rfl
theorem finishScalar_parts (s : State) (c : Ctx) (d : Reg) (v flags : Word) : (finishScalar s c d v flags).parts = s.parts := rfl

/-- A word that waits keeps the machine sound. -/
theorem sound_stallOn {s : State} (srcs dests : List Reg) (h : s.Sound) : (stallOn s s.me srcs dests).Sound := by
  unfold stallOn
  split
  · exact State.sound_setMe h (h.2 _ _)
  · exact h

end Sys2Proof.Machine
end

