-- ==== Sys2Proof/Tests/Slice0.lean ====
section
/-!
SUPPORT. Tests: a word written out for every encoded instruction, an ill-formed term for every well-formedness check, single steps on
small states with results from the manual's tables and worked examples, and for the statements a state that meets their hypotheses.
-/

set_option Elab.async false
set_option linter.unusedVariables false
set_option maxRecDepth 20000

open Sys2Proof Sys2Proof.Machine

namespace Sys2Proof.Tests

/-! ## Small states -/

/-- A machine with one running context, site 1 and context 0, at a placed word. -/
def base : State := (State.reset.withFetchWord 32 0).slot placeSite 0

/-- The base state with some registers set. -/
def regs (l : List (Nat × Nat)) : State :=
  base.setMe (l.foldl (fun c e => c.put (BitVec.ofNat 5 e.1) (BitVec.ofNat 64 e.2)) base.me)

/-- The state after an instruction. -/
def after (i : Instr) (s : State) : State :=
  match exec i s with
  | .next t => t
  | _ => State.reset

/-- A register of the executing context, and its pc relative to the placed word. -/
def x (s : State) (r : Reg) : Nat := (s.me.get r).toNat
def moved (s : State) : Nat := (s.me.pc - placePc).toNat

/-- The state with another executing context. -/
def ctxt (f : Ctx → Ctx) : State := base.setMe (f base.me)

/-! ## Every encoded instruction decodes from its written word (R39-R70) -/

theorem test_decode_add_to_sltu :
    [(0x052AB800, .add 9 10 23),
      (0x052AB801, .sub 9 10 23),
      (0x052AB802, .and 9 10 23),
      (0x052AB803, .or 9 10 23),
      (0x052AB804, .xor 9 10 23),
      (0x052AB805, .andn 9 10 23),
      (0x052AB806, .sll 9 10 23),
      (0x052AB807, .srl 9 10 23),
      (0x052AB808, .sra 9 10 23),
      (0x052AB809, .ror 9 10 23),
      (0x052AB80A, .slt 9 10 23),
      (0x052AB80B, .sltu 9 10 23)].all (fun e : Nat × Instr => decide (decodeTableWord 32 e.1 = some e.2)) = true := by decide
theorem test_decode_min_to_rem :
    [(0x052AB80C, .min 9 10 23),
      (0x052AB80D, .max 9 10 23),
      (0x052AB80E, .minu 9 10 23),
      (0x052AB80F, .maxu 9 10 23),
      (0x052AB810, .mul 9 10 23),
      (0x052AB811, .mulh 9 10 23),
      (0x052AB812, .mulhu 9 10 23),
      (0x05CAB813, .mulx 14 10 23),
      (0x05CAB814, .mulxu 14 10 23),
      (0x052AB815, .div 9 10 23),
      (0x052AB816, .divu 9 10 23),
      (0x052AB817, .rem 9 10 23)].all (fun e : Nat × Instr => decide (decodeTableWord 32 e.1 = some e.2)) = true := by decide
theorem test_decode_remu_to_bext :
    [(0x052AB818, .remu 9 10 23),
      (0x052AB819, .addw 9 10 23),
      (0x052AB81A, .subw 9 10 23),
      (0x052AB81B, .mulw 9 10 23),
      (0x052A001C, .clz 9 10),
      (0x052A001D, .ctz 9 10),
      (0x052A001E, .popc 9 10),
      (0x052A001F, .sextb 9 10),
      (0x052A0020, .sexth 9 10),
      (0x052A0021, .sextw 9 10),
      (0x052A0022, .zextw 9 10),
      (0x052AB823, .bext 9 10 23)].all (fun e : Nat × Instr => decide (decodeTableWord 32 e.1 = some e.2)) = true := by decide
theorem test_decode_bextu_to_lui :
    [(0x052AB824, .bextu 9 10 23),
      (0x052AB825, .bins 9 10 23),
      (0x052AB826, .divt 9 10 23),
      (0x052AB827, .remt 9 10 23),
      (0x092AB00D, .addi 9 10 45069),
      (0x0D2AB00D, .andi 9 10 45069),
      (0x112AB00D, .ori 9 10 45069),
      (0x152AB00D, .xori 9 10 45069),
      (0x192AB00D, .slti 9 10 45069),
      (0x1D20B00D, .lui 9 45069)].all (fun e : Nat × Instr => decide (decodeTableWord 32 e.1 = some e.2)) = true := by decide
theorem test_decode_slli_to_binsi :
    [(0x212A04C0, .slli 9 10 19),
      (0x212A14C0, .srli 9 10 19),
      (0x212A24C0, .srai 9 10 19),
      (0x212A34C0, .rori 9 10 19),
      (0x212A44DE, .bexti 9 10 19 30),
      (0x212A54DE, .bextui 9 10 19 30),
      (0x212A64DE, .binsi 9 10 19 30)].all (fun e : Nat × Instr => decide (decodeTableWord 32 e.1 = some e.2)) = true := by decide
theorem test_decode_fadd_to_fsgnj :
    [(0x292ABB80, .fadd 9 10 23 .rd true),
      (0x292ABB81, .fsub 9 10 23 .rd true),
      (0x292ABB82, .fmul 9 10 23 .rd true),
      (0x292ABB83, .fdiv 9 10 23 .rd true),
      (0x292A0384, .fsqrt 9 10 .rd true),
      (0x292ABB85, .fma 9 10 23 .rd true),
      (0x292ABB86, .fms 9 10 23 .rd true),
      (0x292AB887, .fmin 9 10 23 true),
      (0x292AB888, .fmax 9 10 23 true),
      (0x292A0009, .fabs 9 10),
      (0x292A000A, .fneg 9 10),
      (0x292AB80B, .fsgnj 9 10 23)].all (fun e : Nat × Instr => decide (decodeTableWord 32 e.1 = some e.2)) = true := by decide
theorem test_decode_feq_to_bltu :
    [(0x292AB88C, .feq 9 10 23 true),
      (0x292AB88D, .flt 9 10 23 true),
      (0x292AB88E, .fle 9 10 23 true),
      (0x292A000F, .fclass 9 10),
      (0x2D2A625E, .fcvt 9 10 .e4m3 .f32 .rd true true),
      (0x31579ABC, .beq 10 23 39612),
      (0x35579ABC, .bne 10 23 39612),
      (0x39579ABC, .blt 10 23 39612),
      (0x3D579ABC, .bge 10 23 39612),
      (0x41579ABC, .bltu 10 23 39612)].all (fun e : Nat × Instr => decide (decodeTableWord 32 e.1 = some e.2)) = true := by decide
theorem test_decode_bgeu_to_tbind :
    [(0x45579ABC, .bgeu 10 23 39612),
      (0x4932345A, .jal 9 1193050),
      (0x4D2AB00D, .jalr 9 10 45069),
      (0x512ABA5B, .ld 9 10 .n16 6747),
      (0x552A5A5B, .st 9 10 .b32 6747),
      (0x592AB6C3, .ldp 9 10 .n16 5 707),
      (0x5E6AB815, .geta 19 10 23 21),
      (0x5E6AB915, .puta 19 10 23 21),
      (0x5D330200, .recv 9 19),
      (0x5E6A0300, .tbind 19 10)].all (fun e : Nat × Instr => decide (decodeTableWord 32 e.1 = some e.2)) = true := by decide
theorem test_decode_amo_to_wait :
    [(0x612ABB3C, .amo 9 10 23 .max .w64 .ar .m),
      (0x652AB83C, .cas 9 10 23 .w64 .ar .m),
      (0x680ABB34, .red 10 23 .max .w64 .rel .m),
      (0x6C0A0004, .acq 10 .m),
      (0x6C0A0104, .rel 10 .m),
      (0x6C000204, .fence .m),
      (0x7000963C, .wait 9 6 3 12)].all (fun e : Nat × Instr => decide (decodeTableWord 32 e.1 = some e.2)) = true := by decide
theorem test_decode_bdecl_to_bstat :
    [(0x740ABD60, .bdecl 10 23 43),
      (0x74000561, .bfill 43),
      (0x74000562, .bfull 43),
      (0x74000563, .bdrain 43),
      (0x74000564, .bempty 43),
      (0x75200565, .bstat 9 43)].all (fun e : Nat × Instr => decide (decodeTableWord 32 e.1 = some e.2)) = true := by decide
theorem test_decode_spawn_to_tself :
    [(0x792AB800, .spawn 9 10 23),
      (0x78000001, .suspend),
      (0x780A0002, .exit 10),
      (0x780A0003, .decr 10),
      (0x78000004, .yield),
      (0x780AB805, .depadd 10 23),
      (0x79200006, .tself 9)].all (fun e : Nat × Instr => decide (decodeTableWord 32 e.1 = some e.2)) = true := by decide
theorem test_decode_ctb_to_ccfg :
    [(0x7C0A9460, .ctb 10 37 true true),
      (0x7D209584, .crd 9 37 .rd),
      (0x7D2A9408, .chain 9 10 37),
      (0x7D20940C, .gstat 9 37),
      (0x7C0A9410, .ccfg 10 37)].all (fun e : Nat × Instr => decide (decodeTableWord 32 e.1 = some e.2)) = true := by decide
theorem test_decode_copy_to_strmend :
    [(0x812ABDF0, .copy 9 10 23 5 true true true .m),
      (0x800A0501, .cwait 10 5),
      (0x81200502, .cdone 9 5),
      (0x81200506, .cwm 9 5),
      (0x8120050A, .cnext 9 5),
      (0x8120050E, .chstat 9 5),
      (0x80000503, .cabort 5),
      (0x86AA0500, .strm 21 10 5),
      (0x86AA0520, .strmw 21 10 5),
      (0x86A00540, .strmend 21 5)].all (fun e : Nat × Instr => decide (decodeTableWord 32 e.1 = some e.2)) = true := by decide
theorem test_decode_gather_to_scatter :
    [(0x892ABD78, .gather 9 10 23 5 true true true .m),
      (0x892ABDF8, .scatter 9 10 23 5 true true true .m)].all (fun e : Nat × Instr => decide (decodeTableWord 32 e.1 = some e.2)) = true := by decide
theorem test_decode_vadd_to_vxor :
    [(0x8CDB16E0, .vadd 3 6 12 .bf16 .rd true),
      (0x8CDB16E1, .vsub 3 6 12 .bf16 .rd true),
      (0x8CDB16E2, .vmul 3 6 12 .bf16 .rd true),
      (0x8CDB16E3, .vfma 3 6 12 .bf16 .rd true),
      (0x8CDB16E4, .vfms 3 6 12 .bf16 .rd true),
      (0x8CDB1605, .vmin 3 6 12 .bf16),
      (0x8CDB1606, .vmax 3 6 12 .bf16),
      (0x8CD81607, .vabs 3 6 .bf16),
      (0x8CD81608, .vneg 3 6 .bf16),
      (0x8CDB0C09, .vand 3 6 12 .n32),
      (0x8CDB0C0A, .vor 3 6 12 .n32),
      (0x8CDB0C0B, .vxor 3 6 12 .n32)].all (fun e : Nat × Instr => decide (decodeTableWord 32 e.1 = some e.2)) = true := by decide
theorem test_decode_vshl_to_vmov :
    [(0x8CDB0C2C, .vshl 3 6 12 .n32 true),
      (0x8CDB0C0D, .vshr 3 6 12 .n32),
      (0x8CDB0C0E, .vsra 3 6 12 .n32),
      (0x8CDB16EF, .vcmul 3 6 12 .bf16 .rd true),
      (0x8CDB16F0, .vcmac 3 6 12 .bf16 .rd true),
      (0x8CD81611, .vconj 3 6 .bf16),
      (0x8CD81612, .vmov 3 6 .bf16)].all (fun e : Nat × Instr => decide (decodeTableWord 32 e.1 = some e.2)) = true := by decide
theorem test_decode_vexp2_to_vcvt :
    [(0x90D816E0, .vexp2 3 6 .bf16 .rd true),
      (0x90D816E1, .vlog2 3 6 .bf16 .rd true),
      (0x90D816E2, .vrcp 3 6 .bf16 .rd true),
      (0x90D816E3, .vrsqrt 3 6 .bf16 .rd true),
      (0x90D816E4, .vcvt 3 6 .bf16 .rd true)].all (fun e : Nat × Instr => decide (decodeTableWord 32 e.1 = some e.2)) = true := by decide
theorem test_decode_vrsum_to_vrev :
    [(0x94D816E0, .vrsum 3 6 .bf16 .rd true),
      (0x94D81601, .vrmax 3 6 .bf16),
      (0x94D81602, .vrmin 3 6 .bf16),
      (0x94DB0C03, .vceq 3 6 12 .n32),
      (0x94DB0C04, .vclt 3 6 12 .n32),
      (0x94DB0C05, .vcle 3 6 12 .n32),
      (0x94DB1606, .vsel 3 6 12 .bf16),
      (0x94DB1607, .vperm 3 6 12 .bf16),
      (0x94D81608, .vbcast 3 6 .bf16),
      (0x94DB1609, .vzip 3 6 12 .bf16),
      (0x94DB160A, .vunzip 3 6 12 .bf16),
      (0x94D8160B, .vrev 3 6 .bf16)].all (fun e : Nat × Instr => decide (decodeTableWord 32 e.1 = some e.2)) = true := by decide
theorem test_decode_vloop_to_mconv :
    [(0x994D0000, .vloop 10 13),
      (0x98000001, .vsync),
      (0x9D4A0000, .shld 5 10),
      (0x9D4A0100, .shobj 5 10),
      (0x9D4A0200, .shst 5 10),
      (0x9D4A031B, .shset 5 10 27),
      (0x9D40BC1B, .shget 5 23 27),
      (0xA2656E40, .mma 2 6 1 .bf16 true true .m true),
      (0xA2657E40, .mmcx 2 6 1 .bf16 true true .m true),
      (0xA66573C8, .mconv 2 6 1 .bf16 9 true true .m true)].all (fun e : Nat × Instr => decide (decodeTableWord 32 e.1 = some e.2)) = true := by decide
theorem test_decode_mwld_to_mrel :
    [(0xA80152C0, .mwld 1 10 .bf16),
      (0xAA100000, .maclr 2),
      (0xAA2B02DC, .macrd 2 11 .bf16 .rd true),
      (0xAA3B02C0, .macwr 2 11 .bf16),
      (0xAA4B52DC, .mepi 2 11 10 .bf16 .rd true),
      (0xAA500000, .macq 2),
      (0xAA600000, .mrel 2)].all (fun e : Nat × Instr => decide (decodeTableWord 32 e.1 = some e.2)) = true := by decide
theorem test_decode_sysrd_to_abort :
    [(0xAC0D4800, .sysrd 13 9),
      (0xAD0E0280, .syswr 14 10),
      (0xAE00B00D, .trap 45069),
      (0xAE010000, .eret),
      (0xAE100000, .ckpt),
      (0xAE114800, .caskuse 9),
      (0xAE124800, .scanno 9),
      (0xAE134800, .provq 9),
      (0xAE140000, .irrev),
      (0xAE154A80, .cmtq 9 10),
      (0xAE160280, .abort 10)].all (fun e : Nat × Instr => decide (decodeTableWord 32 e.1 = some e.2)) = true := by decide
theorem test_decode_hintImm_to_hintMod :
    [(0xFCABC123, .hintImm 11256099),
      (0xFD000006, .hintSched true .notTaken),
      (0xFE00019B, .hintMod true 77 true)].all (fun e : Nat × Instr => decide (decodeTableWord 32 e.1 = some e.2)) = true := by decide

/-! ## Words that are no instruction (R34-R40, R71, R74) -/

theorem test_refused_words :
    decodeTableWord 32 0 = none ∧ decodeTableWord 32 0x24000000 = none ∧ decodeTableWord 32 0xB0000000 = none
      ∧ decodeTableWord 32 0x040007FF = none ∧ decodeTableWord 32 0x28000500 = none ∧ decodeTableWord 32 0x05CAF813 = some (.mulx 14 10 31)
      ∧ decodeTableWord 32 0x052AB813 = none := by decide

/-! ## Each check of well-formedness refuses an ill-formed term -/

theorem test_ill_formed_scalar :
    [Instr.mulx 3 1 2, .mulxu 5 1 2, .bexti 1 2 0 0, .bextui 1 2 40 25, .binsi 1 2 63 2, .fcvt 1 2 .f32 .f32 .rne false false,
      .fcvt 1 2 .f32 .f16 .rz false false, .fcvt 1 2 .f32 .i8 .ru false false, .fcvt 1 2 .f32 .i32 .rne true false,
      .fcvt 1 2 .i4 .f32 .rne false false, .fcvt 1 2 .cb4 .f32 .rne false false, .sysrd 0x15 1, .syswr 0 1, .syswr 0x0D 1,
      .syswr 0x0F 1].all (fun i => !wellFormed i) = true := by decide
theorem test_ill_formed_memory :
    [Instr.amo 1 2 3 .fadd .w64 .none .cx, .amo 1 2 3 .add .w32 .none .p, .cas 1 2 3 .w32 .none .s, .red 1 2 .swap .w32 .none .cx,
      .red 1 2 .add .w32 .acq .p, .red 1 2 .add .w32 .ar .p, .red 1 2 .fadd .w64 .none .cx, .red 1 2 .add .w32 .none .d,
      .copy 1 2 3 0 false false false .co, .strm 15 1 0, .strmw 24 1 0, .strmend 0 0, .gather 1 2 3 0 true false false .m,
      .scatter 1 2 3 0 false false false .d].all (fun i => !wellFormed i) = true := by decide
theorem test_ill_formed_vector :
    [Instr.vadd 1 2 3 .cb4 .rne false, .vadd 1 2 3 .i8 .rz false, .vfma 1 2 3 .acc96 .rne false, .vmin 1 2 3 .cb4, .vand 1 2 3 .f32,
      .vshl 1 2 3 .bf16 false, .vexp2 1 2 .i8 .rne false, .vrcp 1 2 .cb4 .rne false, .vcvt 1 2 .acc96 .rne false, .vrsum 1 2 .n8 .ru false,
      .vceq 1 2 3 .f16, .vsel 1 2 3 .cb4, .vloop 1 0, .vloop 1 17, .shset 1 2 12, .shset 1 2 28, .shget 1 2 30].all
        (fun i => !wellFormed i) = true := by decide
theorem test_ill_formed_matrix :
    [Instr.mma 1 2 3 .f32 false false .cx false, .mma 1 2 3 .bf16 false false .co false, .mmcx 1 2 3 .i8 false false .p true,
      .mconv 1 2 3 .n8 4 false false .cx false, .mwld 1 2 .i32, .macrd 1 2 .cb4 .rne false, .macwr 1 2 .acc96,
      .mepi 1 2 3 .cb4 .rne false].all (fun i => !wellFormed i) = true := by decide

/-! ## Scalar words: results of R149-R165 -/

theorem test_add_wraps : x (after (.add 3 1 2) (regs [(1, 2 ^ 64 - 1), (2, 3)])) 3 = 2 := by decide
theorem test_add_x0 : x (after (.add 0 1 2) (regs [(1, 5), (2, 3)])) 0 = 0 := by decide
theorem test_sub_wraps : x (after (.sub 3 1 2) (regs [(1, 1), (2, 3)])) 3 = 2 ^ 64 - 2 := by decide
theorem test_andn : x (after (.andn 1 1 2) (regs [(1, 0xFF), (2, 0x0F)])) 1 = 0xF0 := by decide
theorem test_sll_counts_modulo_64 : x (after (.sll 3 1 2) (regs [(1, 1), (2, 65)])) 3 = 2 := by decide
theorem test_sra_keeps_the_sign : x (after (.sra 3 1 2) (regs [(1, 2 ^ 63), (2, 63)])) 3 = 2 ^ 64 - 1 := by decide
theorem test_ror : x (after (.ror 3 1 2) (regs [(1, 1), (2, 1)])) 3 = 2 ^ 63 := by decide
theorem test_slt_signed : x (after (.slt 3 1 2) (regs [(1, 2 ^ 64 - 1), (2, 0)])) 3 = 1 := by decide
theorem test_sltu_unsigned : x (after (.sltu 3 1 2) (regs [(1, 2 ^ 64 - 1), (2, 0)])) 3 = 0 := by decide
theorem test_mulhu : x (after (.mulhu 3 1 2) (regs [(1, 2 ^ 64 - 1), (2, 2 ^ 64 - 1)])) 3 = 2 ^ 64 - 2 := by decide
theorem test_mulh_signed : x (after (.mulh 3 1 2) (regs [(1, 2 ^ 64 - 1), (2, 2 ^ 64 - 1)])) 3 = 0 := by decide
theorem test_mulx_pair : x (after (.mulx 4 1 2) (regs [(1, 2 ^ 64 - 1), (2, 5)])) 4 = 2 ^ 64 - 5
    ∧ x (after (.mulx 4 1 2) (regs [(1, 2 ^ 64 - 1), (2, 5)])) 5 = 2 ^ 64 - 1 := by decide
theorem test_mulxu_pair : x (after (.mulxu 4 1 2) (regs [(1, 2 ^ 64 - 1), (2, 5)])) 5 = 4 := by decide
theorem test_div_by_zero : x (after (.div 3 1 2) (regs [(1, 7)])) 3 = 2 ^ 64 - 1 := by decide
theorem test_rem_is_never_negative : x (after (.rem 3 1 2) (regs [(1, 2 ^ 64 - 7), (2, 2)])) 3 = 1 := by decide
theorem test_remt_takes_the_sign : x (after (.remt 3 1 2) (regs [(1, 2 ^ 64 - 7), (2, 2)])) 3 = 2 ^ 64 - 1 := by decide
theorem test_div_most_negative : x (after (.div 3 1 2) (regs [(1, 2 ^ 63), (2, 2 ^ 64 - 1)])) 3 = 2 ^ 63 := by decide
theorem test_addw_extends : x (after (.addw 3 1 2) (regs [(1, 2 ^ 31 - 1), (2, 1)])) 3 = 2 ^ 64 - 2 ^ 31 := by decide
theorem test_clz_of_zero : x (after (.clz 3 1) (regs [])) 3 = 64 := by decide
theorem test_ctz : x (after (.ctz 3 1) (regs [(1, 0x8000)])) 3 = 15 := by decide
theorem test_sextb : x (after (.sextb 3 1) (regs [(1, 0x80)])) 3 = 2 ^ 64 - 128 := by decide
theorem test_bexti : x (after (.bexti 3 1 4 4) (regs [(1, 0xA5)])) 3 = 2 ^ 64 - 6 := by decide
theorem test_binsi : x (after (.binsi 3 1 4 4) (regs [(1, 0xA5), (3, 0xFFF)])) 3 = 0xF5F := by decide
theorem test_addi_extends : x (after (.addi 3 1 0xFFFF) (regs [(1, 5)])) 3 = 4 := by decide
theorem test_lui : x (after (.lui 3 0x8000) (regs [])) 3 = 2 ^ 64 - 2 ^ 31 := by decide
theorem test_fadd : x (after (.fadd 3 1 2 .rne false) (regs [(1, 0x3F800000), (2, 0x40000000)])) 3 = 0x40400000 := by decide
theorem test_fadd_inexact_is_sticky :
    (after (.fadd 3 1 2 .rne false) (regs [(1, 0x3F800000), (2, 0x30000000)])).me.sticky = 0x10 := by decide
theorem test_fdiv_by_zero : x (after (.fdiv 3 1 2 .rne false) (regs [(1, 0x3F800000)])) 3 = 0x7F800000 := by decide
theorem test_fmin_nan : x (after (.fmin 3 1 2 false) (regs [(1, 0x7FC00001), (2, 0x3F800000)])) 3 = 0x7FC00000 := by decide
theorem test_feq_zeros : x (after (.feq 3 1 2 false) (regs [(1, 0x80000000)])) 3 = 1 := by decide
theorem test_beq_taken : moved (after (.beq 1 2 0xFFFF) (regs [(1, 7), (2, 7)])) = 2 ^ 56 - 4 := by decide
theorem test_bne_not_taken : moved (after (.bne 1 2 0x100) (regs [(1, 7), (2, 7)])) = 4 := by decide
theorem test_blt_signed : moved (after (.blt 1 2 2) (regs [(1, 2 ^ 64 - 1)])) = 8 := by decide
theorem test_bgeu_unsigned : moved (after (.bgeu 1 2 2) (regs [(1, 2 ^ 64 - 1)])) = 8 := by decide
theorem test_jal_links : x (after (.jal 31 4) (regs [])) 31 = placePc.toNat + 4 ∧ moved (after (.jal 31 4) (regs [])) = 16 := by decide
theorem test_jalr_uses_the_old_base : x (after (.jalr 1 1 4) (regs [(1, 0x1000)])) 1 = placePc.toNat + 4
    ∧ (after (.jalr 1 1 4) (regs [(1, 0x1000)])).me.pc = 0x1004 := by decide
theorem test_jalr_misaligned_traps : (after (.jalr 1 2 2) (regs [(2, 0x1000)])).me.cause = 0x03
    ∧ (after (.jalr 1 2 2) (regs [(2, 0x1000)])).me.faddr = 0x1002 ∧ x (after (.jalr 1 2 2) (regs [(2, 0x1000)])) 1 = 0 := by decide

/-! ## System words (R30, R244-R251) -/

theorem test_sysrd_cause : x (after (.sysrd 0x08 6) (ctxt fun c => { c with cause := 0x0B })) 6 = 0x0B := by decide
theorem test_sysrd_lcn : x (after (.sysrd 0x00 25) base) 25 = 0 ∧ x (after (.sysrd 0x01 25) base) 25 = 1 := by decide
theorem test_syswr_epc_in_user_mode_traps : (after (.syswr 0x09 7) base).me.cause = 0x0D := by decide
theorem test_syswr_epc : (after (.syswr 0x09 7) ((regs [(7, 0x2004)]).setMe { (regs [(7, 0x2004)]).me with sup := true })).me.epc = 0x2004 := by
  decide
theorem test_srstate_of_zero : (after (.syswr 0x0C 1) base).me.srstate = 0x9E3779B97F4A7C15 := by decide
theorem test_trap_enters : (after (.trap 5) (ctxt fun c => { c with tvec := 0x4000 })).me.pc = 0x4000
    ∧ (after (.trap 5) (ctxt fun c => { c with tvec := 0x4000 })).me.faddr = 5
    ∧ (after (.trap 5) (ctxt fun c => { c with tvec := 0x4000 })).me.epc = placePc
    ∧ (after (.trap 5) (ctxt fun c => { c with tvec := 0x4000 })).me.sup = true := by decide
theorem test_eret_returns : (after .eret (ctxt fun c => { c with sup := true, tact := true, epc := 0x2004 })).me.pc = 0x2004
    ∧ (after .eret (ctxt fun c => { c with sup := true, tact := true, epc := 0x2004 })).me.sup = false := by decide
theorem test_illegal_word_traps : (after .illegalEncoding base).me.cause = 0x01 := by decide
theorem test_hint_widens_addi :
    x (after (.addi 3 1 2) (after (.hintImm 1) base)) 3 = 0x10002 := by decide
theorem test_step_runs_the_placed_word : (match step (State.reset.withFetchWord 32 0x082000FF) with
    | .next t => (t.ctx placeSite 0).get 1
    | _ => 0) = 0xFF := by decide

/-! ## Number formats: worked examples of the manual (R80-R103) -/

theorem test_e4m3_300 : encodeElem .e4m3 (f32Val 0x43960000) .rne false false 0 = ⟨0x79, stickyInexact⟩ := by decide
theorem test_e4m3_500 : encodeElem .e4m3 (f32Val 0x43FA0000) .rne false false 0 = ⟨0x7F, stickyInexact ||| stickyInvalid⟩ := by decide
theorem test_e4m3_500_sat : encodeElem .e4m3 (f32Val 0x43FA0000) .rne true false 0 = ⟨0x7E, stickyInexact ||| stickySaturated⟩ := by decide
theorem test_e4m3_500_rz : encodeElem .e4m3 (f32Val 0x43FA0000) .rz false false 0 = ⟨0x7E, stickyInexact⟩ := by decide
theorem test_draw : srStep 1 = (0x2000001, 0x47E4CE4B896CDD1D) := by decide
theorem test_fcvt_stochastic :
    let s := after (.fcvt 3 1 .bf16 .f32 .rs false false) ((regs [(1, 0x3F80C000)]).setMe { (regs [(1, 0x3F80C000)]).me with srstate := 1 })
    x s 3 = 0x3F81 ∧ s.me.srstate = 0x2000001 ∧ s.me.sticky = 0x10 := by decide

/-- The block-scaled buffer of the manual's example: blocks 1,000 and 1,001 of sub-view 0 in a full buffer. -/
def blocks : State :=
  let s := (base.scrWrite 1 65000 [0x7A, 0x01, 0x7E, 0xB8, 0x7F]).scrWrite 1 65065 [0x01, 0x30, 0x38, 0x01, 0xB0]
  s.setMyCore { s.myCore with bufs := [(1, [(0, ⟨.full, 0, 0x20000, 0, true, none⟩)])] }
theorem test_window7_block_1000 :
    x (after (.ld 3 1 .x64 0) (blocks.setMe (blocks.me.put 1 0x1801F400))) 3 = 0x7FC0BD0041603880 := by decide
theorem test_window7_block_1001 :
    x (after (.ld 3 1 .x64 0) (blocks.setMe (blocks.me.put 1 0x1801F480))) 3 = 0x8040000000800040 := by decide

/-! ## The words of the manual's worked encodings -/

theorem test_decode_manual_words :
    decodeTableWord 32 0x8CC49203 = some (.vfma 3 1 2 .f32 .rne false)
    ∧ decodeTableWord 32 0x90401200 = some (.vexp2 1 0 .f32 .rne false)
    ∧ decodeTableWord 32 0x91581924 = some (.vcvt 5 6 .e4m3 .rs true)
    ∧ decodeTableWord 32 0x9508C003 = some (.vceq 4 2 3 .i8)
    ∧ decodeTableWord 32 0x98A10000 = some (.vloop 5 1)
    ∧ decodeTableWord 32 0x98000001 = some .vsync
    ∧ decodeTableWord 32 0xA0056040 = some (.mma 0 0 1 .bf16 false false .cx true)
    ∧ decodeTableWord 32 0x810A5A80 = some (.copy 8 10 11 2 true false false .cx)
    ∧ decodeTableWord 32 0x64CA5820 = some (.cas 6 10 11 .w64 .none .cx)
    ∧ decodeTableWord 32 0x790A6800 = some (.spawn 8 10 13)
    ∧ decodeTableWord 32 0xAC00C800 = some (.sysrd 0 25)
    ∧ decodeTableWord 32 0xAE000005 = some (.trap 5)
    ∧ decodeTableWord 32 0xAE010000 = some .eret := by decide

/-! ## Witnesses: for each statement, a state and operands that meet its hypotheses -/

/-- The executing context of the base state. -/
def me (l : List (Nat × Nat)) : Ctx := (regs l).me

/-- A word issues in a state when its checks pass and its operands are ready. -/
def can (s : State) (u : HintUse) (srcs dests : List Reg) (plain priv pair : Bool) : Bool :=
  decide (s.me.occ = .running) && (decodeCheck s.me u srcs dests plain (priv && !s.supSite s.cur.1) pair).isNone && (s.me.abortedStream (srcs ++ dests)).isNone
    && (s.me.sources srcs).isSome && dests.all ((s.me.sources srcs).getD ([], s.me)).2.destReady

/-- Such a word issues, with the values and the context that its sources give. -/
theorem issues_of_can {s : State} {u : HintUse} {srcs dests : List Reg} {plain priv pair : Bool} (h : can s u srcs dests plain priv pair = true) :
    Issues s u srcs dests plain priv pair ((s.me.sources srcs).getD ([], s.me)).1 ((s.me.sources srcs).getD ([], s.me)).2 := by
  simp only [can, Bool.and_eq_true, decide_eq_true_eq, Option.isNone_iff_eq_none] at h
  obtain ⟨⟨⟨⟨h1, h2⟩, h3⟩, h4⟩, h5⟩ := h
  refine ⟨h1, h2, h3, ?_, h5⟩
  cases e : s.me.sources srcs with
  | none => rw [e] at h4; cases h4
  | some r => rfl

/-- The words of the plain pipeline issue in the base state, with and without an IMM HINT. -/
theorem witness_issues_two : ∃ s vs c, Issues s noHints [1, 2] [3] false false false vs c := ⟨_, _, _, issues_of_can (s := regs [(1, 5)]) (by decide)⟩
theorem witness_issues_three : ∃ s vs c, Issues s noHints [1, 2, 3] [3] true false false vs c :=
  ⟨_, _, _, issues_of_can (s := regs [(1, 5)]) (by decide)⟩
theorem witness_issues_imm : ∃ s vs c, Issues s immHints [1] [3] false false false vs c :=
  ⟨_, _, _, issues_of_can (s := after (.hintImm 1) base) (by decide)⟩
theorem witness_issues_pair : ∃ s vs c, s.cur.2 < 8 ∧ Issues s noHints [1, 2] [4, 5] true false true vs c :=
  ⟨regs [], _, _, by decide, issues_of_can (by decide)⟩
theorem witness_issues_pair_x30 : ∃ s vs c, s.cur.2 < 8 ∧ Issues s noHints [1, 2] [30, 31] true false true vs c :=
  ⟨regs [], _, _, by decide, issues_of_can (by decide)⟩
theorem witness_issues_branch : ∃ s vs c, Issues s brHints [1, 2] [] false false false vs c := ⟨regs [], _, _, issues_of_can (by decide)⟩
theorem witness_issues_jal : ∃ s vs c, s.cur.2 < 8 ∧ Issues s noHints [] [31] false false false vs c :=
  ⟨regs [], _, _, by decide, issues_of_can (by decide)⟩
theorem witness_fp_draws : ∃ s vs c, Issues s noHints [1, 2] [3] false false false vs c ∧ (Rnd.rs = .rs → drawsBusy s = false) :=
  ⟨regs [], _, _, issues_of_can (by decide), fun _ => by decide⟩
theorem witness_division_corners : ∃ a b : Word, b ≠ 0 ∧ a.toInt = -9223372036854775808 ∧ b.toInt = -1 := ⟨0x8000000000000000, 0xFFFFFFFFFFFFFFFF, by decide⟩
theorem witness_bitfields : (∃ pos len k : Nat, 1 ≤ len ∧ pos + len ≤ 64 ∧ k < 64 ∧ len = 63 ∧ pos = 1)
    ∧ ∃ pos len : Nat, ¬(1 ≤ len ∧ pos + len ≤ 64) ∧ len = 63 ∧ pos = 2 := ⟨⟨1, 63, 63, by decide⟩, 2, 63, by decide⟩
theorem witness_imm_hint : ∃ (c : Ctx) (g : HintGroup) (p : BitVec 24), c.hints = some g ∧ g.imm = some p ∧ p = 0x800000 :=
  ⟨(after (.hintImm 0x800000) base).me, ⟨placePc, some 0x800000, none, none⟩, 0x800000, by decide⟩
theorem witness_no_hint : ∃ c : Ctx, c.hints = none := ⟨base.me, by decide⟩
theorem witness_scalar_frame : ∃ (s : State) (c : Ctx) (d : Reg), s.cur.2 < 8 ∧ c.mode d ≠ .write := ⟨base, base.me, 31, by decide⟩
theorem witness_rounding : ∃ (m : Nat) (e q : Int), m * 2 ^ (e - q).toNat % 2 ^ (q - e).toNat ≠ 0 := ⟨3, 0, 1, by decide⟩

/-- A context with x16 a read stream of two landed elements, and x17 a write stream. -/
def streams : State := ctxt fun c => { c with
  smode := (c.smode.setIfInBounds 0 .read).setIfInBounds 1 .write,
  strm := c.strm.setIfInBounds 0 { StreamReg.off with ch := 1, landed := [7, 9], left := 2 } }

theorem witness_scalar_frame_stream : ∃ (s : State) (c : Ctx) (d : Reg), s.cur.2 < 8 ∧ c.mode d = .write := ⟨streams, streams.me, 17, by decide⟩
theorem witness_stream_operands : streams.me.mode 16 = .read
    ∧ (streams.me.strm[streamIx 16]?.getD StreamReg.off).landed = [7, 9] := by decide
theorem witness_stream_past_its_end :
    let c := { streams.me with strm := streams.me.strm.setIfInBounds 0 { StreamReg.off with ch := 1 } }
    c.mode 16 = .read ∧ (c.strm[streamIx 16]?.getD StreamReg.off).landed = [] ∧ (c.strm[streamIx 16]?.getD StreamReg.off).left = 0 := by decide
theorem witness_stream_waits :
    let c := { streams.me with strm := streams.me.strm.setIfInBounds 0 { StreamReg.off with ch := 1, left := 3 } }
    c.mode 16 = .read ∧ (c.strm[streamIx 16]?.getD StreamReg.off).landed = [] ∧ (c.strm[streamIx 16]?.getD StreamReg.off).left ≠ 0 := by decide
theorem test_stream_pops_in_field_order : x (after (.sub 3 16 16) streams) 3 = 2 ^ 64 - 2 := by decide
theorem test_write_stream_takes_the_result :
    ((after (.add 17 0 0) streams).me.strm[1]?.getD StreamReg.off).pushed = [0] := by decide

/-- Decode checks: a write stream as a source, a privileged word in user mode, an overlapping pair. -/
theorem witness_decode_illegal : streams.me.occ = .running ∧ streams.me.mode 17 = .write := by decide
theorem witness_decode_priv : base.me.occ = .running ∧ base.me.hints = none ∧ base.me.sup = false ∧ base.me.mode 5 ≠ .write := by decide
theorem witness_decode_overlap : base.me.occ = .running ∧ base.me.hints = none ∧ base.me.mode 0 = .off ∧ (4 : Reg) ≠ 0 := by decide
theorem test_mulx_overlap_traps : (after (.mulx 4 4 2) base).me.cause = 0x02 := by decide
theorem test_bins_stream_traps : (after (.bins 17 1 2) streams).me.cause = 0x01 := by decide
theorem witness_jalr_aligned_and_not : ∃ s c, s.cur.2 < 8 ∧ Issues s immHints [1] [3] false false false [0x1001] c :=
  ⟨regs [(1, 0x1001)], _, by decide, issues_of_can (by decide)⟩

/-! ### System words -/

theorem witness_trap_entry : (base.ctx 1 0).tact = false ∧ ((ctxt fun c => { c with tact := true }).ctx 1 0).tact = true := by decide
theorem witness_trap_word : ∃ s c, Issues s noHints [] [] true false false [] c := ⟨base, _, issues_of_can (by decide)⟩
theorem witness_eret : ∃ s c, Issues s noHints [] [] true true false [] c ∧ c.tact = true :=
  ⟨ctxt fun c => { c with sup := true, tact := true }, _, issues_of_can (by decide), by decide⟩
theorem witness_eret_without_trap : ∃ s c, Issues s noHints [] [] true true false [] c ∧ c.tact = false :=
  ⟨ctxt fun c => { c with sup := true }, _, issues_of_can (by decide), by decide⟩
theorem witness_fetch_fault : base.me.occ = .running ∧ base.me.pc ≠ base.me.tvec
    ∧ (ctxt fun c => { c with tvec := placePc }).me.pc = (ctxt fun c => { c with tvec := placePc }).me.tvec := by decide
theorem test_second_hint_of_its_kind_traps : (after (.hintSched true .none) (after (.hintSched false .taken) base)).me.cause = 0x01 := by decide
theorem test_fetch_fault_at_tvec_ends : (after (.instructionFetchFault .xlate) (ctxt fun c => { c with tvec := placePc })).me.hold
    = .suspending (.ending true 0x04 placePc placePc 0) := by decide
theorem witness_sysrd : ∃ s c, Issues s noHints [] [3] true false false [] c ∧ c.due = [] ∧ drawsBusy s = false ∧ (0x14 : BitVec 8).toNat ≤ 0x14 :=
  ⟨base, _, issues_of_can (by decide), by decide, by decide, by decide⟩
theorem witness_syswr : ∃ s c, Issues s noHints [7] [] true (supSys 0x0E) false [0x2002] c :=
  ⟨(regs [(7, 0x2002)]).setMe { me [(7, 0x2002)] with sup := true }, _, issues_of_can (by decide)⟩
theorem witness_syswr_user : ∃ s c, Issues s noHints [7] [] true (supSys 0x14) false [0x2002] c ∧ c.due = [] ∧ drawsBusy s = false :=
  ⟨regs [(7, 0x2002)], _, issues_of_can (by decide), by decide, by decide⟩
theorem test_syswr_sticky_clears : (after (.syswr 0x07 1) ((regs [(1, 0x11)]).setMe { me [(1, 0x11)] with sticky := 0x33 })).me.sticky = 0x22 := by
  decide
theorem test_syswr_tvec_misaligned : (after (.syswr 0x0E 1) ((regs [(1, 0x1002)]).setMe { me [(1, 0x1002)] with sup := true })).me.cause = 0x03 := by
  decide
theorem test_syncobj_misaligned_before_undeclared : (after (.syswr 0x14 1) (regs [(1, 0x1004)])).me.cause = 0x03
    ∧ (after (.syswr 0x14 1) (regs [(1, 0x1008)])).me.cause = 0x08 := by decide

/-! ### Loads, stores and atomics -/

/-- A partition of two cores, sites 1 and 2, whose launch declares four pieces of the page: rw, ro, bound rw and a reduction. -/
def world : State := base.updPart 0 fun p => { p with
  cores := [1, 2], bound := [1, 2],
  launches := p.launches.map fun l => { l with regions := [⟨0, 2, 8, 0, 0, [(2 ^ 55 + 0x2000, 16)],
    [⟨0x1000, 0x1000, 0, 3⟩, ⟨0x2000, 0x1000, 0, 1⟩, ⟨0x3000, 0x1000, 0x80000000001000, 3⟩, ⟨0x4000, 0x100, 0, 2⟩]⟩] } }

/-- The world with registers of the executing context set. -/
def wr (l : List (Nat × Nat)) : State :=
  world.setMe (l.foldl (fun c e => c.put (BitVec.ofNat 5 e.1) (BitVec.ofNat 64 e.2)) world.me)

/-- Nothing holds back an access. -/
def open' (s : State) (r : Option Range) (w : Bool) : Bool :=
  !s.me.acquiring && decide (s.me.stall = none) && match r with
    | none => true
    | some q => match s.gate s.cur.1 s.cur.2 q w with
      | .free => true
      | _ => false

theorem passes_of_open {s : State} {r : Option Range} {w : Bool} (h : open' s r w = true) : Passes s r w := by
  simp only [open', Bool.and_eq_true, Bool.not_eq_true', decide_eq_true_eq] at h
  obtain ⟨⟨h1, h2⟩, h3⟩ := h
  refine ⟨h1, fun _ _ _ _ _ e => ?_, fun q hq => ?_⟩
  · rw [h2] at e; cases e
  · subst hq
    revert h3
    dsimp only
    split
    · rename_i e; intro; exact e
    · intro h; cases h

theorem witness_ld_misaligned : ∃ s c, Issues s memHints [1] [3] true false false [0x8000001] c :=
  ⟨regs [(1, 0x8000001)], _, issues_of_can (by decide)⟩
theorem witness_ld_private_last : ∃ s c, Issues s memHints [1] [3] true false false [0x8003FF8] c
    ∧ Passes s (rangeOf (s.lcn 1) 0 0x8003FF8 8) false :=
  ⟨regs [(1, 0x8003FF8)], _, issues_of_can (by decide), passes_of_open (by decide)⟩
theorem witness_ld_window : ∃ s c, Issues s memHints [1] [3] true false false [0x1801F400] c ∧ placeOfLocal 0x1801F400 = .win 7 0x1F400
    ∧ Passes s (rangeOf (s.lcn 1) 0 0x1801F400 8) false :=
  ⟨blocks.setMe (blocks.me.put 1 0x1801F400), _, issues_of_can (by decide), by decide, passes_of_open (by decide)⟩
theorem witness_ld_remote : ∃ s c, Issues s memHints [1] [3] true false false [0x1000110000000] c ∧ spaceOf 0x1000110000000 = .remote
    ∧ remoteLcn 0x1000110000000 < s.ncores 1 ∧ placeOfLocal (remoteLocal 0x1000110000000) = .win 0 0
    ∧ Passes s (rangeOf (s.lcn 1) 0 0x1000110000000 8) false ∧ c.ld < 63 ∧ s.coreCanSend 1 (remoteLcn 0x1000110000000) = true :=
  ⟨wr [(1, 0x1000110000000)], _, issues_of_can (by decide), by decide, by decide, by decide, passes_of_open (by decide), by decide, by decide⟩
theorem witness_ld_global : ∃ s c ppa idx r p, Issues s memHints [1] [3] true false false [0x80000000001000] c
    ∧ s.checkGlobal 1 c.vintage c.region 0x80000000001000 8 .load = .ok ppa idx r ∧ Passes s (rangeOf (s.lcn 1) 0 0x80000000001000 8) false
    ∧ s.partAt 1 = some p ∧ s.myCore.forward 0 ppa 8 = .none ∧ s.cacheable 1 c.vintage 0x80000000001000 idx r = false ∧ c.ld < 63
    ∧ s.coreCanSend 1 (p.slotEp ppa) = true :=
  ⟨wr [(1, 0x80000000001000)], _, 0x1000, 0, ⟨0x1000, 0x1000, 0, 3⟩, (world.partAt 1).getD placePart, issues_of_can (by decide), by decide,
    passes_of_open (by decide), by decide, by decide, by decide, by decide, by decide⟩
/-- After a store to the rw region the queue forwards its bytes. -/
def queued : State := after (.st 2 1 .b64 0) (wr [(1, 0x80000000001000), (2, 0x1122)])
theorem witness_ld_forward : ∃ ppa l, queued.myCore.forward 0 ppa 8 = .bytes l ∧ l.length = 8 :=
  ⟨0x1000, [0x22, 0x11, 0, 0, 0, 0, 0, 0], by decide⟩
/-- The ro region's first line in the line cache. -/
def lined : State :=
  let s := wr [(1, 0x80000000002008)]
  s.setMyCore { s.myCore with cache := [⟨1, false, 0, 0x2000, List.replicate 64 7⟩] }
theorem witness_ld_cached : ∃ s c ppa idx r p l, Issues s memHints [1] [3] true false false [0x80000000002008] c
    ∧ s.checkGlobal 1 c.vintage c.region 0x80000000002008 8 .load = .ok ppa idx r ∧ Passes s (rangeOf (s.lcn 1) 0 0x80000000002008 8) false
    ∧ s.partAt 1 = some p ∧ s.myCore.forward 0 ppa 8 = .none ∧ s.cacheable 1 c.vintage 0x80000000002008 idx r = true
    ∧ s.isReduction p c.vintage ppa 8 = false ∧ s.myCore.cachedLine c.vintage false (ppa / 64 * 64) = some l ∧ ppa % 64 + 8 ≤ l.data.length :=
  ⟨lined, _, 0x2008, 1, ⟨0x2000, 0x1000, 0, 1⟩, (world.partAt 1).getD placePart, ⟨1, false, 0, 0x2000, List.replicate 64 7⟩, issues_of_can (by decide),
    by decide, passes_of_open (by decide), by decide, by decide, by decide, by decide, by decide, by decide⟩
theorem test_ld_forwards_a_queued_store : x (after (.ld 3 1 .x64 0) queued) 3 = 0x1122 := by decide
theorem test_ld_sends_its_request : ((after (.ld 3 1 .x64 0) (wr [(1, 0x80000000001000)])).me.ld, moved (after (.ld 3 1 .x64 0) (wr [(1, 0x80000000001000)])))
    = (1, 4) := by decide
theorem test_ld_undeclared_traps : (after (.ld 3 1 .x64 0) (wr [(1, 0x80000000000100)])).me.cause = 0x08 := by decide
theorem test_ld_reserved_place_traps : (after (.ld 3 1 .x64 0) (wr [(1, 0x10000000)])).me.cause = 0x05 := by decide
theorem test_ld_extends : x (after (.ld 3 1 .i8 0) ((regs [(1, 0x8000010)]).scrWrite 1 0x2E0010 [0x80])) 3 = 2 ^ 64 - 128 := by decide

/-- A state with one buffer of 4 KiB at offset 0, in some state and with some owner. -/
def buffer (st : BState) (owner : Nat) (s : State) : State :=
  s.setMyCore { s.myCore with bufs := [(1, [(3, ⟨st, owner, 0x1000, 0, true, none⟩)])] }

theorem witness_st_misaligned : ∃ s c, Issues s memHints [1, 2] [] true false false [0x8000001, 7] c ∧ s.cur.2 < 8 ∧ Memory.wf s.mem = true :=
  ⟨regs [(1, 0x8000001), (2, 7)], _, issues_of_can (by decide), by decide, by decide⟩
theorem witness_st_private : ∃ s c, Issues s memHints [1, 2] [] true false false [0x8003FF8, 7] c ∧ s.cur.2 < 8 ∧ Memory.wf s.mem = true
    ∧ Passes s (rangeOf (s.lcn 1) 0 0x8003FF8 8) true :=
  ⟨regs [(1, 0x8003FF8), (2, 7)], _, issues_of_can (by decide), by decide, by decide, passes_of_open (by decide)⟩
theorem witness_st_filling : ∃ s c i b, Issues s memHints [1, 2] [] true false false [0x10000FF8, 7] c ∧ Memory.wf s.mem = true
    ∧ Passes s (rangeOf (s.lcn 1) 0 0x10000FF8 8) true ∧ s.myCore.bufAt c.vintage 0xFF8 8 = some (i, b) ∧ b.owner = 0 ∧ b.held = none
    ∧ b.state = .filling :=
  ⟨buffer .filling 0 (regs [(1, 0x10000FF8), (2, 7)]), _, 3, ⟨.filling, 0, 0x1000, 0, true, none⟩, issues_of_can (by decide), by decide,
    passes_of_open (by decide), by decide⟩
theorem witness_st_other_state : ∃ s c i b, Issues s memHints [1, 2] [] true false false [0x10000000, 7] c ∧ Memory.wf s.mem = true
    ∧ Passes s (rangeOf (s.lcn 1) 0 0x10000000 8) true ∧ s.myCore.bufAt c.vintage 0 8 = some (i, b) ∧ b.owner = 0 ∧ b.held = none
    ∧ b.state ≠ .filling :=
  ⟨buffer .full 0 (regs [(1, 0x10000000), (2, 7)]), _, 3, ⟨.full, 0, 0x1000, 0, true, none⟩, issues_of_can (by decide), by decide,
    passes_of_open (by decide), by decide⟩
theorem witness_st_other_owner : ∃ s c i b, Issues s memHints [1, 2] [] true false false [0x10000000, 7] c ∧ Memory.wf s.mem = true
    ∧ Passes s (rangeOf (s.lcn 1) 0 0x10000000 8) true ∧ s.myCore.bufAt c.vintage 0 8 = some (i, b) ∧ b.owner ≠ 0 ∧ c.st < 63 :=
  ⟨buffer .filling 2 (regs [(1, 0x10000000), (2, 7)]), _, 3, ⟨.filling, 2, 0x1000, 0, true, none⟩, issues_of_can (by decide), by decide,
    passes_of_open (by decide), by decide⟩
theorem witness_st_no_buffer : ∃ s c, Issues s memHints [1, 2] [] true false false [0x10FFFFF8, 7] c ∧ Memory.wf s.mem = true
    ∧ Passes s (rangeOf (s.lcn 1) 0 0x10FFFFF8 8) true ∧ s.myCore.bufAt c.vintage 0xFFFFF8 8 = none :=
  ⟨buffer .filling 0 (regs [(1, 0x10FFFFF8), (2, 7)]), _, issues_of_can (by decide), by decide, passes_of_open (by decide), by decide⟩
theorem witness_st_forbidden_window : ∃ s c, Issues s memHints [1, 2] [] true false false [0x11000000, 7] c ∧ Memory.wf s.mem = true :=
  ⟨regs [(1, 0x11000000), (2, 7)], _, issues_of_can (by decide), by decide⟩
theorem witness_st_remote : ∃ s c, Issues s memHints [1, 2] [] true false false [0x1000110000000, 7] c ∧ Memory.wf s.mem = true
    ∧ remoteLcn 0x1000110000000 < s.ncores 1 ∧ Passes s (rangeOf (s.lcn 1) 0 0x1000110000000 8) true ∧ c.st < 63
    ∧ s.coreCanSend 1 (remoteLcn 0x1000110000000) = true :=
  ⟨wr [(1, 0x1000110000000), (2, 7)], _, issues_of_can (by decide), by decide, by decide, passes_of_open (by decide), by decide, by decide⟩
theorem witness_st_global : ∃ s c ppa idx r, Issues s memHints [1, 2] [] true false false [0x80000000001000, 7] c ∧ Memory.wf s.mem = true
    ∧ s.checkGlobal 1 c.vintage c.region 0x80000000001000 8 .store = .ok ppa idx r ∧ Passes s (rangeOf (s.lcn 1) 0 0x80000000001000 8) true
    ∧ c.st < 63 ∧ (s.myCore.enqueue 0 c.vintage c.issued ppa (leBytes 8 7)).isSome = true :=
  ⟨wr [(1, 0x80000000001000), (2, 7)], _, 0x1000, 0, ⟨0x1000, 0x1000, 0, 3⟩, issues_of_can (by decide), by decide, by decide,
    passes_of_open (by decide), by decide, by decide⟩
theorem test_st_writes_its_bytes_only :
    memRead (after (.st 2 1 .b16 0) ((regs [(1, 0x8000010), (2, 0x11223344)]).scrWrite 1 0x2E0010 [1, 2, 3])).mem (scrAddr 1 0x2E0010) 3
      = [0x44, 0x33, 3] := by decide
theorem test_st_zero_keeps_the_form :
    Memory.wf (after (.st 0 1 .b64 0) ((regs [(1, 0x8000010)]).scrWrite 1 0x2E0010 [1, 2, 3])).mem = true := by decide
theorem test_st_ro_region_traps : (after (.st 2 1 .b64 0) (wr [(1, 0x80000000002000)])).me.cause = 0x05 := by decide

theorem witness_ldp_misaligned : ∃ s c, Issues s noHints [1] [3] true false false [1] c := ⟨wr [(1, 1)], _, issues_of_can (by decide)⟩
theorem witness_ldp_unbound : ∃ s c, Issues s noHints [0] [3] true false false [0] c ∧ c.acquiring = false ∧ s.paramOf 1 c.vintage c.region 1 = none :=
  ⟨world, _, issues_of_can (by decide), by decide, by decide⟩
theorem witness_ldp_at_the_bound : ∃ s c at' bound, Issues s noHints [1] [3] true false false [16] c ∧ c.acquiring = false
    ∧ s.paramOf 1 c.vintage c.region 0 = some (at', bound) ∧ bound ≤ 16 :=
  ⟨wr [(1, 16)], _, 2 ^ 55 + 0x2000, 16, issues_of_can (by decide), by decide⟩
theorem witness_ldp_below_the_bound : ∃ s c at' bound m p, Issues s noHints [1] [3] true false false [15] c ∧ c.acquiring = false
    ∧ s.paramOf 1 c.vintage c.region 0 = some (at', bound) ∧ 15 < bound
    ∧ s.translate 1 c.vintage (pageOf (BitVec.ofNat 56 (at' + 15))) = .hit m ∧ m.rd = true ∧ s.partAt 1 = some p
    ∧ s.myCore.cachedLine c.vintage false 0x2000 = none ∧ c.ld < 63 ∧ s.coreCanSend 1 (p.slotEp 0x200F) = true :=
  ⟨wr [(1, 15)], _, 2 ^ 55 + 0x2000, 16, ⟨0, true, true, true⟩, (world.partAt 1).getD placePart, issues_of_can (by decide), by decide⟩
theorem test_ldp_above_the_bound : x (after (.ldp 3 1 .n8 0 0) (wr [(1, 16)])) 3 = 0
    ∧ (after (.ldp 3 1 .n8 0 0) (wr [(1, 16)])).me.sticky = 0x02 := by decide
theorem test_ldp_unbound_traps : (after (.ldp 3 0 .n8 1 0) world).me.cause = 0x06
    ∧ (after (.ldp 3 0 .n8 1 0) world).me.faddr = 0x9010000 := by decide

theorem witness_amo_private : ∃ s c, Issues s noHints [1, 2] [3] true false false [0x8003FFC, 7] c ∧ Memory.wf s.mem = true
    ∧ Passes s (rangeOf (s.lcn 1) 0 0x8003FFC 4) true ∧ s.releaseReady 1 c 0x8003FFC .p = true ∧ c.oldestPosted (fun _ => true) = none :=
  ⟨regs [(1, 0x8003FFC), (2, 7)], _, issues_of_can (by decide), by decide, passes_of_open (by decide), by decide, by decide⟩
theorem witness_cas_private : ∃ s c, Issues s noHints [1, 2, 3] [3] true false false [0x8000000, 7, 0] c ∧ Memory.wf s.mem = true
    ∧ Passes s (rangeOf (s.lcn 1) 0 0x8000000 8) true :=
  ⟨regs [(1, 0x8000000), (2, 7)], _, issues_of_can (by decide), by decide, passes_of_open (by decide)⟩
theorem witness_red_private : ∃ s c, Issues s noHints [1, 2] [] true false false [0x8000000, 7] c ∧ Memory.wf s.mem = true
    ∧ Passes s (rangeOf (s.lcn 1) 0 0x8000000 8) true :=
  ⟨regs [(1, 0x8000000), (2, 7)], _, issues_of_can (by decide), by decide, passes_of_open (by decide)⟩
theorem witness_atomic_misaligned : ∃ s c, Issues s noHints [1, 2] [3] true false false [0x8000004, 7] c ∧ (0x8000004 : Nat) % 8 ≠ 0 :=
  ⟨regs [(1, 0x8000004), (2, 7)], _, issues_of_can (by decide), by decide⟩
theorem witness_amo_filling : ∃ s c i q, Issues s noHints [1, 2] [3] true false false [0x10000000, 7] c ∧ Memory.wf s.mem = true
    ∧ Passes s (rangeOf (s.lcn 1) 0 0x10000000 8) true ∧ s.myCore.bufAt c.vintage 0 8 = some (i, q) ∧ q.owner = 0 ∧ q.held = none
    ∧ q.state = .filling ∧ s.pointHeld 1 0 = false :=
  ⟨buffer .filling 0 (regs [(1, 0x10000000), (2, 7)]), _, 3, ⟨.filling, 0, 0x1000, 0, true, none⟩, issues_of_can (by decide), by decide,
    passes_of_open (by decide), by decide⟩
theorem witness_amo_other_state : ∃ (s : State) (i : Nat) (q : Buf), s.myCore.bufAt 1 0 8 = some (i, q) ∧ q.owner = 0 ∧ q.held = none ∧ q.state ≠ .filling :=
  ⟨buffer .draining 0 base, 3, ⟨.draining, 0, 0x1000, 0, true, none⟩, by decide⟩
theorem test_amo_add : x (after (.amo 3 1 2 .add .w32 .none .cx) ((regs [(1, 0x8000000), (2, 5)]).scrWrite 1 0x2E0000 [0xFF, 0xFF, 0xFF, 0xFF])) 3
      = 2 ^ 64 - 1
    ∧ memRead (after (.amo 3 1 2 .add .w32 .none .cx) ((regs [(1, 0x8000000), (2, 5)]).scrWrite 1 0x2E0000 [0xFF, 0xFF, 0xFF, 0xFF])).mem
        (scrAddr 1 0x2E0000) 5 = [4, 0, 0, 0, 0] := by decide
theorem test_cas_mismatch_keeps : memRead (after (.cas 3 1 2 .w64 .none .cx) (regs [(1, 0x8000000), (2, 5), (3, 9)])).mem
    (scrAddr 1 0x2E0000) 1 = [0] := by decide
theorem test_red_min : memRead (after (.red 1 2 .min .w64 .none .cx) (regs [(1, 0x8000000), (2, 2 ^ 64 - 1)])).mem (scrAddr 1 0x2E0000) 8
    = [255, 255, 255, 255, 255, 255, 255, 255] := by decide

/-! ### Ordering, buffers, messages -/

theorem witness_acq_rel : ∃ s c p ppa idx r, Issues s noHints [1] [] true false false [0x80000000001000] c ∧ s.partAt 1 = some p
    ∧ s.checkGlobal 1 c.vintage c.region 0x80000000001000 8 .atom = .ok ppa idx r ∧ s.isReduction p c.vintage ppa 8 = false
    ∧ Passes s (rangeOf (s.lcn 1) 0 0x80000000001000 8) true ∧ s.myCore.granuleQueued 0 ppa = false
    ∧ s.coreCanSend 1 (p.slotEp ppa) = true ∧ s.me.hold = .none ∧ c.oldestPosted (fun _ => true) = none
    ∧ s.releaseReady 1 c 0x80000000001000 .p = true ∧ c.st < 63 :=
  ⟨wr [(1, 0x80000000001000)], _, (world.partAt 1).getD placePart, 0x1000, 0, ⟨0x1000, 0x1000, 0, 3⟩, issues_of_can (by decide), by decide,
    by decide, by decide, passes_of_open (by decide), by decide, by decide, by decide, by decide, by decide, by decide⟩
theorem witness_acq_done : ∃ s c, Issues s noHints [1] [] true false false [0] c ∧ s.me.hold = .acqDone none ∧ c.oldestPosted (fun _ => true) = none :=
  ⟨ctxt fun c => { c with hold := .acqDone none }, _, issues_of_can (by decide), by decide, by decide⟩
theorem witness_acq_refused : ∃ s c, Issues s noHints [1] [] true false false [0] c ∧ s.me.hold = .acqDone (some 5) :=
  ⟨ctxt fun c => { c with hold := .acqDone (some 5) }, _, issues_of_can (by decide), by decide⟩
theorem witness_acq_waits : ∃ s c, Issues s noHints [1] [] true false false [0] c ∧ s.me.hold = .acq :=
  ⟨ctxt fun c => { c with hold := .acq }, _, issues_of_can (by decide), by decide⟩
theorem witness_fence_clear : ∃ s c, Issues s noHints [] [] true false false [] c ∧ c.allPerformed .s = true ∧ c.acquiring = false
    ∧ c.oldestPosted (fun _ => true) = none := ⟨base, _, issues_of_can (by decide), by decide, by decide, by decide⟩
theorem witness_fence_waits : ∃ s c, Issues s noHints [] [] true false false [] c ∧ c.allPerformed .s = false :=
  ⟨after (.ld 3 1 .x64 0) (wr [(1, 0x80000000001000)]), _, issues_of_can (by decide), by decide⟩
/-- A context with a posted fault of its load number 0. -/
def postedState : State := ctxt fun c => { c with posted := [⟨.ld, 0, 0x05, 0x1234, 0⟩], issued := 1 }
theorem witness_fence_posted : ∃ s c p, Issues s noHints [] [] true false false [] c ∧ c.allPerformed .s = true ∧ c.acquiring = false
    ∧ c.oldestPosted (fun _ => true) = some p := ⟨postedState, _, ⟨.ld, 0, 0x05, 0x1234, 0⟩, issues_of_can (by decide), by decide, by decide, by decide⟩
theorem witness_wait_waits : ∃ s c, Issues s noHints [] [] true false false [] c ∧ (0 : BitVec 4).toNat < c.ld :=
  ⟨after (.ld 3 1 .x64 0) (wr [(1, 0x80000000001000)]), _, issues_of_can (by decide), by decide⟩
theorem witness_wait_passes : ∃ s c, Issues s noHints [] [] true false false [] c ∧ c.ld ≤ (0 : BitVec 4).toNat ∧ c.st ≤ (0 : BitVec 4).toNat
    ∧ c.tl ≤ (0 : BitVec 4).toNat ∧ c.cp ≤ (0 : BitVec 4).toNat ∧ s.pointHeld 1 0 = false ∧ s.me.abortMask = 0 :=
  ⟨base, _, issues_of_can (by decide), by decide, by decide, by decide, by decide, by decide, by decide⟩
theorem test_wait_raises_a_posted_fault : (after (.wait 0 0 0 0) postedState).me.cause = 0x05
    ∧ (after (.wait 0 0 0 0) postedState).me.faddr = 0x1234 := by decide
theorem test_wait_raises_an_abort : (after (.wait 0 0 0 0) (ctxt fun c => { c with abortMask := 4 })).me.cause = 0x09 := by decide
theorem test_fence_passes : moved (after (.fence .s) base) = 4 := by decide

theorem witness_buffer_transitions :
    (Issues (buffer .empty 0 base) noHints [] [] true false false [] base.me ∧ (buffer .empty 0 base).pointHeld 1 0 = false)
      ∧ (buffer .empty 0 base).myCore.buf 1 3 = ⟨.empty, 0, 0x1000, 0, true, none⟩
      ∧ ((buffer .filling 0 base).deliveryPoint 1 0).bufWriting 1 ⟨.filling, 0, 0x1000, 0, true, none⟩ = false
      ∧ ((buffer .draining 0 base).deliveryPoint 1 0).bufReading 1 ⟨.draining, 0, 0x1000, 0, true, none⟩ = false :=
  ⟨⟨⟨by decide, by decide, by decide, by decide, by decide⟩, by decide⟩, by decide, by decide, by decide⟩
theorem test_bfill : ((after (.bfill 3) (buffer .empty 0 base)).myCore.buf 1 3).state = .filling := by decide
theorem test_bfill_full_faults : (after (.bfill 3) (buffer .full 0 base)).me.cause = 0x07 := by decide
theorem test_bfull_needs_its_owner : (after (.bfull 3) (buffer .filling 5 base)).me.cause = 0x07 := by decide
theorem test_bfull_waits_for_its_copies : ((after (.bfull 3) ((buffer .filling 0 base).updCore 1 fun c => { c with
    opens := [⟨⟨0, 0, 0, 0, 1, 0, 0⟩, 1, 0, 0x1000, false, 0, 0, none⟩] })).myCore.buf 1 3).state = .filling := by decide
theorem test_bempty : ((after (.bempty 3) (buffer .draining 0 base)).myCore.buf 1 3).state = .empty := by decide
theorem test_bstat : x (after (.bstat 4 3) (buffer .draining 2 base)) 4 = 4 + 2 ^ 3 * 2 + 2 ^ 16 * 64 := by decide

/-! ### Messages, records and tasks -/

theorem witness_get_misaligned : ∃ s c, Issues s noHints [1, 2] [] true false false [0x1000110000004, 0x8000000] c
    ∧ (BitVec.ofNat 56 0x1000110000004 : Addr).toNat % 8 ≠ 0 := ⟨wr [(1, 0x1000110000004), (2, 0x8000000)], _, issues_of_can (by decide), by decide⟩
theorem witness_get_local_misaligned : ∃ s c, Issues s noHints [1, 2] [] true false false [0x1000110000000, 0x8000004] c :=
  ⟨wr [(1, 0x1000110000000), (2, 0x8000004)], _, issues_of_can (by decide)⟩
theorem witness_get_remote : ∃ s c, Issues s noHints [1, 2] [] true false false [0x1000110000000, 0x8003FF8] c
    ∧ Passes s (rangeOf (s.lcn 1) 0 0x1000110000000 8) false ∧ Passes s (rangeOf (s.lcn 1) 0 0x1000110000000 8) true
    ∧ Passes s (rangeOf (s.lcn 1) 0 0x8003FF8 8) false ∧ c.ld < 63 ∧ c.st < 63 ∧ spaceOf 0x1000110000000 = .remote
    ∧ remoteLcn 0x1000110000000 < s.ncores 1 ∧ placeOfLocal (remoteLocal 0x1000110000000) = .win 0 0
    ∧ s.coreCanSend 1 (remoteLcn 0x1000110000000) = true :=
  ⟨wr [(1, 0x1000110000000), (2, 0x8003FF8)], _, issues_of_can (by decide), passes_of_open (by decide), passes_of_open (by decide),
    passes_of_open (by decide), by decide, by decide, by decide, by decide, by decide, by decide⟩
theorem witness_get_global : ∃ s c p ppa i r, Issues s noHints [1, 2] [] true false false [0x80000000001000, 0x8000000] c
    ∧ Passes s (rangeOf (s.lcn 1) 0 0x80000000001000 256) true ∧ s.partAt 1 = some p ∧ s.coreCanSend 1 (p.slotEp ppa) = true
    ∧ s.myCore.wq.any (fun e => e.ctx == 0 && e.line / 256 == ppa / 256) = false
    ∧ s.checkGlobal 1 c.vintage c.region 0x80000000001000 256 .load = .ok ppa i r
    ∧ s.checkGlobal 1 c.vintage c.region 0x80000000001000 256 .store = .ok ppa i r :=
  ⟨wr [(1, 0x80000000001000), (2, 0x8000000)], _, (world.partAt 1).getD placePart, 0x1000, 0, ⟨0x1000, 0x1000, 0, 3⟩,
    issues_of_can (by decide), passes_of_open (by decide), by decide, by decide, by decide, by decide, by decide⟩
/-- A core with two queued replies of tag 5 and one of tag 6. -/
def replied : State := base.setMyCore { base.myCore with replies := [⟨6, 0, 8⟩, ⟨5, 0, 7⟩, ⟨5, 1, 9⟩] }
theorem witness_recv : Issues replied noHints [] [3] true false false [] replied.me ∧ replied.pointHeld 1 0 = false
    ∧ ((replied.deliveryPoint 1 0).core 1).replies.length = 3 := ⟨⟨by decide, by decide, by decide, by decide, by decide⟩, by decide, by decide⟩
theorem test_recv_takes_the_oldest : x (after (.recv 3 5) replied) 3 = 7 ∧ (after (.recv 3 5) replied).myCore.replies.length = 2 := by decide
theorem test_recv_of_an_empty_tag : x (after (.recv 3 4) replied) 3 = 0 ∧ (after (.recv 3 4) replied).myCore.replies.length = 3 := by decide
theorem witness_tbind_zero : ∃ s c, Issues s noHints [1] [] true false false [0] c := ⟨wr [], _, issues_of_can (by decide)⟩
/-- A core with a declared empty buffer of 4 KiB at offset 0 in the world. -/
def records (l : List (Nat × Nat)) : State := buffer .empty 0 (wr l)
theorem witness_tbind_record : ∃ s c h r, Issues s noHints [1] [] true false false [0x10000040] c ∧ s.recAddr c 0x10000040 = .home h r :=
  ⟨records [(1, 0x10000040)], _, _, _, issues_of_can (by decide), rfl⟩
theorem witness_tbind_fault : ∃ s c, Issues s noHints [1] [] true false false [0x10000044] c ∧ s.recAddr c 0x10000044 = .fault 0x03 :=
  ⟨records [(1, 0x10000044)], _, issues_of_can (by decide), rfl⟩
theorem test_geta_counts : (after (.geta 2 1 2 0) (wr [(1, 0x1000110000000), (2, 0x8003FF8)])).me.ld = 1
    ∧ (after (.geta 2 1 2 0) (wr [(1, 0x1000110000000), (2, 0x8003FF8)])).myCore.tagCnt[2]? = some 1 := by decide
theorem test_puta_counts : (after (.puta 2 1 2 0) (wr [(1, 0x1000110000000), (2, 0x8003FF8)])).me.st = 1 := by decide
theorem test_puta_granule_crossing_traps : (after (.puta 2 1 2 1) (wr [(1, 0x800000000010F8), (2, 0x8000000)])).me.hold = .none := by decide

/-- A region of 4 cores, and a record in some state with some count. -/
def root4 : List Region := [⟨0, 4, 0, 0, 0, [], []⟩]
def aRec (st count : Nat) : Rec := ⟨0x1000, BitVec.ofNat 2 st, false, Vector.replicate 6 0, BitVec.ofNat 16 count, 0, 0, 0, 0⟩
theorem witness_record_idle : (aRec 0 3).state = 0 ∧ ∃ g, root4[(aRec 0 3).region.toNat]? = some g
    ∧ descends root4 0 1 0 = true ∧ 3 < g.cores ∧ g.cores ≤ 4 ∧ (aRec 0 3).pc.toNat % 4 = 0 := by decide
theorem witness_record_states : (aRec 1 1).state = 1 ∧ (aRec 1 1).count = 1 ∧ (aRec 2 0).state = 2 ∧ (aRec 1 65535).count ≠ 0 := by decide
theorem test_spawn_statuses : ((RecOp.spawn 3 0 none 0 1).run root4 (aRec 0 0)).status = 0
    ∧ ((RecOp.spawn 4 0 none 0 1).run root4 (aRec 0 0)).status = 3
    ∧ ((RecOp.spawn 3 0 none 0 1).run root4 (aRec 1 0)).status = 1
    ∧ ((RecOp.spawn 3 0 none 0 1).run root4 { aRec 0 0 with pc := 2 }).status = 4 := by decide
theorem witness_spawn_misaligned : ∃ s c, Issues s { mod := true, prio := true } [1, 2] [3] true false false [0x10000020, 0] c :=
  ⟨records [(1, 0x10000020)], _, issues_of_can (by decide)⟩
theorem witness_spawn_local : ∃ s c q, Issues s { mod := true, prio := true } [1, 2] [3] true false false [0x10000FC0, 0xFFFF] c
    ∧ c.acquiring = false ∧ s.myCore.bufAt c.vintage 0xFC0 64 = some q ∧ s.recordReady 1 0 = true ∧ c.ld < 63 ∧ c.st < 63 :=
  ⟨records [(1, 0x10000FC0), (2, 0xFFFF)], _, (3, ⟨.empty, 0, 0x1000, 0, true, none⟩), issues_of_can (by decide), by decide, by decide, by decide,
    by decide, by decide⟩
theorem witness_decr_local : ∃ s c, Issues s noHints [1] [] true false false [0x10000000] c ∧ c.acquiring = false
    ∧ s.myCore.bufAt c.vintage 0 64 = none := ⟨wr [(1, 0x10000000)], _, issues_of_can (by decide), by decide, by decide⟩
theorem witness_record_not_ready : ∃ s c, Issues s noHints [1] [] true false false [0x10000000] c ∧ s.recordReady 1 0 = false :=
  ⟨after (.st 2 4 .b64 0) (buffer .filling 0 (wr [(1, 0x10000000), (4, 0x1000110000000)])), _, issues_of_can (by decide), by decide⟩
theorem witness_record_remote : ∃ s c, Issues s noHints [1, 2] [] true false false [0x1000110000040, 1] c ∧ c.acquiring = false
    ∧ spaceOf 0x1000110000040 = .remote ∧ remoteLcn 0x1000110000040 < s.ncores 1 ∧ placeOfLocal (remoteLocal 0x1000110000040) = .win 0 0x40
    ∧ s.coreCanSend 1 (remoteLcn 0x1000110000040) = true :=
  ⟨wr [(1, 0x1000110000040), (2, 1)], _, issues_of_can (by decide), by decide, by decide, by decide, by decide, by decide⟩
theorem test_decr_of_a_zero_count : (after (.decr 1) (records [(1, 0x10000000)])).me.st = 0
    ∧ (after (.decr 1) (records [(1, 0x10000000)])).me.posted.length = 1 := by decide
theorem test_depadd_adds : memRead (after (.depadd 1 2) (records [(1, 0x10000000), (2, 5)])).mem (scrAddr 1 0) 64
    ≠ memRead (records [(1, 0x10000000), (2, 5)]).mem (scrAddr 1 0) 64 := by decide

theorem witness_suspend_with_record : ∃ s c, Issues s noHints [] [] true false false [] c ∧ c.task ≠ 0 :=
  ⟨ctxt fun c => { c with task := 0x10000000 }, _, issues_of_can (by decide), by decide⟩
theorem witness_suspend_without : ∃ s c, Issues s noHints [] [] true false false [] c ∧ c.task = 0 ∧ s.me.hold = .none :=
  ⟨base, _, issues_of_can (by decide), by decide, by decide⟩
theorem witness_yield_answers : (∃ s c, Issues s noHints [] [] true false false [] c ∧ s.me.hold = .yieldDone true)
    ∧ (∃ s c, Issues s noHints [] [] true false false [] c ∧ s.me.hold = .yieldDone false)
    ∧ ∃ s c, Issues s noHints [] [] true false false [] c ∧ s.me.hold = .yield :=
  ⟨⟨ctxt fun c => { c with hold := .yieldDone true }, _, issues_of_can (by decide), by decide⟩,
    ⟨ctxt fun c => { c with hold := .yieldDone false }, _, issues_of_can (by decide), by decide⟩,
    ctxt fun c => { c with hold := .yield }, _, issues_of_can (by decide), by decide⟩
theorem witness_exit_in_a_handler : ∃ s c, Issues s noHints [1] [] true false false [0] c ∧ c.tact = true :=
  ⟨ctxt fun c => { c with tact := true }, _, issues_of_can (by decide), by decide⟩
theorem test_exit_status : (after (.exit 1) (regs [(1, 0x100000007)])).me.hold = .suspending (.exit 7) := by decide
theorem test_tself : x (after (.tself 4) (ctxt fun c => { c with task := 0x10000040 })) 4 = 0x10000040 := by decide

/-- The placed launch switched, in the list of vintage states. -/
def switched' : State := base.updPart 0 fun p => { p with
  vstates := [(1, .switched)], launches := p.launches.map fun l => { l with switched := true } }
theorem witness_commit_words : ∃ s c p, s.partAt 1 = some p ∧ Issues s noHints [] [3] true false false [] c ∧ Issues s noHints [] [] true false false [] base.me
    ∧ s.switchedAt 1 c.vintage = true ∧ s.keepAt 1 = none :=
  ⟨switched', _, (switched'.partAt 1).getD placePart, by decide, issues_of_can (by decide), ⟨by decide, by decide, by decide, by decide, by decide⟩, by decide,
    by decide⟩
/-- A running vintage that is not switched. -/
def unswitched : State := base.updPart 0 fun p => { p with vstates := [(1, .running)] }
theorem witness_irrev : ∃ s c p, s.partAt 1 = some p ∧ Issues s noHints [] [] true false false [] c ∧ s.switchedAt 1 c.vintage = false ∧ s.me.hold = .none :=
  ⟨unswitched, _, (unswitched.partAt 1).getD placePart, by decide, issues_of_can (by decide), by decide, by decide⟩
theorem witness_irrev_held : ∃ s c p, s.partAt 1 = some p ∧ Issues s noHints [] [] true false false [] c ∧ s.switchedAt 1 c.vintage = false
    ∧ s.me.hold = .irrev :=
  ⟨after .irrev unswitched, _, ((after .irrev unswitched).partAt 1).getD placePart, by decide, issues_of_can (by decide), by decide, by decide⟩
theorem witness_cmtq : ∃ (s : State) (p : Part) (e : BitVec 32 × VState), s.partAt 1 = some p
    ∧ List.find? (fun (e : BitVec 32 × VState) => e.1 == BitVec.ofNat 32 1) p.vstates = some e :=
  ⟨unswitched, (unswitched.partAt 1).getD placePart, (1, .running), by decide, by decide⟩
theorem witness_ckpt : ∃ s c, Issues s noHints [] [] true false false [] c ∧ s.me.hold = .ckptDone :=
  ⟨ctxt fun c => { c with hold := .ckptDone }, _, issues_of_can (by decide), by decide⟩
theorem test_cmtq_running : x (after (.cmtq 3 1) (unswitched.setMe (me [(1, 1)]))) 3 = 2
    ∧ x (after (.cmtq 3 1) (unswitched.setMe (me [(1, 77)]))) 3 = 0 := by decide
theorem test_provq_empty : x (after (.provq 3) base) 3 = 0 := by decide
theorem test_abort_stops : (after (.abort 1) (regs [(1, 9)])).me.occ ≠ .running := by decide

/-! ### Vector, shape and tile words -/

/-- A record of one to four elements of a type code along dimension 0, at a base, with stride 1. -/
def row (bs ty n : Nat) : Shape :=
  [(0, bs), (1, ty), (3, n), (4, 1), (5, 1), (6, 1), (7, 1)].foldl (fun k e => k.setFld e.1 e.2) Shape.empty

/-- The base state with slots 1 to 3 given three rows of two i32 in the private window, and 1, 2 and 3, 4 in the sources. -/
def rows : State :=
  ((base.scrWrite 1 0x2E0010 [1, 0, 0, 0, 2, 0, 0, 0]).scrWrite 1 0x2E0020 [3, 0, 0, 0, 4, 0, 0, 0]).setMe
    (((base.me.setSlot 1 (row 0x8000010 2 2)).setSlot 2 (row 0x8000020 2 2)).setSlot 3 (row 0x8000030 2 2))

/-- The operation of a vadd of the rows. -/
def addRows (d : Nat) : VOp := ⟨.add, .i32, .rne, false, false, rows.me.slot (BitVec.ofNat 4 d), rows.me.slot 1, rows.me.slot 2⟩

theorem witness_vector_word : ∃ s c, Issues s { mod := true, ftz := true } [] [] false false false [] c ∧ (addRows 3).legal 0 = true
    ∧ ((addRows 3).operands.any fun e => e.1.fld 16 != 0) = false ∧ (addRows 3).aliased s.myCore c.vintage 0 0 0 = false
    ∧ firstData s.myCore c.vintage 0 0 0 (addRows 3).operands = none ∧ (addRows 3).draws = false ∧ s.myCore.vq.length < 16
    ∧ c.acquiring = false ∧ (entryOf s c [addRows 3] 0 0).heldBy s = none :=
  ⟨rows, _, issues_of_can (by decide), by decide, by decide, by decide, by decide, by decide, by decide, by decide, by decide⟩
theorem witness_vector_illegal : (addRows 4).legal 0 = false := by decide
theorem witness_vector_swizzled : ({ addRows 3 with a := (rows.me.slot 1).setFld 16 1 } : VOp).legal 0 = true
    ∧ (({ addRows 3 with a := (rows.me.slot 1).setFld 16 1 } : VOp).operands.any fun e => e.1.fld 16 != 0) = true := by decide
theorem witness_vector_aliased : ({ addRows 3 with d := row 0x8000014 2 2 } : VOp).legal 0 = true
    ∧ ({ addRows 3 with d := row 0x8000014 2 2 } : VOp).aliased rows.myCore 1 0 0 0 = true := by decide
theorem witness_vector_data : ∃ cause fa, firstData rows.myCore 1 0 0 0 ({ addRows 3 with a := row 0x8000012 2 2 } : VOp).operands = some (cause, fa)
    ∧ cause = 0x03 := ⟨_, _, rfl, rfl⟩
/-- The rows with one retained word. -/
def retained (n : Nat) : State := rows.setMe { rows.me.put 1 (BitVec.ofNat 64 n) with window := [addRows 3] }
theorem witness_vloop : ∃ s c, Issues s noHints [1] [] false false false [3] c ∧ c.window.length = 1
    ∧ loopCheck s.myCore c.vintage 0 0 c.window 1 3 = none ∧ (entryOf s c c.window 1 3).heldBy s = none :=
  ⟨retained 3, _, issues_of_can (by decide), by decide, by decide, by decide⟩
theorem witness_vloop_zero : ∃ s c, Issues s noHints [1] [] false false false [0x100000000] c ∧ (0x100000000 : Word).toNat % 2 ^ 32 = 0 :=
  ⟨retained 0x100000000, _, issues_of_can (by decide), by decide⟩
theorem witness_vloop_too_long : ∃ s c, Issues s noHints [1] [] false false false [3] c ∧ c.window.length < 2 :=
  ⟨retained 3, _, issues_of_can (by decide), by decide⟩
theorem witness_vloop_check : ∃ cause fa, loopCheck rows.myCore 1 0 0 [{ addRows 3 with a := row 0x8000012 2 2 }] 1 1 = some (cause, fa) := ⟨_, _, rfl⟩
theorem witness_vsync : (∃ s c, Issues s noHints [] [] false false false [] c ∧ ∃ e ∈ s.myCore.vq, e.ctx = s.cur.2)
    ∧ ∃ s c, Issues s noHints [] [] false false false [] c ∧ ∀ e ∈ s.myCore.vq, e.ctx ≠ s.cur.2 :=
  ⟨⟨after (.vadd 3 1 2 .i32 .rne false) rows, _, issues_of_can (by decide), by decide⟩, rows, _, issues_of_can (by decide), by decide⟩
theorem test_vadd_writes_its_sums :
    memRead (after (.vectorFinish 1) (after (.vadd 3 1 2 .i32 .rne false) rows)).mem (scrAddr 1 0x2E0030) 8 = [4, 0, 0, 0, 6, 0, 0, 0] := by decide
theorem test_vadd_partial_overlap_traps : (after (.vadd 4 1 2 .i32 .rne false)
    (rows.setMe (rows.me.setSlot 4 (row 0x8000014 2 2)))).me.cause = 0x02 := by decide
theorem test_vadd_of_an_empty_slot_traps : (after (.vadd 4 1 2 .i32 .rne false) rows).me.cause = 0x01 := by decide
theorem test_vloop_empties_the_window : (after (.vloop 1 2) (retained 0)).me.cause = 0x01
    ∧ (after (.vloop 1 1) (retained 0)).me.window = [] ∧ moved (after (.vloop 1 1) (retained 0)) = 4 := by decide
theorem witness_integer_elements : DType.i8.isInt = true ∧ 0xFF < 2 ^ DType.i8.width ∧ DType.i64.isInt = true := by decide

/-- The base state with a valid record's bytes at the start of the private window, and x1 at it. -/
def stored' (k : Shape) (a : Nat) : State := (base.scrWrite 1 0x2E0000 k.bytes).setMe (base.me.put 1 (BitVec.ofNat 64 a))
theorem witness_shld : ∃ s c, Issues s noHints [1] [] false false false [0x8000000] c ∧ s.tableMode 1 c.vintage = false
    ∧ s.storedShape 1 c.vintage 0x8000000 = none ∧ Passes s (rangeOf (s.lcn 1) 0 0x8000000 64) false ∧ c.fetched = []
    ∧ (∀ p, s.me.hold ≠ .block p) ∧ ((shapeOf (memRead s.mem (scrAddr 1 0x2E0000) 64)).valid [] = true) :=
  ⟨stored' (row 0x8000010 2 2) 0x8000000, _, issues_of_can (by decide), by decide, by decide, passes_of_open (by decide), by decide,
    fun p h => (by cases h), by decide⟩
theorem witness_shld_misaligned : ∃ s c, Issues s noHints [1] [] false false false [0x8000020] c ∧ s.tableMode 1 c.vintage = false :=
  ⟨stored' (row 0x8000010 2 2) 0x8000020, _, issues_of_can (by decide), by decide⟩
/-- The placed launch in table mode, with one object. -/
def tabled : State := (stored' (row 0x8000010 2 2) 0).updPart 0 fun p => { p with
  objn := 1, launches := p.launches.map fun l => { l with table := true } }
theorem witness_table_mode : ∃ s c p, Issues s noHints [1] [] false false false [0] c ∧ s.tableMode 1 c.vintage = true ∧ s.partAt 1 = some p
    ∧ (0 : Nat) < p.objn := ⟨tabled, _, (tabled.partAt 1).getD placePart, issues_of_can (by decide), by decide, by decide, by decide⟩
theorem witness_shst : ∃ s c, Issues s noHints [1] [] false false false [0x8003FC0] c ∧ Memory.wf s.mem = true ∧ s.tableMode 1 c.vintage = false
    ∧ Passes s (rangeOf (s.lcn 1) 0 0x8003FC0 64) true :=
  ⟨stored' (row 0x8000010 2 2) 0x8003FC0, _, issues_of_can (by decide), by decide, by decide, passes_of_open (by decide)⟩
theorem witness_shst_table_entry : ∃ s c, Issues s noHints [1] [] false false false [0] c ∧ s.tableMode 1 c.vintage = true ∧ (c.slot 5).tabv = true :=
  ⟨tabled.setMe (tabled.me.setSlot 5 (boundShape 0 (row 0x8000010 2 2).bytes)), _, issues_of_can (by decide), by decide, by decide⟩
theorem witness_shset : ∃ s c, Issues s noHints [1] [] false false false [3] c ∧ fitsField 3 3 = true ∧ ((c.slot 1).setFld 3 3).valid [] = true
    ∧ fitsField 3 0x10000 = false := ⟨rows.setMe (rows.me.put 1 3), _, issues_of_can (by decide), by decide, by decide, by decide⟩
theorem test_shld_takes_its_record : ((after (.shld 5 1) (stored' (row 0x8000010 2 2) 0x8000000)).me.slot 5) = row 0x8000010 2 2 := by decide
theorem test_shld_invalid_traps : (after (.shld 5 1) (stored' (row 0x8000010 2 0) 0x8000000)).me.cause = 0x01 := by decide
theorem test_shset_negative_stride : ((after (.shset 1 1 7) (rows.setMe (rows.me.put 1 (0 - 2)))).me.slot 1).stride 0 = -2 := by decide
theorem test_shset_out_of_range_traps : (after (.shset 1 1 3) (rows.setMe (rows.me.put 1 0x10000))).me.cause = 0x01 := by decide
theorem test_shget_sign_extends : x (after (.shget 1 4 7) (after (.shset 1 1 7) (rows.setMe (rows.me.put 1 (0 - 2))))) 4 = 2 ^ 64 - 2 := by decide
theorem test_shobj_in_broadcast_mode_traps : (after (.shobj 5 1) rows).me.cause = 0x05 := by decide

/-- A dense bf16 image with K = 1 and N = 1 of the value 2. -/
def image1 : List Byte := [0xB0, 0, 1, 0, 1, 0, 0, 0, 72, 0, 0, 0, 0, 0, 0, 0] ++ List.replicate 48 0 ++ [0, 0x40, 0, 0, 0, 0, 0, 0]
/-- A context that holds tile 0, an image in slot 1, A in slot 1 with the value 3, and a destination in slot 2. -/
def tiled : State :=
  let s := (base.scrWrite 1 0x2E0010 [0x40, 0x40]).setMe ((base.me.setSlot 1 (row 0x8000010 11 1)).setSlot 2 (row 0x8000020 9 1))
  s.setMyCore { s.myCore with
    wslots := s.myCore.wslots.setIfInBounds 1 (some image1),
    tiles := s.myCore.tiles.setIfInBounds 0 { TileSt.new with holder := some 0, last := 1 } }
theorem witness_image : imgValid image1 = true ∧ imgType image1 = some .bf16 ∧ imgSize image1 = 72 := by decide
theorem witness_mma : ∃ s c, Issues s ftzHints [] [] false false false [] c ∧ s.myCore.holds 0 0 = true ∧ s.myCore.slotHeader 1 = some image1 ∧ imgType image1 = some .bf16
    ∧ (c.slot 1).aTypeOk 0 = true ∧ (c.slot 1).swzLegal = true ∧ (c.slot 1).swzMatches 0 = true ∧ imgK image1 = (c.slot 1).size 0
    ∧ firstData s.myCore c.vintage 0 0 0 [(c.slot 1, false)] = none ∧ s.myCore.tq.length < 8 ∧ c.acquiring = false ∧ c.tl < 63 :=
  ⟨tiled, _, issues_of_can (by decide), by decide, by decide, by decide, by decide, by decide, by decide, by decide, by decide, by decide, by decide⟩
theorem witness_mma_unheld : tiled.myCore.holds 1 0 = false := by decide
theorem witness_mma_layout : ((row 0x8000010 11 1).setFld 16 4).swzLegal = true ∧ ((row 0x8000010 11 1).setFld 16 4).swzMatches 0 = false := by decide
theorem witness_macrd : (tiled.me.slot 2).isTile = true ∧ (tiled.me.slot 2).tileType 0 = some .f32
    ∧ destCheck tiled 1 0 0 (tiled.me.slot 2) = none := by decide
/-- The image in a full buffer at offset 0. -/
def images : State := (buffer .full 0 (regs [(1, 0x10000000)])).scrWrite 1 0 image1
theorem witness_mwld : ∃ s c, Issues s noHints [1] [] false false false [0x10000000] c ∧ Passes s (rangeOf 0 0 0x10000000 64) false
    ∧ rangeCheck s.myCore c.vintage 0 0x10000000 64 = .ok 0 ∧ imgValid (memRead s.mem (scrAddr 1 0) 64) = true
    ∧ rangeCheck s.myCore c.vintage 0 0x10000000 72 = .ok 0 :=
  ⟨images, _, issues_of_can (by decide), passes_of_open (by decide), rfl, by decide, rfl⟩
theorem witness_mwld_refused : rangeCheck images.myCore 1 0 0x10000FC0 72 = .error 0x05 := rfl
theorem witness_mepi : ∃ s c, Issues s ftzHints [1] [] false false false [0x8000040] c ∧ Passes s (rangeOf 0 0 0x8000040 64) false ∧ c.fetched = []
    ∧ (∀ p, s.me.hold ≠ .block p) ∧ epiValid (memRead s.mem (scrAddr 1 0x2E0040) 64) = true :=
  ⟨tiled.setMe (tiled.me.put 1 0x8000040), _, issues_of_can (by decide), passes_of_open (by decide), by decide, fun p h => (by cases h), by decide⟩
theorem witness_macq : ∃ s c, Issues s noHints [] [] false false false [] c ∧ s.myCore.tq.length < 8 ∧ s.myCore.relPending 1 0 = false
    ∧ (s.myCore.tile 1).holder = none ∧ (s.myCore.tile 1).image = none ∧ (s.myCore.tile 1).waiters = [] ∧ (s.myCore.tile 0).holder = some 0 :=
  ⟨tiled, _, issues_of_can (by decide), by decide, by decide, by decide, by decide, by decide, by decide⟩
theorem witness_macq_waits : ∃ s : State, (s.myCore.tile 0).holder ≠ some 0 ∧ (s.myCore.tile 0).holder ≠ none ∧ (s.myCore.tile 0).waiters = [] :=
  ⟨base.setMyCore { base.myCore with tiles := base.myCore.tiles.setIfInBounds 0 { TileSt.new with holder := some 3 } }, by decide⟩
theorem test_macq_takes : ((after (.macq 1) tiled).myCore.tile 1).holder = some 0 := by decide
theorem test_mma_is_queued : ((after (.mma 0 1 1 .bf16 false false .cx true) tiled).myCore.tq.length, (after (.mma 0 1 1 .bf16 false false .cx true) tiled).me.tl)
    = (1, 1) := by decide
theorem test_mma_of_an_unheld_tile : (after (.mma 1 1 1 .bf16 false false .cx true) tiled).me.cause = 0x07 := by decide
theorem test_mma_of_an_empty_slot : (after (.mma 0 7 1 .bf16 false false .cx true) tiled).me.cause = 0x01 := by decide
theorem test_mwld_is_queued : (after (.mwld 2 1 .bf16) images).myCore.tq.length = 1 := by decide
theorem test_mwld_of_another_type : (after (.mwld 2 1 .f16) images).me.cause = 0x01 := by decide
theorem test_mrel_of_an_unheld_tile : moved (after (.mrel 3) tiled) = 4 := by decide

/-! ### Copies, streams and channels -/

/-- A block that lies in the private window or a readable buffer is at hand at once. -/
theorem bytes_of_read {s : State} {c : Ctx} {a : Addr} {n : Nat} {l : List Byte} (k : List Byte → Out)
    (hh : (match s.me.hold with | .block _ => false | _ => true) = true) (h : readBlock s c a n = .bytes l) : withBlock s c a n k = k l := by
  unfold withBlock
  split <;> rename_i e <;> split at e <;> first | (rw [h] at e; cases e; rfl) | (rename_i e'; rw [e'] at hh; cases hh) | (rw [h] at e; cases e)

/-- A record whose 64 bytes are at hand is read. -/
theorem record_read {s : State} {c : Ctx} {a : Addr} {l : List Byte} (h1 : aligned a 64 = true) (h2 : s.storedPat s.cur.1 c.vintage a = none)
    (h3 : open' s (rangeOf (s.lcn s.cur.1) s.cur.2 (ownLocal (s.lcn s.cur.1) a) 64) false = true)
    (hh : (match s.me.hold with | .block _ => false | _ => true) = true) (h4 : readBlock s c a 64 = .bytes l) : RecordRead s c a (patOf l) := by
  intro k
  unfold withRecord
  simp only [h1, Bool.not_true, Bool.false_eq_true, if_false, h2]
  rw [gated_free _ (passes_of_open h3), bytes_of_read _ hh h4]

/-- Bytes of one line that are at hand are read. -/
theorem bytes_read {s : State} {c : Ctx} {a : Addr} {n : Nat} {l : List Byte} (fuel : Nat) (hn : n ≠ 0) (hl : min n (64 - a.toNat % 64) = n)
    (h3 : open' s (rangeOf (s.lcn s.cur.1) s.cur.2 (ownLocal (s.lcn s.cur.1) a) n) false = true)
    (hh : (match s.me.hold with | .block _ => false | _ => true) = true) (h4 : readBlock s c a n = .bytes l) : BytesRead s c (fuel + 1) a n l := by
  intro k
  simp only [withBytes, hn, if_false, hl, List.nil_append]
  rw [gated_free _ (passes_of_open h3), bytes_of_read _ hh h4]
  cases fuel <;> simp [withBytes]

/-- A pattern of elements of 2^e bytes: base, sizes and strides of two dimensions. -/
def patBytes (bs e n0 n1 st0 st1 : Nat) : List Byte :=
  leBytes 8 (bs + 2 ^ 56 * e) ++ leBytes 8 (n0 + 2 ^ 16 * n1 + 2 ^ 32 + 2 ^ 48) ++ leBytes 8 (1 + 2 ^ 16 + 2 ^ 32 + 2 ^ 48)
    ++ leBytes 8 (st0 + 2 ^ 32 * st1) ++ List.replicate 32 0

/-- Two words in a full buffer at offset 0 and the first two words of the rw region, their records at the start of the private window,
a table of two rows and an index list of one index after them. -/
def copies : State :=
  let s := buffer .full 0 (wr [(1, 0x8000000), (2, 0x8000040), (4, 0x80000C0), (5, 0x8000080)])
  [(5, [1, 0, 0, 0, 0, 0, 0, 0, 1]), (4, patBytes 0x80000000001100 3 1 1 1 1), (3, patBytes 0x10000000 3 1 2 1 1),
    (2, patBytes 0x80000000002000 3 2 1 1 0), (1, patBytes 0x80000000001000 3 2 1 1 0), (0, patBytes 0x10000000 3 2 1 1 0)].foldl
    (fun t e => t.scrWrite 1 (0x2E0000 + 64 * e.1) e.2) s

theorem witness_record_read : ∃ c, Issues copies noHints [1, 2] [3] true false false [0x8000000, 0x8000040] c
    ∧ RecordRead copies c 0x8000000 (patOf (patBytes 0x10000000 3 2 1 1 0)) ∧ RecordRead copies c 0x8000040 (patOf (patBytes 0x80000000001000 3 2 1 1 0)) :=
  ⟨_, issues_of_can (by decide +kernel), record_read (by decide +kernel) (by decide +kernel) (by decide +kernel) (by decide +kernel) (by decide +kernel),
    record_read (by decide +kernel) (by decide +kernel) (by decide +kernel) (by decide +kernel) (by decide +kernel)⟩
theorem witness_record_misaligned : (BitVec.ofNat 56 0x8000020 : Addr).toNat % 64 ≠ 0 := by decide +kernel
theorem witness_record_place : copies.storedPat 1 1 0x8000000 = none ∧ Passes copies (rangeOf 0 0 (ownLocal 0 0x8000000) 64) false
    ∧ copies.me.fetched = [] := ⟨by decide +kernel, passes_of_open (by decide +kernel), by decide +kernel⟩
theorem witness_copy_checks : firstFail [copies.patFail copies.me (patOf (patBytes 0x10000000 3 2 1 1 0)) (.source true),
      copies.patFail copies.me (patOf (patBytes 0x80000000001000 3 2 1 1 0)) .dest] = none
    ∧ (patOf (patBytes 0x80000000001000 3 2 1 1 0)).once = true ∧ (patOf (patBytes 0x80000000001000 3 2 1 1 0)).canonical = true
    ∧ copies.spansShare (patOf (patBytes 0x10000000 3 2 1 1 0)) (patOf (patBytes 0x80000000001000 3 2 1 1 0)) = false
    ∧ (copies.myCore.chan 2).live.length < 4 ∧ copies.me.cp < 63 ∧ copies.me.acquiring = false := by decide +kernel
theorem witness_copy_fails : (firstFail [copies.patFail copies.me (patOf (patBytes 0x10000000 3 2 1 1 0)) .dest]).isSome = true := by decide +kernel
theorem witness_index_list : (patOf (patBytes 0x10000000 3 1 2 1 1)).tableOk = true ∧ idxHeaderOk 1 = true
    ∧ BytesRead copies copies.me 1 0x8000140 8 [1, 0, 0, 0, 0, 0, 0, 0] ∧ BytesRead copies copies.me 40 0x8000148 2 [1, 0]
    ∧ idxOf 2 2 [1, 0] 1 = ([some 1], none) ∧ idxOf 2 2 [2, 0] 1 = ([none], some 0) ∧ idxOf 2 2 [0xFF, 0xFF] 1 = ([none], none) :=
  ⟨by decide +kernel, by decide +kernel, bytes_read 0 (by decide +kernel) (by decide +kernel) (by decide +kernel) (by decide +kernel) (by decide +kernel),
    bytes_read 39 (by decide +kernel) (by decide +kernel) (by decide +kernel) (by decide +kernel) (by decide +kernel), by decide +kernel, by decide +kernel, by decide +kernel⟩
theorem test_copy_takes_its_id : (x (after (.copy 3 1 2 2 false false false .cx) copies) 3,
      (after (.copy 3 1 2 2 false false false .cx) copies).me.cp, ((after (.copy 3 1 2 2 false false false .cx) copies).myCore.chan 2).xfers.length) = (0, 1, 1) := by
  decide
theorem test_copy_onto_itself_overlaps : (after (.copy 3 1 1 2 false false false .cx) copies).me.cause = 0x02 := by decide +kernel
theorem test_copy_record_misaligned : (after (.copy 3 1 2 2 false false false .cx) (copies.setMe (copies.me.put 1 0x8000020))).me.cause = 0x03 := by decide +kernel

/-- The records' patterns, and a channel that carries one queued copy of the first to the second. -/
def patA : Pat := ⟨0x10000000, 3, false, false, [2, 1, 1, 1, 1, 1, 1, 1], [1, 0, 0, 0, 0, 0, 0, 0], 0, false⟩
def patB : Pat := { patA with base := 0x80000000001000 }
def aCopy : Xfer := { newXfer world world.me 2 .copy patA patB with opId := some 0 }
def busy : State :=
  (world.setMyCore (world.myCore.queueXfer 2 aCopy)).setMe (world.me.startOp .cp patB.base false true (.copy 2 0))
theorem witness_channel_full : ∃ s c, Issues s noHints [1, 2] [3] true false false [0x8000000, 0x8000040] c ∧ 4 ≤ (s.myCore.chan 2).live.length :=
  ⟨copies.setMyCore (copies.myCore.setChan 2 { Chan.new with xfers := List.replicate 4 (newXfer copies copies.me 2 .copy (patOf []) (patOf [])) }), _,
    issues_of_can (by decide +kernel), by decide +kernel⟩
theorem witness_strm : ∃ s c, Issues s noHints [2] [] false false false [0x8000040] c ∧ c.clear 16 = true ∧ (s.myCore.chan 3).live = []
    ∧ c.acquiring = false ∧ RecordRead s c 0x8000040 (patOf (patBytes 0x80000000001000 3 2 1 1 0)) ∧ c.mode 16 = .off :=
  ⟨copies, _, issues_of_can (by decide +kernel), by decide +kernel, by decide +kernel, by decide +kernel, record_read (by decide +kernel) (by decide +kernel) (by decide +kernel) (by decide +kernel) (by decide +kernel), by decide +kernel⟩
theorem witness_strm_waits : (busy.myCore.chan 2).live ≠ [] ∧ (busy.myCore.chan 2).live.length < 4 := by decide +kernel
theorem witness_strmend : (∃ s c, Issues s noHints [] [] false false false [] c ∧ c.mode 16 ≠ .off ∧ (c.strm[streamIx 16]?.getD StreamReg.off).ch = 1)
    ∧ ∃ s c, Issues s noHints [] [] false false false [] c ∧ c.mode 16 = .off :=
  ⟨⟨streams, _, issues_of_can (by decide +kernel), by decide +kernel, by decide +kernel⟩, base, _, issues_of_can (by decide +kernel), by decide +kernel⟩
theorem witness_cwait : (∃ s c, Issues s noHints [1] [] false false false [0] c ∧ ((s.myCore.chan 2).done - 0).toNat < 1)
    ∧ (∃ s c, Issues s noHints [1] [] false false false [0xFFFFFFFF] c ∧ ((s.myCore.chan 2).done - 0xFFFFFFFF).toNat = 1 ∧ c.abortMask.getLsbD 2 = false)
    ∧ ∃ s c, Issues s noHints [1] [] false false false [0xFFFFFFFF] c ∧ c.abortMask.getLsbD 2 = true :=
  ⟨⟨regs [], _, issues_of_can (by decide +kernel), by decide +kernel⟩, ⟨regs [(1, 0xFFFFFFFF)], _, issues_of_can (by decide +kernel), by decide +kernel, by decide +kernel⟩,
    (regs [(1, 0xFFFFFFFF)]).setMe { me [(1, 0xFFFFFFFF)] with abortMask := 4 }, _, issues_of_can (by decide +kernel), by decide +kernel⟩
theorem witness_channel_query : ∃ s c, Issues s noHints [] [4] false false false [] c ∧ (s.myCore.chan 2).live.all (fun z => !z.wm) = true :=
  ⟨busy, _, issues_of_can (by decide +kernel), by decide +kernel⟩
theorem witness_cabort : (∃ s c, Issues s noHints [] [] false false false [] c ∧ s.me.hold = .none ∧ ∀ z ∈ (s.myCore.chan 2).xfers, z.vint ≠ c.vintage)
    ∧ (∃ s c, Issues s noHints [] [] false false false [] c ∧ s.me.hold = .none ∧ (s.myCore.chan 2).live.length = 1)
    ∧ ∃ s c, Issues s noHints [] [] false false false [] c ∧ s.me.hold = .cabort :=
  ⟨⟨base, _, issues_of_can (by decide +kernel), by decide +kernel, by decide +kernel⟩, ⟨busy, _, issues_of_can (by decide +kernel), by decide +kernel, by decide +kernel⟩,
    ctxt fun c => { c with hold := .cabort }, _, issues_of_can (by decide +kernel), by decide +kernel⟩
theorem test_cnext_counts : x (after (.cnext 4 2) busy) 4 = 1 ∧ x (after (.cdone 4 2) busy) 4 = 0 := by decide +kernel
theorem test_cabort_ends_a_copy : ((after (.cabort 2) busy).myCore.chan 2).live = [] ∧ moved (after (.cabort 2) busy) = 4 := by decide +kernel
theorem test_strm_binds : (after (.strm 16 5 3) copies).me.mode 16 = .read ∧ ((after (.strm 16 5 3) copies).me.strm[0]?.getD StreamReg.off).left = 2 := by decide +kernel
theorem test_strmend_of_no_stream_traps : (after (.strmend 16 1) base).me.cause = 0x01 := by decide +kernel
theorem test_cwait_raises_an_abort : (after (.cwait 1 2) ((regs [(1, 0xFFFFFFFF)]).setMe { me [(1, 0xFFFFFFFF)] with abortMask := 6 })).me.cause = 0x09
    ∧ (after (.cwait 1 2) ((regs [(1, 0xFFFFFFFF)]).setMe { me [(1, 0xFFFFFFFF)] with abortMask := 6 })).me.abortMask = 2 := by decide +kernel

/-! ### Collective words -/

/-- A port of an i32 sum of one word, with some of its fields set. -/
def port (f : CPort → CPort) : CPort := f (newPort 1 ⟨⟨.add, .i32, .i32, 1, false, 0⟩, 0, 0, true, 0, 0, 1, 0, [], false, [], [], ⟨0, none⟩⟩)
/-- The base state with that port for group 7. -/
def ported (f : CPort → CPort) : State := (regs [(1, 5)]).setCport 1 7 (port f)
/-- A result of round 0. -/
def result (rep : Option Report) : CMsg := ⟨0, 1, [9], false, false, rep, none⟩
/-- The port of a mode 1 group. -/
def chained (f : CPort → CPort) : State := ported fun q => f { q with conf := { q.conf with chain := true } }

theorem witness_ctb : ∃ s c q, Issues s noHints [1] [] false false false [5] c ∧ s.cport 1 7 = some q ∧ q.own = true ∧ q.conf.chain = false
    ∧ q.out = [] ∧ q.cr ≠ q.rr + 2 := ⟨ported id, _, port id, issues_of_can (by decide), by decide, by decide, by decide, by decide, by decide⟩
theorem witness_no_port : ∃ s c, Issues s noHints [1] [] false false false [5] c ∧ s.cport 1 7 = none := ⟨regs [(1, 5)], _, issues_of_can (by decide), by decide⟩
theorem witness_ctb_waits : (ported fun q => { q with cr := 2 }).cport 1 7 = some (port fun q => { q with cr := 2 })
    ∧ (port fun q => { q with cr := 2 }).cr = (port fun q => { q with cr := 2 }).rr + 2 ∧ (port fun q => { q with cr := 2 }).current = none := by decide
theorem witness_crd_waits : (port fun q => { q with cr := 1 }).current = none ∧ (port fun q => { q with cr := 1 }).cr ≠ (port fun q => { q with cr := 1 }).rr := by decide
theorem witness_crd_result : ∃ s c q m, Issues s noHints [] [3] true false false [] c ∧ s.cport 1 7 = some q ∧ q.current = some m ∧ m.report = none
    ∧ q.conf.op ≠ .barrier :=
  ⟨ported fun q => { q with cr := 1, held := [result none] }, _, port fun q => { q with cr := 1, held := [result none] }, result none,
    issues_of_can (by decide), by decide, by decide, by decide, by decide⟩
theorem witness_crd_report : (port fun q => { q with held := [result (some ⟨false, 2, 1⟩)] }).current = some (result (some ⟨false, 2, 1⟩))
    ∧ (result (some ⟨false, 2, 1⟩)).report ≠ none := by decide
theorem witness_crd_nothing : (port id).current = none ∧ (port id).cr = (port id).rr ∧ (port id).words = [] := by decide
theorem witness_chain_first : ∃ s c p q, Issues s noHints [1] [3] true false false [5] c ∧ s.partAt 1 = some p ∧ s.cport 1 7 = some q
    ∧ q.conf.chain = true ∧ ∀ y ∈ s.chainLcns p 7, s.lcn 1 ≤ y :=
  ⟨chained id, _, ((chained id).partAt 1).getD placePart, ((chained id).cport 1 7).getD (port id), issues_of_can (by decide), by decide, by decide,
    by decide, by decide⟩
/-- The chain of two cores, of which the executing one, site 1, is the second. -/
def second (f : CPort → CPort) : State :=
  let s := (chained f).updPart 0 fun p => { p with cores := [2, 1], bound := [2, 1] }
  s.setRouter 2 { s.router 2 with groups := [(7, ⟨⟨.add, .i32, .i32, 1, true, 0⟩, 0, 0, true, 0, 0, 1, 0, [], false, [], [], ⟨0, none⟩⟩)] }
theorem witness_chain_second : ∃ (s : State) (p : Part), s.partAt 1 = some p ∧ ∃ y ∈ s.chainLcns p 7, y < s.lcn 1 :=
  ⟨second id, ((second id).partAt 1).getD placePart, by decide, 0, by decide, by decide⟩
theorem witness_chain_beat : ∃ q : CPort, (∃ m, List.find? (fun (m : CMsg) => m.round == q.cr) q.preds = some m ∧ m.report ≠ some ⟨true, 0, 1⟩)
    ∧ (second fun _ => q).cport 1 7 ≠ none := ⟨port fun q => { q with preds := [result none] }, ⟨result none, by decide, by decide⟩, by decide⟩
theorem witness_chain_reported : ((second fun q => { q with tseen := true, conf := { q.conf with chain := true } }).cport 1 7).map (fun q => (q.tseen, q.conf.chain))
    = some (true, true) := by decide
theorem test_ctb_opens_a_round : (((after (.ctb 1 7 false false) (ported id)).cport 1 7).getD (port id)).cr = 1 := by decide
theorem test_crd_reads : x (after (.crd 3 7 .rne) (ported fun q => { q with cr := 1, held := [result none] })) 3 = 9
    ∧ (((after (.crd 3 7 .rne) (ported fun q => { q with cr := 1, held := [result none] })).cport 1 7).getD (port id)).rr = 1 := by decide
theorem test_crd_of_nothing_traps : (after (.crd 3 7 .rne) (ported id)).me.cause = 0x01 := by decide
theorem test_crd_of_a_report_traps_once : (after (.crd 3 7 .rne) (ported fun q => { q with cr := 1, held := [result (some ⟨false, 2, 1⟩)] })).me.cause = 0x0A
    ∧ x (after (.crd 3 7 .rne) (ported fun q => { q with cr := 1, held := [result (some ⟨false, 2, 1⟩)], tseen := true })) 3 = 9 := by decide
theorem test_chain_sums : x (after (.chain 3 1 7) (second fun q => { q with conf := { q.conf with chain := true }, preds := [result none] })) 3 = 14 := by decide
theorem test_group_48_traps : (after (.gstat 3 48) base).me.cause = 0x05 := by decide

/-- A configuration record of a group of the executing core alone, in the private window. -/
def grouped : State :=
  let s := regs [(1, 0x8000000)]
  (s.setMe { s.me with sup := true }).scrWrite 1 0x2E0000 (leBytes 8 (16 + 512 + 2 ^ 48) ++ List.replicate 56 0 ++ leBytes 8 (1 + 2 ^ 21))
theorem witness_ccfg : ∃ s c p h l, Issues s noHints [1] [] false true false [0x8000000] c ∧ s.me.hold = .none ∧ s.partAt 1 = some p
    ∧ BytesRead s c 1 0x8000000 64 h ∧ BytesRead s c 1200 0x8000040 8 l ∧ leNat (h.take 8) / 2 ^ 48 % 2 ^ 14 = 1
    ∧ (h.drop 8).all (· == 0) = true ∧ confOf (leNat (h.take 8)) = some ⟨.add, .i32, .i32, 1, false, 0⟩
    ∧ nodeTable [nodeOf (leNat (l.take 8))] = some [(1, ⟨1, 0, 0, true, 0, true⟩)] ∧ treeRoot p [(1, ⟨1, 0, 0, true, 0, true⟩)] = some 1 :=
  ⟨grouped, _, (grouped.partAt 1).getD placePart, memRead grouped.mem (scrAddr 1 0x2E0000) 64, memRead grouped.mem (scrAddr 1 0x2E0040) 8,
    issues_of_can (by decide), by decide, by decide, bytes_read 0 (by decide) (by decide) (by decide) (by decide) (by decide),
    bytes_read 1199 (by decide) (by decide) (by decide) (by decide) (by decide), by decide, by decide, by decide, by decide, by decide⟩
theorem witness_ccfg_held : (∃ s c, Issues s noHints [1] [] false true false [0] c ∧ s.me.hold = .ccfg)
    ∧ ∃ s c, Issues s noHints [1] [] false true false [0] c ∧ s.me.hold = .ccfgDone :=
  ⟨⟨ctxt fun c => { c with sup := true, hold := .ccfg }, _, issues_of_can (by decide), by decide⟩,
    ctxt fun c => { c with sup := true, hold := .ccfgDone }, _, issues_of_can (by decide), by decide⟩
theorem witness_ccfg_not_legal : confOf (16 + 768 + 2 ^ 48) = none ∧ nodeTable [⟨1, 0, 0, true, 0, true⟩, ⟨1, 0, 0, true, 0, true⟩] = none
    ∧ treeRoot placePart [(1, ⟨1, 1, 0, true, 0, true⟩)] = none := by decide
/-- A configuration on its way that only site 1 has not taken, and one that all have. -/
def onItsWay (left : List Nat) : State := (ctxt fun c => { c with hold := .ccfg }).updPart 0 fun p => { p with
  cfgs := [⟨7, none, [], 1, 0, left⟩] }
theorem witness_group_configuration : ∃ (s : State) (p : Part) (m : GroupMsg), s.partAt 1 = some p ∧ List.find? (fun (m : GroupMsg) => m.left.contains 1) p.cfgs = some m :=
  ⟨onItsWay [1], ((onItsWay [1]).partAt 1).getD placePart, ⟨7, none, [], 1, 0, [1]⟩, by decide, by decide⟩
theorem witness_group_answer : ∃ (s : State) (p : Part) (m : GroupMsg), s.partAt 1 = some p ∧ List.find? (fun (m : GroupMsg) => m.site == 1 && m.left.isEmpty) p.cfgs = some m
    ∧ (s.ctx 1 m.ctx).hold = .ccfg :=
  ⟨onItsWay [], ((onItsWay []).partAt 1).getD placePart, ⟨7, none, [], 1, 0, []⟩, by decide, by decide, by decide⟩
theorem test_ccfg_holds : (after (.ccfg 1 7) grouped).me.hold = .ccfg := by decide
theorem test_ccfg_in_user_mode_traps : (after (.ccfg 1 7) (regs [(1, 0x8000000)])).me.cause = 0x0D := by decide

/-! ### Events of a core, carriages, flits and homes -/

theorem witness_results_ready : ∃ (s : State) (m : BitVec 32) (t : List (BitVec 32)), (s.ctx 1 0).due = m :: t :=
  ⟨after (.add 3 1 2) (regs [(1, 5)]), 8, [], by decide⟩
theorem witness_translation : ∃ (s : State) (p : Part) (x : Xlat), s.partAt 1 = some p ∧ (s.core 1).vintages = [1]
    ∧ s.agentLook p (bandOf 1) 1 5 = some x :=
  let s := base.setBand 0 { base.band 0 with agent := [⟨1, 5, 0x50000, true, false, false⟩] }
  ⟨s, (s.partAt 1).getD placePart, ⟨1, 5, 0x50000, true, false, false⟩, by decide, by decide, by decide⟩
theorem witness_drain : ∃ (e : WqEntry) (p : Part), List.find? (fun (e : WqEntry) => e.ctx == 0 && !e.sent) (queued.core 1).wq = some e
    ∧ queued.partAt 1 = some p ∧ queued.coreCanSend 1 (p.slotEp e.line) = true :=
  ⟨(queued.core 1).wq.headD ⟨0, 0, [], 0, 0, false, false, []⟩, (queued.partAt 1).getD placePart, by decide, by decide, by decide⟩
/-- A context at a suspension point. -/
def susp (q : SuspKind) (f : Ctx → Ctx) : State := ctxt fun c => f { c with hold := .suspending q }
theorem witness_suspension : ((susp (.exit 7) id).ctx 1 0).occ = .running ∧ (susp (.exit 7) id).quiet 1 0 = true
    ∧ ((susp (.exit 7) id).ctx 1 0).oldestPosted (fun _ => true) = none ∧ ((susp (.exit 7) id).ctx 1 0).abortMask = 0 := by decide
theorem witness_suspension_posted : ((susp (.exit 7) fun c => { c with posted := [⟨.ld, 0, 0x05, 0x1234, 0⟩], issued := 1 }).ctx 1 0).oldestPosted (fun _ => true)
    = some ⟨.ld, 0, 0x05, 0x1234, 0⟩ := by decide
theorem witness_domain_end : let s := susp (.ending false 1 0 0 0) id
    ((s.discardTiles 1 0).ctx 1 0).hold = .suspending (.ending false 1 0 0 0) ∧ (s.discardTiles 1 0).quiet 1 0 = true := by decide
theorem witness_stall_conversion : ∃ (s : State) (p : Part) (w : Await), s.partAt 1 = some p ∧ (s.ctx 1 0).stall = some w ∧ p.freeSlot (s.lcn 1) = some 0
    ∧ (s.ctx 1 0).issues = true ∧ (s.ctx 1 0).task ≠ 0 ∧ s.quiet 1 0 = true :=
  let s := ctxt fun c => { c with stall := some .switch, task := 0x10000000 }
  ⟨s, (s.partAt 1).getD placePart, .switch, by decide, by decide, by decide, by decide, by decide, by decide⟩
/-- The placed region given 4 cores and 8 contexts. -/
def roomy (s : State) : State := s.updPart 0 fun p => { p with
  launches := p.launches.map fun l => { l with phase := .running, cask := 65536, regions := [⟨0, 4, 8, 0, 0, [], []⟩] } }
/-- A pre-empted image of the placed task in slot 2. -/
def anImage : Image := ⟨2, .preempted, 0x0800, 1, 0, 0, { base.me with prio := 3 }, 0, 0, [], 0, [], [], [], [], false⟩
def imaged : State := (roomy base).updPart 0 fun p => { p with images := [(0, [anImage])] }
theorem witness_image_restore : ∃ (p : Part) (la : Launch), imaged.partAt 1 = some p ∧ imaged.lcnOf 1 ≠ none ∧ p.imagesOf 0 = [anImage]
    ∧ (imaged.core 1).idleCtx = some 1 ∧ p.launch? 1 = some la ∧ la.places = true ∧ (imaged.core 1).budget la 0 none = true :=
  ⟨(imaged.partAt 1).getD placePart, (((imaged.partAt 1).getD placePart).launch? 1).getD (Launch.new 1 0 Cmd.zero), by decide, by decide, by decide,
    by decide, by decide, by decide, by decide⟩
/-- A ready record's carriage of some priority, held to its hint or free to travel, and a pool with its entry. -/
def aCarr (prio radius : Nat) : Carr := ⟨{ aRec 2 0 with prio := BitVec.ofNat 7 prio, radius := BitVec.ofNat 4 radius }, 0x10000040, 1, none⟩
def pooled (f : Pool → Pool) : State := (roomy base).updPart 0 fun p => p.setPool 0 (f { Pool.new with entries := [⟨4, aCarr 5 15, none⟩], nextSeq := 5 })
theorem witness_preemption_request : ∃ p, (pooled id).part? 0 = some p ∧ (p.pool 0).preempt = none ∧ (p.pool 0).entries = [⟨4, aCarr 5 15, none⟩]
    ∧ bestVictim ((pooled id).victims p 0 ⟨4, aCarr 5 15, none⟩) = some (1, 0, 0, 0) :=
  ⟨((pooled id).part? 0).getD placePart, by decide, by decide, by decide, by decide⟩
/-- The pool waits for context 0 of site 1. -/
def evicting : State := pooled fun q => { q with entries := [⟨4, aCarr 5 15, some (1, 0)⟩], preempt := some (1, 0) }
theorem witness_preemption : ∃ p, evicting.partAt 1 = some p ∧ (p.pool 0).preempt = some (1, 0) ∧ (evicting.ctx 1 0).occ = .running
    ∧ (evicting.ctx 1 0).ld = 0 ∧ (evicting.ctx 1 0).hints = none ∧ p.freeSlot 0 = some 0
    ∧ List.find? (fun (e : PoolEntry) => e.reserved == some (1, 0)) (p.pool 0).entries = some ⟨4, aCarr 5 15, some (1, 0)⟩
    ∧ (evicting.core 1).rowsOut 0 = false ∧ (evicting.ctx 1 0).oldestPosted (fun _ => true) = none :=
  ⟨(evicting.partAt 1).getD placePart, by decide, by decide, by decide, by decide, by decide, by decide, by decide, by decide, by decide⟩
theorem test_exit_frees_the_context : (after (.suspensionPoint 1 0) (susp (.exit 7) id)).me.occ = .idle := by decide
theorem test_suspension_raises_a_posted_fault :
    (after (.suspensionPoint 1 0) (susp (.exit 7) fun c => { c with posted := [⟨.ld, 0, 0x05, 0x1234, 0⟩], issued := 1 })).me.cause = 0x05 := by decide
theorem test_image_restored : ((after (.imageRestore 1 2) imaged).ctx 1 1).prio = 3 := by decide
theorem test_preemption_accepts_the_entry : ((after (.preemption 1 0) evicting).ctx 1 0).prio = 5 := by decide

/-- A router holding a carriage on its core's list. -/
def held (k : Carr) (dsite : Nat) (park : Bool) : State :=
  (roomy base).setRouter 1 { (roomy base).router 1 with
    offCoreReq := [⟨.request, 0, dsite, 0, 0, 0, 1, 0, 0, 0, 0, 0, false, 0, park, 4, .carriage k⟩] }
theorem witness_carriage : ∃ (p : Part) (h : Held), (held (aCarr 5 15) 1 false).partAt 1 = some p
    ∧ ((held (aCarr 5 15) 1 false).router 1).carriage 1 = some h ∧ (held (aCarr 5 15) 1 false).eligible 1 none (aCarr 5 15) = true
    ∧ ((held (aCarr 5 15) 1 false).core 1).idleCtx = some 1 :=
  ⟨((held (aCarr 5 15) 1 false).partAt 1).getD placePart, .core 0 (((held (aCarr 5 15) 1 false).router 1).offCoreReq.headD
    ⟨.request, 0, 0, 0, 0, 0, 0, 0, 0, 0, 0, 0, false, 0, false, 0, .void⟩) (aCarr 5 15), by decide, by decide, by decide, by decide⟩
theorem witness_carriage_not_eligible : (held { aCarr 5 15 with r := { aRec 2 0 with hint := 3 } } 2 false).eligible 1 none
    { aCarr 5 15 with r := { aRec 2 0 with hint := 3 } } = false := by decide
theorem witness_pool_entry : ∃ p, (pooled fun q => { q with arriving := [aCarr 9 15] }).part? 0 = some p ∧ (p.pool 0).arriving = [aCarr 9 15] ∧ (p.pool 0).pulls = [] :=
  ⟨((pooled fun q => { q with arriving := [aCarr 9 15] }).part? 0).getD placePart, by decide, by decide, by decide⟩
theorem witness_pool_pull : ∃ p l, (pooled id).partAt 1 = some p ∧ (pooled id).lcnOf 1 = some l ∧ ((pooled id).core 1).idleCtx = some 1
    ∧ ((pooled id).core 1).pull = none ∧ p.bestImage 0 = none
    ∧ (pooled id).first (p.pool 0) (fun e => (pooled id).eligible 1 none e.carr) = some ⟨4, aCarr 5 15, none⟩ :=
  ⟨((pooled id).partAt 1).getD placePart, 0, by decide, by decide, by decide, by decide, by decide, by decide⟩
/-- Context 0 has yielded, and the pool keeps its entry for it. -/
def yielding : State := (pooled fun q => { q with entries := [⟨4, aCarr 5 15, some (1, 0)⟩] }).setCtx 1 0 { Ctx.reset with occ := .yielded }
theorem witness_pool_pull_yielded : ∃ p, yielding.partAt 1 = some p ∧ yielding.lcnOf 1 = some 0
    ∧ ((List.range 8).find? fun m => ((yielding.core 1).ctx m).occ == .yielded) = some 0
    ∧ ((p.pool 0).entries.find? fun e => e.reserved == some (1, 0)) = some ⟨4, aCarr 5 15, some (1, 0)⟩
    ∧ yielding.eligible 1 (some 0) (aCarr 5 15) = true :=
  ⟨(yielding.partAt 1).getD placePart, by decide, by decide, by decide, by decide, by decide⟩
theorem test_yielded_context_takes_its_entry : ((after (.poolPull 1) yielding).ctx 1 0).prio = 5 := by decide
theorem witness_pull_withdraw : ∃ m, (((pooled id).updCore 1 fun c => { c with pull := some 0 }).core 1).pull = some m
    ∧ (((pooled id).core 1).ctx m).occ ≠ .idle := ⟨0, by decide, by decide⟩
theorem witness_yield_query : ∃ (p : Part), (pooled id).partAt 1 = some p ∧ (pooled id).first (p.pool 0) (fun e => decide (((pooled id).ctx 1 0).prio ≤ e.carr.r.prio)
    && (pooled id).eligible 1 (some 0) e.carr) = some ⟨4, aCarr 5 15, none⟩ := ⟨((pooled id).partAt 1).getD placePart, by decide, by decide⟩
theorem witness_entry_return : ∃ (s : State) (p : Part), s.part? 0 = some p
    ∧ List.find? (fun (x : Nat × PoolEntry) => (s.core x.1).pull.isNone || !s.eligible x.1 none x.2.carr) (p.pool 0).sent = some (1, ⟨4, aCarr 5 15, none⟩) :=
  ⟨pooled fun q => { q with entries := [], sent := [(1, ⟨4, aCarr 5 15, none⟩)] },
    ((pooled fun q => { q with entries := [], sent := [(1, ⟨4, aCarr 5 15, none⟩)] }).part? 0).getD placePart, by decide, by decide⟩
theorem witness_entry_return_to_a_pull : ∃ (s : State) (p : Part) (r : PullReq), s.part? 0 = some p
    ∧ List.find? (fun (x : Nat × PoolEntry) => (s.core x.1).pull.isNone || !s.eligible x.1 none x.2.carr) (p.pool 0).sent = some (1, ⟨4, aCarr 5 15, none⟩)
    ∧ List.find? (fun (r : PullReq) => s.eligible r.site none (aCarr 5 15)) (p.pool 0).pulls = some r :=
  ⟨pooled fun q => { q with entries := [], sent := [(1, ⟨4, aCarr 5 15, none⟩)], pulls := [⟨1, 1⟩] },
    ((pooled fun q => { q with entries := [], sent := [(1, ⟨4, aCarr 5 15, none⟩)], pulls := [⟨1, 1⟩] }).part? 0).getD placePart, _, by decide, by decide, rfl⟩
theorem test_carriage_is_accepted : ((after (.carriage .request 1) (held (aCarr 5 15) 1 false)).ctx 1 1).task = 0x10000040 := by decide
theorem test_pool_order : insertEntry ⟨5, aCarr 5 0, none⟩ [⟨3, aCarr 7 0, none⟩, ⟨1, aCarr 5 0, none⟩, ⟨2, aCarr 4 0, none⟩]
    = [⟨3, aCarr 7 0, none⟩, ⟨1, aCarr 5 0, none⟩, ⟨5, aCarr 5 0, none⟩, ⟨2, aCarr 4 0, none⟩] := by decide
theorem test_poolPull_takes_the_entry : ((after (.poolPull 1) (pooled id)).ctx 1 1).prio = 5 := by decide

/-- A flit of the placed partition to an endpoint at a site. -/
def flit (b : Body) (sep dep dsite seq : Nat) : Flit := ⟨b.plane, 0, dsite, dep, sep, 0, 1, seq, 0, 0, 0, 0, false, 0, false, 0, b⟩
/-- A load of the first word of the partition's memory, on its way to its slot. -/
def aLoad : Flit := flit (.load (.rim 0) 8 false false) 0 0x8000 9120 0
/-- A state with flits of a plane in an endpoint's lists. -/
def arrived (ep : Nat) (pl : Plane) (arr st ins : List Flit) : State := (roomy base).updPart 0 fun p => p.setEp ep ((p.ep ep).setPlane pl arr st ins)
theorem witness_send : ∃ p, (roomy base).part? 0 = some p ∧ Tbl.get 0 (p.ep 0).next 0x8000 = 0 ∧ Tbl.get 0 (p.setEp 0 { p.ep 0 with next := [(0x8000, 4095)] } |>.ep 0).next 0x8000 = 4095 :=
  ⟨((roomy base).part? 0).getD placePart, by decide, by decide, by decide⟩
theorem witness_productive : 1 ∈ productive 0 9119 ∧ 3 ∈ productive 9119 0 ∧ 0 ∈ productive 120 0 := by decide
theorem witness_route : ∃ d g, List.find? (fun d => [0, 1, 2, 3].contains d) (productive 1 (destSite 9120)) = some d
    ∧ route aLoad 1 none [0, 1, 2, 3] [0, 1, 2, 3] = some (d, g) :=
  ⟨3, { aLoad with last := 3 }, by decide, by decide⟩
/-- The load ejected at site 0, whose rim port holds its slot. -/
def offered (f : Flit) (site : Nat) : State := (roomy base).setRouter site { (roomy base).router site with offCoreReq := [f] }
theorem witness_handle : ∃ p, (offered aLoad 0).part? 0 = some p ∧ ((offered aLoad 0).router 0).discard.contains aLoad.vint = false
    ∧ aLoad.unoffered 0 = false ∧ destSite aLoad.dsite = 0 ∧ aLoad.body.kind ≠ 6 ∧ (p.ep 0x8000).accepts 0x8000 ((offered aLoad 0).storeUsed p 0x8000 .request) aLoad = true
    ∧ (offered aLoad 0).closed 0 (.core 0) = false ∧ (offered aLoad 0).atRouter p 0 (.core 0) aLoad = aLoad :=
  ⟨((offered aLoad 0).part? 0).getD placePart, by decide, by decide, by decide, by decide, by decide, by decide, by decide, by decide +kernel⟩
theorem witness_arrivals : ∃ p, (arrived 0x8000 .request [aLoad] [] []).part? 0 = some p ∧ (p.ep 0x8000).arr .request = [aLoad]
    ∧ (aLoad.seq + 4096 - Tbl.get 0 (p.ep 0x8000).expct aLoad.sep) % 4096 = 0 ∧ ({ aLoad with seq := 4095 }.seq + 4096 - 0) % 4096 = 4095 :=
  ⟨((arrived 0x8000 .request [aLoad] [] []).part? 0).getD placePart, by decide, by decide, by decide, by decide⟩
theorem witness_take_in : ∃ p, (arrived 0x8000 .request [] [{ aLoad with seq := 1 }] [aLoad]).part? 0 = some p
    ∧ (arrived 0x8000 .request [] [{ aLoad with seq := 1 }] [aLoad]).portHeld p 0x8000 .request = false ∧ p.siding = []
    ∧ takeFlit 0 1 ((p.ep 0x8000).store .request) = some ({ aLoad with seq := 1 }, []) :=
  ⟨((arrived 0x8000 .request [] [{ aLoad with seq := 1 }] [aLoad]).part? 0).getD placePart, by decide, by decide, by decide, by decide⟩
theorem witness_siding : ∃ p k f, (offered { aLoad with park := true } 0).partAt 0 = some p ∧ (offered { aLoad with park := true } 0).sidingUsed p 0 < 1677721
    ∧ List.find? (fun (e : Slot' × Flit) => e.2.park && destSite e.2.dsite == 0)
      ((offered { aLoad with park := true } 0).ranked .request p ((offered { aLoad with park := true } 0).router 0)) = some (k, f) :=
  ⟨((offered { aLoad with park := true } 0).partAt 0).getD placePart, .core 0, { aLoad with park := true }, by decide, by decide, by decide⟩
/-- The load on the siding list of its slot. -/
def listed : State := (roomy base).updPart 0 fun p => { p with siding := [⟨0, 0x8000, [aLoad]⟩] }
theorem witness_siding_release : ∃ p, listed.part? 0 = some p
    ∧ List.find? (fun (l : SidingList) => l.list == 0x8000 && !l.flits.isEmpty) p.siding = some ⟨0, 0x8000, [aLoad]⟩
    ∧ listed.storeUsed p 0x8000 .request + 16 ≤ storeSize 0x8000 ∧ listed.releaseStage p 0x8000 = none
    ∧ listed.parkedAt p (releasePort (listed.dsiteOf p (p.siteOf 0x8000) 0x8000)) aLoad = false ∧ listed.systemBadAt 0 = false :=
  ⟨(listed.part? 0).getD placePart, by decide, by decide, by decide, by decide +kernel, by decide +kernel, by decide +kernel⟩
theorem test_arrival_drops_a_duplicate :
    (((after (.flitArrival .request 0 0x8000) (arrived 0x8000 .request [{ aLoad with seq := 4095 }] [] [])).part? 0).getD placePart).ep 0x8000
      = Endpoint.new := by decide
theorem test_flit_is_ejected :
    ((((after (.flitRouting .request 0) (offered aLoad 0)).part? 0).getD placePart).ep 0x8000).reqArr = [aLoad] := by decide +kernel

-- The worked example of chapter 13: P, deflected, leaves (23,40) to the south; V enters its detour to the east, and at (24,40) goes north.
theorem test_deflection : (route { aLoad with dsite := 120 * 40 + 27 } (120 * 40 + 23) (some 3) [2, 3] [1, 2, 3]).map (·.1) = some 2 := by decide
theorem test_detour : (route { aLoad with dsite := 120 * 36 + 23 } (120 * 40 + 23) none [1, 2, 3] [1, 2, 3]).map (fun e => (e.1, e.2.det, e.2.ddist)) = some (1, true, 4)
    ∧ (route { aLoad with dsite := 120 * 36 + 23, det := true, ddist := 4, last := 1 } (120 * 40 + 24) (some 3) [0, 1, 2, 3] [0, 1, 2, 3]).map
      (·.1) = some 0 := by decide

/-- A request in order at a slot. -/
def asked (b : Body) : State := arrived 0x8000 .request [] [] [flit b 0 0x8000 9120 0]
theorem witness_request : ∃ f s p, (asked (.load (.rim 0) 8 false false)).takeIn 0 0x8000 .request = some (f, s) ∧ s.part? 0 = some p
    ∧ f.body = .load (.rim 0) 8 false false :=
  ⟨flit (.load (.rim 0) 8 false false) 0 0x8000 9120 0, ((asked (.load (.rim 0) 8 false false)).takeIn 0 0x8000 .request).elim base (·.2),
    ((((asked (.load (.rim 0) 8 false false)).takeIn 0 0x8000 .request).elim base (·.2)).part? 0).getD placePart, by decide, by decide, by decide⟩
theorem done_of {r : WResult} (h : (match r with | .done _ => true | _ => false) = true) : ∃ t, r = .done t := by
  cases r with
  | done t => exact ⟨t, rfl⟩
  | _ => cases h
theorem witness_home_store : ∃ p, (roomy base).part? 0 = some p ∧ (∃ t, (roomy base).homeStore p 1 0 1 [7] = .done t) ∧ p.launch? 1 ≠ none
    ∧ ((roomy base).rim 0).reds = [] ∧ ((roomy base).rim 0).inPlace.contains 1 = false ∧ ((roomy base).rim 0).casks = [] :=
  ⟨((roomy base).part? 0).getD placePart, by decide, done_of (by decide), by decide, by decide, by decide, by decide⟩
theorem test_store_enters_the_cask : (((after (.storeRequest 0 0x8000) (asked (.store (.rim 0) [7] 1))).rim 0).casks.map fun e => (e.vint, e.line, e.mask)) = [(1, 0, 1)]
    ∧ (after (.storeRequest 0 0x8000) (asked (.store (.rim 0) [7] 1))).mem = base.mem := by decide
theorem test_load_is_answered : ((((after (.loadRequest 0 0x8000) (asked (.load (.rim 0) 8 false false))).part? 0).getD placePart).ep 0x8000).next = [(0, 1)] := by decide

/-! ### Replies, engines and rounds -/

/-- A reply in order at the core of LCN 0. -/
def replying (b : Body) (f : Flit → Flit) (s : State) : State :=
  s.updPart 0 fun p => p.setEp 0 ((p.ep 0).setPlane .reply [] [] [f (flit b 0x8000 0 1 0)])
theorem witness_data_reply : ∃ f s p, (replying (.data [7] 0 false false none) id base).takeIn 0 0 .reply = some (f, s) ∧ s.part? 0 = some p
    ∧ f.body = .data [7] 0 false false none :=
  ⟨flit (.data [7] 0 false false none) 0x8000 0 1 0, ((replying (.data [7] 0 false false none) id base).takeIn 0 0 .reply).elim base (·.2),
    ((((replying (.data [7] 0 false false none) id base).takeIn 0 0 .reply).elim base (·.2)).part? 0).getD placePart, by decide, by decide, by decide⟩
/-- The world after a global load of x3 by its operation 0. -/
def loading : State := after (.ld 3 1 .x64 0) (wr [(1, 0x80000000002000)])
theorem witness_data_to_a_load : (List.find? (fun (o : OutOp) => o.id == 0) (loading.ctx 1 0).ops).map (fun o => loading.rwLoad 1 0 o.addr) = some false
    ∧ (0 : Nat) ≠ idBlock := by decide
theorem witness_copy_request : ∃ p x, busy.partAt 1 = some p ∧ ((busy.core 1).chan 2).sender = some x ∧ x.frozen = false ∧ x.packetsOut < 32
    ∧ x.remoteDest (busy.lcn 1) = none ∧ x.kind ≠ .wstream :=
  ⟨(busy.partAt 1).getD placePart, ((busy.core 1).chan 2).xfers.headD (newXfer busy busy.me 2 .copy (patOf []) (patOf [])), by decide, by decide,
    by decide, by decide, by decide, by decide⟩
/-- A read stream of the ro region on channel 3. -/
def refilling : State :=
  world.setMyCore (world.myCore.queueXfer 3 (newXfer world world.me 3 .rstream { patB with base := 0x80000000002000 } { patB with base := 0x80000000002000 }))
theorem witness_stream_refill : ∃ p x, refilling.partAt 1 = some p
    ∧ List.find? (fun (x : Xfer) => x.kind == .rstream && !x.ended) ((refilling.core 1).chan 3).live = some x ∧ x.frozen = false ∧ x.held = none
    ∧ x.pos < x.count :=
  ⟨(refilling.partAt 1).getD placePart, ((refilling.core 1).chan 3).xfers.headD (newXfer busy busy.me 2 .copy (patOf []) (patOf [])), by decide +kernel,
    by decide +kernel, by decide +kernel, by decide +kernel, by decide +kernel⟩
theorem witness_transfer_complete : ∃ (s : State) (x : Xfer), List.find? (fun (x : Xfer) => x.written && x.flagState != .sent) ((s.core 1).chan 2).xfers = some x
    ∧ x.rel = none ∧ x.id = ((s.core 1).chan 2).done :=
  let x := { newXfer base base.me 2 .copy (patOf []) (patOf []) with pos := 0, count := 0 }
  ⟨base.setMyCore (base.myCore.setChan 2 { Chan.new with next := 1, xfers := [x] }), x, by decide, by decide, by decide⟩
theorem test_data_reply_loads : x (after (.dataReply 0 0) (replying (.data [7, 0, 0, 0, 0, 0, 0, 0x80] 0 false false none) id loading)) 3 = 0x8000000000000007
    ∧ (after (.dataReply 0 0) (replying (.data [7, 0, 0, 0, 0, 0, 0, 0x80] 0 false false none) id loading)).me.ld = 0 := by decide
theorem test_refused_reply_is_posted :
    (after (.dataReply 0 0) (replying (.data [] 0 false false (some 0x05)) id loading)).me.posted.map (·.cause) = [0x05] := by decide

theorem witness_vector_finish : ∃ e, ((after (.vadd 3 1 2 .i32 .rne false) rows).core 1).vq = [e]
    ∧ (after (.vadd 3 1 2 .i32 .rne false) rows).vectorWaits 1 e = false :=
  ⟨((after (.vadd 3 1 2 .i32 .rne false) rows).core 1).vq.headD ⟨0, 0, [], 0, 0, 0, [], []⟩, by decide, by decide⟩
/-- The tile state with a queued command, and with that command running at level 2. -/
def started (i : Instr) : State := after i tiled
def running (i : Instr) : State := (after (.tileCommandStart 1 0) (started i)).setSlew 1 ⟨2, none, none⟩
theorem witness_tile_start : ∃ t, ((started (.mma 0 1 1 .bf16 false false .cx true)).core 1).tq[0]? = some t
    ∧ ((started (.mma 0 1 1 .bf16 false false .cx true)).core 1).firstStart = some 0
    ∧ (started (.mma 0 1 1 .bf16 false false .cx true)).boundaryNear 1 = false ∧ base.preempting 1 0 = false :=
  ⟨((started (.mma 0 1 1 .bf16 false false .cx true)).core 1).tq.headD (newTCmd base base.me .mma 0), by decide, by decide, by decide, by decide⟩
theorem witness_tile_finish : ∃ t, ((running (.mma 0 1 1 .bf16 false false .cx true)).core 1).tq[0]? = some t ∧ t.state = .running ∧ t.held = none
    ∧ (running (.mma 0 1 1 .bf16 false false .cx true)).tileWaits 1 0 t = false ∧ ((running (.mma 0 1 1 .bf16 false false .cx true)).slew 1).level ≠ 0 :=
  ⟨((running (.mma 0 1 1 .bf16 false false .cx true)).core 1).tq.headD (newTCmd base base.me .mma 0), by decide, by decide, by decide, by decide, by decide⟩
theorem witness_tile_answers : ∃ (s : State) (t : TCmd), List.findIdx? (fun (t : TCmd) => t.tile == 0 && t.drains && t.held.isNone && !t.answers.isEmpty) (s.core 1).tq = some 0
    ∧ (s.core 1).tq[0]? = some t ∧ t.answers = [(3, some 0x05)] ∧ t.refusedRow = none ∧ t.sent.erase 3 = [] :=
  let t := { newTCmd base base.me .macrd 0 with state := .running, sent := [3], answers := [(3, some 0x05)] }
  ⟨base.setMyCore { base.myCore with tq := [t] }, t, by decide, by decide, by decide, by decide, by decide⟩
theorem witness_step_boundary : (Tbl.get Domain.reset base.doms 0).capNext = none := by decide
theorem test_mma_finishes : ((after (.tileCommandFinish 1 0) (running (.mma 0 1 1 .bf16 false false .cx true))).me.tl,
    ((after (.tileCommandFinish 1 0) (running (.mma 0 1 1 .bf16 false false .cx true))).myCore.tq.length)) = (0, 0) := by decide
theorem test_mma_sums : memRead (after (.tileCommandFinish 1 0) (after (.tileCommandStart 1 0) (after (.macrd 0 2 .f32 .rne false)
    (after (.tileCommandFinish 1 0) (running (.mma 0 1 1 .bf16 false false .cx true)))))).mem (scrAddr 1 0x2E0020) 4 = [0, 0, 0xC0, 0x40] := by decide +kernel
theorem test_mwld_loads_its_slot : ((after (.tileCommandFinish 1 0) (after (.tileCommandStart 1 0) (after (.mwld 2 1 .bf16) images))).myCore.wslots[2]?.getD none)
    = some image1 := by decide +kernel

/-- A router's entry of group 7, a root with its own core and a child to the east, with some fields set. -/
def entry (f : GEntry → GEntry) : GEntry := f (newEntry placePart ⟨.add, .i32, .i32, 1, false, 4⟩ 1 ⟨1, 0, 2, true, 1, true⟩)
/-- The entry in its open round, its timer at its allowance of 4 · 256 · 2 fabric cycles. -/
def late (e : GEntry) : GEntry := { e with inputs := [(0, result none)], timer := ⟨2048, none⟩ }
def grouping (f : GEntry → GEntry) : State := base.setRouter 1 { base.router 1 with groups := [(7, entry f)] }
theorem witness_contribution : ∃ (s : State), takeUp 7 (fun q => q != 6) (s.router 1).colUp = some (2, result none, []) :=
  ⟨(grouping id).setRouter 1 { (grouping id).router 1 with colUp := [(7, 2, result none)] }, by decide⟩
theorem witness_own_contribution : ∃ (s : State) (q : CPort), takeUp 7 (fun q => q != 6) (s.router 1).colUp = none ∧ s.cport 1 7 = some q
    ∧ q.out = [(result none, [])] := ⟨ported fun q => { q with out := [(result none, [])] }, port fun q => { q with out := [(result none, [])] }, by decide, by decide, by decide⟩
theorem witness_take_input : (grouping id).gentry 1 7 = some (entry id) ∧ (result none).round = (entry id).round ∧ (0 : Nat) ∈ (entry id).expects
    ∧ Tbl.find? (entry id).inputs 0 = none ∧ (entry id).closed = false ∧ (0xFFFF - (entry id).round).toNat ≥ 2 ^ 15 := by decide
theorem witness_close : ∃ m, (entry fun e => { e with inputs := [(0, result none), (2, result none)] }).total none = some m ∧ (entry id).parent = 0 :=
  ⟨{ result none with words := [18] }, by decide, by decide⟩
theorem witness_result : takeTag 7 [((7 : Nat), result none)] = some (result none, []) ∧ (result none).round = (port id).rr ∧ (port id).held = []
    ∧ ((result none).round - (port fun q => { q with cr := 1 }).cr).toNat ≥ 2 ^ 15 := by decide
theorem witness_timer : ∃ e, (grouping late).gentry 1 7 = some e ∧ e.conf.timeout ≠ 0 ∧ e.closed = false
    ∧ e.inputs ≠ [] ∧ e.absent ≠ [] ∧ (grouping late).timersStill 1 = false ∧ (grouping late).passHolds none 1 7 = false
    ∧ e.conf.timeout * 256 * (e.ht + 1) ≤ e.timer.count 0 :=
  ⟨entry late, by decide, by decide, by decide, by decide, by decide, by decide, by decide, by decide⟩
theorem test_timer_waits_for_its_allowance :
    ((after (.collectiveTimerExpiry 1 7) (grouping fun e => { late e with timer := ⟨2047, none⟩ })).router 1).colDown = [] := by decide
theorem witness_chain_timeout : ∃ (s : State) (q : CPort), (s.ctx 1 0).stall = some (.beat 7) ∧ s.cport 1 7 = some q ∧ q.conf.timeout ≠ 0
    ∧ (s.ctx 1 0).occ = .running ∧ s.timersStill 1 = false ∧ q.tseen = false ∧ q.conf.timeout * 256 ≤ (q.wait.getD ⟨0, none⟩).count 0 :=
  let q := port fun q => { q with conf := { q.conf with chain := true, timeout := 4 }, wait := some ⟨1024, none⟩ }
  let s := ported fun _ => q
  ⟨s.setMe { s.me with stall := some (.beat 7) }, q, by decide, by decide, by decide, by decide, by decide, by decide, by decide⟩
theorem witness_clock_stands : ∃ p : Part, p.rebinding.filter (· != 3) = [] ∧ p.stillFrom = some 5 ∧ p.stillFc ≤ 5 :=
  ⟨placePart.startRebind 5 3, by decide, by decide, by decide⟩
theorem test_beats_join_into_a_contribution :
    assemble (({ result none with words := [7, 8] } : CMsg).split ⟨3, 0, 0, 1, 0, 0⟩) { result none with words := [8], routed := some ⟨3, 0, 0, 1, 0, 1⟩ } 2
      = some { result none with words := [7, 8] } := by decide
/-- A proxy beat before the port of a core that is being scanned. -/
def pausedPort : State := (ported fun q => { q with cr := 1 }).updCore 1 fun c => { c with scanning := true, colIn := [(71, result none)] }
theorem test_paused_port_takes_nothing : after (.proxyResult 1 7) pausedPort = pausedPort := by decide +kernel
theorem test_contribution_is_combined : ((after (.contribution 1 7) ((grouping fun e => { e with inputs := [(0, result none)] }).setRouter 1
    { (grouping fun e => { e with inputs := [(0, result none)] }).router 1 with colUp := [(7, 2, result none)] })).router 1).colDown.map (fun e => (e.1, e.2.words)) = [(7, [18])] := by
  decide
theorem test_timer_reports_the_absent_input : ((after (.collectiveTimerExpiry 1 7) (grouping late)).router 1).colDown.map
    (fun e => e.2.report) = [some ⟨false, 4, 1⟩] := by decide

/-! ### Launches, intervals and sparing -/

/-- The roomy partition's launch changed, and what holds of partition and launch. -/
def phased (f : Launch → Launch) : State := (roomy base).updPart 0 fun p => { p with launches := p.launches.map f }
def inPhase (s : State) (h : Part → Launch → Bool) : Bool :=
  match s.part? 0 with
  | some p => match p.launch? 1 with
    | some l => h p l
    | none => false
  | none => false
theorem launch_of {s : State} {h : Part → Launch → Bool} (e : inPhase s h = true) : ∃ p l, s.part? 0 = some p ∧ p.launch? 1 = some l ∧ h p l = true := by
  unfold inPhase at e
  split at e
  · rename_i p hp
    split at e
    · rename_i l hl; exact ⟨p, l, hp, hl, e⟩
    · cases e
  · cases e

/-- A launch in a phase, with sites or slots to reach and acknowledgements awaited. -/
def step' (ph : Phase) (todo acks : List Nat) : State := phased fun l => { l with phase := ph, todo := todo, acks := acks, waveOut := true }
theorem witness_done_wave : ∃ p l, (step' .running [1] [1]).part? 0 = some p ∧ p.launch? 1 = some l
    ∧ (l.waveOut && l.todo.contains 1 && !(step' .running [1] [1]).halted 1 && ((step' .running [1] [1]).core 1).writesDone 1) = true := launch_of (by decide)
theorem witness_done_answer : ∃ p l, (step' .running [] [1]).part? 0 = some p ∧ p.launch? 1 = some l ∧ (l.waveOut && l.acks.contains 1 && l.acks.erase 1 == []) = true :=
  launch_of (by decide)
theorem witness_gating_wave : ∃ p l, (step' .gating [1] [1]).part? 0 = some p ∧ p.launch? 1 = some l
    ∧ (l.phase == .gating && l.todo.contains 1 && l.acks != [] && ((step' .gating [1] [1]).core 1).prov.isEmpty) = true := launch_of (by decide)
theorem witness_gating_answer : ∃ p l, (step' .gating [] [1]).part? 0 = some p ∧ p.launch? 1 = some l ∧ (l.answers.all (fun a => a.2.1 == 0) && l.acks.erase 1 == []) = true :=
  launch_of (by decide)
theorem witness_domain_end_message : ∃ p l, (phased fun l => { l with domTodo := [1], domAcks := [1], domains := [0] }).part? 0 = some p ∧ p.launch? 1 = some l
    ∧ (l.domTodo.contains 1 && p.domainOf 1 0 == 0) = true := launch_of (by decide)
theorem witness_kill_message : ∃ p l, (step' .kill1 [1] [1]).part? 0 = some p ∧ p.launch? 1 = some l ∧ (l.phase == .kill1 && l.todo.contains 1) = true := launch_of (by decide)
theorem witness_drain_wave : ∃ p l, (step' .kill2 [] []).part? 0 = some p ∧ p.launch? 1 = some l
    ∧ (l.phase == .kill2 && p.bound.all fun x => ((step' .kill2 [] []).core x).xfers.all fun e => e.2.vint != 1) = true := launch_of (by decide)
theorem witness_kill_cleanup : ∃ p l, (phased fun l => { l with phase := .kill5, ending := some ⟨1, 0, 0, false⟩ }).part? 0 = some p ∧ p.launch? 1 = some l
    ∧ (l.phase == .kill5 && l.ending == some ⟨1, 0, 0, false⟩) = true := launch_of (by decide)
theorem witness_unlock : ∃ p l, (step' .unlocking [255] [255]).part? 0 = some p ∧ p.launch? 1 = some l ∧ (l.phase == .unlocking && l.todo.contains 255) = true := launch_of (by decide)
theorem witness_drained_flit : voidFlits 1 [aLoad] = [{ aLoad with body := .void }] ∧ voidFlits 1 [flit (.carriage (aCarr 5 15)) 0 0 1 0] = [] := by decide
/-- A partition with a completion message for SCL-A, and port A up or down. -/
def message (up : Bool) : State :=
  let s := base.updPart 0 fun p => { p with messages := [(.sclA, [1])] }
  { s with module := { s.module with upA := up } }
theorem witness_completion_message : ∃ p, (message true).part? 0 = some p ∧ p.messages = [(.sclA, [1])] ∧ (message true).module.upA = true
    ∧ (message false).module.upB = true := ⟨((message true).part? 0).getD placePart, by decide, by decide, by decide, by decide⟩
theorem test_completion_message_takes_the_other_port : (after (.completionMessage 0) (message false)).module.messages = [(.sclB, [1])] := by decide
theorem test_gating_makes_ready : inPhase (after (.gatingAnswer 1 1) (step' .gating [] [1])) (fun _ l => l.phase == .ready) = true := by decide
theorem test_kill_stops_the_context : (after (.killMessage 1 1) (step' .kill1 [1] [1])).me.occ ≠ .running := by decide

theorem witness_commit_start : ∃ p, (step' .ready [] []).part? 0 = some p ∧ p.intent = none ∧ p.nextCommit.isSome = true :=
  ⟨((step' .ready [] []).part? 0).getD placePart, by decide, by decide, by decide⟩
theorem witness_commit_intent : ∃ p l, ((step' .intent [] []).updPart 0 fun p => { p with intent := some 1 }).part? 0 = some p ∧ p.launch? 1 = some l
    ∧ (l.phase == .intent && p.intent == some 1) = true := launch_of (by decide)
theorem witness_commit_broadcast : ∃ p l, (step' .committing [0] [0]).part? 0 = some p ∧ p.launch? 1 = some l ∧ (l.phase == .committing && l.todo.contains 0) = true := launch_of (by decide)
theorem witness_commit_ack : ∃ p l, (step' .committing [] [0]).part? 0 = some p ∧ p.launch? 1 = some l ∧ (l.acks.contains 0 && l.acks.erase 0 == []) = true := launch_of (by decide)
theorem witness_vintage_switch : ∃ p l, (phased fun l => { l with switchAsked := true }).part? 0 = some p ∧ p.launch? 1 = some l
    ∧ (l.phase == .running && !l.switchOut && p.launches.all fun k => vintageOlder k.vint l.vint == false) = true := launch_of (by decide)
theorem witness_switch : ∃ p l, (phased fun l => { l with swTodo := [0], swAcks := [0] }).part? 0 = some p ∧ p.launch? 1 = some l ∧ l.swTodo.contains 0 = true := launch_of (by decide)
theorem witness_caskuse : ∃ p l, (phased fun l => { l with queries := [⟨1, 0, 3, [0], [], 0⟩] }).part? 0 = some p ∧ p.launch? 1 = some l
    ∧ (List.find? (fun (q : CaskQuery) => q.todo.contains 0) l.queries).isSome = true := launch_of (by decide)
theorem witness_caskuse_answer : ∃ p l, (phased fun l => { l with queries := [⟨1, 0, 3, [], [(0, 2)], 0⟩] }).part? 0 = some p ∧ p.launch? 1 = some l
    ∧ (List.find? (fun (q : CaskQuery) => q.counts.any fun e => e.1 == 0) l.queries).isSome = true := launch_of (by decide)
/-- An open entry of the launch's bytes at line 0, and a committed one. -/
def casked (st : CaskState) : State := (step' .committing [0] [0]).setRim 0 { (base.rim 0) with casks := [⟨0, 7 :: List.replicate 63 0, 1, 1, st, 1⟩] }
theorem witness_cask_merge : ((casked .committed).rim 0).casks.filter (fun e => e.state == .committed) = [⟨0, 7 :: List.replicate 63 0, 1, 1, .committed, 1⟩] := by decide
theorem witness_publish : ((casked .open).rim 0).reds = [] ∧ (∀ e ∈ ((casked .open).rim 0).casks, e.state = .committed → e.order < 2) := by decide
theorem test_commit_publishes : ((after (.commitBroadcast 0 0 1) (casked .open)).rim 0).casks.map (·.state) = [.committed] := by decide
theorem test_merge_writes_the_line : memGet (after (.caskMerge 0 0) (casked .committed)).mem (hbmAddr 0 0) = 7
    ∧ ((after (.caskMerge 0 0) (casked .committed)).rim 0).casks = [] := by decide
theorem test_commit_instant : inPhase (after (.commitAck 0 0 1) (step' .committing [] [0])) (fun p l => l.phase == .unlocking && p.intent == none) = true := by decide

/-- The partition whose queue 3 holds n commands, and its state by port A. -/
def submitting (n : Nat) : State := (roomy base).updPart 0 fun p => { p with queues := p.queues.modify 3 fun q => { q with cmds := List.replicate n Cmd.zero } }
theorem witness_submit : ∃ p x, (submitting 31).part? 0 = some p ∧ p.queues[3]? = some x ∧ (submitting 31).portUp .sclA = true ∧ (submitting 31).partBusy p = false
    ∧ x.en = true ∧ x.flushed = false ∧ x.cmds.length = 31 :=
  ⟨((submitting 31).part? 0).getD placePart, ⟨List.replicate 31 Cmd.zero, 0, true, false⟩, by decide, by decide, by decide, by decide, by decide, by decide, by decide⟩
theorem witness_qctl : ({ base with module := { base.module with sem := .sclA } } : State).holdsSem .sclA = true ∧ base.holdsSem .sclA = false := by decide
theorem witness_launch_take : ∃ p, (submitting 1).part? 0 = some p ∧ p.stopped = false ∧ (submitting 1).module.warm = false ∧ p.headOf 3 = some Cmd.zero
    ∧ List.find? (fun q => (p.headOf q).isSome) ((List.range 16).map fun i => (p.turn + i) % 16) = some 3 :=
  ⟨((submitting 1).part? 0).getD placePart, by decide, by decide, by decide, by decide, by decide⟩
theorem witness_admission : ∃ p l, (step' .waiting [] []).part? 0 = some p ∧ p.launch? 1 = some l ∧ (l.phase == .waiting && p.freeGroup.isSome
    && decide (l.cask ≤ p.poolBytes)) = true := launch_of (by decide)
theorem witness_lock : ∃ p l, (step' .locking [0] [0]).part? 0 = some p ∧ p.launch? 1 = some l ∧ (l.phase == .locking && l.todo.contains 0) = true := launch_of (by decide)
theorem witness_lock_ack : ∃ p l, (step' .locking [] [0]).part? 0 = some p ∧ p.launch? 1 = some l ∧ (l.acks.contains 0 && l.acks.erase 0 == []) = true := launch_of (by decide)
theorem witness_start_time : ∃ p l, (step' .staged [] []).part? 0 = some p ∧ p.launch? 1 = some l ∧ (l.todo == [] && decide (l.start.getD 0 ≤ (step' .staged [] []).module.clock.ns)) = true :=
  launch_of (by decide)
theorem witness_deadline : ∃ p l, (phased fun l => { l with deadlineAt := some 0 }).part? 0 = some p ∧ p.launch? 1 = some l ∧ (l.deadlineAt == some 0) = true := launch_of (by decide)
theorem witness_fill : ∃ p l, (step' .filling [1] []).part? 0 = some p ∧ p.launch? 1 = some l ∧ (l.phase == .filling && l.todo.contains 1 && l.todo.erase 1 == []) = true := launch_of (by decide)
theorem witness_fire_wave : ∃ p, (step' .staged [0] []).partOfBand 0 = some p := ⟨((step' .staged [0] []).partOfBand 0).getD placePart, by decide⟩
theorem test_submit_of_a_full_queue : (after (.submit .sclA 0 3 (List.replicate 128 0)) (submitting 32)).module.responses.map (·.status) = [4] := by decide
theorem test_submit_is_numbered : (after (.submit .sclA 0 3 (List.replicate 128 0)) (submitting 31)).module.responses.map (fun r => (r.status, r.data)) = [(0, [0, 0, 0, 0, 0, 0, 0, 0])] := by
  decide
theorem test_deadline_kills : inPhase (after (.deadlineExpiry 0 1) (phased fun l => { l with deadlineAt := some 0 })) (fun _ l => l.phase == .kill1
    && l.ending == some ⟨2, 0, 0, false⟩) = true := by decide

/-- The placed core with a cellar at its buddy, and its keep changed. -/
def kept (f : Keep → Keep) : State := base.updPart 0 fun p => { p with keeps := [(0, f (Keep.new (some (buddyOf 1, 0))))] }
theorem witness_keep : ∃ p ep k, (kept fun k => { k with want := true }).keepAt 1 = some (p, ep, k) ∧ k.want = true ∧ k.copy = none
    ∧ ((kept fun k => { k with want := true }).core 1).paused = false :=
  ⟨((kept fun k => { k with want := true }).part? 0).getD placePart, 0, { Keep.new (some (buddyOf 1, 0)) with want := true }, by decide, by decide, by decide, by decide⟩
/-- An interval under copy with nothing left, and the keep of a fold. -/
def anIval : Ival := ⟨0, 0, 0, 1, Core.reset, []⟩
theorem witness_next_flit : ({ Keep.new none with copy := some anIval, snapLeft := 4 } : Keep).nextFlit [] = some (1, .cellar 0 [] 3 [] false,
    { Keep.new none with copy := some anIval, snapLeft := 1, out := 1 }) := by decide
theorem witness_close_line : ({ Keep.new none with copy := some anIval } : Keep).nextFlit [] = some (1, .cellar 0 [] 0 [] true,
    { Keep.new none with copy := some anIval, closeSent := true, out := 1 }) := by decide
theorem witness_interval_close : ∃ p ep k, (kept fun k => { k with copy := some anIval, closeSent := true }).keepAt 1 = some (p, ep, k) ∧ k.closeSent = true ∧ k.out = 0 :=
  ⟨((kept fun k => { k with copy := some anIval, closeSent := true }).part? 0).getD placePart, 0, { Keep.new (some (buddyOf 1, 0)) with copy := some anIval, closeSent := true },
    by decide, by decide, by decide⟩
theorem witness_fold : ∃ last, ({ Keep.new none with ivals := [anIval], fold := true } : Keep).ivals.getLast? = some last := ⟨anIval, by decide⟩
theorem witness_host : (kept id).usable (buddyOf 1) = true ∧ ((kept id).setCore (buddyOf 1) { Core.reset with dead := true }).usable (buddyOf 1) = false := by decide
theorem test_boundary_starts_its_copy : ((((after (.checkpointBoundary 1) (kept fun k => { k with want := true })).keepAt 1).map fun e => (e.2.2.num, e.2.2.snapLeft, e.2.2.want))
    = some (1, 1024, false)) := by decide

/-- A core in a pass of its district, drained, and one under its scan. -/
def passing (f : Core → Core) : State := (base.updPart 0 fun p => { p with rotas := [(0, ⟨0, some 1, [], [1], none⟩)] }).updCore 1 f
theorem witness_scan_pass : (passing fun c => { c with drained := true }).inPass 1 = true ∧ ((passing fun c => { c with drained := true }).core 1).drained = true
    ∧ ((passing fun c => { c with drained := true }).core 1).paused = false ∧ (passing fun c => { c with drained := true }).keepAt 1 = none := by decide
theorem witness_scan_result : ∃ p, (passing fun c => { c with scanning := true, drained := true }).partAt 1 = some p
    ∧ ((passing fun c => { c with scanning := true, drained := true }).core 1).scanning = true
    ∧ (passing fun c => { c with scanning := true, drained := true }).isReserve p 1 = false :=
  ⟨((passing fun c => { c with scanning := true, drained := true }).partAt 1).getD placePart, by decide, by decide, by decide⟩
theorem witness_watchdog : ((base.ctx 1 0).watched ((base.core 1).tq.any fun t => t.ctx == 0 && t.held.isNone)) = false
    ∧ (((ctxt fun c => { c with hold := .acq }).ctx 1 0).watched false) = true ∧ base.coreIssues 1 = true ∧ base.inPass 1 = false := by decide
theorem witness_detected_outside : base.partAt 100 = none ∧ (base.core 100).dead = false ∧ (base.core 100).retired = false ∧ (base.core 100).fenced = false ∧ base.inPass 100 = false := by decide
/-- A sparing of site 1's endpoint in a step. -/
def sparing (f : Sparing → Sparing) : State := (kept id).setSparing 0 (some (f ⟨0, 1, Core.reset, 9, .fence, [], false, [1], [1]⟩))
theorem witness_rebind_fence : (sparing id).sparingOf (((sparing id).partAt 1).getD placePart) 0 = some (0, ⟨0, 1, Core.reset, 9, .fence, [], false, [1], [1]⟩) := by decide
theorem witness_rebind_last : ∃ x, (sparing fun x => { x with todo := [] }).sparingOf (((sparing id).partAt 1).getD placePart) 0 = some (0, x) ∧ x.todo.contains 1 = false
    ∧ x.acks.contains 1 = true ∧ x.acks.filter (· != 1) = [] := ⟨⟨0, 1, Core.reset, 9, .fence, [], false, [], [1]⟩, by decide, by decide, by decide, by decide⟩
theorem witness_log_replay : ∃ x, ((sparing fun x => { x with step := .replay, reserve := 1 }).band (bandOf 1)).sparing = some x ∧ x.step = .replay ∧ x.reserve = 1 ∧ x.replay = [] :=
  ⟨⟨0, 1, Core.reset, 1, .replay, [], false, [1], [1]⟩, by decide, by decide, by decide, by decide⟩
theorem witness_sparing_bind : ∃ x p k, ((sparing fun x => { x with step := .bind, todo := [], acks := [] }).band 0).sparing = some x
    ∧ (sparing fun x => { x with step := .bind, todo := [], acks := [] }).partOfBand 0 = some p ∧ Tbl.find? p.keeps x.ep = some k ∧ x.step = .bind ∧ x.todo = [] :=
  ⟨⟨0, 1, Core.reset, 9, .bind, [], false, [], []⟩, ((sparing fun x => { x with step := .bind, todo := [], acks := [] }).partOfBand 0).getD placePart,
    Keep.new (some (buddyOf 1, 0)), by decide, by decide, by decide, by decide, by decide⟩
/-- A ring of the placed core with a sweep at it. -/
def sweeping : State := base.updPart 0 fun p => { p with ring := [⟨1, some 0⟩], sweep := some ⟨0, 0, 2 ^ 32 - 1⟩ }
theorem witness_sweep : ∃ p, sweeping.partAt 1 = some p ∧ p.sweep = some ⟨0, 0, 2 ^ 32 - 1⟩ ∧ p.ring[0]? = some ⟨1, some 0⟩ ∧ p.ring[1]? = none :=
  ⟨(sweeping.partAt 1).getD placePart, by decide, by decide, by decide, by decide⟩
theorem test_watchdog_traps : (after (.contextWatchdog 1 0) (ctxt fun c => { c with hold := .acq })).me.cause = 0x0B := by decide
theorem witness_core_watchdog : base.coreIssues 1 = true ∧ base.inPass 1 = false ∧ base.timersStill 1 = false ∧ (base.core 1).holdsWork = true
    ∧ (base.core 1).dead = false ∧ (base.core 1).retired = false ∧ (base.core 1).fenced = false := by decide
theorem test_core_watchdog_stops : ((after (.coreWatchdog 1) base).core 1).stopped = true := by decide
theorem test_pass_raises_its_number : ((after (.scanPassResult 1 true) (passing fun c => { c with scanning := true, drained := true })).core 1).pass = 1 := by decide
theorem test_sweep_brings_back : (((after (.healthSweep 1) sweeping).part? 0).map fun p => (p.health, p.ringBroken)) = some ((0, 0), false) := by decide

/-! ### The host, links, management and resets -/

/-- The module with the semaphore held by SCL-A. -/
def sem : State := { roomy base with module := { base.module with sem := .sclA } }
theorem witness_host_port : base.portUp .sclA = true ∧ base.module.warm = false ∧ ({ base with module := { base.module with upA := false } } : State).portUp .sclA = false
    ∧ ({ base with module := { base.module with warm := true } } : State).portUp .sclA = true := by decide
theorem witness_host_address : (0 : Nat) * 2 ^ 48 + 0 * 2 ^ 44 + 248 < 2 ^ 52 ∧ 248 % 8 = 0 ∧ 248 % 256 + 8 ≤ 256 ∧ 256 < 248 % 256 + 16 := by decide
theorem witness_host_memory : ∃ p, (roomy base).part? 0 = some p ∧ 248 + 8 ≤ p.capacity ∧ p.committing = false ∧ (roomy base).hostLocked p 248 8 = false
    ∧ (roomy base).part? 15 = none := ⟨((roomy base).part? 0).getD placePart, by decide, by decide, by decide, by decide, by decide⟩
theorem witness_semaphore : base.module.sem = .free ∧ sem.holdsSem .sclA = true ∧ sem.holdsSem .sclB = false ∧ sem.module.sem ≠ .free := by decide
theorem witness_pctl : (State.reset.band 0).pctl = 0 ∧ (State.reset.band 11).record.lead.toNat ≠ 11 ∧ sem.partOfBand 11 = none ∧ sem.portUp .sclA = true := by decide
theorem witness_staged : ({ sem with module := { sem.module with stagedSec := some 5 } } : State).module.stagedSec = some 5
    ∧ ({ sem with module := { sem.module with stagedSec := some 5 } } : State).holdsSem .sclA = true := by decide
theorem witness_pctl_operations : ((base.setBand 0 { base.band 0 with pctl := 2 }).band 0).pctl = 2 ∧ (base.setBand 0 { base.band 0 with pctl := 2 }).partOfBand 0 ≠ none
    ∧ ((State.reset.setBand 3 { State.reset.band 3 with pctl := 1 }).band 3).pctl = 1 ∧ (State.reset.setBand 3 { State.reset.band 3 with pctl := 1 }).part? 3 = none := by decide
theorem test_host_read_of_memory : (after (.hostMemoryRead .sclA 0 8) (roomy base)).module.responses.map (fun r => (r.status, r.data)) = [(0, [0, 0, 0, 0, 0, 0, 0, 0])] := by decide
theorem test_host_write : memGet (after (.hostMemoryWrite .sclA 0 [7, 0, 0, 0, 0, 0, 0, 0]) (roomy base)).mem (hbmAddr 0 0) = 7 := by decide
theorem test_sem_acquire : (after (.semRead .sclB) base).module.sem = .sclB ∧ (after (.semRead .sclB) base).module.responses.map (·.data) = [[2, 0, 1, 0, 0, 0, 0, 0]] := by decide
theorem test_tns_latches : (after (.tsecRead .sclA) { base with module := { base.module with clock := ⟨3000000007, 0⟩ } }).module.latch = [(.sclA, 7)] := by decide

/-- Port 4 running, with a flit come. -/
def linkState (f : BhlPort → BhlPort) : State := (roomy base).setLink 4 (f { BhlPort.reset with state := 2, txw := 0, rxw := 0 })
def aFlit (kind : Nat) (seq : BitVec 12) (b : LinkBody) : LinkFlit := ⟨kind, false, seq, 0, 0, false, b⟩
theorem witness_link_data : let s := linkState fun x => { x with line := [aFlit 1 0 (.data 3 [7])] }
    (s.link 4).line = [aFlit 1 0 (.data 3 [7])] ∧ (s.link 4).runs = true ∧ (s.link 4).rerx = none ∧ (s.link 4).corrupt (aFlit 1 0 (.data 3 [7])) = false
      ∧ (s.link 4).corrupt { aFlit 1 0 (.data 3 [7]) with bad := true } = true := by decide
theorem witness_link_windows : ((2047 : BitVec 12) - 0).toNat < 2048 ∧ 2048 ≤ ((2048 : BitVec 12) - 0).toNat := by decide
theorem witness_link_nak : ((linkState fun x => { x with line := [aFlit 2 0 .none], replay := [aFlit 1 5 .none] }).link 4).replay ≠ [] := by decide
theorem witness_retrain : ((linkState fun x => { x with retx := some 1 }).link 4).retx = some 1 ∧ ((linkState fun x => { x with retx := some 1 }).link 4).replay = []
    ∧ ((linkState fun x => { x with rerx := some 1 }).link 4).rerx = some 1 := by decide
theorem witness_lane_loss : (widthLanes ((linkState id).link 4).rxw.toNat).contains 15 = true ∧ intactWidth (0 ||| (1 <<< 15)) ≠ none
    ∧ (widthLanes 1).contains 15 = false := by decide
theorem witness_training : ∃ w, intactWidth (~~~(BitVec.ofNat 16 0xFFFF)) = some w ∧ intactWidth (~~~(BitVec.ofNat 16 0)) = none := ⟨0, by decide⟩
/-- A pull in order at port 0's engine. -/
def pulling : State := arrived (portEp 0) .request [] [] [flit (.pull ⟨0, 0, 0, 0, 1, 256⟩ 0 [(8, 0)] 0 ⟨0, 0, 0, 0, 1, 0, 0⟩) 0 (portEp 0) 0 0]
theorem witness_pull : ((pulling.takeIn 0 (portEp 0) .request).map fun r => r.1.body.kind) = some 3 ∧ pulling.partOfBand 0 ≠ none := by decide
theorem witness_export : ((linkState fun x => { x with store := [aFlit 1 0 (.request ⟨0, 0, 0, 0, 8⟩)] }).link 4).store = [aFlit 1 0 (.request ⟨0, 0, 0, 0, 8⟩)]
    ∧ (linkState id).part? 0 ≠ none ∧ (linkState id).part? 9 = none := by decide
theorem witness_code_window : ({ base.rim 0 with bursts := 2 ^ 20 } : Rim).bursts = 2 ^ 20 ∧ (base.rim 0).bursts < 2 ^ 20 := by decide
/-- A retiring channel of the placed partition, at its own blocks or past them. -/
def retiring (n : Nat) : State := base.setRim 5 { base.rim 5 with chState := 1, donor := 5, nextBlock := n }
theorem witness_block_move : ∃ p, (retiring 7).partOfBand (5 / 128) = some p ∧ ((retiring 7).rim 5).rebind = [] ∧ (retiring 7).nextDonor p 5 5 = some 6
    ∧ (retiring 31744).lentBy p 5 = [] ∧ ((retiring 7).setRim 9 { base.rim 9 with blocks := [(3, (5, 0))] }).lentBy p 5 = [(9, 3)] :=
  ⟨((retiring 7).partOfBand (5 / 128)).getD placePart, by decide, by decide +kernel, by decide +kernel, by decide +kernel, by decide +kernel⟩
theorem witness_rebind : ∃ p, base.partOfBand (5 / 128) = some p ∧ (base.donors p 5 5)[12 % (base.donors p 5 5).length]? = some 18 :=
  ⟨(base.partOfBand (5 / 128)).getD placePart, by decide, by decide +kernel⟩
theorem test_neighbours_at_the_edge : (neighbours 1, neighbours 8388607) = ([0, 2, 3], [8388605, 8388606]) := by decide
theorem witness_retirement : base.partOfBand (0 / 128) ≠ none ∧ ({ base.rim 0 with rq := true } : Rim).chState = 0 := by decide
theorem test_link_takes_in_order : ((after (.linkDataFlit 4) (linkState fun x => { x with line := [aFlit 1 0 (.data 3 [7])] })).link 4).e = 1 := by decide
theorem test_link_drops_a_gap : ((after (.linkDataFlit 4) (linkState fun x => { x with line := [aFlit 1 3 (.data 3 [7])] })).link 4).e = 0
    ∧ ((after (.linkDataFlit 4) (linkState fun x => { x with line := [aFlit 1 3 (.data 3 [7])] })).link 4).out.map (·.kind) = [2] := by decide
theorem test_link_counts_a_crc_error : ((after (.linkDataFlit 4) (linkState fun x => { x with line := [{ aFlit 1 0 .none with bad := true }] })).link 4).crcerr = 1 := by decide

theorem witness_power : base.module.mgc.input = .full ∧ (after .inputUndervoltage base).module.mgc.input = .ride ∧ (after .inputPowerLoss base).module.mgc.input = .off := by decide
theorem witness_over_budget : 98 * base.module.mgc.budget < 100 * (List.range 24).foldl (fun n d => n + (List.replicate 24 1200).getD d 0) 0 ∧ base.module.mgc.input ≠ .off := by decide
theorem witness_under_budget : 100 * (List.range 24).foldl (fun n d => n + ([] : List Nat).getD d 0) 0 < 95 * base.module.mgc.budget := by decide
theorem witness_management : base.module.mgc.recovery = false ∧ (11 : Nat) * 2 ^ 28 + 1 * 2 ^ 24 + 0x18 < 2 ^ 32 := by decide
theorem witness_heartbeat : (base.band 0).missAt = none ∧ base.module.booting = false ∧ (after (.heartbeatMiss 0) base).module.warm = false := by decide
theorem witness_siding_full : ∃ p, base.partOfBand 0 = some p ∧ p.sidingUsed 0 < sidingSize := ⟨(base.partOfBand 0).getD placePart, by decide, by decide⟩
theorem test_undervoltage_caps : ((after .inputUndervoltage base).dom 23).capNext = some 2 := by decide
theorem test_measurement_lowers_a_domain : ((after (.powerMeasurement (List.replicate 24 1200)) base).dom 0).capNext = some 3 := by decide
theorem test_overtemperature_ends_power : (after (.overtemperature 0 121) base).module.mgc.input = .off ∧ (after (.overtemperature 0 111) base).module.warm = true
    ∧ (after (.overtemperature 0 110) base).module.warm = false := by decide
theorem test_management_read : (after (.managementRequest (2 ^ 24) none) base).module.mgc.responses = [0x40404] := by decide

theorem witness_warm_reset : base.module.warm = false ∧ base.module.booting = false ∧ base.module.mgc.input ≠ .off ∧ (after .warmReset base).module.warm = true := by decide
theorem witness_warm_failure : ({ base.module.mgc with warmFails := 1 } : Mgc).warmFails = 1 ∧ base.module.fc ≤ base.module.mgc.failAt + 840000000000 := by decide
theorem witness_cold_bringup : (after .coldBringup base).module.booting = true ∧ base.module.booting = false ∧ base.module.mgc.recovery = false := by decide
theorem test_warm_reset_ends : (after .warmResetEnd (after .warmReset base)).module.warm = false
    ∧ inPhase (after .warmResetEnd (after .warmReset base)) (fun _ _ => true) = false := by decide
theorem test_cold_bringup_unassigns : (after .coldBringupEnd (after .coldBringup base)).parts = [] ∧ (after .coldBringupEnd (after .coldBringup base)).portUp .sclA = true := by decide

/-! ### The step, encodings and the invariant -/

theorem sound_of {c : Ctx} (h : (decide (c.x[0] = 0) && decide (c.pc.toNat % 4 = 0) && decide (c.epc.toNat % 4 = 0) && decide (c.tvec.toNat % 4 = 0)
    && c.hints.isNone) = true) : c.sound := by
  simp only [Bool.and_eq_true, decide_eq_true_eq, Option.isNone_iff_eq_none] at h
  exact ⟨h.1.1.1.1, h.1.1.1.2, h.1.1.2, h.1.2, fun g e => by rw [h.2] at e; cases e⟩
theorem next_of {o : Out} (h : (match o with | .next _ => true | _ => false) = true) : ∃ t, o = .next t := by
  cases o with
  | next t => exact ⟨t, rfl⟩
  | _ => cases h
/-- Reset with ADDI x1, x0, 255 placed: a sound state. -/
def placed : State := State.reset.withFetchWord 32 0x082000FF
theorem core_of_sound {c : Core} (h : ∀ n, n < 8 → (c.ctx n).sound) (n : Nat) : (c.ctx n).sound := by
  by_cases e : n < 8
  · exact h n e
  · have : c.ctx n = Ctx.reset := by unfold Core.ctx; rw [Vector.getElem?_eq_none (by omega)]; rfl
    rw [this]; exact sound_of (by decide)
theorem placed_sound : placed.Sound := by
  refine ⟨by decide, fun site n => core_of_sound (fun n hn => ?_) n⟩
  have hc : placed.core site = if site = 1 then placed.core 1 else Core.reset := by
    show (Tbl.get Core.reset placed.cores site) = _
    have : placed.cores = [(1, placed.core 1)] := rfl
    rw [this]
    by_cases h : site = 1
    · subst h; rfl
    · rw [if_neg h]; simp [Tbl.get, Tbl.find?, Ne.symm h]
  rw [hc]
  split
  · match n, hn with
    | 0, _ | 1, _ | 2, _ | 3, _ | 4, _ | 5, _ | 6, _ | 7, _ => exact sound_of (by decide)
  · match n, hn with
    | 0, _ | 1, _ | 2, _ | 3, _ | 4, _ | 5, _ | 6, _ | 7, _ => exact sound_of (by decide)
/-- Its next turn issues a word of the scalar pipeline, and the step goes on. -/
theorem witness_scalar_step : ∃ (s t : State) (site n : Nat) (rest : List Turn), s.Sound ∧ s.order = .issue site n :: rest
    ∧ scalarWord (instrOfFetch ({ s.begin with order := rest }.fetch site ({ s.begin with order := rest }.ctx site n).vintage
      ({ s.begin with order := rest }.ctx site n).pc)) = true ∧ step s = .next t :=
  let ⟨t, h⟩ := next_of (o := step placed) (by decide)
  ⟨placed, t, 1, 0, [], placed_sound, by decide, by decide, h⟩
theorem witness_issue_turn : let s := State.reset.withFetchWord 32 0x082000FF
    let b := { s.begin with order := [] }
    s.order = [.issue 1 0] ∧ (b.ctx 1 0).issues = true ∧ b.coreIssues 1 = true ∧ b.mayTake 1 0 = true ∧ b.fetch 1 (b.ctx 1 0).vintage (b.ctx 1 0).pc = .word 0x082000FF
      ∧ decodeTableWord 32 0x082000FF = some (.addi 1 0 0xFF)
      ∧ ∀ m, m < 8 → m ≠ 0 → ¬((b.ctx 1 m).issues = true ∧ (b.ctx 1 m).hints ≠ none ∧ (b.ctx 1 m).hold = .none) := by decide
/-- A word group: HINT IMM 1, then ADDI x3, x1, 2, its source pending or not. -/
def group (sb : BitVec 32) : State :=
  let s := State.reset.withFetchWord 32 0xFC000001
  let t := s.updCtx 1 0 fun c => { c with sb := sb }
  { t with mem := memWrite t.mem (hbmAddr 0 4) [0x02, 0x00, 0x61, 0x08] }
theorem test_group_does_not_start_while_its_word_waits : (match step (group 2) with
    | .next t => ((t.ctx 1 0).pc - placePc, (t.ctx 1 0).hints)
    | _ => (1, none)) = (0, none) := by decide
theorem test_group_starts : (match step (group 0) with
    | .next t => ((t.ctx 1 0).pc - placePc, (t.ctx 1 0).hints)
    | _ => (1, none)) = (4, some ⟨placePc, some 1, none, none⟩) := by decide
theorem witness_due_event : ∃ (s : State) (i : Instr) (rest : List Due), s.order = [] ∧ s.pending = .ev i :: rest :=
  ⟨{ after (.killWrite 0 1) (roomy base) with order := [] }, _, _, by decide, rfl⟩
theorem witness_forced_event : ∃ (s : State) (i : Instr) (rest : List Turn), s.order = .event i :: rest ∧ ∀ j r, rest = .event j :: r → s.rivals i j = false :=
  ⟨{ base with order := [.event .ppsEdge] }, .ppsEdge, [], rfl, fun _ _ h => by cases h⟩
theorem witness_scl_tie : ∃ (s : State) (i j : Instr) (rest : List Turn), s.order = .event i :: .event j :: rest ∧ s.rivals i j = true
    ∧ s.ofSclA i = s.module.tieFirstA :=
  ⟨{ base with order := [.event (.submit .sclA 0 3 []), .event (.submit .sclB 0 3 [])] }, _, _, _, rfl, by decide, by decide⟩
theorem test_no_tie_of_two_targets : base.rivals (.submit .sclA 0 3 []) (.semRead .sclB) = false := by decide
theorem witness_encoding : encodeWord (.addi 1 0 0xFF) = some 0x082000FF := by decide

/-! ### Corners of the rules -/

-- A word whose counter is at 63 does not issue (R174), and an 8-bit load through windows 1 to 7 is misaligned wherever it goes (R102, R119).
/-- A state with the counters ld and st at 63. -/
def counted (s : State) : State := s.setMe { s.me with ld := 63, st := 63 }
theorem test_full_counters_hold_words : after (.ld 3 1 .x64 0) (counted (regs [(1, 0x8000000)])) = counted (regs [(1, 0x8000000)])
    ∧ after (.st 3 1 .b64 0) (counted (regs [(1, 0x8000000)])) = counted (regs [(1, 0x8000000)])
    ∧ after (.ldp 3 1 .x64 0 0) (counted (wr [(1, 0)])) = counted (wr [(1, 0)]) := by decide
theorem test_full_counters_hold_atomics : after (.amo 3 1 2 .add .w32 .none .cx) (counted (regs [(1, 0x8000000)])) = counted (regs [(1, 0x8000000)])
    ∧ after (.cas 3 1 2 .w32 .none .cx) (counted (regs [(1, 0x8000000)])) = counted (regs [(1, 0x8000000)])
    ∧ after (.red 1 2 .add .w32 .none .cx) (counted (regs [(1, 0x8000000)])) = counted (regs [(1, 0x8000000)]) := by decide
theorem test_narrow_window_loads_trap : (after (.ld 3 1 .n8 0) (regs [(1, 0x11000001)])).me.cause = 0x03
    ∧ (after (.ld 3 1 .n8 0) (wr [(1, 0x1FFFF11000001)])).me.cause = 0x03 ∧ (after (.ld 3 1 .n8 0) (wr [(1, 0x1FFFF10000001)])).me.cause = 0x04 := by decide
theorem test_vabs_completes : memRead (after (.vectorFinish 1) (after (.vabs 3 1 .i32) (rows.scrWrite 1 0x2E0010 [0xFF, 0xFF, 0xFF, 0xFF]))).mem
    (scrAddr 1 0x2E0030) 8 = [1, 0, 0, 0, 2, 0, 0, 0] := by decide

-- BDECL (R181, R183): while another context's is unanswered the words of the buffer wait; a refused one traps PROT.
/-- Another context that holds for its BDECL of buffer 3. -/
def declaring : State := (buffer .empty 0 (regs [(1, 0x1000), (2, 0x1000)])).updCtx 1 2 fun c => { c with vintage := 1, hold := .bdecl 3 0x1000 0x1000 }
theorem test_words_wait_for_a_declaration : declaring.myCore.declaring 1 3 0 = true ∧ after (.bfill 3) declaring = declaring
    ∧ after (.bdecl 1 2 3) declaring = declaring := by decide
theorem test_refused_declaration_traps : (after (.bdecl 1 2 3) ((regs [(1, 0x1000), (2, 0x1000)]).setMe
    { (regs [(1, 0x1000), (2, 0x1000)]).me with hold := .bdeclDone false })).me.cause = 0x05 := by decide
theorem test_report_refuses_a_bad_range :
    ((after (.bdeclReport 1 0) (ctxt fun c => { c with hold := .bdecl 3 0x1000 0x7FFFFFFF })).me.hold) = .bdeclDone false := by decide

-- Nested ends (R245): the record's epc and faddr are the entry's.
theorem test_nested_end : ((ctxt fun c => { c with tact := true, tepc := 0x40, tfaddr := 0x80 }).trap 0x04 0x99).me.hold
    = .suspending (.ending true 0x04 0x40 0x80 0) := by decide

-- Wants of the slew limiter (R343): a want keeps its cycle; a command without an update does not want to rise.
theorem test_slew_wants : (SlewArray.wants ⟨2, some 5, none⟩ 4 true true 9).rise = some 5 ∧ (SlewArray.wants ⟨2, none, none⟩ 4 true true 9).rise = some 9
    ∧ (SlewArray.wants ⟨2, none, none⟩ 4 false true 9).fall = some 9 ∧ (SlewArray.wants ⟨4, none, none⟩ 2 true true 9).fall = some 9 := by decide
theorem witness_lowered_cap : (Tbl.get Domain.reset (base.setDom 0 { base.dom 0 with capNext := some 2 }).doms 0).capNext = some 2
    ∧ ((after (.slewStepBoundary 0) (base.setDom 0 { base.dom 0 with capNext := some 2 })).dom 0).cap = 2 := by decide

-- Routing (R395): two transit flits of one turn take different ports.
/-- A router with two transit flits for the same neighbour. -/
def crossing : State := (roomy base).setRouter 604 { (roomy base).router 604 with
  inReq := (((roomy base).router 604).inReq.set 0 [{ aLoad with dsite := 608, seq := 1 }]).set 2 [{ aLoad with dsite := 608, seq := 2 }] }
theorem test_two_flits_take_two_ports : ([484, 605].map fun s => ((after (.flitRouting .request 604) crossing).router s).inReq.toList.map List.length)
  = [[0,0,1,0],[0,0,0,1]] := by decide +kernel

/-- The fold of a pass: the intervals before the number at its end. -/
theorem witness_fold_of_a_pass : let k := { Keep.new none with ivals := [anIval, { anIval with num := 1 }], fold := true, foldNum := 1 }
    (k.ivals.filter fun iv => beforeEn iv.num k.foldNum) = [anIval] ∧ k.folded.ivals = [{ anIval with num := 1 }] := by decide

-- The numbers of a pair (R399, R400): the 2,049th unanswered flit is not injected; the next flit is found on either plane.
/-- The placed partition with some unanswered flits from LCN 0 to the first slot. -/
def unanswered (n : Nat) : Part := let p := ((roomy base).part? 0).getD placePart; p.setEp 0 { p.ep 0 with await := [(0x8000, n)] }
theorem test_pair_limit :
    let r := { Router.reset with offCoreReq := [{ aLoad with last := 4 }] }
    (unanswered 2048).pairOut 0 0x8000 = 2048 ∧ (unanswered 2048).injectable r [{ aLoad with last := 4 }] = some (0, { aLoad with last := 4 })
      ∧ (unanswered 2049).injectable r [{ aLoad with last := 4 }] = none := by decide
/-- A slot whose next flit waits on the reply plane. -/
def twoPlanes : State := (roomy base).updPart 0 fun p => p.setEp 0x8000 { p.ep 0x8000 with reqIn := [aLoad], repStore := [{ aLoad with plane := .reply, seq := 1 }] }
theorem test_order_crosses_planes : ((twoPlanes.takeIn 0 0x8000 .request).map fun r =>
    ((((r.2.part? 0).getD placePart).ep 0x8000).repIn.map (·.seq), (((r.2.part? 0).getD placePart).ep 0x8000).repStore.length)) = some ([1], 0) := by decide

-- The siding of an endpoint that is rebound (R403, R406): it waits for step 3, and step 3 ends when the lists are empty.
/-- A sparing of LCN 0's endpoint in a step, with a list for it. -/
def rebound (f : Sparing → Sparing) : State := (sparing f).updPart 0 fun p => { p with rebinding := [0], siding := [⟨0, 0, [{ aLoad with dep := 0 }]⟩] }
theorem witness_release_stage : (rebound id).releaseStage (((rebound id).part? 0).getD placePart) 0 = some false
    ∧ (rebound fun x => { x with step := .release }).releaseStage (((rebound fun x => { x with step := .release }).part? 0).getD placePart) 0 = some true
    ∧ (rebound fun x => { x with step := .replay }).releaseStage (((rebound fun x => { x with step := .replay }).part? 0).getD placePart) 0 = none := by decide
theorem test_release_waits_for_its_lists : (((rebound id).part? 0).getD placePart).hasParked 0 0 = true
    ∧ after (.rebindReleaseAck 1 0) (rebound fun x => { x with step := .release }) = rebound fun x => { x with step := .release } := by decide

/-- A replayed record of a landing writes its bytes and counts its event. -/
theorem test_replay_writes_bytes : memRead ((sparing id).replayRec 1 ⟨7, 1, 0, 0, 0x10000010, 0, 0, [9]⟩).mem (scrAddr 1 0x10) 1 = [9]
    ∧ (((sparing id).replayRec 1 ⟨7, 1, 0, 0, 0x10000010, 0, 0, [9]⟩).core 1).en = 8 := by decide
theorem test_notices : ((base.notice (.ringBroken 0)).notice (.sidingFull 3)).module.mgc.notices = [.ringBroken 0, .sidingFull 3] := by decide

-- A full cellar (R478): the high-water mark asks for a boundary once, and a full cellar holds the core's writes.
/-- The placed core with a closed interval of many lines. -/
def filled (n : Nat) (f : Keep → Keep) : State := kept fun k => f { k with snapPart := n }
theorem test_high_water : (filled 16383 id).noteHigh 1 = (filled 16383 id).later (.highWater 1) ∧ (filled 16383 fun k => { k with want := true }).noteHigh 1
    = (filled 16383 fun k => { k with want := true }) ∧ (filled 0 id).noteHigh 1 = filled 0 id := by decide
theorem test_full_cellar_holds : (filled 16384 id).still 1 = true ∧ (filled 16383 id).still 1 = false := by decide
theorem test_fold_lets_a_held_core_go_on : ((((after (.mirrorFold 1) (kept fun k => { k with fold := true, foldNum := 1, ivals := [anIval] })).keepAt 1).map fun e =>
    (e.2.2.ivals, e.2.2.fold)) = some ([], false)) := by decide

-- Links and management: a retrain flit on a retraining direction, a nak, a cap written in a ride-through.
theorem test_layAround_keeps_an_unbroken_ring : ((sweeping.layAround ((sweeping.part? 0).getD placePart) 1).part? 0).isSome = true := by decide +kernel
theorem test_rearrival_of_a_retrain : ((after (.linkRetrainFlit 4) (linkState fun x => { x with line := [aFlit 3 0 .none], rerx := some 1 })).link 4).state = 1 := by decide
theorem test_nak_resends_before_new_flits : (((after (.linkNakFlit 4) (linkState fun x => { x with
    line := [aFlit 2 0 .none], replay := [aFlit 1 0 (.data 7 [])], next := 1, unsent := [.data 8 []], pmod := 5 })).link 4).out.map (·.seq)) = [0, 1] := by decide
theorem test_ride_through_keeps_a_later_cap : (((after (.managementRequest 0x01000000 (some 0x010101)) (after .inputUndervoltage base)).dom 0).capNext,
    (after .rideThroughEnd (after (.managementRequest 0x01000000 (some 0x030101)) (after .inputUndervoltage base))).dom 0 |>.capNext) = (some 1, some 3) := by decide

-- Gating (R452): answers of 1 start a new wave once a core that gave one is scanned, else the launch waits for the scan.
/-- A launch in its gating wave, whose last answer is due, after an answer of 1 by the core. -/
def gated' (f : Core → Core) : State := (phased fun l => { l with phase := .gating, acks := [1], answers := [(1, 1, 0, 0)], todo := [], waveOut := true }).updCore 1 f
theorem test_gating_waits_for_a_scan :
    (after (.gatingAnswer 1 1) (gated' fun c => { c with prov := [(1, c.pass)] })).pending = (gated' id).pending := by decide
theorem test_gating_starts_again : (after (.gatingAnswer 1 1) (gated' id)).pending.length = (gated' id).pending.length + 1 := by decide
-- The end of a domain (R254) takes the pool entries whose hint is the core.
theorem test_pool_entries_end : (((((pooled id).endEntries 0 0 1 fun _ => true).part? 0).map fun p => (p.pool 0).entries.length)) = some 0
    ∧ ((((pooled id).endEntries 0 9 1 fun _ => true).part? 0).map fun p => (p.pool 0).entries.length) = some 1 := by decide

/-- A machine whose band 0 holds a record that can be carried out, its partition idle and the semaphore with SCL-A. -/
def idle : State := (sem.updPart 0 fun p => { p with launches := [] }).setBand 0 { sem.band 0 with pcfg := [(0, 0x10)] }
theorem witness_create : (idle.band 0).pctl = 0 ∧ (idle.band 0).record.lead.toNat = 0 ∧ idle.configOk (idle.band 0).record = true ∧ idle.holdsSem .sclA = true
    ∧ idle.portUp .sclA = true ∧ idle.module.warm = false ∧ idle.module.stagedSec = none := by decide
theorem test_create_and_dissolve_start : ((after (.pctlCreate .sclA 0) idle).band 0).pctl = 1 ∧ ((after (.pctlDissolve .sclA 0) idle).band 0).pctl = 2
    ∧ (after (.pctlCreate .sclA 0) idle).module.responses.map (·.status) = [0] := by decide

end Sys2Proof.Tests
end

section
/-!
PROOFS. The encoding (02_instruction_words_and_assembly.md, R39-R70): what reading a field of a word gives, the codes of the
fields, each word as a list of its fields, and from them that the encoder and the decoder agree in both directions.
-/

namespace Sys2Proof.Encoding

/-! ## Fields of a word -/

theorem bits_lt (w lo n : Nat) : bits w lo n < 2 ^ n := Nat.mod_lt _ (Nat.two_pow_pos n)

@[simp] theorem fld_toNat (w lo n : Nat) : (fld w lo n).toNat = bits w lo n := by simp [fld, bits]

theorem bits_one_eq_one {w lo : Nat} (h : bits w lo 1 ≠ 0) : bits w lo 1 = 1 := by
  have := bits_lt w lo 1
  omega

theorem bits_two_eq_two {w lo : Nat} (h0 : bits w lo 2 ≠ 0) (h1 : bits w lo 2 ≠ 1) (h3 : bits w lo 2 ≠ 3) : bits w lo 2 = 2 := by
  have := bits_lt w lo 2
  omega

theorem fld_eq_bits (w lo n : Nat) : fld w lo n = BitVec.ofNat n (bits w lo n) := by
  rw [← fld_toNat, BitVec.ofNat_toNat, BitVec.setWidth_eq]

theorem flag_eq_bits (w lo : Nat) : flag w lo = (bits w lo 1 == 1) := rfl

@[simp] theorem toNat_beq_one (b : Bool) : (b.toNat == 1) = b := by cases b <;> rfl

@[simp] theorem flag_toNat (w lo : Nat) : (flag w lo).toNat = bits w lo 1 := by
  rw [flag_eq_bits]
  have h : bits w lo 1 < 2 := bits_lt w lo 1
  obtain h | h : bits w lo 1 = 0 ∨ bits w lo 1 = 1 := by omega
  all_goals
    rw [h]
    rfl

/-- The bits of a word up to the top of a field: the field, above the bits below it. -/
theorem mod_eq_bits_add_mod (w lo n : Nat) : w % 2 ^ (n + lo) = bits w lo n * 2 ^ lo + w % 2 ^ lo := by
  rw [bits, Nat.add_comm n lo, Nat.pow_add, Nat.mod_mul, Nat.add_comm, Nat.mul_comm]

/-- A field reads back what was placed there, whatever stands above and below it. -/
theorem bits_placed {lo n v x : Nat} (k : Nat) (hv : v < 2 ^ n) (hx : x < 2 ^ lo) :
    bits (k * 2 ^ (n + lo) + (v * 2 ^ lo + x)) lo n = v := by
  have e : k * 2 ^ (n + lo) + (v * 2 ^ lo + x) = 2 ^ lo * (2 ^ n * k + v) + x := by
    simp only [Nat.pow_add, Nat.mul_add, Nat.add_assoc, Nat.mul_comm, Nat.mul_left_comm]
  rw [bits, e, Nat.mul_add_div (Nat.two_pow_pos lo), Nat.div_eq_of_lt hx, Nat.add_zero, Nat.mul_add_mod, Nat.mod_eq_of_lt hv]

/-! ## Codes (R34-R38, R47, R50, R68): a code that is assigned stands for one value -/

theorem dtypeOf_eq_ok {n : Nat} {t : DType} : dtypeOf n = .ok t ↔ n = t.code := by
  constructor
  · unfold dtypeOf
    split <;> rintro ⟨⟩ <;> rfl
  · rintro rfl
    cases t <;> rfl

theorem rndOf_eq_ok {n : Nat} {r : Rnd} : rndOf n = .ok r ↔ n = r.code := by
  constructor
  · unfold rndOf
    split <;> rintro ⟨⟩ <;> rfl
  · rintro rfl
    cases r <;> rfl

theorem scopeOf_eq_ok {n : Nat} {c : Scope} : scopeOf n = .ok c ↔ n = c.code := by
  constructor
  · unfold scopeOf
    split <;> rintro ⟨⟩ <;> rfl
  · rintro rfl
    cases c <;> rfl

theorem ldSizeOf_eq_ok {n : Nat} {z : LdSize} : ldSizeOf n = .ok z ↔ n = z.code := by
  constructor
  · unfold ldSizeOf
    split <;> rintro ⟨⟩ <;> rfl
  · rintro rfl
    cases z <;> rfl

theorem stSizeOf_eq_ok {n : Nat} {z : StSize} : stSizeOf n = .ok z ↔ n = z.code := by
  constructor
  · unfold stSizeOf
    split <;> rintro ⟨⟩ <;> rfl
  · rintro rfl
    cases z <;> rfl

theorem aopOf_eq_ok {n : Nat} {a : AOp} : aopOf n = .ok a ↔ n = a.code := by
  constructor
  · unfold aopOf
    split <;> rintro ⟨⟩ <;> rfl
  · rintro rfl
    cases a <;> rfl

theorem asizeOf_eq_ok {n : Nat} {z : ASize} : asizeOf n = .ok z ↔ n = z.code := by
  constructor
  · unfold asizeOf
    split <;> rintro ⟨⟩ <;> rfl
  · rintro rfl
    cases z <;> rfl

theorem brHintOf_eq_ok {n : Nat} {b : BrHint} : brHintOf n = .ok b ↔ n = b.code := by
  constructor
  · unfold brHintOf
    split <;> rintro ⟨⟩ <;> rfl
  · rintro rfl
    cases b <;> rfl

@[simp] theorem dtypeOf_code (t : DType) : dtypeOf t.code = .ok t := dtypeOf_eq_ok.mpr rfl
@[simp] theorem rndOf_code (r : Rnd) : rndOf r.code = .ok r := rndOf_eq_ok.mpr rfl
@[simp] theorem scopeOf_code (c : Scope) : scopeOf c.code = .ok c := scopeOf_eq_ok.mpr rfl
@[simp] theorem ldSizeOf_code (z : LdSize) : ldSizeOf z.code = .ok z := ldSizeOf_eq_ok.mpr rfl
@[simp] theorem stSizeOf_code (z : StSize) : stSizeOf z.code = .ok z := stSizeOf_eq_ok.mpr rfl
@[simp] theorem aopOf_code (a : AOp) : aopOf a.code = .ok a := aopOf_eq_ok.mpr rfl
@[simp] theorem asizeOf_code (z : ASize) : asizeOf z.code = .ok z := asizeOf_eq_ok.mpr rfl
@[simp] theorem brHintOf_code (b : BrHint) : brHintOf b.code = .ok b := brHintOf_eq_ok.mpr rfl
@[simp] theorem ordOf_code (o : Ord) : ordOf o.code = o := by cases o <;> rfl

@[simp] theorem bits_two_mod (w lo : Nat) : bits w lo 2 % 4 = bits w lo 2 := Nat.mod_eq_of_lt (bits_lt w lo 2)

@[simp] theorem code_ordOf_bits (w lo : Nat) : (ordOf (bits w lo 2)).code = bits w lo 2 := by
  have h : bits w lo 2 < 4 := bits_lt w lo 2
  obtain h | h | h | h : bits w lo 2 = 0 ∨ bits w lo 2 = 1 ∨ bits w lo 2 = 2 ∨ bits w lo 2 = 3 := by omega
  all_goals
    rw [h]
    rfl

/-! Every code fits its field. -/

@[simp] theorem dtype_code_mod (t : DType) : t.code % 32 = t.code := by cases t <;> rfl
@[simp] theorem rnd_code_mod (r : Rnd) : r.code % 8 = r.code := by cases r <;> rfl
@[simp] theorem scope_code_mod (c : Scope) : c.code % 8 = c.code := by cases c <;> rfl
@[simp] theorem ord_code_mod (o : Ord) : o.code % 4 = o.code := by cases o <;> rfl
@[simp] theorem ldSize_code_mod (z : LdSize) : z.code % 8 = z.code := by cases z <;> rfl
@[simp] theorem stSize_code_mod (z : StSize) : z.code % 8 = z.code := by cases z <;> rfl
@[simp] theorem aop_code_mod (a : AOp) : a.code % 16 = a.code := by cases a <;> rfl
@[simp] theorem asize_code_mod (z : ASize) : z.code % 4 = z.code := by cases z <;> rfl
@[simp] theorem brHint_code_mod (b : BrHint) : b.code % 4 = b.code := by cases b <;> rfl

/-! ## A word as its fields -/

/-- A field of a word: its width and its contents. -/
abbrev WordField := (n : Nat) × BitVec n

/-- The width of fields together. -/
@[simp] def width : List WordField → Nat
  | [] => 0
  | ⟨n, _⟩ :: t => n + width t

/-- The value whose fields, from the top down, are these. -/
@[simp] def pack : List WordField → Nat
  | [] => 0
  | ⟨_, v⟩ :: t => v.toNat * 2 ^ width t + pack t

/-- The low bits of a value hold these fields, from the top down. -/
@[simp] def Reads (w : Nat) : List WordField → Prop
  | [] => True
  | ⟨n, v⟩ :: t => bits w (width t) n = v.toNat ∧ Reads w t

theorem pack_lt (fs : List WordField) : pack fs < 2 ^ width fs := by
  induction fs with
  | nil => simp
  | cons f t ih =>
    obtain ⟨n, v⟩ := f
    calc v.toNat * 2 ^ width t + pack t < (v.toNat + 1) * 2 ^ width t := by rw [Nat.succ_mul]; omega
      _ ≤ 2 ^ n * 2 ^ width t := Nat.mul_le_mul_right _ v.isLt
      _ = 2 ^ (n + width t) := (Nat.pow_add 2 n _).symm

/-- Packed fields read back, whatever stands above them. -/
theorem reads_add_pack (fs : List WordField) (k : Nat) : Reads (k * 2 ^ width fs + pack fs) fs := by
  induction fs generalizing k with
  | nil => trivial
  | cons f t ih =>
    obtain ⟨n, v⟩ := f
    refine ⟨bits_placed k v.isLt (pack_lt t), ?_⟩
    have e : k * 2 ^ (n + width t) + (v.toNat * 2 ^ width t + pack t) = (k * 2 ^ n + v.toNat) * 2 ^ width t + pack t := by
      rw [Nat.add_mul, Nat.mul_assoc, ← Nat.pow_add, Nat.add_assoc]
    simpa only [width, pack, e] using ih (k * 2 ^ n + v.toNat)

theorem reads_pack (fs : List WordField) : Reads (pack fs) fs := by simpa using reads_add_pack fs 0

/-- A value's low bits are what its fields pack to. -/
theorem pack_of_reads {w : Nat} {fs : List WordField} (h : Reads w fs) : pack fs = w % 2 ^ width fs := by
  induction fs with
  | nil => simp [Nat.mod_one]
  | cons f t ih =>
    obtain ⟨n, v⟩ := f
    obtain ⟨hv, ht⟩ := h
    rw [pack, width, mod_eq_bits_add_mod, hv, ih ht]

/-! ## The layouts of the words -/

/-- A field that holds a code. -/
@[simp] def code (n v : Nat) : WordField := ⟨n, BitVec.ofNat n v⟩

/-- A field that holds a flag. -/
@[simp] def bit (b : Bool) : WordField := ⟨1, BitVec.ofBool b⟩

/-! The formats (R39): the major opcode and the operand fields below it, then the fields that the opcode divides itself. -/

/-- An opcode that divides all 26 bits below it. -/
@[simp] def fmt (op : BitVec 6) (l : List WordField) : List WordField := ⟨6, op⟩ :: l

/-- One register field, d. -/
@[simp] def fmtD (op : BitVec 6) (d : Reg) (l : List WordField) : List WordField := ⟨6, op⟩ :: ⟨5, d⟩ :: l

/-- Two register fields, d and a: RI, SH, MEM and BR. -/
@[simp] def fmtDA (op : BitVec 6) (d a : Reg) (l : List WordField) : List WordField := ⟨6, op⟩ :: ⟨5, d⟩ :: ⟨5, a⟩ :: l

/-- Three register fields, d, a and b: RR. -/
@[simp] def fmtDAB (op : BitVec 6) (d a b : Reg) (l : List WordField) : List WordField :=
  ⟨6, op⟩ :: ⟨5, d⟩ :: ⟨5, a⟩ :: ⟨5, b⟩ :: l

/-- Three shape slots: VEC. -/
@[simp] def fmtVec (op : BitVec 6) (dk ak bk : Slot) (l : List WordField) : List WordField :=
  ⟨6, op⟩ :: ⟨4, dk⟩ :: ⟨4, ak⟩ :: ⟨4, bk⟩ :: l

/-- The words of opcodes 0x01 to 0x13: integer, immediate, floating point, branch and jump (R41-R46). -/
def scalarLayout : Instr → Option (List WordField)
  | .add d a b => some (fmtDAB 1 d a b [⟨11, 0⟩])
  | .sub d a b => some (fmtDAB 1 d a b [⟨11, 1⟩])
  | .and d a b => some (fmtDAB 1 d a b [⟨11, 2⟩])
  | .or d a b => some (fmtDAB 1 d a b [⟨11, 3⟩])
  | .xor d a b => some (fmtDAB 1 d a b [⟨11, 4⟩])
  | .andn d a b => some (fmtDAB 1 d a b [⟨11, 5⟩])
  | .sll d a b => some (fmtDAB 1 d a b [⟨11, 6⟩])
  | .srl d a b => some (fmtDAB 1 d a b [⟨11, 7⟩])
  | .sra d a b => some (fmtDAB 1 d a b [⟨11, 8⟩])
  | .ror d a b => some (fmtDAB 1 d a b [⟨11, 9⟩])
  | .slt d a b => some (fmtDAB 1 d a b [⟨11, 10⟩])
  | .sltu d a b => some (fmtDAB 1 d a b [⟨11, 11⟩])
  | .min d a b => some (fmtDAB 1 d a b [⟨11, 12⟩])
  | .max d a b => some (fmtDAB 1 d a b [⟨11, 13⟩])
  | .minu d a b => some (fmtDAB 1 d a b [⟨11, 14⟩])
  | .maxu d a b => some (fmtDAB 1 d a b [⟨11, 15⟩])
  | .mul d a b => some (fmtDAB 1 d a b [⟨11, 16⟩])
  | .mulh d a b => some (fmtDAB 1 d a b [⟨11, 17⟩])
  | .mulhu d a b => some (fmtDAB 1 d a b [⟨11, 18⟩])
  | .mulx d a b => some (fmtDAB 1 d a b [⟨11, 19⟩])
  | .mulxu d a b => some (fmtDAB 1 d a b [⟨11, 20⟩])
  | .div d a b => some (fmtDAB 1 d a b [⟨11, 21⟩])
  | .divu d a b => some (fmtDAB 1 d a b [⟨11, 22⟩])
  | .rem d a b => some (fmtDAB 1 d a b [⟨11, 23⟩])
  | .remu d a b => some (fmtDAB 1 d a b [⟨11, 24⟩])
  | .addw d a b => some (fmtDAB 1 d a b [⟨11, 25⟩])
  | .subw d a b => some (fmtDAB 1 d a b [⟨11, 26⟩])
  | .mulw d a b => some (fmtDAB 1 d a b [⟨11, 27⟩])
  | .clz d a => some (fmtDAB 1 d a 0 [⟨11, 28⟩])
  | .ctz d a => some (fmtDAB 1 d a 0 [⟨11, 29⟩])
  | .popc d a => some (fmtDAB 1 d a 0 [⟨11, 30⟩])
  | .sextb d a => some (fmtDAB 1 d a 0 [⟨11, 31⟩])
  | .sexth d a => some (fmtDAB 1 d a 0 [⟨11, 32⟩])
  | .sextw d a => some (fmtDAB 1 d a 0 [⟨11, 33⟩])
  | .zextw d a => some (fmtDAB 1 d a 0 [⟨11, 34⟩])
  | .bext d a b => some (fmtDAB 1 d a b [⟨11, 35⟩])
  | .bextu d a b => some (fmtDAB 1 d a b [⟨11, 36⟩])
  | .bins d a b => some (fmtDAB 1 d a b [⟨11, 37⟩])
  | .divt d a b => some (fmtDAB 1 d a b [⟨11, 38⟩])
  | .remt d a b => some (fmtDAB 1 d a b [⟨11, 39⟩])
  | .addi d a imm => some (fmtDA 2 d a [⟨16, imm⟩])
  | .andi d a imm => some (fmtDA 3 d a [⟨16, imm⟩])
  | .ori d a imm => some (fmtDA 4 d a [⟨16, imm⟩])
  | .xori d a imm => some (fmtDA 5 d a [⟨16, imm⟩])
  | .slti d a imm => some (fmtDA 6 d a [⟨16, imm⟩])
  | .lui d imm => some (fmtDA 7 d 0 [⟨16, imm⟩])
  | .slli d a pos => some (fmtDA 8 d a [⟨4, 0⟩, ⟨6, pos⟩, ⟨6, 0⟩])
  | .srli d a pos => some (fmtDA 8 d a [⟨4, 1⟩, ⟨6, pos⟩, ⟨6, 0⟩])
  | .srai d a pos => some (fmtDA 8 d a [⟨4, 2⟩, ⟨6, pos⟩, ⟨6, 0⟩])
  | .rori d a pos => some (fmtDA 8 d a [⟨4, 3⟩, ⟨6, pos⟩, ⟨6, 0⟩])
  | .bexti d a pos len => some (fmtDA 8 d a [⟨4, 4⟩, ⟨6, pos⟩, ⟨6, len⟩])
  | .bextui d a pos len => some (fmtDA 8 d a [⟨4, 5⟩, ⟨6, pos⟩, ⟨6, len⟩])
  | .binsi d a pos len => some (fmtDA 8 d a [⟨4, 6⟩, ⟨6, pos⟩, ⟨6, len⟩])
  | .fadd d a b rnd ftz => some (fmtDAB 10 d a b [code 3 rnd.code, bit ftz, ⟨1, 0⟩, ⟨6, 0⟩])
  | .fsub d a b rnd ftz => some (fmtDAB 10 d a b [code 3 rnd.code, bit ftz, ⟨1, 0⟩, ⟨6, 1⟩])
  | .fmul d a b rnd ftz => some (fmtDAB 10 d a b [code 3 rnd.code, bit ftz, ⟨1, 0⟩, ⟨6, 2⟩])
  | .fdiv d a b rnd ftz => some (fmtDAB 10 d a b [code 3 rnd.code, bit ftz, ⟨1, 0⟩, ⟨6, 3⟩])
  | .fsqrt d a rnd ftz => some (fmtDAB 10 d a 0 [code 3 rnd.code, bit ftz, ⟨1, 0⟩, ⟨6, 4⟩])
  | .fma d a b rnd ftz => some (fmtDAB 10 d a b [code 3 rnd.code, bit ftz, ⟨1, 0⟩, ⟨6, 5⟩])
  | .fms d a b rnd ftz => some (fmtDAB 10 d a b [code 3 rnd.code, bit ftz, ⟨1, 0⟩, ⟨6, 6⟩])
  | .fmin d a b ftz => some (fmtDAB 10 d a b [⟨3, 0⟩, bit ftz, ⟨1, 0⟩, ⟨6, 7⟩])
  | .fmax d a b ftz => some (fmtDAB 10 d a b [⟨3, 0⟩, bit ftz, ⟨1, 0⟩, ⟨6, 8⟩])
  | .fabs d a => some (fmtDA 10 d a [⟨10, 0⟩, ⟨6, 9⟩])
  | .fneg d a => some (fmtDA 10 d a [⟨10, 0⟩, ⟨6, 10⟩])
  | .fsgnj d a b => some (fmtDAB 10 d a b [⟨5, 0⟩, ⟨6, 11⟩])
  | .feq d a b ftz => some (fmtDAB 10 d a b [⟨3, 0⟩, bit ftz, ⟨1, 0⟩, ⟨6, 12⟩])
  | .flt d a b ftz => some (fmtDAB 10 d a b [⟨3, 0⟩, bit ftz, ⟨1, 0⟩, ⟨6, 13⟩])
  | .fle d a b ftz => some (fmtDAB 10 d a b [⟨3, 0⟩, bit ftz, ⟨1, 0⟩, ⟨6, 14⟩])
  | .fclass d a => some (fmtDA 10 d a [⟨10, 0⟩, ⟨6, 15⟩])
  | .fcvt d a dt st rnd sat ftz => some (fmtDA 11 d a [code 5 dt.code, code 5 st.code, code 3 rnd.code, bit sat, bit ftz, ⟨1, 0⟩])
  | .beq a b off => some (fmtDA 12 a b [⟨16, off⟩])
  | .bne a b off => some (fmtDA 13 a b [⟨16, off⟩])
  | .blt a b off => some (fmtDA 14 a b [⟨16, off⟩])
  | .bge a b off => some (fmtDA 15 a b [⟨16, off⟩])
  | .bltu a b off => some (fmtDA 16 a b [⟨16, off⟩])
  | .bgeu a b off => some (fmtDA 17 a b [⟨16, off⟩])
  | .jal d off => some (fmtD 18 d [⟨21, off⟩])
  | .jalr d a imm => some (fmtDA 19 d a [⟨16, imm⟩])
  | _ => none

/-- The words of opcodes 0x14 to 0x22: memory, messages, atomics, buffers, tasks, collectives, copies and streams (R47-R55, R57-R59). -/
def memoryLayout : Instr → Option (List WordField)
  | .ld d a sz imm => some (fmtDA 20 d a [code 3 sz.code, ⟨13, imm⟩])
  | .st d a sz imm => some (fmtDA 21 d a [code 3 sz.code, ⟨13, imm⟩])
  | .ldp d a sz pw disp => some (fmtDA 22 d a [code 3 sz.code, ⟨3, pw⟩, ⟨10, disp⟩])
  | .geta tag a b len => some (fmtDAB 23 tag a b [⟨3, 0⟩, ⟨3, 0⟩, ⟨5, len⟩])
  | .puta tag a b len => some (fmtDAB 23 tag a b [⟨3, 1⟩, ⟨3, 0⟩, ⟨5, len⟩])
  | .recv d tag => some (fmtDAB 23 d tag 0 [⟨3, 2⟩, ⟨8, 0⟩])
  | .tbind tag a => some (fmtDAB 23 tag a 0 [⟨3, 3⟩, ⟨8, 0⟩])
  | .amo d a b aop sz ord scope => some (fmtDAB 24 d a b [code 4 aop.code, code 2 sz.code, code 2 ord.code, code 3 scope.code])
  | .cas d a b sz ord scope => some (fmtDAB 25 d a b [⟨4, 0⟩, code 2 sz.code, code 2 ord.code, code 3 scope.code])
  | .red a b aop sz ord scope => some (fmtDAB 26 0 a b [code 4 aop.code, code 2 sz.code, code 2 ord.code, code 3 scope.code])
  | .acq a scope => some (fmtDAB 27 0 a 0 [⟨3, 0⟩, ⟨5, 0⟩, code 3 scope.code])
  | .rel a scope => some (fmtDAB 27 0 a 0 [⟨3, 1⟩, ⟨5, 0⟩, code 3 scope.code])
  | .fence scope => some (fmt 27 [⟨15, 0⟩, ⟨3, 2⟩, ⟨5, 0⟩, code 3 scope.code])
  | .wait ld st cp tl => some (fmt 28 [⟨10, 0⟩, ⟨4, ld⟩, ⟨4, st⟩, ⟨4, cp⟩, ⟨4, tl⟩])
  | .bdecl a b buf => some (fmtDAB 29 0 a b [⟨6, buf⟩, ⟨5, 0⟩])
  | .bfill buf => some (fmt 29 [⟨15, 0⟩, ⟨6, buf⟩, ⟨5, 1⟩])
  | .bfull buf => some (fmt 29 [⟨15, 0⟩, ⟨6, buf⟩, ⟨5, 2⟩])
  | .bdrain buf => some (fmt 29 [⟨15, 0⟩, ⟨6, buf⟩, ⟨5, 3⟩])
  | .bempty buf => some (fmt 29 [⟨15, 0⟩, ⟨6, buf⟩, ⟨5, 4⟩])
  | .bstat d buf => some (fmtD 29 d [⟨10, 0⟩, ⟨6, buf⟩, ⟨5, 5⟩])
  | .spawn d a b => some (fmtDAB 30 d a b [⟨11, 0⟩])
  | .suspend => some (fmt 30 [⟨15, 0⟩, ⟨11, 1⟩])
  | .exit a => some (fmtDAB 30 0 a 0 [⟨11, 2⟩])
  | .decr a => some (fmtDAB 30 0 a 0 [⟨11, 3⟩])
  | .yield => some (fmt 30 [⟨15, 0⟩, ⟨11, 4⟩])
  | .depadd a b => some (fmtDAB 30 0 a b [⟨11, 5⟩])
  | .tself d => some (fmtD 30 d [⟨10, 0⟩, ⟨11, 6⟩])
  | .ctb a grp acq rel => some (fmtDA 31 0 a [⟨6, grp⟩, ⟨3, 0⟩, bit acq, bit rel, ⟨3, 0⟩, ⟨2, 0⟩])
  | .crd d grp rnd => some (fmtDA 31 d 0 [⟨6, grp⟩, code 3 rnd.code, ⟨2, 0⟩, ⟨3, 1⟩, ⟨2, 0⟩])
  | .chain d a grp => some (fmtDA 31 d a [⟨6, grp⟩, ⟨5, 0⟩, ⟨3, 2⟩, ⟨2, 0⟩])
  | .gstat d grp => some (fmtDA 31 d 0 [⟨6, grp⟩, ⟨5, 0⟩, ⟨3, 3⟩, ⟨2, 0⟩])
  | .ccfg a grp => some (fmtDA 31 0 a [⟨6, grp⟩, ⟨5, 0⟩, ⟨3, 4⟩, ⟨2, 0⟩])
  | .copy d a b ch wm acq rel scope => some (fmtDAB 32 d a b [⟨3, ch⟩, bit wm, bit acq, bit rel, code 3 scope.code, ⟨2, 0⟩])
  | .cwait a ch => some (fmtDAB 32 0 a 0 [⟨3, ch⟩, ⟨6, 0⟩, ⟨2, 1⟩])
  | .cdone d ch => some (fmtD 32 d [⟨10, 0⟩, ⟨3, ch⟩, ⟨3, 0⟩, ⟨3, 0⟩, ⟨2, 2⟩])
  | .cwm d ch => some (fmtD 32 d [⟨10, 0⟩, ⟨3, ch⟩, ⟨3, 0⟩, ⟨3, 1⟩, ⟨2, 2⟩])
  | .cnext d ch => some (fmtD 32 d [⟨10, 0⟩, ⟨3, ch⟩, ⟨3, 0⟩, ⟨3, 2⟩, ⟨2, 2⟩])
  | .chstat d ch => some (fmtD 32 d [⟨10, 0⟩, ⟨3, ch⟩, ⟨3, 0⟩, ⟨3, 3⟩, ⟨2, 2⟩])
  | .cabort ch => some (fmt 32 [⟨15, 0⟩, ⟨3, ch⟩, ⟨6, 0⟩, ⟨2, 3⟩])
  | .strm d a ch => some (fmtDAB 33 d a 0 [⟨3, ch⟩, ⟨3, 0⟩, ⟨5, 0⟩])
  | .strmw d a ch => some (fmtDAB 33 d a 0 [⟨3, ch⟩, ⟨3, 1⟩, ⟨5, 0⟩])
  | .strmend d ch => some (fmtD 33 d [⟨10, 0⟩, ⟨3, ch⟩, ⟨3, 2⟩, ⟨5, 0⟩])
  | .gather d a b ch oobf acq rel scope => some (fmtDAB 34 d a b [⟨3, ch⟩, ⟨1, 0⟩, bit oobf, bit acq, bit rel, code 3 scope.code, ⟨1, 0⟩])
  | .scatter d a b ch oobf acq rel scope => some (fmtDAB 34 d a b [⟨3, ch⟩, ⟨1, 1⟩, bit oobf, bit acq, bit rel, code 3 scope.code, ⟨1, 0⟩])
  | _ => none

/-- The words of opcodes 0x23 to 0x27: vector forms and shape slots (R60-R62). -/
def vectorLayout : Instr → Option (List WordField)
  | .vadd dk ak bk ty rnd sat => some (fmtVec 35 dk ak bk [code 5 ty.code, code 3 rnd.code, bit sat, ⟨5, 0⟩])
  | .vsub dk ak bk ty rnd sat => some (fmtVec 35 dk ak bk [code 5 ty.code, code 3 rnd.code, bit sat, ⟨5, 1⟩])
  | .vmul dk ak bk ty rnd sat => some (fmtVec 35 dk ak bk [code 5 ty.code, code 3 rnd.code, bit sat, ⟨5, 2⟩])
  | .vfma dk ak bk ty rnd sat => some (fmtVec 35 dk ak bk [code 5 ty.code, code 3 rnd.code, bit sat, ⟨5, 3⟩])
  | .vfms dk ak bk ty rnd sat => some (fmtVec 35 dk ak bk [code 5 ty.code, code 3 rnd.code, bit sat, ⟨5, 4⟩])
  | .vmin dk ak bk ty => some (fmtVec 35 dk ak bk [code 5 ty.code, ⟨4, 0⟩, ⟨5, 5⟩])
  | .vmax dk ak bk ty => some (fmtVec 35 dk ak bk [code 5 ty.code, ⟨4, 0⟩, ⟨5, 6⟩])
  | .vabs dk ak ty => some (fmtVec 35 dk ak 0 [code 5 ty.code, ⟨4, 0⟩, ⟨5, 7⟩])
  | .vneg dk ak ty => some (fmtVec 35 dk ak 0 [code 5 ty.code, ⟨4, 0⟩, ⟨5, 8⟩])
  | .vand dk ak bk ty => some (fmtVec 35 dk ak bk [code 5 ty.code, ⟨4, 0⟩, ⟨5, 9⟩])
  | .vor dk ak bk ty => some (fmtVec 35 dk ak bk [code 5 ty.code, ⟨4, 0⟩, ⟨5, 10⟩])
  | .vxor dk ak bk ty => some (fmtVec 35 dk ak bk [code 5 ty.code, ⟨4, 0⟩, ⟨5, 11⟩])
  | .vshl dk ak bk ty sat => some (fmtVec 35 dk ak bk [code 5 ty.code, ⟨3, 0⟩, bit sat, ⟨5, 12⟩])
  | .vshr dk ak bk ty => some (fmtVec 35 dk ak bk [code 5 ty.code, ⟨4, 0⟩, ⟨5, 13⟩])
  | .vsra dk ak bk ty => some (fmtVec 35 dk ak bk [code 5 ty.code, ⟨4, 0⟩, ⟨5, 14⟩])
  | .vcmul dk ak bk ty rnd sat => some (fmtVec 35 dk ak bk [code 5 ty.code, code 3 rnd.code, bit sat, ⟨5, 15⟩])
  | .vcmac dk ak bk ty rnd sat => some (fmtVec 35 dk ak bk [code 5 ty.code, code 3 rnd.code, bit sat, ⟨5, 16⟩])
  | .vconj dk ak ty => some (fmtVec 35 dk ak 0 [code 5 ty.code, ⟨4, 0⟩, ⟨5, 17⟩])
  | .vmov dk ak ty => some (fmtVec 35 dk ak 0 [code 5 ty.code, ⟨4, 0⟩, ⟨5, 18⟩])
  | .vexp2 dk ak ty rnd sat => some (fmtVec 36 dk ak 0 [code 5 ty.code, code 3 rnd.code, bit sat, ⟨5, 0⟩])
  | .vlog2 dk ak ty rnd sat => some (fmtVec 36 dk ak 0 [code 5 ty.code, code 3 rnd.code, bit sat, ⟨5, 1⟩])
  | .vrcp dk ak ty rnd sat => some (fmtVec 36 dk ak 0 [code 5 ty.code, code 3 rnd.code, bit sat, ⟨5, 2⟩])
  | .vrsqrt dk ak ty rnd sat => some (fmtVec 36 dk ak 0 [code 5 ty.code, code 3 rnd.code, bit sat, ⟨5, 3⟩])
  | .vcvt dk ak ty rnd sat => some (fmtVec 36 dk ak 0 [code 5 ty.code, code 3 rnd.code, bit sat, ⟨5, 4⟩])
  | .vrsum dk ak ty rnd sat => some (fmtVec 37 dk ak 0 [code 5 ty.code, code 3 rnd.code, bit sat, ⟨5, 0⟩])
  | .vrmax dk ak ty => some (fmtVec 37 dk ak 0 [code 5 ty.code, ⟨4, 0⟩, ⟨5, 1⟩])
  | .vrmin dk ak ty => some (fmtVec 37 dk ak 0 [code 5 ty.code, ⟨4, 0⟩, ⟨5, 2⟩])
  | .vceq dk ak bk ty => some (fmtVec 37 dk ak bk [code 5 ty.code, ⟨4, 0⟩, ⟨5, 3⟩])
  | .vclt dk ak bk ty => some (fmtVec 37 dk ak bk [code 5 ty.code, ⟨4, 0⟩, ⟨5, 4⟩])
  | .vcle dk ak bk ty => some (fmtVec 37 dk ak bk [code 5 ty.code, ⟨4, 0⟩, ⟨5, 5⟩])
  | .vsel dk ak bk ty => some (fmtVec 37 dk ak bk [code 5 ty.code, ⟨4, 0⟩, ⟨5, 6⟩])
  | .vperm dk ak bk ty => some (fmtVec 37 dk ak bk [code 5 ty.code, ⟨4, 0⟩, ⟨5, 7⟩])
  | .vbcast dk ak ty => some (fmtVec 37 dk ak 0 [code 5 ty.code, ⟨4, 0⟩, ⟨5, 8⟩])
  | .vzip dk ak bk ty => some (fmtVec 37 dk ak bk [code 5 ty.code, ⟨4, 0⟩, ⟨5, 9⟩])
  | .vunzip dk ak bk ty => some (fmtVec 37 dk ak bk [code 5 ty.code, ⟨4, 0⟩, ⟨5, 10⟩])
  | .vrev dk ak ty => some (fmtVec 37 dk ak 0 [code 5 ty.code, ⟨4, 0⟩, ⟨5, 11⟩])
  | .vloop a n => some (fmtDA 38 a n [⟨12, 0⟩, ⟨4, 0⟩])
  | .vsync => some (fmt 38 [⟨22, 0⟩, ⟨4, 1⟩])
  | .shld k a => some (fmt 39 [⟨4, k⟩, ⟨1, 0⟩, ⟨5, a⟩, ⟨5, 0⟩, ⟨3, 0⟩, ⟨8, 0⟩])
  | .shobj k a => some (fmt 39 [⟨4, k⟩, ⟨1, 0⟩, ⟨5, a⟩, ⟨5, 0⟩, ⟨3, 1⟩, ⟨8, 0⟩])
  | .shst k a => some (fmt 39 [⟨4, k⟩, ⟨1, 0⟩, ⟨5, a⟩, ⟨5, 0⟩, ⟨3, 2⟩, ⟨8, 0⟩])
  | .shset k a field => some (fmt 39 [⟨4, k⟩, ⟨1, 0⟩, ⟨5, a⟩, ⟨5, 0⟩, ⟨3, 3⟩, ⟨8, field⟩])
  | .shget k b field => some (fmt 39 [⟨4, k⟩, ⟨6, 0⟩, ⟨5, b⟩, ⟨3, 4⟩, ⟨8, field⟩])
  | _ => none

/-- The words of opcodes 0x28 to 0x3F: matrix, system and HINT words (R56, R63-R65, R68). -/
def matrixLayout : Instr → Option (List WordField)
  | .mma acc ak w ty acq rel scope clr =>
    some (fmt 40 [⟨2, acc⟩, ⟨4, ak⟩, ⟨2, w⟩, code 5 ty.code, ⟨1, 0⟩, bit acq, bit rel, code 3 scope.code, bit clr, ⟨6, 0⟩])
  | .mmcx acc ak w ty acq rel scope clr =>
    some (fmt 40 [⟨2, acc⟩, ⟨4, ak⟩, ⟨2, w⟩, code 5 ty.code, ⟨1, 1⟩, bit acq, bit rel, code 3 scope.code, bit clr, ⟨6, 0⟩])
  | .mconv acc ak w ty kk acq rel scope clr =>
    some (fmt 41 [⟨2, acc⟩, ⟨4, ak⟩, ⟨2, w⟩, code 5 ty.code, ⟨4, kk⟩, bit acq, bit rel, code 3 scope.code, bit clr, ⟨3, 0⟩])
  | .mwld w a ty => some (fmt 42 [⟨2, 0⟩, ⟨4, 0⟩, ⟨2, 0⟩, ⟨2, w⟩, ⟨5, a⟩, code 5 ty.code, ⟨6, 0⟩])
  | .maclr acc => some (fmt 42 [⟨2, acc⟩, ⟨4, 1⟩, ⟨20, 0⟩])
  | .macrd acc ks ty rnd sat => some (fmt 42 [⟨2, acc⟩, ⟨4, 2⟩, ⟨4, ks⟩, ⟨5, 0⟩, code 5 ty.code, code 3 rnd.code, bit sat, ⟨2, 0⟩])
  | .macwr acc ks ty => some (fmt 42 [⟨2, acc⟩, ⟨4, 3⟩, ⟨4, ks⟩, ⟨5, 0⟩, code 5 ty.code, ⟨6, 0⟩])
  | .mepi acc ks a ty rnd sat => some (fmt 42 [⟨2, acc⟩, ⟨4, 4⟩, ⟨4, ks⟩, ⟨5, a⟩, code 5 ty.code, code 3 rnd.code, bit sat, ⟨2, 0⟩])
  | .macq acc => some (fmt 42 [⟨2, acc⟩, ⟨4, 5⟩, ⟨20, 0⟩])
  | .mrel acc => some (fmt 42 [⟨2, acc⟩, ⟨4, 6⟩, ⟨20, 0⟩])
  | .sysrd num d => some (fmt 43 [⟨2, 0⟩, ⟨8, num⟩, ⟨5, d⟩, ⟨11, 0⟩])
  | .syswr num a => some (fmt 43 [⟨2, 1⟩, ⟨8, num⟩, ⟨5, 0⟩, ⟨5, a⟩, ⟨6, 0⟩])
  | .trap imm => some (fmt 43 [⟨2, 2⟩, ⟨8, 0⟩, ⟨16, imm⟩])
  | .eret => some (fmt 43 [⟨2, 2⟩, ⟨8, 1⟩, ⟨16, 0⟩])
  | .ckpt => some (fmt 43 [⟨2, 2⟩, ⟨8, 16⟩, ⟨16, 0⟩])
  | .caskuse d => some (fmt 43 [⟨2, 2⟩, ⟨8, 17⟩, ⟨5, d⟩, ⟨11, 0⟩])
  | .scanno d => some (fmt 43 [⟨2, 2⟩, ⟨8, 18⟩, ⟨5, d⟩, ⟨11, 0⟩])
  | .provq d => some (fmt 43 [⟨2, 2⟩, ⟨8, 19⟩, ⟨5, d⟩, ⟨11, 0⟩])
  | .irrev => some (fmt 43 [⟨2, 2⟩, ⟨8, 20⟩, ⟨16, 0⟩])
  | .cmtq d a => some (fmt 43 [⟨2, 2⟩, ⟨8, 21⟩, ⟨5, d⟩, ⟨5, a⟩, ⟨6, 0⟩])
  | .abort a => some (fmt 43 [⟨2, 2⟩, ⟨8, 22⟩, ⟨5, 0⟩, ⟨5, a⟩, ⟨6, 0⟩])
  | .hintImm payload => some (fmt 63 [⟨2, 0⟩, ⟨24, payload⟩])
  | .hintSched nt br => some (fmt 63 [⟨2, 1⟩, ⟨21, 0⟩, bit nt, code 2 br.code])
  | .hintMod pv prio ftz => some (fmt 63 [⟨2, 2⟩, ⟨15, 0⟩, bit pv, ⟨7, prio⟩, bit ftz])
  | _ => none

/-- The fields of an instruction's word, from the top down. -/
def layout (i : Instr) : Option (List WordField) :=
  (scalarLayout i).or ((memoryLayout i).or ((vectorLayout i).or (matrixLayout i)))

theorem width_layout {i : Instr} {fs : List WordField} (h : layout i = some fs) : width fs = 32 := by
  cases i <;> cases h <;> rfl

/-- The layouts are the encoder's. -/
theorem encode_of_layout {i : Instr} {fs : List WordField} (h : layout i = some fs) : encode i = some (pack fs) := by
  cases i <;> cases h <;> refine congrArg some ?_ <;>
    simp only [pack, width, fmt, fmtD, fmtDA, fmtDAB, fmtVec, code, bit, BitVec.toNat_ofNat, BitVec.toNat_ofBool,
      Nat.reduceAdd, Nat.reducePow, BitVec.reduceToNat, dtype_code_mod, rnd_code_mod, scope_code_mod, ord_code_mod,
      ldSize_code_mod, stSize_code_mod, aop_code_mod, asize_code_mod, brHint_code_mod] <;> omega

/-- Every encoded instruction has a layout. -/
theorem exists_layout {i : Instr} {w : Nat} (h : encode i = some w) : ∃ fs, layout i = some fs := by
  cases i <;> cases h <;> exact ⟨_, rfl⟩

/-! ## The decoder reads a word by its layout -/

@[simp] theorem ok_bind {α β : Type} (a : α) (f : α → Except Reject β) : (Except.ok a >>= f) = f a := rfl

theorem decodeRaw_of_scalarLayout {w : Nat} {i : Instr} {fs : List WordField} (h : scalarLayout i = some fs) (hr : Reads w fs) :
    decodeRaw w = .ok i := by
  cases i <;> cases h
  all_goals
    simp at hr
    obtain ⟨hop, hr⟩ := hr
    rw [decodeRaw, hop]
    simp [decodeIntegerRR, decodeImmediateShift, decodeScalarFp, fld_eq_bits, flag_eq_bits, hr]

theorem decodeRaw_of_memoryLayout {w : Nat} {i : Instr} {fs : List WordField} (h : memoryLayout i = some fs) (hr : Reads w fs) :
    decodeRaw w = .ok i := by
  cases i <;> cases h
  all_goals
    simp at hr
    obtain ⟨hop, hr⟩ := hr
    rw [decodeRaw, hop]
    simp [decodeMessage, decodeSync, decodeBuffer, decodeTask, decodeCollective, decodeCopy, decodeStream, decodeGather,
      fld_eq_bits, flag_eq_bits, hr]

theorem decodeRaw_of_vectorLayout {w : Nat} {i : Instr} {fs : List WordField} (h : vectorLayout i = some fs) (hr : Reads w fs) :
    decodeRaw w = .ok i := by
  cases i <;> cases h
  all_goals
    simp at hr
    obtain ⟨hop, hr⟩ := hr
    rw [decodeRaw, hop]
    simp [decodeVectorArith, decodeVectorTrans, decodeVectorReduce, decodeVectorSeq, decodeShape, fld_eq_bits, flag_eq_bits, hr]

theorem decodeRaw_of_matrixLayout {w : Nat} {i : Instr} {fs : List WordField} (h : matrixLayout i = some fs) (hr : Reads w fs) :
    decodeRaw w = .ok i := by
  cases i <;> cases h
  all_goals
    simp at hr
    obtain ⟨hop, hr⟩ := hr
    rw [decodeRaw, hop]
    simp [decodeMma, decodeMatrixKeep, decodeSystem, decodeHint, fld_eq_bits, flag_eq_bits, hr]

/-- A word with the fields of an instruction's layout decodes to it. -/
theorem decodeRaw_of_layout {w : Nat} {i : Instr} {fs : List WordField} (h : layout i = some fs) (hr : Reads w fs) :
    decodeRaw w = .ok i := by
  simp only [layout, Option.or_eq_some_iff] at h
  obtain h | ⟨-, h | ⟨-, h | ⟨-, h⟩⟩⟩ := h
  · exact decodeRaw_of_scalarLayout h hr
  · exact decodeRaw_of_memoryLayout h hr
  · exact decodeRaw_of_vectorLayout h hr
  · exact decodeRaw_of_matrixLayout h hr

/-- Settles O1: the encoder packs an instruction's layout, whose fields read back, and the decoder reads it by them. -/
theorem decodeEncodeGivesInstruction : Obligations.DecodeEncodeGivesInstruction := by
  unfold Obligations.DecodeEncodeGivesInstruction
  intro i w h
  unfold encodeWord at h
  split at h
  case isTrue hwf =>
    obtain ⟨fs, hfs⟩ := exists_layout h
    have hw : pack fs = w := Option.some.inj ((encode_of_layout hfs).symm.trans h)
    rw [decodeWord, decodeRaw_of_layout hfs (hw ▸ reads_pack fs)]
    exact if_pos hwf
  case isFalse => cases h

/-! ## What the decoder answers has the word as its layout -/

/-- A word has the fields of an instruction's layout. -/
def Spells (w : Nat) (i : Instr) : Prop := ∃ fs, layout i = some fs ∧ Reads w fs

/-- An answer of the decoder to a word is an instruction that the word spells, or none. -/
def Spelled (w : Nat) (x : Except Reject Instr) : Prop := ∀ i, x = .ok i → Spells w i

theorem spelled_ok {w : Nat} {i : Instr} : Spelled w (.ok i) ↔ Spells w i := by simp [Spelled]

theorem spelled_error {w : Nat} {e : Reject} : Spelled w (.error e) ↔ True := by simp [Spelled]

/-- A field that must hold a value was checked for it. -/
theorem spelled_check {w : Nat} {p : Prop} [Decidable p] {x : Except Reject Instr} {e : Reject} :
    Spelled w (if p then x else .error e) ↔ (p → Spelled w x) := by
  split <;> simp [spelled_error, *]

/-- A field that holds a code holds an assigned one. -/
theorem spelled_bind {α : Type} {w : Nat} {x : Except Reject α} {f : α → Except Reject Instr} :
    Spelled w (x >>= f) ↔ ∀ a, x = .ok a → Spelled w (f a) := by
  cases x with
  | error e => simp [Spelled, bind, Except.bind]
  | ok a => simp

theorem spelled_integerRR {w : Nat} (hop : bits w 26 6 = 1) : Spelled w (decodeIntegerRR w) := by
  unfold decodeIntegerRR
  split <;> simp only [spelled_ok, spelled_error, spelled_check]
  all_goals
    intros
    exact ⟨_, rfl, by simp [*]⟩

theorem spelled_immediateShift {w : Nat} (hop : bits w 26 6 = 8) : Spelled w (decodeImmediateShift w) := by
  unfold decodeImmediateShift
  split <;> simp only [spelled_ok, spelled_error, spelled_check]
  all_goals
    intros
    exact ⟨_, rfl, by simp [*]⟩

theorem spelled_scalarFp {w : Nat} (hop : bits w 26 6 = 10) : Spelled w (decodeScalarFp w) := by
  unfold decodeScalarFp
  split <;> simp only [spelled_ok, spelled_error, spelled_check, spelled_bind, rndOf_eq_ok]
  all_goals
    intros
    exact ⟨_, rfl, by simp [*]⟩

theorem spelled_message {w : Nat} (hop : bits w 26 6 = 23) : Spelled w (decodeMessage w) := by
  unfold decodeMessage
  split <;> simp only [spelled_ok, spelled_error, spelled_check]
  all_goals
    intros
    exact ⟨_, rfl, by simp [*]⟩

theorem spelled_sync {w : Nat} (hop : bits w 26 6 = 27) : Spelled w (decodeSync w) := by
  unfold decodeSync
  split <;> simp only [spelled_ok, spelled_error, spelled_check, spelled_bind, scopeOf_eq_ok]
  all_goals
    intros
    exact ⟨_, rfl, by simp [*]⟩

theorem spelled_buffer {w : Nat} (hop : bits w 26 6 = 29) : Spelled w (decodeBuffer w) := by
  unfold decodeBuffer
  split <;> simp only [spelled_ok, spelled_error, spelled_check]
  all_goals
    intros
    exact ⟨_, rfl, by simp [*]⟩

theorem spelled_task {w : Nat} (hop : bits w 26 6 = 30) : Spelled w (decodeTask w) := by
  unfold decodeTask
  split <;> simp only [spelled_ok, spelled_error, spelled_check]
  all_goals
    intros
    exact ⟨_, rfl, by simp [*]⟩

theorem spelled_collective {w : Nat} (hop : bits w 26 6 = 31) : Spelled w (decodeCollective w) := by
  unfold decodeCollective
  split <;> simp only [spelled_ok, spelled_error, spelled_check, spelled_bind, rndOf_eq_ok]
  all_goals
    intros
    exact ⟨_, rfl, by simp [*]⟩

theorem spelled_copy {w : Nat} (hop : bits w 26 6 = 32) : Spelled w (decodeCopy w) := by
  unfold decodeCopy
  split
  case h_4 _ h0 h1 h3 =>
    have h2 := bits_two_eq_two h0 h1 h3
    split <;> simp only [spelled_ok, spelled_error, spelled_check]
    all_goals
      intros
      exact ⟨_, rfl, by simp [*]⟩
  all_goals
    simp only [spelled_ok, spelled_check, spelled_bind, scopeOf_eq_ok]
    intros
    exact ⟨_, rfl, by simp [*]⟩

theorem spelled_stream {w : Nat} (hop : bits w 26 6 = 33) : Spelled w (decodeStream w) := by
  unfold decodeStream
  split <;> simp only [spelled_ok, spelled_error, spelled_check]
  all_goals
    intros
    exact ⟨_, rfl, by simp [*]⟩

theorem spelled_gather {w : Nat} (hop : bits w 26 6 = 34) : Spelled w (decodeGather w) := by
  unfold decodeGather
  split <;> rename_i h <;> simp only [spelled_ok, spelled_check, spelled_bind, scopeOf_eq_ok] <;> intros
  · exact ⟨_, rfl, by simp [*]⟩
  · exact ⟨_, rfl, by simp [bits_one_eq_one h, *]⟩

theorem spelled_vectorArith {w : Nat} (hop : bits w 26 6 = 35) : Spelled w (decodeVectorArith w) := by
  unfold decodeVectorArith
  split <;> simp only [spelled_ok, spelled_error, spelled_check, spelled_bind, dtypeOf_eq_ok, rndOf_eq_ok]
  all_goals
    intros
    exact ⟨_, rfl, by simp [*]⟩

theorem spelled_vectorTrans {w : Nat} (hop : bits w 26 6 = 36) : Spelled w (decodeVectorTrans w) := by
  unfold decodeVectorTrans
  split <;> simp only [spelled_ok, spelled_error, spelled_check, spelled_bind, dtypeOf_eq_ok, rndOf_eq_ok]
  all_goals
    intros
    exact ⟨_, rfl, by simp [*]⟩

theorem spelled_vectorReduce {w : Nat} (hop : bits w 26 6 = 37) : Spelled w (decodeVectorReduce w) := by
  unfold decodeVectorReduce
  split <;> simp only [spelled_ok, spelled_error, spelled_check, spelled_bind, dtypeOf_eq_ok, rndOf_eq_ok]
  all_goals
    intros
    exact ⟨_, rfl, by simp [*]⟩

theorem spelled_vectorSeq {w : Nat} (hop : bits w 26 6 = 38) : Spelled w (decodeVectorSeq w) := by
  unfold decodeVectorSeq
  split <;> simp only [spelled_ok, spelled_error, spelled_check]
  all_goals
    intros
    exact ⟨_, rfl, by simp [*]⟩

theorem spelled_shape {w : Nat} (hop : bits w 26 6 = 39) : Spelled w (decodeShape w) := by
  unfold decodeShape
  split <;> simp only [spelled_ok, spelled_error, spelled_check]
  all_goals
    intros
    exact ⟨_, rfl, by simp [*]⟩

theorem spelled_mma {w : Nat} (hop : bits w 26 6 = 40) : Spelled w (decodeMma w) := by
  unfold decodeMma
  split <;> rename_i h <;> simp only [spelled_ok, spelled_check, spelled_bind, dtypeOf_eq_ok, scopeOf_eq_ok] <;> intros
  · exact ⟨_, rfl, by simp [*]⟩
  · exact ⟨_, rfl, by simp [bits_one_eq_one h, *]⟩

theorem spelled_matrixKeep {w : Nat} (hop : bits w 26 6 = 42) : Spelled w (decodeMatrixKeep w) := by
  unfold decodeMatrixKeep
  split <;> simp only [spelled_ok, spelled_error, spelled_check, spelled_bind, dtypeOf_eq_ok, rndOf_eq_ok]
  all_goals
    intros
    exact ⟨_, rfl, by simp [*]⟩

theorem spelled_system {w : Nat} (hop : bits w 26 6 = 43) : Spelled w (decodeSystem w) := by
  unfold decodeSystem
  split
  case h_3 =>
    split <;> simp only [spelled_ok, spelled_error, spelled_check]
    all_goals
      intros
      exact ⟨_, rfl, by simp [*]⟩
  case h_4 => exact spelled_error.mpr trivial
  all_goals
    simp only [spelled_ok, spelled_check]
    intros
    exact ⟨_, rfl, by simp [*]⟩

theorem spelled_hint {w : Nat} (hop : bits w 26 6 = 63) : Spelled w (decodeHint w) := by
  unfold decodeHint
  split <;> simp only [spelled_ok, spelled_error, spelled_check, spelled_bind, brHintOf_eq_ok]
  all_goals
    intros
    exact ⟨_, rfl, by simp [*]⟩

/-- What a word decodes to, the word spells. -/
theorem spelled_decodeRaw (w : Nat) : Spelled w (decodeRaw w) := by
  unfold decodeRaw
  split <;> rename_i hop <;>
    simp only [hop, spelled_integerRR, spelled_immediateShift, spelled_scalarFp, spelled_message, spelled_sync, spelled_buffer,
      spelled_task, spelled_collective, spelled_copy, spelled_stream, spelled_gather, spelled_vectorArith, spelled_vectorTrans,
      spelled_vectorReduce, spelled_vectorSeq, spelled_shape, spelled_mma, spelled_matrixKeep, spelled_system, spelled_hint,
      spelled_ok, spelled_error, spelled_check, spelled_bind, dtypeOf_eq_ok, rndOf_eq_ok, scopeOf_eq_ok, ldSizeOf_eq_ok,
      stSizeOf_eq_ok, aopOf_eq_ok, asizeOf_eq_ok]
  all_goals
    intros
    exact ⟨_, rfl, by simp [*]⟩

/-- Settles O2: a word of 32 bits that decodes spells the instruction, so it is what the instruction's layout packs to. -/
theorem decodedWordIsItsEncoding : Obligations.DecodedWordIsItsEncoding := by
  unfold Obligations.DecodedWordIsItsEncoding
  intro w i hw h
  unfold decodeWord at h
  split at h
  case h_1 => cases h
  case h_2 j hj =>
    split at h
    case isTrue hwf =>
      cases h
      obtain ⟨fs, hfs, hr⟩ := spelled_decodeRaw w i hj
      have hp : pack fs = w := by rw [pack_of_reads hr, width_layout hfs, Nat.mod_eq_of_lt hw]
      rw [encodeWord, if_pos hwf, encode_of_layout hfs, hp]
    case isFalse => cases h

end Sys2Proof.Encoding
end

section
/-!
PROOFS. The issue of a word: what the decode checks of R71 find and the trap they take, what SYSRD reads (R30, R248), words
written out (R40-R70), and that an issue turn executes the word at its context's pc (R74, R142, R225).
-/

namespace Sys2Proof.WordIssue

open Sys2Proof.Machine

/-! ## Decode checks (R71) -/

@[simp] theorem hintsFit_none (u : HintUse) : hintsFit u none = true := rfl

theorem streamsLegal_iff {c : Ctx} {srcs dests : List Reg} {plain : Bool} :
    streamsLegal c srcs dests plain = true
      ↔ (∀ r ∈ srcs, c.mode r ≠ .write) ∧ ∀ r ∈ dests, c.mode r ≠ .read ∧ (plain = true → c.mode r ≠ .write) := by
  simp [streamsLegal, ← Bool.not_eq_true, Decidable.imp_iff_not_or]

theorem overlaps_iff {dests srcs : List Reg} : overlaps dests srcs = true ↔ ∃ d ∈ dests, d ≠ 0 ∧ d ∈ srcs := by
  simp [overlaps]

section
variable {c : Ctx} {u : HintUse} {srcs dests : List Reg} {plain priv pair : Bool}

theorem decodeCheck_illegal (h : ¬(hintsFit u c.hints = true ∧ streamsLegal c srcs dests plain = true)) :
    decodeCheck c u srcs dests plain priv pair = some causeIllegal := by
  rw [decodeCheck, if_pos]
  simpa [Decidable.imp_iff_not_or] using h

theorem decodeCheck_priv (hh : hintsFit u c.hints = true) (hs : streamsLegal c srcs dests plain = true) (hsup : c.sup = false) :
    decodeCheck c u srcs dests plain true pair = some causePriv := by
  simp [decodeCheck, hh, hs, hsup]

theorem decodeCheck_overlap (hh : hintsFit u c.hints = true) (hs : streamsLegal c srcs dests plain = true)
    (hp : priv = true → c.sup = true) (ho : overlaps dests srcs = true) :
    decodeCheck c u srcs dests plain priv true = some causeOverlap := by
  have h : (priv && !c.sup) = false := by simpa using hp
  simp [decodeCheck, hh, hs, h, ho]

end

/-- A word of a running context that fails a decode check traps with its cause and sys.faddr 0. -/
theorem issueWord_traps {s : State} {u : HintUse} {srcs dests : List Reg} {plain priv pair : Bool} {cause : BitVec 5}
    (k : Issued → Out) (hrun : s.me.occ = .running)
    (h : decodeCheck s.me u srcs dests plain (priv && !s.supSite s.cur.1) pair = some cause) :
    issueWord s u srcs dests plain priv pair k = .next (s.trap cause 0) := by
  simp [issueWord, hrun, h]

/-- On a supervisor core a privileged form issues as any other (R33). -/
theorem issueWord_supSite {s : State} (u : HintUse) (srcs dests : List Reg) (plain priv pair : Bool) (k : Issued → Out)
    (h : s.supSite s.cur.1 = true) :
    issueWord s u srcs dests plain priv pair k = issueWord s u srcs dests plain false pair k := by
  simp [issueWord, h]

/-- A privileged form in user mode, on a core that is no supervisor, traps PRIV. -/
theorem issueWord_priv {s : State} {u : HintUse} {srcs dests : List Reg} {plain pair : Bool} (k : Issued → Out)
    (hrun : s.me.occ = .running) (hh : hintsFit u s.me.hints = true) (hs : streamsLegal s.me srcs dests plain = true)
    (hsup : s.me.sup = false) (hsite : s.supSite s.cur.1 = false) :
    issueWord s u srcs dests plain true pair k = .next (s.trap causePriv 0) := by
  refine issueWord_traps k hrun ?_
  rw [hsite]
  exact decodeCheck_priv hh hs hsup

section
variable {s : State} (hrun : s.me.occ = .running) (hh : s.me.hints = none)
include hrun hh

theorem exec_eret_user (hsup : s.me.sup = false) (hsite : s.supSite s.cur.1 = false) :
    exec .eret s = .next (s.trap causePriv 0) := by
  rw [exec_eret, execEret]
  exact issueWord_priv _ hrun (hh ▸ hintsFit_none _) rfl hsup hsite

theorem exec_syswr_user {num : BitVec 8} {a : Reg} (hsup : s.me.sup = false) (hsite : s.supSite s.cur.1 = false)
    (ha : s.me.mode a ≠ .write) (hnum : supSys num.toNat = true) : exec (.syswr num a) s = .next (s.trap causePriv 0) := by
  rw [exec_syswr, execSyswr, hnum]
  exact issueWord_priv _ hrun (hh ▸ hintsFit_none _) (streamsLegal_iff.mpr (by simpa using ha)) hsup hsite

theorem exec_mulx_overlap {d a b : Reg} (hoff : ∀ r, s.me.mode r = .off) (ho : overlaps [d, d + 1] [a, b] = true) :
    exec (.mulx d a b) s = .next (s.trap causeOverlap 0) := by
  rw [exec_mulx, execMulx, pairOp]
  refine issueWord_traps _ hrun (decodeCheck_overlap (hh ▸ hintsFit_none _) (streamsLegal_iff.mpr ?_) (by simp) ho)
  simp [hoff]

end

/-- BINS reads its destination, which may therefore be no stream (R169). -/
theorem exec_bins_stream {s : State} {d a b : Reg} (hrun : s.me.occ = .running) (hd : s.me.mode d ≠ .off) :
    exec (.bins d a b) s = .next (s.trap causeIllegal 0) := by
  rw [exec_bins, execBins, aluOp]
  refine issueWord_traps _ hrun (decodeCheck_illegal fun h => ?_)
  obtain ⟨hsrc, hdest⟩ := streamsLegal_iff.mp h.2
  obtain ⟨hread, -⟩ := hdest d (by simp)
  have hwrite := hsrc d (by simp)
  cases hm : s.me.mode d with
  | off => exact hd hm
  | read => exact hread hm
  | write => exact hwrite hm

/-- Settles O16: `decodeCheck` finds the first failure in the order of R71, and the issue traps with it. -/
theorem decodeChecksTrapInOrder : Obligations.DecodeChecksTrapInOrder := by
  unfold Obligations.DecodeChecksTrapInOrder
  refine ⟨?_, fun s hrun hh hsup hsite => exec_eret_user hrun hh hsup hsite, ?_, ?_,
    fun s d a b hrun _ hd => exec_bins_stream hrun hd⟩
  · intro s u srcs dests plain priv pair k hrun bad clash
    have hbad : bad ↔ ¬(hintsFit u s.me.hints = true ∧ streamsLegal s.me srcs dests plain = true) := by
      rw [streamsLegal_iff]
    refine ⟨fun h => ?_, fun h hp hsup hsite => ?_, fun hsite => ?_, fun h hp hclash => ?_⟩
    · exact issueWord_traps k hrun (decodeCheck_illegal (hbad.mp h))
    · obtain ⟨hh, hs⟩ := Classical.not_not.mp (mt hbad.mpr h)
      subst hp
      exact issueWord_priv k hrun hh hs hsup hsite
    · exact issueWord_supSite u srcs dests plain priv pair k hsite
    · obtain ⟨hh, hs⟩ := Classical.not_not.mp (mt hbad.mpr h)
      obtain ⟨rfl, ho⟩ := hclash
      exact issueWord_traps k hrun (decodeCheck_overlap hh hs (fun hq => hp (Bool.and_eq_true_iff.mp hq).1) (overlaps_iff.mpr ho))
  · intro s num a hrun hh hsup hsite ha hnum
    refine exec_syswr_user hrun hh hsup hsite ha ?_
    simp only [List.mem_cons, List.not_mem_nil, or_false] at hnum
    obtain rfl | rfl | rfl | rfl | rfl := hnum <;> rfl
  · intro s d a b hrun hh hoff hover
    refine exec_mulx_overlap hrun hh hoff (overlaps_iff.mpr ?_)
    obtain ⟨h0, h⟩ | ⟨h0, h⟩ := hover
    · exact ⟨d, by simp, h0, by simpa using h⟩
    · exact ⟨d + 1, by simp, h0, by simpa using h⟩

/-! ## SYSRD (R30, R248) -/

/-- The object that sys.syncreg's region is bound to, 0 for no region (R126). -/
def syncObject (s : State) (site : Nat) (c : Ctx) : Nat :=
  match s.declared site c c.syncreg.toNat with
  | some r => ((s.core site).objectOf c.vintage c.syncreg.toNat r).toNat
  | none => 0

theorem sysValue_syncobj (s : State) (site n : Nat) (c : Ctx) :
    s.sysValue site n c 0x14 = BitVec.ofNat 64 (syncObject s site c) := by
  simp only [State.sysValue, syncObject]
  split
  case h_1 r hr => simp [hr]
  case h_2 hr => simp [hr]

theorem status_eq (c : Ctx) (sup : Bool) :
    c.status sup = BitVec.ofNat 64 ((if c.sup ∨ sup then 1 else 0) + 2 * c.prio.toNat) := by
  simp [Ctx.status]

/-- The contents of the system registers by number (R30). -/
def sysContents (s : State) (site n : Nat) (c : Ctx) : List Nat :=
  let ns := s.bandNs (bandOf site)
  [s.lcn site, site, bandOf site, n, c.vintage.toNat, ns / 1000000000 % 2 ^ 32 * 2 ^ 32 + ns % 1000000000,
    ns / 1000000000 / 2 ^ 32 % 2 ^ 16, c.sticky.toNat, c.cause.toNat, c.epc.toNat, c.faddr.toNat, c.fstep.toNat, c.srstate.toNat,
    (if c.sup ∨ s.supSite site then 1 else 0) + 2 * c.prio.toNat, c.tvec.toNat, c.task.toNat, c.region.toNat,
    ((s.partAt site).map (·.lead)).getD 0, s.ncores site, c.syncreg.toNat, syncObject s site c]

theorem sysValue_eq_contents (s : State) (site n : Nat) (c : Ctx) {num : Nat} (h : num ≤ 0x14) :
    s.sysValue site n c num = BitVec.ofNat 64 ((sysContents s site n c).getD num 0) := by
  match num, h with
  | 13, _ => exact status_eq c (s.supSite site)
  | 20, _ => exact sysValue_syncobj s site n c
  | 0, _ | 1, _ | 2, _ | 3, _ | 4, _ | 5, _ | 6, _ | 7, _ | 8, _ | 9, _ | 10, _ | 11, _ | 12, _ | 14, _ | 15, _ | 16, _ | 17, _
  | 18, _ | 19, _ => simp [State.sysValue, sysContents, State.timeAt, State.timeHiAt, timeWord]
  | _ + 21, h => omega

theorem toNat_eq_iff (num : BitVec 8) {k : Nat} (hk : k < 2 ^ 8) : num.toNat = k ↔ num = BitVec.ofNat 8 k :=
  BitVec.toNat_eq_nat.trans (and_iff_right hk)

theorem stateBusy_eq_false {s : State} {num : BitVec 8} (hdue : num = 0x07 → s.me.due = [])
    (hdraws : num = 0x07 ∨ num = 0x0C → drawsBusy s = false) : stateBusy s num.toNat = false := by
  simp only [stateBusy, Bool.or_eq_false_iff, Bool.and_eq_false_imp, beq_iff_eq, toNat_eq_iff num (show 7 < 2 ^ 8 by decide),
    toNat_eq_iff num (show 12 < 2 ^ 8 by decide)]
  exact ⟨fun h => by simp [hdue h, hdraws (.inl h)], fun h => hdraws (.inr h)⟩

/-- Settles O22: SYSRD issues, waits for nothing, and writes what the register holds. -/
theorem sysrdWritesTheRegister : Obligations.SysrdWritesTheRegister := by
  unfold Obligations.SysrdWritesTheRegister
  intro s num d c h hnum hdue hdraws
  have hc : c = s.me := by
    obtain ⟨-, -, -, hsrc, -⟩ := h
    cases hsrc
    rfl
  have hbusy : stateBusy s num.toNat = false := stateBusy_eq_false (hc ▸ hdue) hdraws
  rw [exec_sysrd, execSysrd, issueWord_issues _ h]
  simp only [if_neg (Nat.not_lt.mpr hnum), hbusy, sysValue_eq_contents _ _ _ _ hnum,
    toNat_eq_iff num (show 5 < 2 ^ 8 by decide), toNat_eq_iff num (show 6 < 2 ^ 8 by decide)]
  rfl

/-! ## Words written out (R40-R70) -/

/-- Settles O3: each word is decoded. -/
theorem writtenWordsDecode : Obligations.WrittenWordsDecode := by
  unfold Obligations.WrittenWordsDecode
  exact ⟨rfl, rfl, rfl, rfl, rfl, rfl, rfl, rfl, rfl, rfl, rfl, rfl, rfl⟩

/-! ## The issue turn (R74, R142, R225) -/

theorem waitsInGroup_of_no_hints {c d : Ctx} (h : c.hints = none) : c.waitsInGroup d = false := by
  simp [Ctx.waitsInGroup, h]

/-- A word but a HINT, outside a word group, stays issued. -/
theorem groupRule_of_no_hints {t : State} {i : Instr} {c : Ctx} (site n : Nat) (hc : c.hints = none) (hi : isHint i = false) :
    t.groupRule i c site n = t := by
  simp [State.groupRule, waitsInGroup_of_no_hints hc, hi]

theorem groupElsewhere_eq_false {s : State} {site n : Nat}
    (h : ∀ m, m < 8 → m ≠ n → ¬((s.ctx site m).issues = true ∧ (s.ctx site m).hints ≠ none ∧ (s.ctx site m).hold = .none)) :
    s.groupElsewhere site n = false := by
  simp only [State.groupElsewhere, List.any_eq_false, List.mem_range, Bool.and_eq_true, bne_iff_ne]
  rintro m hm ⟨hne, hg⟩
  refine h m hm hne ?_
  simpa [Ctx.inGroup, Option.isSome_iff_ne_none, and_assoc] using hg

/-- An issue slot of a context that may issue executes the instruction at its pc. -/
theorem stepIssue_issues {s : State} {site n : Nat} (hi : (s.ctx site n).issues = true) (hc : s.coreIssues site = true)
    (hg : s.groupElsewhere site n = false) :
    stepIssue s site n = match exec (instrOfFetch (s.fetch site (s.ctx site n).vintage (s.ctx site n).pc)) (s.slot site n) with
      | .next t => .next (s.afterIssue
          (t.groupRule (instrOfFetch (s.fetch site (s.ctx site n).vintage (s.ctx site n).pc)) (s.ctx site n) site n) site n)
      | r => r := by
  simp only [stepIssue, hi, hc, hg, Bool.not_false, Bool.and_self, if_true] <;> rfl

/-- Settles O4: the forced turn issues, and `groupRule` leaves a word outside a group as it is. -/
theorem stepRunsTheDecodedWord : Obligations.StepRunsTheDecodedWord := by
  unfold Obligations.StepRunsTheDecodedWord
  intro s site n rest w i horder b hissues hcore hmay hothers hfetch hdecode
  have hi : instrOfFetch (b.fetch site (b.ctx site n).vintage (b.ctx site n).pc) = i := by
    simp [hfetch, instrOfFetch, hdecode]
  refine ⟨?_, fun t c hc hhint => groupRule_of_no_hints site n hc hhint⟩
  calc step s = stepTurn b site n := by rw [step, horder]
    _ = stepIssue b site n := by rw [stepTurn, if_pos hmay]
    _ = _ := by simp only [stepIssue_issues hissues hcore (groupElsewhere_eq_false hothers), hi] <;> rfl

end Sys2Proof.WordIssue
end

section
/-!
PROOFS. Rounding (R92): an integer number of quanta is itself, any other value is rounded up when its code says so.
-/

namespace Sys2Proof.Rounding

open Sys2Proof.Machine

/-- Whether round_q (R92) rounds up a value of lo quanta and a nonzero fraction fr / den of one. -/
def roundsUp (rnd : Rnd) (neg : Bool) (draw : Word) (den lo fr : Nat) : Bool :=
  match rnd with
  | .rne => decide (den < 2 * fr) || (decide (den = 2 * fr) && lo % 2 == 1)
  | .rz => false
  | .ru => !neg
  | .rd => neg
  | .rs => decide (draw.toNat / 2 ^ 32 < fr * 2 ^ 32 / den)

section
variable {m : Nat} {e q : Int}

theorem roundQ_of_mod_eq_zero (rnd : Rnd) (neg : Bool) (draw : Word)
    (h : m * 2 ^ (e - q).toNat % 2 ^ (q - e).toNat = 0) :
    roundQ m e q false rnd neg draw = (m * 2 ^ (e - q).toNat / 2 ^ (q - e).toNat, false) := by
  simp [roundQ, h]

theorem roundQ_of_mod_ne_zero (rnd : Rnd) (neg : Bool) (draw : Word)
    (h : m * 2 ^ (e - q).toNat % 2 ^ (q - e).toNat ≠ 0) :
    roundQ m e q false rnd neg draw =
      (if roundsUp rnd neg draw (2 ^ (q - e).toNat) (m * 2 ^ (e - q).toNat / 2 ^ (q - e).toNat)
          (m * 2 ^ (e - q).toNat % 2 ^ (q - e).toNat)
        then m * 2 ^ (e - q).toNat / 2 ^ (q - e).toNat + 1 else m * 2 ^ (e - q).toNat / 2 ^ (q - e).toNat, true) := by
  simp only [roundQ, h, false_and, if_false]
  cases rnd
  case rne => simp [roundsUp]
  all_goals rfl

end

/-- Settles O14: of the neighbours lo and lo + 1, a nonzero fraction takes the upper one when `roundsUp` says so, code by code. -/
theorem roundingFollowsItsCode : Obligations.RoundingFollowsItsCode := by
  unfold Obligations.RoundingFollowsItsCode
  intro m e q rnd neg draw den num r lo fr
  have hmod : num % den = fr := by
    rw [Nat.mod_eq_sub, Nat.mul_comm]
  by_cases h : fr = 0
  · have hr : r = (lo, false) := roundQ_of_mod_eq_zero rnd neg draw (hmod.trans h)
    simp [hr, h]
  · have hr : r = (if roundsUp rnd neg draw den lo fr then lo + 1 else lo, true) :=
      hmod ▸ roundQ_of_mod_ne_zero rnd neg draw (hmod ▸ h)
    have hup : r.1 = lo + 1 ↔ roundsUp rnd neg draw den lo fr = true := by
      rw [hr]
      cases roundsUp rnd neg draw den lo fr <;> simp
    refine ⟨by simp [hr, h], fun hz => absurd hz h, fun _ => ⟨?_, ?_⟩⟩
    · rw [hr]
      cases roundsUp rnd neg draw den lo fr <;> simp
    · rw [hup]
      cases rnd <;> simp [roundsUp]

end Sys2Proof.Rounding
end

section
/-!
PROOFS. Requests at their homes (R114, R138, R194, R195, R211, R356-R374, R481) and the views of a written line (R441-R443):
how each request event answers, what makes a high water due (R478), and what a write in the cask changes of each launch's view.
-/

namespace Sys2Proof.Homes

open Sys2Proof.Machine

/-! ## What a rim home answers to a write (R441, R459, R460) -/

/-- A write at a rim home: acknowledged when it is performed, refused with CASKFULL's kill, or held until the switch. -/
def settleWrite (chan : Nat) (f : Flit) : WResult → State
  | .done t => t.answer f (.ack none 0)
  | .full t => t.answer f (.ack (some causeKilled) 0)
  | .wait t => t.holdAtRim chan f

/-- An atomic at a rim home: answered with its value or acknowledged, or held until the switch. -/
def settleAtomic (chan : Nat) (f : Flit) (a : Atom) : AtomRim → State
  | .done t r => t.answer f (if a.valued then .data r.bytes r.sticky r.miss r.sync r.refused else .ack r.refused r.status)
  | .wait t => t.holdAtRim chan f

/-- A record operation at a rim home: acknowledged with its outcome, or held until the switch. -/
def settleRecord (chan : Nat) (f : Flit) : RecRim → State
  | .done t r => t.answer f (.ack r.refused r.status)
  | .wait t => t.holdAtRim chan f

section
variable {s : State} {p : Part} {f : Flit}

theorem serveRim_store {line mask : Nat} {data : List Byte} (hb : f.body = .store (.rim line) data mask) :
    s.serveRim p f = settleWrite (p.chanOf (p.slotOf line)) f (s.homeStore p f.vint line mask data) := by
  simp only [State.serveRim, hb]
  cases s.homeStore p f.vint line mask data <;> rfl

theorem serveRim_puta {ppa : Nat} {data : List Byte} (hb : f.body = .puta (.rim ppa) data) :
    s.serveRim p f = settleWrite (p.chanOf (p.slotOf ppa)) f (s.homeStoreAll p f.vint (linePieces 8 ppa data)) := by
  simp only [State.serveRim, hb]
  cases s.homeStoreAll p f.vint (linePieces 8 ppa data) <;> rfl

theorem serveRim_atomic {ppa : Nat} {a : Atom} (hb : f.body = .atomic (.rim ppa) a) :
    s.serveRim p f = settleAtomic (p.chanOf (p.slotOf ppa)) f a
      ((s.checkAtHome p f.vint ppa (a.w / 8)).atomicAtRim p f.vint ppa a) := by
  simp only [State.serveRim, hb]
  cases (s.checkAtHome p f.vint ppa (a.w / 8)).atomicAtRim p f.vint ppa a with
  | done t r => cases hval : a.valued <;> simp [settleAtomic, hval]
  | wait t => rfl

theorem serveRim_recop {ppa : Nat} {a : Addr} {o : RecOp} (hb : f.body = .recop (.rim ppa) a o) :
    s.serveRim p f = settleRecord (p.chanOf (p.slotOf ppa)) f (s.recAtRim p f.vint ppa a o) := by
  simp only [State.serveRim, hb]
  cases s.recAtRim p f.vint ppa a o <;> rfl

theorem settleWrite_cases {chan : Nat} {o : Out} {w : WResult} (h : o = .next (settleWrite chan f w)) :
    (∀ u, w = .done u → o = .next (u.answer f (.ack none 0)))
      ∧ (∀ u, w = .full u → o = .next (u.answer f (.ack (some causeKilled) 0)))
      ∧ (∀ u, w = .wait u → o = .next (u.holdAtRim chan f)) := by
  refine ⟨?_, ?_, ?_⟩
  all_goals
    rintro u rfl
    exact h

theorem settleAtomic_cases {chan : Nat} {a : Atom} {o : Out} {w : AtomRim} (h : o = .next (settleAtomic chan f a w)) :
    (∀ u r, w = .done u r → o = .next (u.answer f
        (if a.valued then .data r.bytes r.sticky r.miss r.sync r.refused else .ack r.refused r.status)))
      ∧ (∀ u, w = .wait u → o = .next (u.holdAtRim chan f)) := by
  refine ⟨?_, ?_⟩
  · rintro u r rfl
    exact h
  · rintro u rfl
    exact h

theorem settleRecord_cases {chan : Nat} {o : Out} {w : RecRim} (h : o = .next (settleRecord chan f w)) :
    (∀ u r, w = .done u r → o = .next (u.answer f (.ack r.refused r.status)))
      ∧ (∀ u, w = .wait u → o = .next (u.holdAtRim chan f)) := by
  refine ⟨?_, ?_⟩
  · rintro u r rfl
    exact h
  · rintro u rfl
    exact h

theorem homeStoreAll_of_done {v : BitVec 32} {l : List (Nat × Nat × List Byte)} {u : State}
    (h : s.homeStoreSeq p v l = .done u) : s.homeStoreAll p v l = .done u := by
  simp only [State.homeStoreAll, h]

theorem homeStoreAll_of_full {v : BitVec 32} {l : List (Nat × Nat × List Byte)} {u : State}
    (h : s.homeStoreSeq p v l = .full u) : s.homeStoreAll p v l = .full (s.startKill p.lead v ⟨4, 0, 0, false⟩) := by
  simp only [State.homeStoreAll, h]

theorem homeStoreAll_of_wait {v : BitVec 32} {l : List (Nat × Nat × List Byte)} {u : State}
    (h : s.homeStoreSeq p v l = .wait u) : s.homeStoreAll p v l
      = .wait ((s.updPart p.lead fun q => q.updLaunch v fun k => { k with switchAsked := true }).later
          (.vintageSwitch p.lead v.toNat)) := by
  simp only [State.homeStoreAll, h]

end

/-! ## The request events -/

/-- Changing an endpoint's keep depends on what is stored for the keep that is there alone. -/
theorem updKeep_congr {s : State} {lead ep : Nat} {p : Part} {k : Keep} {f g : Keep → Keep} (hp : s.part? lead = some p)
    (hk : Tbl.find? p.keeps ep = some k) (h : f k = g k) : s.updKeep lead ep f = s.updKeep lead ep g := by
  simp only [State.updKeep, State.updPart, hp, hk, h]

section
variable {s s1 : State} {part ep : Nat} {f : Flit} {p : Part}
  (ht : s.takeIn part ep .request = some (f, s1)) (hp : s1.part? part = some p)
include ht hp

/-! Loads and active messages. -/

theorem exec_load_rim {ppa n : Nat} {cm : Bool} (hb : f.body = .load (.rim ppa) n cm false) :
    let u := s1.readAtHome p f.vint ppa n
    exec (.loadRequest part ep) s = .next (u.answer f (.data (u.homeLoad p f.vint cm ppa n).1 (u.homeLoad p f.vint cm ppa n).2
      false false none)) := by
  simp [execLoadRequest, ht, hp, hb]

theorem exec_load_rimLine {ppa n : Nat} {cm : Bool} (hb : f.body = .load (.rim ppa) n cm true) :
    let u := s1.readAtHome p f.vint (ppa / 64 * 64) 64
    exec (.loadRequest part ep) s = .next (u.answer f (.data (u.homeLoad p f.vint cm (ppa / 64 * 64) 64).1
      (u.homeLoad p f.vint cm ppa n).2 false false none)) := by
  simp [execLoadRequest, ht, hp, hb]

theorem exec_load_core {o n : Nat} {cm x : Bool} (hb : f.body = .load (.core o) n cm x) :
    exec (.loadRequest part ep) s = .next (s1.readAtPort (p.siteOf ep) f) := by
  simp only [exec_loadRequest, execLoadRequest, ht, hp, hb]

theorem exec_geta_rim {ppa n : Nat} (hb : f.body = .geta (.rim ppa) n) :
    let u := s1.readAtHome p f.vint ppa n
    exec (.activeMessage part ep) s = .next (u.answer f (.data (u.homeLoad p f.vint false ppa n).1
      (u.homeLoad p f.vint false ppa n).2 false false none)) := by
  simp only [exec_activeMessage, execActiveMessage, ht, hp, hb]

theorem exec_geta_core {o n : Nat} (hb : f.body = .geta (.core o) n) :
    exec (.activeMessage part ep) s = .next (s1.readAtPort (p.siteOf ep) f) := by
  simp only [exec_activeMessage, execActiveMessage, ht, hp, hb]

theorem exec_puta_rim {ppa : Nat} {d : List Byte} (hb : f.body = .puta (.rim ppa) d) :
    exec (.activeMessage part ep) s
      = .next (settleWrite (p.chanOf (p.slotOf ppa)) f (s1.homeStoreAll p f.vint (linePieces 8 ppa d))) := by
  simp only [exec_activeMessage, execActiveMessage, ht, hp, hb]
  rw [serveRim_puta hb]

theorem exec_puta_core {o : Nat} {d : List Byte} (hb : f.body = .puta (.core o) d) :
    exec (.activeMessage part ep) s
      = .next ((s1.served (p.siteOf ep) f.vint).arriveWrite (p.siteOf ep) f.vint (.remote f) (.store o d) false) := by
  simp only [exec_activeMessage, execActiveMessage, ht, hp, hb]

/-! Stores, atomics and record operations. -/

theorem exec_store_rim {line mask : Nat} {d : List Byte} (hb : f.body = .store (.rim line) d mask) :
    exec (.storeRequest part ep) s
      = .next (settleWrite (p.chanOf (p.slotOf line)) f (s1.homeStore p f.vint line mask d)) := by
  simp only [exec_storeRequest, execStoreRequest, ht, hp, hb]
  rw [serveRim_store hb]

theorem exec_store_core {o mask : Nat} {d : List Byte} (hb : f.body = .store (.core o) d mask) :
    exec (.storeRequest part ep) s
      = .next ((s1.served (p.siteOf ep) f.vint).arriveWrite (p.siteOf ep) f.vint (.remote f) (.store o d) false) := by
  simp only [exec_storeRequest, execStoreRequest, ht, hp, hb]

theorem exec_row {o : Nat} {d : List Byte} {nmask : Nat} (hb : f.body = .row o d nmask) :
    exec (.storeRequest part ep) s
      = .next ((s1.served (p.siteOf ep) f.vint).arriveWrite (p.siteOf ep) f.vint (.remote f) (.row o d nmask) false) := by
  simp only [exec_storeRequest, execStoreRequest, ht, hp, hb]

theorem exec_atomic_rim {ppa : Nat} {a : Atom} (hb : f.body = .atomic (.rim ppa) a) :
    exec (.atomicRequest part ep) s = .next (settleAtomic (p.chanOf (p.slotOf ppa)) f a
      ((s1.checkAtHome p f.vint ppa (a.w / 8)).atomicAtRim p f.vint ppa a)) := by
  simp only [exec_atomicRequest, execAtomicRequest, ht, hp, hb]
  rw [serveRim_atomic hb]

theorem exec_atomic_core {o : Nat} {a : Atom} (hb : f.body = .atomic (.core o) a) :
    exec (.atomicRequest part ep) s
      = .next ((s1.served (p.siteOf ep) f.vint).arriveWrite (p.siteOf ep) f.vint (.remote f) (.atomic o a) a.valued) := by
  simp only [exec_atomicRequest, execAtomicRequest, ht, hp, hb]

/-! Copies and their opens and closes. -/

theorem exec_copyRead_core {reads : List (Nat × Nat × Nat)} {cm : Bool} {dep : Nat} {k : LandKey}
    (hb : f.body = .copyRead reads cm dep k) (he : isSlot ep = false) :
    exec (.copyReadRequest part ep) s = .next (s1.readAtPort (p.siteOf ep) f) := by
  simp [execCopyReadRequest, ht, hp, hb, he]

theorem exec_copyRead_rim {ppa n d : Nat} {cm : Bool} {dep : Nat} {k : LandKey}
    (hb : f.body = .copyRead [(ppa, n, d)] cm dep k) (he : isSlot ep = true) :
    let u := s1.readAtHome p f.vint ppa n
    exec (.copyReadRequest part ep) s = .next (u.sendLanding f dep k [(d, (u.homeLoad p f.vint cm ppa n).1)]) := by
  simp [execCopyReadRequest, ht, hp, hb, he]

theorem exec_open {lo hi : Nat} {k : LandKey} {wm : Bool} (hb : f.body = .open lo hi k wm) :
    exec (.remoteOpen part ep) s
      = .next ((s1.served (p.siteOf ep) f.vint).arriveWrite (p.siteOf ep) f.vint (.remote f) (.open lo hi k wm) false) := by
  simp only [exec_remoteOpen, execRemoteOpen, ht, hp, hb]

theorem exec_close {k : LandKey} {outs : List Nat} (hb : f.body = .close k outs) :
    exec (.closePacket part ep) s
      = .next (((((s1.updCore (p.siteOf ep) fun c => c.closeOpen k f.vint outs).closeHeld p ep k).logEv (p.siteOf ep) 4 0 2 0
          f.sep f.seq []).wakeCopies (p.siteOf ep)).dueLandings part) := by
  simp only [exec_closePacket, execClosePacket, ht, hp, hb]

theorem exec_recop_rim {ppa : Nat} {a : Addr} {o : RecOp} (hb : f.body = .recop (.rim ppa) a o) :
    exec (.recordOperation part ep) s
      = .next (settleRecord (p.chanOf (p.slotOf ppa)) f (s1.recAtRim p f.vint ppa a o)) := by
  simp only [exec_recordOperation, execRecordOperation, ht, hp, hb]
  rw [serveRim_recop hb]

theorem exec_recop_undeclared {off : Nat} {a : Addr} {o : RecOp} (hb : f.body = .recop (.core off) a o)
    (hbuf : (s1.core (p.siteOf ep)).bufAt f.vint off 64 = none) :
    exec (.recordOperation part ep) s = .next (s1.answer f (.ack (some causeProt) 0)) := by
  simp [execRecordOperation, ht, hp, hb, hbuf]

theorem exec_recop_core {off : Nat} {a : Addr} {o : RecOp} (hb : f.body = .recop (.core off) a o)
    (hbuf : (s1.core (p.siteOf ep)).bufAt f.vint off 64 ≠ none) :
    let r := (s1.served (p.siteOf ep) f.vint).recAtScr (p.siteOf ep) f.vint off o f.sep f.seq
    exec (.recordOperation part ep) s = .next (r.1.answer f (.ack r.2.refused r.2.status)) := by
  simp [execRecordOperation, ht, hp, hb, hbuf]

/-! Fault messages and what answers them (R373). -/

theorem exec_faultMsg_unmapped {ch id : Nat} {va : Addr} {wr : Bool} {w : BitVec 32} (hb : f.body = .faultMsg ch id va wr w)
    (hm : ((p.launch? w).bind fun l => s1.walkFrom p l.cmd.ptroot (pageOf va)) = none) :
    exec (.faultMessage part ep) s
      = .next ((s1.readWalk p w (pageOf va)).send part (p.siteOf ep) false ep f.sep 9 0 0 0 (.abort ch id causeXlate)) := by
  simp [execFaultMessage, ht, hp, hb, hm]

theorem exec_faultMsg_mapped {ch id : Nat} {va : Addr} {wr : Bool} {w : BitVec 32} {m : Mapping}
    (hb : f.body = .faultMsg ch id va wr w)
    (hm : ((p.launch? w).bind fun l => s1.walkFrom p l.cmd.ptroot (pageOf va)) = some m) :
    exec (.faultMessage part ep) s
      = .next ((s1.readWalk p w (pageOf va)).send part (p.siteOf ep) false ep f.sep 9 0 0 0
          (if (if wr then m.wr else m.rd) then .resume ch id w else .abort ch id causeProt)) := by
  simp only [exec_faultMessage, execFaultMessage, ht, hp, hb, hm]
  rfl

theorem exec_resume {ch id : Nat} {w : BitVec 32} (hb : f.body = .resume ch id w) :
    exec (.resumePacket part ep) s
      = .next (((s1.updCore (p.siteOf ep) fun c =>
          { c.updXfer ch (BitVec.ofNat 32 id) (fun y => { y with frozen := false }) with
            xlat := c.xlat.filter fun e => e.vint != w }).due (.copyRequest (p.siteOf ep) ch)).due
              (.streamRefill (p.siteOf ep) ch)) := by
  simp only [exec_resumePacket, execResumePacket, ht, hp, hb]

theorem exec_abort {ch id : Nat} {cause : BitVec 5} (hb : f.body = .abort ch id cause) :
    exec (.abortPacket part ep) s = .next (s1.abortXfer (p.siteOf ep) ch (BitVec.ofNat 32 id) true) := by
  simp only [exec_abortPacket, execAbortPacket, ht, hp, hb]

/-- A flit of an interval that stays open adds its lines and records to the part that the owner's host keeps (R481). -/
theorem exec_cellar_host {b : BitVec 32} {lines : List (Nat × BitVec 32 × List Byte)} {n : Nat} {recs : List LogRec} {k : Keep}
    {y : Nat} (hb : f.body = .cellar b lines n recs false) (hk : Tbl.find? p.keeps f.sep = some k)
    (hhost : k.host = some (p.siteOf ep, y)) :
    exec (.cellarTraffic part ep) s = .next (((s1.updKeep part f.sep fun _ =>
      { k with part := k.part ++ lines, snapPart := k.snapPart + n, log := k.log ++ recs }).answer f (.ack none 0)).noteHigh
        (p.siteOf f.sep)) := by
  simp only [exec_cellarTraffic, execCellarTraffic, ht, hp, hb]
  rw [updKeep_congr hp hk]
  simp [hhost]

end

/-! ## High water (R478) -/

theorem isHigh_iff {s : State} {site : Nat} {k : Keep} : s.isHigh site k = true ↔
    k.host ≠ none ∧ 8192 + 2048 * (s.band (bandOf site)).hw.toNat < k.lines + (s.core site).dirty.length + 1024 := by
  rw [State.isHigh, Bool.and_eq_true, decide_eq_true_eq, Option.isSome_iff_ne_none, highLines]

section
variable {s : State} {site : Nat} {p : Part} {ep : Nat} {k : Keep} (hkeep : s.keepAt site = some (p, ep, k))
include hkeep

theorem noteHigh_due (h : s.isHigh site k = true) (hw : k.want = false) (hc : k.copy = none)
    (hd : Due.highWater site ∉ s.pending) : s.noteHigh site = s.later (.highWater site) := by
  simp [State.noteHigh, hkeep, h, hw, hc, hd]

theorem noteHigh_idle (h : s.isHigh site k = false ∨ k.want = true ∨ k.copy ≠ none) : s.noteHigh site = s := by
  simp only [State.noteHigh, hkeep]
  refine if_neg fun hall => ?_
  simp only [Bool.and_eq_true, Bool.not_eq_true', Option.isNone_iff_eq_none] at hall
  obtain ⟨⟨⟨hhigh, hwant⟩, hcopy⟩, -⟩ := hall
  obtain h | h | h := h
  · exact absurd hhigh (by simp [h])
  · exact absurd hwant (by simp [h])
  · exact h hcopy

end

/-! ## Merged bytes -/

/-- A bit of a union of masks. -/
theorem bit_or (a b i : Nat) : (a ||| b) / 2 ^ i % 2 = 1 ↔ a / 2 ^ i % 2 = 1 ∨ b / 2 ^ i % 2 = 1 := by
  simpa [Nat.testBit_eq_decide_div_mod_eq] using congrArg (· = true) (Nat.testBit_or a b i)

theorem mergeBytes_getD {mask i : Nat} {new old : List Byte} (hi : i < old.length) :
    (mergeBytes mask new old).getD i 0 = if mask / 2 ^ i % 2 = 1 then new.getD i (old.getD i 0) else old.getD i 0 := by
  simp [mergeBytes, List.getD_eq_getElem?_getD, hi]

/-- A byte that the mask has is the new one, where there is one. -/
theorem mergeBytes_getD_written {mask i : Nat} {new old : List Byte} (hi : i < old.length) (hn : i < new.length)
    (hm : mask / 2 ^ i % 2 = 1) : (mergeBytes mask new old).getD i 0 = new.getD i 0 := by
  rw [mergeBytes_getD hi, if_pos hm]
  simp [hn]

theorem mergeBytes_getD_kept {mask i : Nat} {new old : List Byte} (hi : i < old.length) (hm : mask / 2 ^ i % 2 = 0) :
    (mergeBytes mask new old).getD i 0 = old.getD i 0 := by
  rw [mergeBytes_getD hi, if_neg (by simp [hm])]

/-! ## A write in the cask (R441) -/

/-- A cask entry after a write of a line by a launch: the launch's open entry of the line takes the bytes, another stays. -/
def mergeEntry (v : BitVec 32) (line mask : Nat) (d : List Byte) (e : CaskEntry) : CaskEntry :=
  if e.state = .open ∧ e.vint = v ∧ e.line = line then { e with data := mergeBytes mask d e.data, mask := e.mask ||| mask }
  else e

/-- The entry that a launch's first write of a line opens. -/
def newEntry (v : BitVec 32) (line mask : Nat) (d : List Byte) : CaskEntry :=
  ⟨line, mergeBytes mask d (List.replicate 64 0), mask, v, .open, 0⟩

/-- The cask after a write of a line by a launch. -/
def writeCask (r : Rim) (v : BitVec 32) (line mask : Nat) (d : List Byte) : List CaskEntry :=
  if (r.openEntry v line).isSome then r.casks.map (mergeEntry v line mask d) else r.casks ++ [newEntry v line mask d]

/-- A slot controller after a write of a line by a launch that changes its cask alone. -/
def withWrite (r : Rim) (v : BitVec 32) (line mask : Nat) (d : List Byte) : Rim := { r with casks := writeCask r v line mask d }

/-- A write that is performed at a slot without reductions, for a launch that is not switched, changes the cask alone. -/
theorem homeStore_done {s t : State} {p : Part} {v : BitVec 32} {line mask : Nat} {d : List Byte}
    (hplace : (s.rim (p.chanOf (p.slotOf line))).inPlace.contains v = false)
    (hreds : (s.rim (p.chanOf (p.slotOf line))).reds = []) (hmask : 0 < mask) (hl : p.launch? v ≠ none)
    (h : s.homeStore p v line mask d = .done t) :
    t = s.setRim (p.chanOf (p.slotOf line)) (withWrite (s.rim (p.chanOf (p.slotOf line))) v line mask d) := by
  generalize hc : p.chanOf (p.slotOf line) = chan at *
  generalize hr : s.rim chan = r at *
  have hr1 : { r with reds := [] } = r := by rw [← hreds]
  simp only [State.homeStore, hc, hr, hreds, Rim.redsIn, List.filter_nil, List.map_nil, List.foldl_nil, List.isEmpty_nil,
    if_true, Nat.and_zero, Nat.sub_zero, Nat.ne_of_gt hmask, if_false, hplace, hr1, Bool.false_eq_true] at h
  cases ho : r.openEntry v line with
  | some e =>
    simp only [ho, WResult.done.injEq] at h
    rw [← h, withWrite, writeCask, ho, hreds]
    rfl
  | none =>
    cases hlaunch : p.launch? v with
    | none => exact absurd hlaunch hl
    | some l =>
      simp only [ho, hlaunch] at h
      split at h
      · cases h
      · split at h
        · split at h <;> cases h
        · simp only [WResult.done.injEq] at h
          rw [← h, withWrite, writeCask, ho, hreds]
          rfl

/-! ## Views after a write in the cask (R443) -/

section
variable {r : Rim} {v w : BitVec 32} {line mask i : Nat} {d : List Byte} {h : Byte} {e : CaskEntry}

theorem viewByte_open (he : r.openEntry v line = some e) : r.viewByte v false line i h
    = if e.mask / 2 ^ i % 2 = 1 then e.data.getD i 0 else r.committedByte line i h := by
  simp [Rim.viewByte, he]

theorem viewByte_unopened (he : r.openEntry v line = none) : r.viewByte v false line i h = r.committedByte line i h := by
  simp [Rim.viewByte, he]

theorem openEntry_some (he : r.openEntry v line = some e) : e ∈ r.casks ∧ e.state = .open ∧ e.vint = v ∧ e.line = line := by
  have hprop := List.find?_some he
  simp only [Bool.and_eq_true, beq_iff_eq] at hprop
  obtain ⟨⟨hstate, hvint⟩, hline⟩ := hprop
  exact ⟨List.mem_of_find?_eq_some he, hstate, hvint, hline⟩

@[simp] theorem mergeEntry_state : (mergeEntry v line mask d e).state = e.state := by
  unfold mergeEntry; split <;> rfl

@[simp] theorem mergeEntry_vint : (mergeEntry v line mask d e).vint = e.vint := by
  unfold mergeEntry; split <;> rfl

@[simp] theorem mergeEntry_line : (mergeEntry v line mask d e).line = e.line := by
  unfold mergeEntry; split <;> rfl

theorem mergeEntry_own (hs : e.state = .open) (hv : e.vint = v) (hl : e.line = line) :
    mergeEntry v line mask d e = { e with data := mergeBytes mask d e.data, mask := e.mask ||| mask } :=
  if_pos ⟨hs, hv, hl⟩

theorem mergeEntry_other (hw : e.vint ≠ v) : mergeEntry v line mask d e = e :=
  if_neg fun hown => hw hown.2.1

theorem mergeEntry_committed (hc : e.state = .committed) : mergeEntry v line mask d e = e :=
  if_neg fun hown => by simp [hc] at hown

/-- Merging keeps what an open entry is found by. -/
theorem openEntry_map_mergeEntry : ({ r with casks := r.casks.map (mergeEntry v line mask d) } : Rim).openEntry w line
    = (r.openEntry w line).map (mergeEntry v line mask d) := by
  simp only [Rim.openEntry, List.find?_map, Function.comp_def, mergeEntry_state, mergeEntry_vint, mergeEntry_line]

theorem openEntry_withWrite_own : (withWrite r v line mask d).openEntry v line
    = some (((r.openEntry v line).map (mergeEntry v line mask d)).getD (newEntry v line mask d)) := by
  unfold withWrite writeCask
  cases he : r.openEntry v line with
  | some e =>
    rw [Option.isSome_some, if_pos rfl, openEntry_map_mergeEntry, he]
    rfl
  | none =>
    unfold Rim.openEntry at he
    simp [Rim.openEntry, he, newEntry]

theorem openEntry_withWrite_other (hw : w ≠ v) : (withWrite r v line mask d).openEntry w line = r.openEntry w line := by
  unfold withWrite writeCask
  split
  · rw [openEntry_map_mergeEntry]
    cases he : r.openEntry w line with
    | some e =>
      obtain ⟨-, -, hvint, -⟩ := openEntry_some he
      rw [Option.map_some, mergeEntry_other (hvint ▸ hw)]
    | none => rfl
  · simp [Rim.openEntry, newEntry, hw.symm]

/-- The committed entries are the same after a write. -/
theorem filter_committed_writeCask : (writeCask r v line mask d).filter (·.state == .committed)
    = r.casks.filter (·.state == .committed) := by
  unfold writeCask
  split
  · rw [List.filter_map]
    refine (List.map_congr_left fun e he => ?_).trans ((List.map_id _).trans ?_)
    · refine mergeEntry_committed ?_
      simpa using (List.mem_filter.mp he).2
    · simp [Function.comp_def]
  · simp [newEntry]

/-- A committed byte depends on the committed entries alone. -/
theorem committedByte_congr {q : Rim} (hq : q.casks.filter (·.state == .committed) = r.casks.filter (·.state == .committed)) :
    q.committedByte line i h = r.committedByte line i h := by
  have hfilter : ∀ l : List CaskEntry,
      l.filter (fun e => e.state == .committed && e.line == line && decide (e.mask / 2 ^ i % 2 = 1))
        = (l.filter (·.state == .committed)).filter fun e => e.line == line && decide (e.mask / 2 ^ i % 2 = 1) := by
    intro l
    rw [List.filter_filter]
    exact List.filter_congr fun e _ => by rw [Bool.and_assoc, Bool.and_comm]
  simp only [Rim.committedByte, hfilter, hq]

theorem committedByte_withWrite : (withWrite r v line mask d).committedByte line i h = r.committedByte line i h :=
  committedByte_congr filter_committed_writeCask

theorem viewByte_withWrite_committed :
    (withWrite r v line mask d).viewByte w true line i h = r.viewByte w true line i h :=
  committedByte_withWrite

theorem viewByte_withWrite_other (hw : w ≠ v) :
    (withWrite r v line mask d).viewByte w false line i h = r.viewByte w false line i h := by
  cases he : r.openEntry w line with
  | some e => rw [viewByte_open ((openEntry_withWrite_other hw).trans he), viewByte_open he, committedByte_withWrite]
  | none => rw [viewByte_unopened ((openEntry_withWrite_other hw).trans he), viewByte_unopened he, committedByte_withWrite]

/-- The launch reads the bytes that it wrote. -/
theorem viewByte_withWrite_written (hlen : ∀ e ∈ r.casks, e.data.length = 64) (hi : i < 64) (hd : i < d.length)
    (hm : mask / 2 ^ i % 2 = 1) : (withWrite r v line mask d).viewByte v false line i h = d.getD i 0 := by
  rw [viewByte_open openEntry_withWrite_own]
  cases he : r.openEntry v line with
  | some e =>
    obtain ⟨hmem, hstate, hvint, hline⟩ := openEntry_some he
    rw [Option.map_some, Option.getD_some, mergeEntry_own hstate hvint hline, if_pos ((bit_or _ _ _).mpr (.inr hm))]
    exact mergeBytes_getD_written (hlen e hmem ▸ hi) hd hm
  | none =>
    rw [Option.map_none, Option.getD_none, newEntry, if_pos hm]
    exact mergeBytes_getD_written (List.length_replicate ▸ hi) hd hm

/-- The launch reads the other bytes of the line as before. -/
theorem viewByte_withWrite_kept (hlen : ∀ e ∈ r.casks, e.data.length = 64) (hi : i < 64) (hm : mask / 2 ^ i % 2 = 0) :
    (withWrite r v line mask d).viewByte v false line i h = r.viewByte v false line i h := by
  rw [viewByte_open openEntry_withWrite_own, committedByte_withWrite]
  cases he : r.openEntry v line with
  | some e =>
    obtain ⟨hmem, hstate, hvint, hline⟩ := openEntry_some he
    rw [Option.map_some, Option.getD_some, mergeEntry_own hstate hvint hline, viewByte_open he,
      mergeBytes_getD_kept (hlen e hmem ▸ hi) hm]
    simp [bit_or, hm]
  | none => simp [viewByte_unopened he, newEntry, hm]

end

/-! ## The obligation -/

/-- Settles O47: each request event takes its flit in and answers it by the lemma of its body, and of the views of a written line
only the writer's own one changes, where the mask is set. -/
theorem requestsAreServedAtTheirHome : Obligations.RequestsAreServedAtTheirHome := by
  unfold Obligations.RequestsAreServedAtTheirHome
  refine ⟨?requests, ?highWater, ?views⟩
  case requests =>
    intro s part ep f s1 p ht hp site v t rimRead chan thawed
    refine ⟨fun _ _ _ hb => exec_load_rim ht hp hb,
      fun _ _ _ hb => exec_load_rimLine ht hp hb,
      fun _ _ _ _ hb => exec_load_core ht hp hb,
      fun _ _ _ hb => settleWrite_cases (exec_store_rim ht hp hb),
      fun _ _ _ hb => exec_store_core ht hp hb,
      fun _ _ _ hb => exec_row ht hp hb,
      fun _ _ hb => settleAtomic_cases (exec_atomic_rim ht hp hb),
      fun _ _ hb => exec_atomic_core ht hp hb,
      fun _ _ hb => exec_geta_rim ht hp hb,
      fun _ _ hb => exec_geta_core ht hp hb,
      fun _ _ => ⟨homeStoreAll_of_full, homeStoreAll_of_done, homeStoreAll_of_wait⟩,
      fun _ _ hb => settleWrite_cases (exec_puta_rim ht hp hb),
      fun _ _ hb => exec_puta_core ht hp hb,
      fun _ _ _ hb => settleRecord_cases (exec_recop_rim ht hp hb),
      fun _ _ _ hb => ⟨exec_recop_undeclared ht hp hb, exec_recop_core ht hp hb⟩,
      fun _ _ _ _ hb => ⟨exec_copyRead_core ht hp hb, ?copy⟩,
      fun _ _ _ _ hb => exec_open ht hp hb,
      fun _ _ _ _ _ hb => ⟨exec_faultMsg_unmapped ht hp hb, fun _ => exec_faultMsg_mapped ht hp hb⟩,
      fun _ _ _ hb => exec_resume ht hp hb,
      fun _ _ _ hb => exec_abort ht hp hb,
      fun _ _ hb => exec_close ht hp hb,
      fun _ _ _ _ _ _ hb hk hhost _ => exec_cellar_host ht hp hb hk hhost⟩
    case copy =>
      rintro ppa n d he rfl
      exact exec_copyRead_rim ht hp hb he
  case highWater =>
    intro s site p ep k hkeep high
    have hhigh : s.isHigh site k = true ↔ high := isHigh_iff
    refine ⟨fun h => noteHigh_due hkeep (hhigh.mpr h), fun h => noteHigh_idle hkeep ?_⟩
    exact h.imp_left fun hn => Bool.eq_false_iff.mpr (mt hhigh.mp hn)
  case views =>
    intro s p v w line mask i d t h chan hplace hreds hlen hmask hi hl hdone
    obtain rfl := homeStore_done hplace hreds hmask hl hdone
    rw [State.rim_setRim_same]
    exact ⟨fun hm hd => viewByte_withWrite_written hlen hi hd hm, viewByte_withWrite_kept hlen hi, viewByte_withWrite_other,
      viewByte_withWrite_committed, rfl⟩

end Sys2Proof.Homes
end

section
/-!
PROOFS. What the memory words share: the bytes of a value, the places of an address, an access that is counted and sent, and what
a write at the scratchpad port leaves of its context and of the machine.
-/

namespace Sys2Proof.Accesses

open Sys2Proof.Machine

/-! ## Bytes of a value (R25) -/

@[simp] theorem leBytes_length (n v : Nat) : (leBytes n v).length = n := by
  induction n generalizing v with
  | zero => rfl
  | succ n ih => simp [leBytes, ih]

theorem leBytes_getD {n v k : Nat} (h : k < n) : (leBytes n v).getD k 0 = BitVec.ofNat 8 (v / 256 ^ k) := by
  induction n generalizing v k with
  | zero => omega
  | succ n ih =>
    cases k with
    | zero => simp [leBytes]
    | succ k => rw [leBytes, List.getD_cons_succ, ih (by omega), Nat.div_div_eq_div_mul, Nat.pow_succ']

theorem leNat_lt (l : List Byte) : leNat l < 2 ^ (8 * l.length) := by
  induction l with
  | nil => simp [leNat]
  | cons b t ih =>
    have hb : b.toNat < 256 := b.isLt
    rw [leNat, List.length_cons, Nat.mul_succ, Nat.pow_add]
    omega

@[simp] theorem memRead_length (m : List Host.Cell) (a n : Nat) : (memRead m a n).length = n := by
  induction n generalizing a with
  | zero => rfl
  | succ n ih => simp [memRead, ih]

/-- Loaded bytes as a two's complement value, or zero-extended (R187). -/
theorem extend_eq (sext : Bool) (l : List Byte) : extend sext l
    = if sext then BitVec.ofInt 64 (BitVec.ofNat (8 * l.length) (leNat l)).toInt else BitVec.ofNat 64 (leNat l) := by
  have hlt := leNat_lt l
  cases sext with
  | false => simp [extend]
  | true =>
    cases l with
    | nil => simp [extend, leNat]
    | cons b t =>
      generalize hw : 8 * (b :: t).length = w at hlt ⊢
      have hpos : 0 < w := by simp at hw; omega
      have hpow : 2 ^ w = 2 * 2 ^ (w - 1) := by rw [← Nat.two_pow_pred_add_two_pow_pred hpos, Nat.two_mul]
      simp only [extend, hw, BitVec.toInt_eq_toNat_cond, BitVec.toNat_ofNat, Nat.mod_eq_of_lt hlt]
      by_cases h : 2 ^ (w - 1) ≤ leNat (b :: t)
      · simp [h, hpos, show ¬ 2 * leNat (b :: t) < 2 ^ w by omega]
      · simp [h, show 2 * leNat (b :: t) < 2 ^ w by omega]

/-! ## Places of an address (R108, R109) -/

theorem spaceOf_local {a : Addr} (h : a.toNat < 2 ^ 48) : spaceOf a = .loc :=
  if_pos (Nat.div_eq_of_lt h)

theorem placeOfLocal_private {a : Nat} (h1 : 0x8000000 ≤ a) (h2 : a < 0x8004000) : placeOfLocal a = .priv (a - 0x8000000) :=
  if_pos ⟨h1, h2⟩

theorem placeOfLocal_param {a : Nat} (h1 : 0x9000000 ≤ a) (h2 : a < 0x9080000) :
    placeOfLocal a = .param ((a - 0x9000000) / 0x10000) (a % 0x10000) :=
  (if_neg fun h => absurd h.2 (by omega)).trans (if_pos ⟨h1, h2⟩)

theorem placeOfLocal_raw {a : Nat} (h1 : 0x10000000 ≤ a) (h2 : a < 0x11000000) : placeOfLocal a = .win 0 (a - 0x10000000) := by
  have hw : (a - 0x10000000) / 0x1000000 = 0 := by omega
  have ho : a % 0x1000000 = a - 0x10000000 := by omega
  simp only [placeOfLocal, if_neg (show ¬(0x8000000 ≤ a ∧ a < 0x8004000) by omega),
    if_neg (show ¬(0x9000000 ≤ a ∧ a < 0x9080000) by omega), if_pos (show 0x10000000 ≤ a ∧ a < 0x17000000 by omega), hw, ho]

/-- The decoding windows 1 to 7. -/
theorem placeOfLocal_decoding {a : Nat} (h : 0x11000000 ≤ a ∧ a < 0x17000000 ∨ 0x18000000 ≤ a ∧ a < 0x20000000) :
    ∃ w o, placeOfLocal a = .win (w + 1) o := by
  obtain h | h := h
  · refine ⟨(a - 0x10000000) / 0x1000000 - 1, a % 0x1000000, ?_⟩
    have hw : (a - 0x10000000) / 0x1000000 = (a - 0x10000000) / 0x1000000 - 1 + 1 := by omega
    rw [← hw, placeOfLocal, if_neg (by omega), if_neg (by omega), if_pos (by omega)]
  · refine ⟨6, a - 0x18000000, ?_⟩
    rw [placeOfLocal, if_neg (by omega), if_neg (by omega), if_neg (by omega), if_pos h]

/-! ## Counting and sending (R172, R174, R399) -/

section
variable {s : State} {c : Ctx} {k : Cnt}

theorem counting_room (out : Out) (h : c.cnt k < 63) : counting s c k out = out := by
  simp [counting, Ctx.canCount, h]

theorem counting_full (out : Out) (h : 63 ≤ c.cnt k) : counting s c k out = .next s := by
  simp [counting, Ctx.canCount, Nat.not_lt.mpr h]

/-- A request that can be counted and sent goes to its home; a word that writes no register. -/
theorem sendRequest_none {dep : Nat} (ea : Addr) (global isWrite : Bool) (what : OpWhat) (body : Body) (hk : c.cnt k < 63)
    (hsend : s.coreCanSend s.cur.1 dep = true) : sendRequest s c k none dep ea global isWrite what body
      = .next ((s.setMe (c.startOp k ea global isWrite what).advance).sendFromCore s.cur.1 dep s.cur.2 c.issued 0 c.vintage body) := by
  simp [sendRequest, Ctx.canCount, hk, hsend]

/-- A request that can be counted and sent goes to its home; x[d] pends until its answer. -/
theorem sendRequest_some {dep : Nat} (d : Reg) (ea : Addr) (global isWrite : Bool) (what : OpWhat) (body : Body)
    (hk : c.cnt k < 63) (hsend : s.coreCanSend s.cur.1 dep = true) : sendRequest s c k (some d) dep ea global isWrite what body
      = .next ((s.setMe ((c.startOp k ea global isWrite what).await d).advance).sendFromCore s.cur.1 dep s.cur.2 c.issued d.toNat
          c.vintage body) := by
  simp [sendRequest, Ctx.canCount, hk, hsend]

end

/-! ## The scratchpad port (R185, R257, R474, R478) -/

/-- A high water changes what is due at most. -/
theorem noteHigh_cases (s : State) (site : Nat) : s.noteHigh site = s ∨ s.noteHigh site = s.later (.highWater site) := by
  unfold State.noteHigh
  split
  · split
    · exact .inr rfl
    · exact .inl rfl
  · exact .inl rfl

@[simp] theorem markLines_ctxs (c : Core) (first : Nat) (v : BitVec 32) (n : Nat) : (c.markLines first v n).ctxs = c.ctxs := by
  induction n generalizing c first with
  | zero => rfl
  | succ n ih => exact ih _ _

/-- A machine whose memory, pending events and cores' stores may differ, and its contexts in the dirty bits of their private
windows. -/
structure SameButStores (s t : State) : Prop where
  ctx : ∀ site n, ∃ l, t.ctx site n = { s.ctx site n with dirtyL := l }
  parts : t.parts = s.parts
  rims : t.rims = s.rims
  routers : t.routers = s.routers
  module : t.module = s.module
  cur : t.cur = s.cur

theorem SameButStores.trans {s t u : State} (h : SameButStores s t) (g : SameButStores t u) : SameButStores s u where
  ctx site n := by
    obtain ⟨l, hl⟩ := h.ctx site n
    obtain ⟨m, hm⟩ := g.ctx site n
    exact ⟨m, by rw [hm, hl]⟩
  parts := g.parts.trans h.parts
  rims := g.rims.trans h.rims
  routers := g.routers.trans h.routers
  module := g.module.trans h.module
  cur := g.cur.trans h.cur

theorem noteHigh_same (s : State) (site : Nat) : SameButStores s (s.noteHigh site) := by
  obtain h | h := noteHigh_cases s site
  all_goals
    rw [h]
    exact ⟨fun _ _ => ⟨_, rfl⟩, rfl, rfl, rfl, rfl, rfl⟩

/-- A core that is changed with its contexts left as they are. -/
theorem ctx_updCore {s : State} {site : Nat} {f : Core → Core} (hf : (f (s.core site)).ctxs = (s.core site).ctxs) (a b : Nat) :
    (s.updCore site f).ctx a b = s.ctx a b := by
  simp only [State.ctx, State.updCore, State.core_setCore]
  split
  · rename_i h
    simp only [Core.ctx, h, hf]
  · rfl

theorem dirtyPriv_same (s : State) (site n off len : Nat) :
    SameButStores s (s.updCtx site n fun c => c.dirtyPriv off len) := by
  refine ⟨fun a b => ?_, rfl, rfl, rfl, rfl, rfl⟩
  rw [State.updCtx, State.ctx_setCtx]
  split
  · rename_i h
    obtain ⟨rfl, rfl, -⟩ := h
    exact ⟨_, rfl⟩
  · exact ⟨_, rfl⟩

theorem scrStore_same (s : State) (site : Nat) (v : BitVec 32) (off : Nat) (data : List Byte) :
    SameButStores s (s.scrStore site v off data) := by
  unfold State.scrStore
  generalize hn : (if data.length = 0 then 0 else (off + data.length - 1) / 64 - off / 64 + 1) = lines
  have hlines : SameButStores s ((s.scrWrite site off data).updCore site fun c => c.markLines (off / 64) v lines) :=
    ⟨fun a b => ⟨_, (ctx_updCore (markLines_ctxs _ _ _ _) a b).trans rfl⟩, rfl, rfl, rfl, rfl, rfl⟩
  dsimp only
  rw [hn]
  generalize (s.scrWrite site off data).updCore site (fun c => c.markLines (off / 64) v lines) = t at hlines ⊢
  split
  · exact (hlines.trans (dirtyPriv_same _ _ _ _ _)).trans (noteHigh_same _ _)
  · exact hlines.trans (noteHigh_same _ _)

@[simp] theorem noteHigh_mem (s : State) (site : Nat) : (s.noteHigh site).mem = s.mem :=
  (noteHigh_cases s site).elim (fun h => by rw [h]) fun h => by rw [h, State.later_mem]

@[simp] theorem scrStore_mem (s : State) (site : Nat) (v : BitVec 32) (off : Nat) (data : List Byte) :
    (s.scrStore site v off data).mem = memWrite s.mem (scrAddr site off) data := by
  unfold State.scrStore
  dsimp only
  split <;> simp [State.scrWrite]

theorem scrAddr_add (site off k : Nat) : scrAddr site (off + k) = scrAddr site off + k := (Nat.add_assoc _ _ _).symm

end Sys2Proof.Accesses
end

section
/-!
PROOFS. ST (R172, R174, R178, R179, R188): what a store of the executing context does in each space.
-/

namespace Sys2Proof.Stores

open Sys2Proof.Machine Sys2Proof.Accesses

theorem bytes_eq_two_pow (sz : StSize) : StSize.bytes sz = 2 ^ sz.code := by
  cases sz <;> rfl

/-- ST issues, is counted in st, and stores the low bytes of x[d] at x[a] plus the offset. -/
theorem exec_st_issues {d a : Reg} {sz : StSize} {imm : BitVec 13} {s : State} {x v : Word} {c : Ctx}
    (h : Issues s memHints [a, d] [] true false false [x, v] c) : exec (.st d a sz imm) s
      = counting s c .st (storeAt s c (BitVec.ofNat 56 (x + c.imm13 imm).toNat) (leBytes (2 ^ sz.code) v.toNat)) := by
  rw [exec_st, execSt, issueWord_issues _ h, bytes_eq_two_pow, BitVec.ofNat_toNat]
  rfl

/-! ## The bytes at the own scratchpad port -/

/-- What a completed store of the `size` low bytes of v at an offset of the own scratchpad leaves: those bytes, every other byte,
the machine and the context's registers and counters, with the next pc. -/
def Stored (s : State) (c : Ctx) (off size : Nat) (v : Word) (t : State) : Prop :=
  (∀ k, k < size → memGet t.mem (scrAddr s.cur.1 (off + k)) = BitVec.ofNat 8 (v.toNat / 256 ^ k))
    ∧ (∀ m, (m < scrAddr s.cur.1 off ∨ scrAddr s.cur.1 off + size ≤ m) → memGet t.mem m = memGet s.mem m)
    ∧ Memory.wf t.mem = true
    ∧ t.me.pc = c.pc + 4 ∧ (∀ r, t.me.get r = c.get r) ∧ t.me.sticky = c.sticky ∧ t.me.st = c.st ∧ t.me.ld = c.ld
    ∧ t.parts = s.parts ∧ t.rims = s.rims ∧ t.routers = s.routers ∧ t.module = s.module

theorem storeHere_stored {s : State} {c : Ctx} {off size : Nat} {v : Word} (hn : s.cur.2 < 8) (hm : Memory.wf s.mem = true) :
    answers (storeHere s c off (leBytes size v.toNat)) (Stored s c off size v) := by
  refine ⟨_, rfl, ?_⟩
  generalize ht : (s.setMe (c.noteOp .st).advance).scrStore s.cur.1 c.vintage off (leBytes size v.toNat) = t
  have hmem : t.mem = memWrite s.mem (scrAddr s.cur.1 off) (leBytes size v.toNat) := by
    rw [← ht, scrStore_mem]
    rfl
  obtain ⟨hctx, hparts, hrims, hrouters, hmodule, hcur⟩ :=
    ht ▸ scrStore_same (s.setMe (c.noteOp .st).advance) s.cur.1 c.vintage off (leBytes size v.toNat)
  obtain ⟨l, hl⟩ := hctx s.cur.1 s.cur.2
  have hme : t.me = { (c.noteOp .st).advance with dirtyL := l } := by
    rw [State.me, hcur]
    refine hl.trans ?_
    rw [State.setMe, State.ctx_setCtx_same _ _ _ _ hn]
  refine ⟨fun k hk => ?_, fun m h => ?_, ?_, ?_, fun r => ?_, ?_, ?_, ?_, hparts, hrims, hrouters, hmodule⟩
  · rw [hmem, memGet_memWrite _ _ _ hm, leBytes_length, scrAddr_add, if_pos (by omega), Nat.add_sub_cancel_left, leBytes_getD hk]
  · rw [hmem, memGet_memWrite_outside _ _ _ hm (by simpa using h)]
  · rw [hmem]
    exact memWrite_wf _ _ hm
  all_goals
    rw [hme]
    rfl

/-! ## The address (R109, R113, R119) -/

section
variable {s : State} {c : Ctx} {ea : Addr} {data : List Byte}

theorem storeAt_misaligned {size : Nat} (hlen : data.length = size) (h : ea.toNat % size ≠ 0) :
    storeAt s c ea data = .next (s.trap causeMisalign ea) := by
  simp [storeAt, aligned, hlen, h]

section
variable {size : Nat} (hlen : data.length = size) (ha : ea.toNat % size = 0) {va : Addr}
  (hva : ownLocal (s.lcn s.cur.1) ea = va)
include hlen ha hva

theorem storeAt_private (hlo : 0x8000000 ≤ va.toNat) (hhi : va.toNat < 0x8004000)
    (hfree : Passes s (rangeOf (s.lcn s.cur.1) s.cur.2 va size) true) :
    storeAt s c ea data = storeHere s c (0x2E0000 + 0x4000 * s.cur.2 + (va.toNat - 0x8000000)) data := by
  simp only [storeAt, aligned, hlen, ha, hva, spaceOf_local (show va.toNat < 2 ^ 48 by omega), placeOfLocal_private hlo hhi,
    gated_free _ hfree]
  rfl

theorem storeAt_raw (hlo : 0x10000000 ≤ va.toNat) (hhi : va.toNat < 0x11000000)
    (hfree : Passes s (rangeOf (s.lcn s.cur.1) s.cur.2 va size) true) :
    storeAt s c ea data = writeBuffer s c ea (va.toNat - 0x10000000) size .st .store none
      (.store (va.toNat - 0x10000000) data) false (storeHere s c (va.toNat - 0x10000000) data) := by
  simp only [storeAt, aligned, hlen, ha, hva, spaceOf_local (show va.toNat < 2 ^ 48 by omega), placeOfLocal_raw hlo hhi,
    gated_free _ hfree]
  rfl

/-- Nothing is stored through a decoding window or in a parameter window. -/
theorem storeAt_readOnly (h : 0x11000000 ≤ va.toNat ∧ va.toNat < 0x17000000 ∨ 0x18000000 ≤ va.toNat ∧ va.toNat < 0x20000000
      ∨ 0x9000000 ≤ va.toNat ∧ va.toNat < 0x9080000) : storeAt s c ea data = .next (s.trap causeProt ea) := by
  have hloc : spaceOf va = .loc := spaceOf_local (by omega)
  rw [← or_assoc] at h
  obtain hwin | ⟨hlo, hhi⟩ := h
  · obtain ⟨w, o, hplace⟩ := placeOfLocal_decoding hwin
    simp only [storeAt, aligned, hlen, ha, hva, hloc, hplace]
    rfl
  · simp only [storeAt, aligned, hlen, ha, hva, hloc, placeOfLocal_param hlo hhi]
    rfl

theorem storeAt_remote {o : Nat} (hspace : spaceOf va = .remote) (hlcn : remoteLcn va < s.ncores s.cur.1)
    (hplace : placeOfLocal (remoteLocal va) = .win 0 o)
    (hfree : Passes s (rangeOf (s.lcn s.cur.1) s.cur.2 va size) true) :
    storeAt s c ea data = sendRequest s c .st none (remoteLcn va) ea false true .store
      (.store (.core o) data (2 ^ size - 1)) := by
  simp only [storeAt, aligned, hlen, ha, hva, hspace, if_neg (Nat.not_le.mpr hlcn), hplace, gated_free _ hfree]
  rfl

theorem storeAt_global {ppa idx : Nat} {r : DRegion} {q : Core} (hspace : spaceOf va = .global) (hst : c.st < 63)
    (hcheck : s.checkGlobal s.cur.1 c.vintage c.region va size .store = .ok ppa idx r)
    (hfree : Passes s (rangeOf (s.lcn s.cur.1) s.cur.2 va size) true)
    (hq : s.myCore.enqueue s.cur.2 c.vintage c.issued ppa data = some q) :
    storeAt s c ea data = .next (((s.setMyCore q).setMe (c.startOp .st ea true true .store).advance).due
      (.writeQueueDrain s.cur.1 s.cur.2)) := by
  simp only [storeAt, aligned, hlen, ha, hva, hspace, hcheck, gated_free _ hfree, hq, Ctx.canCount, Ctx.cnt, hst]
  rfl

end

/-! ## A write to a buffer of the own core (R178, R179) -/

section
variable {off len : Nat} {op : OpWhat} {what : DelWhat} {here : Out}

theorem writeBuffer_outside (h : s.myCore.bufAt c.vintage off len = none) :
    writeBuffer s c ea off len .st op none what false here = .next (s.trap causeProt ea) := by
  simp only [writeBuffer, h]

section
variable {i : Nat} {b : Buf} (h : s.myCore.bufAt c.vintage off len = some (i, b))
include h

theorem writeBuffer_filling (howner : b.owner = s.cur.2) (hheld : b.held = none) (hb : b.state = .filling) :
    writeBuffer s c ea off len .st op none what false here = here := by
  simp [writeBuffer, h, Buf.ownedBy, howner, hheld, hb]

theorem writeBuffer_badState (howner : b.owner = s.cur.2) (hheld : b.held = none) (hb : b.state ≠ .filling) :
    writeBuffer s c ea off len .st op none what false here = .next (s.trap causeBufstate ea) := by
  simp [writeBuffer, h, Buf.ownedBy, howner, hheld, hb]

theorem writeBuffer_delivered (hother : b.owner ≠ s.cur.2 ∨ b.held ≠ none) (hst : c.st < 63) :
    writeBuffer s c ea off len .st op none what false here = .next ((s.setMe (c.startOp .st ea false true op).advance).arriveWrite
      s.cur.1 c.vintage (.local s.cur.2 c.issued) what false) := by
  have howned : b.ownedBy s.cur.2 = false := by
    simpa [Buf.ownedBy, Decidable.imp_iff_not_or, Option.isSome_iff_ne_none] using hother
  simp [writeBuffer, h, howned, Ctx.canCount, Ctx.cnt, hst]

end
end
end

/-! ## The obligation -/

/-- Settles O25: the store goes by the space of its address, and at the own port by the buffer that holds its bytes. -/
theorem storesWriteTheirBytes : Obligations.StoresWriteTheirBytes := by
  unfold Obligations.StoresWriteTheirBytes
  intro d a sz imm s x v c h hn hm ea size data site n va free stored
  have hlen : data.length = size := leBytes_length _ _
  have hexec : exec (.st d a sz imm) s = counting s c .st (storeAt s c ea data) := exec_st_issues h
  have hstored : ∀ off, storeAt s c ea data = storeHere s c off data → c.st < 63 → stored off := by
    intro off hat hst
    dsimp only [stored]
    rw [hexec, counting_room (k := .st) _ hst, hat]
    exact storeHere_stored hn hm
  refine ⟨fun hst => ?full, fun hst hea => ?misaligned, fun hst hea => ?stores⟩
  case full => rw [hexec, counting_full (k := .st) _ hst]
  case misaligned =>
    rw [hexec, counting_room (k := .st) _ hst]
    exact storeAt_misaligned hlen hea
  case stores =>
    rw [counting_room (k := .st) _ hst] at hexec
    refine ⟨fun hlo hhi hfree => hstored _ (storeAt_private hlen hea rfl hlo hhi hfree) hst, fun hlo hhi hfree i b hb => ?raw,
      fun hlo hhi hfree hb => ?outside, fun hro => ?readOnly, fun o hspace hlcn hplace hfree hsend => ?remote,
      fun ppa idx r q hspace hcheck hfree hq => ?global⟩
    case raw =>
      have hraw := storeAt_raw (c := c) hlen hea rfl hlo hhi hfree
      refine ⟨fun howner hheld hb' => hstored _ (hraw.trans ?_) hst, fun howner hheld hb' => ?_, fun hother => ?_⟩
      · exact writeBuffer_filling hb howner hheld hb'
      · rw [hexec, hraw]
        exact writeBuffer_badState hb howner hheld hb'
      · rw [hexec, hraw]
        exact writeBuffer_delivered hb hother hst
    case outside =>
      rw [hexec, storeAt_raw hlen hea rfl hlo hhi hfree]
      exact writeBuffer_outside hb
    case readOnly => rw [hexec, storeAt_readOnly hlen hea rfl hro]; rfl
    case remote =>
      rw [hexec, storeAt_remote hlen hea rfl hspace hlcn hplace hfree]
      exact sendRequest_none ea false true .store _ hst hsend
    case global => rw [hexec, storeAt_global hlen hea rfl hspace hst hcheck hfree hq]

end Sys2Proof.Stores
end

section
/-!
PROOFS. LDP (R112, R121, R189-R191): what a load in a parameter window does, and how a load of a home's bytes goes on.
-/

namespace Sys2Proof.ParameterLoads

open Sys2Proof.Machine Sys2Proof.Accesses

/-- The offset of LDP is a sum modulo 2^64 (R189). -/
theorem offset_toNat (x : Word) (disp : BitVec 10) (size : Nat) :
    (x + BitVec.ofNat 64 (disp.toNat * size)).toNat = (x.toNat + disp.toNat * size) % 2 ^ 64 := by
  simp [BitVec.toNat_add]

/-- LDP issues, is counted in ld, and loads at its offset unless that is no multiple of the size. -/
theorem exec_ldp_issues {d a : Reg} {sz : LdSize} {pw : BitVec 3} {disp : BitVec 10} {s : State} {x : Word} {c : Ctx}
    (h : Issues s noHints [a] [d] true false false [x] c) :
    let size := 2 ^ (sz.code % 4)
    let o := (x.toNat + disp.toNat * size) % 2 ^ 64
    let faddr : Addr := paramBase pw.toNat + BitVec.ofNat 56 (o % 2 ^ 16)
    exec (.ldp d a sz pw disp) s = counting s c .ld (if o % size ≠ 0 then .next (s.trap causeMisalign faddr)
      else loadParam s c d pw.toNat o size (decide (sz.code < 3)) faddr) := by
  intro size o faddr
  have ho : (x + BitVec.ofNat 64 (disp.toNat * size)).toNat = o := offset_toNat x disp size
  rw [exec_ldp, execLdp, issueWord_issues _ h, LdSize.bytes_code, LdSize.sext_code]
  simp only [Issued.v, List.getD_cons_zero]
  rewrite [ho]
  rfl

/-! ## The bytes of a home (R121) -/

section
variable {s : State} {c : Ctx} {p : Part} (hp : s.partAt s.cur.1 = some p) {va : Addr} {ppa : Nat}
include hp

/-- A cached line's bytes are delivered at once. -/
theorem loadHome_cached {d : Reg} {ea : Addr} {size : Nat} {sext : Bool} {l : CacheLine}
    (hl : s.myCore.cachedLine c.vintage (spaceOf va == .committed) (ppa / 64 * 64) = some l) :
    loadHome s c d ea va ppa size sext true false
      = .next (finishScalar s (c.noteOp .ld) d (extend sext ((l.data.drop (ppa % 64)).take size)) 0) := by
  simp only [loadHome, hp, hl]
  rfl

/-- A cacheable line that is not cached is asked whole of its home. -/
theorem loadHome_asked {d : Reg} {ea : Addr} {size : Nat} {sext : Bool} (hld : c.ld < 63)
    (hl : s.myCore.cachedLine c.vintage (spaceOf va == .committed) (ppa / 64 * 64) = none)
    (hsend : s.coreCanSend s.cur.1 (p.slotEp ppa) = true) :
    loadHome s c d ea va ppa size sext true false
      = .next ((s.setMe ((c.startOp .ld va true false (.load d size sext (some (ppa / 64 * 64)))).await d).advance).sendFromCore
          s.cur.1 (p.slotEp ppa) s.cur.2 c.issued d.toNat c.vintage (.load (.rim ppa) size (spaceOf va == .committed) true)) := by
  simp only [loadHome, hp, hl, if_true]
  exact sendRequest_some d va true false _ _ hld hsend

end

/-! ## The window (R112, R190, R191) -/

section
variable {s : State} {c : Ctx} {d : Reg} {w o size : Nat} {sext : Bool} {faddr : Addr} (hacq : c.acquiring = false)
include hacq

theorem loadParam_unbound (h : s.paramOf s.cur.1 c.vintage c.region w = none) :
    loadParam s c d w o size sext faddr = .next (s.trap causeParamUnbound (paramBase w)) := by
  simp [loadParam, hacq, h]

section
variable {base bound : Nat} (h : s.paramOf s.cur.1 c.vintage c.region w = some (base, bound))
include h

theorem loadParam_beyond (ho : bound ≤ o) :
    loadParam s c d w o size sext faddr = .next (finishScalar s (c.noteOp .ld) d 0 stickyPwoob) := by
  simp [loadParam, hacq, h, ho]

/-- Below the bound the load goes on with the page's mapping. -/
theorem loadParam_mapped {m : Mapping} (ho : o < bound)
    (hm : s.translate s.cur.1 c.vintage (pageOf (BitVec.ofNat 56 (base + o))) = .hit m) :
    loadParam s c d w o size sext faddr = if m.rd then
        loadHome s c d faddr (BitVec.ofNat 56 (base + o)) (m.ppa + (BitVec.ofNat 56 (base + o) : Addr).toNat % 65536) size sext
          true false
      else .next (s.trap causeProt faddr) := by
  simp only [loadParam, hacq, h, if_neg (Nat.not_le.mpr ho), hm]
  cases m.rd <;> rfl

end
end

/-! ## The obligation -/

/-- Settles O26: the checks of the offset come first, then the window's binding and bound, and a load below the bound takes its
line from the cache or asks it of its home. -/
theorem parameterLoadsAreBounded : Obligations.ParameterLoadsAreBounded := by
  unfold Obligations.ParameterLoadsAreBounded
  intro d a sz pw disp s x c h size o base faddr ext site
  have hexec : exec (.ldp d a sz pw disp) s = counting s c .ld (if o % size ≠ 0 then .next (s.trap causeMisalign faddr)
      else loadParam s c d pw.toNat o size (decide (sz.code < 3)) faddr) := exec_ldp_issues h
  refine ⟨fun hld => ?full, fun hld ho => ?misaligned, fun hld ho hacq => ?window⟩
  case full => rw [hexec, counting_full (k := .ld) _ hld]
  case misaligned =>
    rw [hexec, counting_room (k := .ld) _ hld, if_pos ho]
    rfl
  case window =>
    rw [counting_room (k := .ld) _ hld, if_neg (not_not_intro ho)] at hexec
    refine ⟨fun hw => ?unbound, fun at' bound hw => ⟨fun hb => ?beyond, fun hb m p hm hp => ?below⟩⟩
    case unbound =>
      rw [hexec, loadParam_unbound hacq hw]
      rfl
    case beyond => rw [hexec, loadParam_beyond hacq hw hb]
    case below =>
      intro va ppa com
      rw [loadParam_mapped hacq hw hb hm] at hexec
      refine ⟨fun hrd => ?_, fun hrd l hl hlen => ?_, fun hrd hl hsend => ?_⟩
      · rw [hexec, hrd]
        rfl
      · have hsize : ((l.data.drop (ppa % 64)).take size).length = size := by
          rw [List.length_take, List.length_drop]
          omega
        have hext : extend (decide (sz.code < 3)) ((l.data.drop (ppa % 64)).take size)
            = ext ((l.data.drop (ppa % 64)).take size) := by
          rw [extend_eq, hsize]
          simp [ext]
        rw [hexec, hrd, if_pos rfl, loadHome_cached hp hl, hext]
      · rw [hexec, hrd, if_pos rfl, loadHome_asked hp hld hl hsend]

end Sys2Proof.ParameterLoads
end

section
/-!
PROOFS. BDECL (R177, R181-R183) and the launch engine's check of its range (R447).
-/

namespace Sys2Proof.BufferDeclarations

open Sys2Proof.Machine Sys2Proof.Accesses

/-! ## BDECL at its core (R181) -/

section
variable {a b : Reg} {buf : BitVec 6} {s : State} {x y : Word} {c : Ctx} (h : Issues s noHints [a, b] [] true false false [x, y] c)
include h

/-- A context that is held for its BDECL waits. -/
theorem exec_bdecl_held {p q r : Nat} (hh : s.me.hold = .bdecl p q r) : exec (.bdecl a b buf) s = .next s := by
  rw [exec_bdecl, execBdecl, issueWord_issues _ h]
  simp only [hh]

theorem exec_bdecl_accepted (hh : s.me.hold = .bdeclDone true) : exec (.bdecl a b buf) s = .next (s.setMe c.advance) := by
  rw [exec_bdecl, execBdecl, issueWord_issues _ h]
  simp only [hh]

theorem exec_bdecl_refused (hh : s.me.hold = .bdeclDone false) : exec (.bdecl a b buf) s
    = .next ((s.setMe { s.me with hold := .none }).trap causeProt (0x10000000 + BitVec.ofNat 56 x.toNat)) := by
  rw [exec_bdecl, execBdecl, issueWord_issues _ h]
  simp only [hh, BitVec.ofNat_toNat]
  rfl

section
variable (hh : s.me.hold = .none)
include hh

/-- A BDECL of another context that is not answered comes first (R183). -/
theorem exec_bdecl_declaring (hd : s.myCore.declaring c.vintage buf.toNat s.cur.2 = true) : exec (.bdecl a b buf) s = .next s := by
  rw [exec_bdecl, execBdecl, issueWord_issues _ h]
  simp only [hh, hd, if_true]

/-- A BDECL whose turn it is checks the entry's state, then its range, and asks the launch engine. -/
theorem exec_bdecl_turn (hd : s.myCore.declaring c.vintage buf.toNat s.cur.2 = false) : exec (.bdecl a b buf) s
    = if (s.myCore.buf c.vintage buf.toNat).state ≠ (if y.toNat = 0 then .empty else .undeclared) then
        .next (s.trap causeBufstate (s.myCore.buf c.vintage buf.toNat).rawBase)
      else if y.toNat ≠ 0 ∧ s.myCore.badRange x.toNat y.toNat = true then
        .next (s.trap causeProt (0x10000000 + BitVec.ofNat 56 x.toNat))
      else .next ((s.setMe { s.me with hold := .bdecl buf.toNat x.toNat y.toNat }).due (.bdeclReport s.cur.1 s.cur.2)) := by
  rw [exec_bdecl, execBdecl, issueWord_issues _ h]
  simp only [hh, hd, BitVec.ofNat_toNat]
  rfl

end
end

/-! ## The launch engine (R181, R447) -/

@[simp] theorem logEv_parts (s : State) (site kind ctx : Nat) (v : Word) (a : Addr) (src seq : Nat) (l : List Byte) :
    (s.logEv site kind ctx v a src seq l).parts = s.parts := by
  unfold State.logEv
  split
  · split
    · rfl
    · dsimp only
      split <;> rfl
  · rfl

/-- A log record changes a core's log alone. -/
theorem core_logEv (s : State) (site kind ctx : Nat) (v : Word) (a : Addr) (src seq : Nat) (l : List Byte) (k : Nat) :
    ∃ en log, (s.logEv site kind ctx v a src seq l).core k = { s.core k with en := en, log := log } := by
  have hupd : ∀ f : Core → Core, (∀ q, ∃ en log, f q = { q with en := en, log := log }) →
      ∃ en log, (s.updCore site f).core k = { s.core k with en := en, log := log } := by
    intro f hf
    rw [State.updCore, State.core_setCore]
    split
    · rename_i hk
      rw [hk]
      exact hf _
    · exact ⟨_, _, rfl⟩
  unfold State.logEv
  split
  · split
    · exact hupd _ fun q => ⟨_, _, rfl⟩
    · dsimp only
      split
      · exact hupd _ fun q => ⟨_, _, rfl⟩
      · exact hupd _ fun q => ⟨_, _, rfl⟩
  · exact hupd _ fun q => ⟨_, _, rfl⟩

@[simp] theorem buf_setBuf (c : Core) (v : BitVec 32) (b : Nat) (x : Buf) : (c.setBuf v b x).buf v b = x := by
  simp [Core.buf, Core.bufTab, Core.setBuf]

theorem declareBuf_buf (s : State) (site n : Nat) (v : BitVec 32) (buf : Nat) (x : Buf) :
    ((s.declareBuf site n v buf x).core site).buf v buf = x := by
  unfold State.declareBuf
  obtain ⟨en, log, h⟩ := core_logEv (s.updCore site fun c => c.setBuf v buf x) site 5 n x.word x.rawBase 0xFFFF 0 [] site
  rw [h, State.updCore, State.core_setCore_same]
  exact buf_setBuf (s.core site) v buf x

@[simp] theorem declareBuf_parts (s : State) (site n : Nat) (v : BitVec 32) (buf : Nat) (x : Buf) :
    (s.declareBuf site n v buf x).parts = s.parts :=
  logEv_parts _ _ _ _ _ _ _ _ _

@[simp] theorem examine_parts (s : State) (lead : Nat) : (s.examine lead).parts = s.parts := by
  have hfold : ∀ (f : Launch → Due) (l : List Launch) (t : State), (l.foldl (fun t x => t.later (f x)) t).parts = t.parts := by
    intro f l
    induction l with
    | nil => exact fun _ => rfl
    | cons x l ih => exact fun t => ih _
  unfold State.examine
  split
  · rfl
  · simp only [State.later_parts, hfold]

/-- A context whose BDECL the launch engine has answered. -/
def answerBdecl (s : State) (site n : Nat) (ok : Bool) : State := s.updCtx site n fun c => { c with hold := .bdeclDone ok }

section
variable {s : State} {site n : Nat} {ok : Bool}

theorem answerBdecl_hold (hn : n < 8) : ((answerBdecl s site n ok).ctx site n).hold = .bdeclDone ok := by
  rw [answerBdecl, State.updCtx, State.ctx_setCtx_same _ _ _ _ hn]

theorem answerBdecl_bufs : ((answerBdecl s site n ok).core site).bufs = (s.core site).bufs := by
  rw [answerBdecl, State.updCtx, State.setCtx, State.core_setCore_same]
  rfl

theorem answerBdecl_buf (v : BitVec 32) (b : Nat) : ((answerBdecl s site n ok).core site).buf v b = (s.core site).buf v b := by
  simp only [Core.buf, Core.bufTab, answerBdecl_bufs]

@[simp] theorem answerBdecl_parts : (answerBdecl s site n ok).parts = s.parts := rfl

end

/-- A partition with a range recorded as declared by BDECL for a launch. -/
def withRange (p : Part) (v : BitVec 32) (z : Nat × Nat × Nat × Nat) : Part :=
  p.updLaunch v fun l => { l with bufDyn := l.bufDyn ++ [z] }

/-- A partition with the ranges of a buffer of a core given up by a launch. -/
def withoutRange (p : Part) (v : BitVec 32) (site buf : Nat) : Part :=
  p.updLaunch v fun l => { l with bufDyn := l.bufDyn.filter fun z => !(z.1 == site && z.2.1 == buf) }

section
variable {s : State} {site n buf base size : Nat} {p : Part} (hh : (s.ctx site n).hold = .bdecl buf base size)
  (hp : s.partAt site = some p)
include hh hp

/-- A range that is given up leaves its launch's record, and its buffer is undeclared. -/
theorem exec_report_undeclares (hs : size = 0) : exec (.bdeclReport site n) s = .next (answerBdecl
    (((s.setPart p.lead (withoutRange p (s.ctx site n).vintage site buf)).examine p.lead).declareBuf site n
      (s.ctx site n).vintage buf Buf.none) site n true) := by
  simp only [exec_bdeclReport, execBdeclReport, hh, hp, if_pos hs]
  rfl

/-- A range that another launch holds or that breaks the core's limits is refused. -/
theorem exec_report_refuses (hs : size ≠ 0)
    (hbad : (p.declaredElsewhere (s.ctx site n).vintage base size || (s.core site).badRange base size) = true) :
    exec (.bdeclReport site n) s = .next (answerBdecl s site n false) := by
  simp only [exec_bdeclReport, execBdeclReport, hh, hp, if_neg hs, if_pos hbad]
  rfl

/-- Another range is recorded with its launch, and its buffer is declared. -/
theorem exec_report_declares (hs : size ≠ 0)
    (hbad : (p.declaredElsewhere (s.ctx site n).vintage base size || (s.core site).badRange base size) = false) :
    exec (.bdeclReport site n) s = .next (answerBdecl ((s.setPart p.lead
      (withRange p (s.ctx site n).vintage (site, buf, base, size))).declareBuf site n (s.ctx site n).vintage buf
        ⟨.empty, 0, size, base, true, none⟩) site n true) := by
  simp only [exec_bdeclReport, execBdeclReport, hh, hp, if_neg hs, hbad]
  rfl

end

/-- The partition of a lead band depends on the partitions alone. -/
theorem part?_congr {s t : State} (h : t.parts = s.parts) (lead : Nat) : t.part? lead = s.part? lead := by
  simp only [State.part?, h]

theorem withoutRange_bufDyn {p : Part} {v : BitVec 32} {site buf : Nat} {l : Launch}
    (hl : l ∈ (withoutRange p v site buf).launches) (hv : l.vint = v) : ∀ z ∈ l.bufDyn, ¬(z.1 = site ∧ z.2.1 = buf) := by
  obtain ⟨k, -, hk⟩ := List.mem_map.mp hl
  by_cases h : k.vint = v
  · rw [if_pos h] at hk
    subst hk
    intro z hz
    simpa [Decidable.imp_iff_not_or] using (List.mem_filter.mp hz).2
  · rw [if_neg h] at hk
    exact absurd (hk ▸ hv) h

/-! ## The obligation -/

/-- Settles O30: BDECL goes by what its context is held for, and the report by the size and by whether the range is free. -/
theorem bufferDeclarationsAreChecked : Obligations.BufferDeclarationsAreChecked := by
  unfold Obligations.BufferDeclarationsAreChecked
  refine ⟨?word, ?report⟩
  case word =>
    intro a b buf s x y c hn h site n e bad turn ask
    have hturn : turn → exec (.bdecl a b buf) s = if e.state ≠ (if y.toNat = 0 then .empty else .undeclared) then
          .next (s.trap causeBufstate e.rawBase)
        else if y.toNat ≠ 0 ∧ s.myCore.badRange x.toNat y.toNat = true then .next (s.trap causeProt bad)
        else ask := fun ht => exec_bdecl_turn h ht.1 ht.2
    refine ⟨fun ⟨_, _, _, hh⟩ => exec_bdecl_held h hh, fun hh hd => exec_bdecl_declaring h hh hd,
      fun hh => exec_bdecl_accepted h hh, fun hh => exec_bdecl_refused h hh, fun ht hy => ?declares, fun ht hy => ?undeclares⟩
    case declares =>
      have hy0 : y.toNat ≠ 0 := fun h0 => hy (BitVec.eq_of_toNat_eq h0)
      rw [if_neg hy0] at hturn
      refine ⟨fun he => ?_, fun he hr => ?_, fun he hr => ?_⟩
      · rw [hturn ht, if_pos he]
        rfl
      · rw [hturn ht, if_neg (not_not_intro he), if_pos ⟨hy0, hr⟩]
        rfl
      · rw [hturn ht, if_neg (not_not_intro he), if_neg fun hr' => by simp [hr] at hr']
    case undeclares =>
      have hy0 : y.toNat = 0 := by rw [hy]; rfl
      rw [if_pos hy0] at hturn
      refine ⟨fun he => ?_, fun he => ?_⟩
      · rw [hturn ht, if_pos he]
        rfl
      · rw [hturn ht, if_neg (not_not_intro he), if_neg fun hr => hr.1 hy0]
  case report =>
    intro site n buf base size s p hn hh hp v bad
    by_cases hs : size = 0
    · refine ⟨_, exec_report_undeclares hh hp hs, ?_, fun h0 => absurd hs h0, fun h0 => absurd hs h0, fun _ =>
        ⟨?_, withoutRange p v site buf, ?_, fun l hl hv => withoutRange_bufDyn hl hv⟩⟩
      · simp [answerBdecl_hold hn, hs]
      · rw [answerBdecl_buf, declareBuf_buf]
      · rw [part?_congr (s := s.setPart p.lead (withoutRange p v site buf)) (by simp [v]), State.part?_setPart_same]
    · cases hbad : bad with
      | true =>
        refine ⟨_, exec_report_refuses hh hp hs hbad, ?_, fun _ h0 => absurd h0 (by simp), fun _ _ => ⟨rfl, answerBdecl_bufs⟩,
          fun h0 => absurd h0 hs⟩
        simp [answerBdecl_hold hn, hs]
      | false =>
        refine ⟨_, exec_report_declares hh hp hs hbad, ?_, fun _ _ =>
          ⟨?_, withRange p v (site, buf, base, size), ?_, rfl⟩, fun _ h0 => absurd h0 (by simp), fun h0 => absurd h0 hs⟩
        · simp [answerBdecl_hold hn]
        · rw [answerBdecl_buf, declareBuf_buf]
        · rw [part?_congr (s := s.setPart p.lead (withRange p v (site, buf, base, size))) (by simp [v]),
            State.part?_setPart_same]

end Sys2Proof.BufferDeclarations
end

section
/-!
PROOFS. Active messages (R192-R198): where the two sides of a GETA or PUTA lie, what its issue sends, and RECV and TBIND.
-/

namespace Sys2Proof.Messages

open Sys2Proof.Machine Sys2Proof.Accesses

/-! ## The two sides (R113, R194, R195) -/

section
variable {s : State} {c : Ctx} {a : Addr} {n : Nat}

section
variable (hspace : spaceOf a = .remote) (hlcn : remoteLcn a < s.ncores s.cur.1)
include hspace hlcn

/-- A GETA reads another core through any window. -/
theorem farSide_read {w o : Nat} (hplace : placeOfLocal (remoteLocal a) = .win w o) :
    farSide s c a n false = .ok [(remoteLcn a, .core (remoteLocal a), n)] := by
  simp [farSide, hspace, Nat.not_le.mpr hlcn, hplace]

/-- A PUTA writes another core through the raw window. -/
theorem farSide_write {o : Nat} (hplace : placeOfLocal (remoteLocal a) = .win 0 o) :
    farSide s c a n true = .ok [(remoteLcn a, .core o, n)] := by
  simp [farSide, hspace, Nat.not_le.mpr hlcn, hplace]

end

/-- A global range within a granule lies at one home, once the context's queued writes to the granule have drained. -/
theorem farSide_granule {p : Part} {ppa i : Nat} {r : DRegion} {write : Bool} (hspace : spaceOf a = .global)
    (hroom : a.toNat % 256 + n ≤ 256) (hp : s.partAt s.cur.1 = some p)
    (hq : s.myCore.wq.any (fun e => e.ctx == s.cur.2 && e.line / 256 == ppa / 256) = false)
    (hcheck : s.checkGlobal s.cur.1 c.vintage c.region a n (if write then .store else .load) = .ok ppa i r) :
    farSide s c a n write = .ok [(p.slotEp ppa, .rim ppa, n)] := by
  have hpieces : granulePieces a n = [(a, n)] := if_pos (by omega)
  have hqueued : farGlobal.queued s.myCore s.cur.2 ppa = false := hq
  simp only [farSide, hspace, hpieces, farGlobal, hcheck, hp, hqueued]
  rfl

theorem nearDest_private (hlo : 0x8000000 ≤ a.toNat) (hhi : a.toNat + n ≤ 0x8004000) (hn : 0 < n) :
    nearDest s c a n = .ok (0x2E0000 + 0x4000 * s.cur.2 + (a.toNat - 0x8000000)) := by
  simp only [nearDest, spaceOf_local (show a.toNat < 2 ^ 48 by omega),
    placeOfLocal_private hlo (show a.toNat < 0x8004000 by omega), if_pos (show a.toNat - 0x8000000 + n ≤ 0x4000 by omega)]
  rfl

end

/-! ## The issue of a message (R174, R192, R196) -/

/-- The state in which a message of one request has been issued: its operation counted, its tag's count advanced by 1, its request
sent. -/
def messageSent (s : State) (c : Ctx) (k : Cnt) (tag : Nat) (ea : Addr) (global write : Bool) (what : BitVec 32 → OpWhat) (dep : Nat)
    (body : Body) : State :=
  let seq := s.myCore.tagCnt[tag]?.getD 0
  ((s.setMyCore { s.myCore with tagCnt := s.myCore.tagCnt.setIfInBounds tag (seq + 1) }).setMe
    (c.startOp k ea global write (what seq)).advance).sendFromCore s.cur.1 dep s.cur.2 c.issued 0 c.vintage body

theorem startMessage_one {s : State} {c : Ctx} {k : Cnt} {tag : BitVec 5} {ea : Addr} {global write : Bool}
    {what : BitVec 32 → OpWhat} {dep : Nat} {body : Body} (hk : c.cnt k < 63) (hsend : s.coreCanSend s.cur.1 dep = true) :
    startMessage s c k tag ea global write what [(dep, body)]
      = .next (messageSent s c k tag.toNat ea global write what dep body) := by
  simp only [startMessage, Ctx.canCount, hk, List.any_cons, List.any_nil, hsend]
  rfl

/-! ## GETA and PUTA (R194, R195) -/

section
variable {tag len : BitVec 5} {a b : Reg} {s : State} {x y : Word} {c : Ctx} {far nearEa near : Addr} {size : Nat}
  (h : Issues s noHints [a, b] [] true false false [x, y] c) (hx : BitVec.ofNat 56 x.toNat = far)
include h hx

section
variable (hld : c.ld < 63)
include hld

theorem exec_geta_farMisaligned (hfar : far.toNat % 8 ≠ 0) : exec (.geta tag a b len) s = .next (s.trap causeMisalign far) := by
  rw [BitVec.ofNat_toNat] at hx
  rw [exec_geta, execGeta, issueWord_issues _ h]
  dsimp only
  rw [counting_room (k := .ld) _ hld]
  simp only [Issued.v, List.getD_cons_zero, hx, aligned, hfar]
  rfl

section
variable (hfar : far.toNat % 8 = 0) (hy : BitVec.ofNat 56 y.toNat = nearEa) (hown : ownLocal (s.lcn s.cur.1) nearEa = near)
include hfar hy hown

theorem exec_geta_nearMisaligned (hnear : near.toNat % 8 ≠ 0) :
    exec (.geta tag a b len) s = .next (s.trap causeMisalign nearEa) := by
  rw [BitVec.ofNat_toNat] at hx hy
  rw [exec_geta, execGeta, issueWord_issues _ h]
  dsimp only
  rw [counting_room (k := .ld) _ hld]
  simp only [Issued.v, List.getD_cons_zero, List.getD_cons_succ, hx, hy, hown, aligned, hfar, hnear]
  rfl

/-- A GETA whose source lies at one home sends its request there. -/
theorem exec_geta_sends {dep off : Nat} {t : Target} (hsize : 8 * (len.toNat + 1) = size) (hnear : near.toNat % 8 = 0)
    (hside : farSide s c far size false = .ok [(dep, t, size)]) (hdest : nearDest s c near size = .ok off)
    (hfarFree : Passes s (rangeOf (s.lcn s.cur.1) s.cur.2 far size) false)
    (hnearFree : Passes s (rangeOf (s.lcn s.cur.1) s.cur.2 near size) true) (hsend : s.coreCanSend s.cur.1 dep = true) :
    exec (.geta tag a b len) s = .next (messageSent s c .ld tag.toNat far (spaceOf far == .global || spaceOf far == .committed) false
      (fun seq => .geta tag.toNat len.toNat seq off 1 [] none) dep (.geta t size)) := by
  rw [BitVec.ofNat_toNat] at hx hy
  rw [exec_geta, execGeta, issueWord_issues _ h]
  dsimp only
  rw [counting_room (k := .ld) _ hld]
  simp only [Issued.v, List.getD_cons_zero, List.getD_cons_succ, hx, hy, hown, hsize, aligned, hfar, hnear, hside, hdest,
    gated_free _ hfarFree, gated_free _ hnearFree, List.map_cons, List.map_nil, decide_true, Bool.not_true, Bool.false_eq_true,
    if_false]
  exact startMessage_one (k := .ld) hld hsend

end
end

section
variable (hst : c.st < 63)
include hst

theorem exec_puta_farMisaligned (hfar : far.toNat % 8 ≠ 0) : exec (.puta tag a b len) s = .next (s.trap causeMisalign far) := by
  rw [BitVec.ofNat_toNat] at hx
  rw [exec_puta, execPuta, issueWord_issues _ h]
  dsimp only
  rw [counting_room (k := .st) _ hst]
  simp only [Issued.v, List.getD_cons_zero, hx, aligned, hfar]
  rfl

section
variable (hfar : far.toNat % 8 = 0) (hy : BitVec.ofNat 56 y.toNat = nearEa) (hown : ownLocal (s.lcn s.cur.1) nearEa = near)
include hfar hy hown

theorem exec_puta_nearMisaligned (hnear : near.toNat % 8 ≠ 0) :
    exec (.puta tag a b len) s = .next (s.trap causeMisalign nearEa) := by
  rw [BitVec.ofNat_toNat] at hx hy
  rw [exec_puta, execPuta, issueWord_issues _ h]
  dsimp only
  rw [counting_room (k := .st) _ hst]
  simp only [Issued.v, List.getD_cons_zero, List.getD_cons_succ, hx, hy, hown, aligned, hfar, hnear]
  rfl

/-- A PUTA of private bytes to one home sends them there as they are read at issue. -/
theorem exec_puta_sends {dep : Nat} {t : Target} (hsize : 8 * (len.toNat + 1) = size) (hnear : near.toNat % 8 = 0)
    (hlo : 0x8000000 ≤ near.toNat) (hhi : near.toNat + size ≤ 0x8004000)
    (hside : farSide s c far size true = .ok [(dep, t, size)])
    (hfarFree : Passes s (rangeOf (s.lcn s.cur.1) s.cur.2 far size) true)
    (hnearFree : Passes s (rangeOf (s.lcn s.cur.1) s.cur.2 near size) false) (hsend : s.coreCanSend s.cur.1 dep = true) :
    exec (.puta tag a b len) s = .next (messageSent s c .st tag.toNat far (spaceOf far == .global) true
      (fun seq => .puta tag.toNat len.toNat seq 1 none) dep
      (.puta t (memRead s.mem (scrAddr s.cur.1 (0x2E0000 + 0x4000 * s.cur.2 + (near.toNat - 0x8000000))) size))) := by
  rw [BitVec.ofNat_toNat] at hx hy
  have hspace : spaceOf near = .loc := spaceOf_local (by omega)
  have hplace := placeOfLocal_private hlo (show near.toNat < 0x8004000 by omega)
  have hreqs : ∀ m : List Host.Cell, ∀ k, putaReqs [(dep, t, size)] (memRead m k size) = [(dep, .puta t (memRead m k size))] := by
    intro m k
    simp only [putaReqs, List.take_of_length_le (Nat.le_of_eq (memRead_length m k size))]
  rw [exec_puta, execPuta, issueWord_issues _ h]
  dsimp only
  rw [counting_room (k := .st) _ hst]
  simp only [Issued.v, List.getD_cons_zero, List.getD_cons_succ, hx, hy, hown, hsize, aligned, hfar, hnear, hspace, hplace,
    if_pos (show near.toNat - 0x8000000 + size ≤ 0x4000 by omega), hside, gated_free _ hfarFree, gated_free _ hnearFree,
    State.scrRead, privBase, hreqs, decide_true, Bool.not_true, Bool.false_eq_true, if_false, ne_eq, not_true_eq_false]
  exact startMessage_one (k := .st) hst hsend

end
end
end

/-! ## RECV (R197) -/

/-- The state in which RECV has given a word to its register and logged it. -/
def received (u : State) (site n : Nat) (d : Reg) (w : Word) : State :=
  (finishScalar u u.me d w 0).logEv site 9 n w 0 0xFFFF 0 []

section
variable {d : Reg} {tag : BitVec 5} {s : State} {c : Ctx} (h : Issues s noHints [] [d] true false false [] c)
  (hpoint : s.pointHeld s.cur.1 s.cur.2 = false) {t : State} (ht : s.deliveryPoint s.cur.1 s.cur.2 = t)
include h hpoint ht

theorem exec_recv_none (hq : (t.core s.cur.1).replies.filter (fun r => r.tag == tag.toNat) = []) :
    exec (.recv d tag) s = .next (received t s.cur.1 s.cur.2 d 0) := by
  have hfind : (t.core s.cur.1).replies.find? (fun r => r.tag == tag.toNat) = none := by
    rw [← List.head?_filter, hq]
    rfl
  rw [exec_recv, execRecv, issueWord_issues _ h]
  simp only [hpoint, ht, hfind]
  rfl

theorem exec_recv_oldest {r : Reply} {rest : List Reply}
    (hq : (t.core s.cur.1).replies.filter (fun r => r.tag == tag.toNat) = r :: rest) :
    exec (.recv d tag) s = .next (received ((t.setCore s.cur.1 { t.core s.cur.1 with
      replies := (t.core s.cur.1).replies.erase r }).joinReplies s.cur.1 (t.core s.cur.1).repliesWait.length)
        s.cur.1 s.cur.2 d r.word) := by
  have hfind : (t.core s.cur.1).replies.find? (fun r => r.tag == tag.toNat) = some r := by
    rw [← List.head?_filter, hq]
    rfl
  rw [exec_recv, execRecv, issueWord_issues _ h]
  simp only [hpoint, ht, hfind]
  rfl

end

/-! ## TBIND (R198) -/

/-- The state in which a tag has its binding, which is logged. -/
def tagBound (s : State) (c : Ctx) (tag : Nat) (x : Word) (v : Option TagBind) : State :=
  ((s.setMyCore { s.myCore with tagBind := s.myCore.tagBind.setIfInBounds tag v }).setMe c.advance).logEv s.cur.1 9 s.cur.2 x 0
    0xFFFF 0 []

section
variable {tag : BitVec 5} {a : Reg} {s : State} {x : Word} {c : Ctx} {ea : Addr}
  (h : Issues s noHints [a] [] true false false [x] c) (hx : BitVec.ofNat 56 x.toNat = ea)
include h hx

theorem exec_tbind_unbinds (hea : ea = 0) : exec (.tbind tag a) s = .next (tagBound s c tag.toNat x none) := by
  rw [BitVec.ofNat_toNat] at hx
  rw [exec_tbind, execTbind, issueWord_issues _ h]
  simp only [Issued.v, List.getD_cons_zero, hx, if_pos hea]
  rfl

theorem exec_tbind_binds {home : RecHome} {r : Addr} (hea : ea ≠ 0) (hr : s.recAddr c ea = .home home r) :
    exec (.tbind tag a) s = .next (tagBound s c tag.toNat x (some ⟨r, c.vintage, s.cur.2, c.region⟩)) := by
  rw [BitVec.ofNat_toNat] at hx
  rw [exec_tbind, execTbind, issueWord_issues _ h]
  simp only [Issued.v, List.getD_cons_zero, hx, if_neg hea, hr]
  rfl

theorem exec_tbind_faults {cause : BitVec 5} (hea : ea ≠ 0) (hr : s.recAddr c ea = .fault cause) :
    exec (.tbind tag a) s = .next (s.trap cause ea) := by
  rw [BitVec.ofNat_toNat] at hx
  rw [exec_tbind, execTbind, issueWord_issues _ h]
  simp only [Issued.v, List.getD_cons_zero, hx, if_neg hea, hr]

end

/-! ## The obligation -/

/-- Settles O31: a message goes to the one home of its far side, RECV takes the first reply of its tag, TBIND goes by its
address. -/
theorem messagesAreIssuedAndReceived : Obligations.MessagesAreIssuedAndReceived := by
  unfold Obligations.MessagesAreIssuedAndReceived
  intro tag len a b d s x y c far nearEa size site n near off two seq counted sent get put data
  refine ⟨fun h hld hst hfar => ?farMisaligned, fun h hld hst hfar hnear => ?nearMisaligned,
    fun h hfar hnear hlo hhi hfarR hfarW hnearR hnearW hld hst => ?sends, fun h hpoint => ?recv, fun h => ?tbind⟩
  case farMisaligned => exact ⟨exec_geta_farMisaligned h rfl hld hfar, exec_puta_farMisaligned h rfl hst hfar⟩
  case nearMisaligned =>
    exact ⟨exec_geta_nearMisaligned h rfl hld hfar rfl rfl hnear, exec_puta_nearMisaligned h rfl hst hfar rfl rfl hnear⟩
  case sends =>
    have hdest : nearDest s c near size = .ok off := nearDest_private hlo hhi (by omega)
    refine ⟨fun w o hspace hlcn hplace hsend => ⟨?_, ?_⟩,
      fun p ppa i r hspace hroom hp hsend hq => ⟨fun hcheck => ?_, fun hcheck => ?_⟩⟩
    · have hget := exec_geta_sends (tag := tag) h rfl hld hfar rfl rfl rfl hnear (farSide_read hspace hlcn hplace) hdest hfarR
        hnearW hsend
      rw [hspace] at hget
      exact hget
    · rintro rfl
      have hput := exec_puta_sends (tag := tag) h rfl hst hfar rfl rfl rfl hnear hlo hhi (farSide_write hspace hlcn hplace) hfarW
        hnearR hsend
      rw [hspace] at hput
      exact hput
    · have hget := exec_geta_sends (tag := tag) h rfl hld hfar rfl rfl rfl hnear
        (farSide_granule (write := false) hspace hroom hp hq hcheck) hdest hfarR hnearW hsend
      rw [hspace] at hget
      exact hget
    · have hput := exec_puta_sends (tag := tag) h rfl hst hfar rfl rfl rfl hnear hlo hhi
        (farSide_granule (write := true) hspace hroom hp hq hcheck) hfarW hnearR hsend
      rw [hspace] at hput
      exact hput
  case recv =>
    intro t k q done
    exact ⟨fun hq => exec_recv_none h hpoint rfl hq, fun r rest hq => exec_recv_oldest h hpoint rfl hq⟩
  case tbind =>
    exact ⟨fun hfar => exec_tbind_unbinds h rfl hfar, fun hfar =>
      ⟨fun _ _ hr => exec_tbind_binds h rfl hfar hr, fun _ hr => exec_tbind_faults h rfl hfar hr⟩⟩

end Sys2Proof.Messages
end

section
/-!
PROOFS. Replies at a core (R173, R194, R398) and the copy engine (R358-R373, R384): requests, landings and their order,
acknowledgements, and the end of a transfer.
-/

namespace Sys2Proof.Transfers

open Sys2Proof.Machine

/-! ## Replies (R173, R363, R398, R399) -/

/-- The log record of a reply to a context names the address of the operation that it answers (R483). -/
theorem logReply_operation {s : State} {site : Nat} {f : Flit} {v : Word} {r : Option (BitVec 5)} {d : List Byte} {o : OutOp}
    (hctx : f.ctx < 8) (ho : List.find? (fun (o : OutOp) => o.id == f.id) (s.ctx site f.ctx).ops = some o) :
    s.logReply site f v r d = s.logEv site 2 f.ctx ((r.map fun c => c.setWidth 64).getD v) o.addr f.sep f.seq d := by
  simp only [State.logReply, if_pos hctx, ho]
  rfl

section
variable {s s1 : State} {part ep : Nat} {f : Flit} (ht : s.takeIn part ep .reply = some (f, s1))
include ht

/-- A landing arrives, or a part of one at the engine that issued its request (R362). -/
theorem exec_landing_arrives {p : Part} {l : List (Nat × List Byte)} {k : LandKey} (hp : s.part? part = some p)
    (hb : f.body = .landing l k) : exec (.landing part ep) s
      = .next (if k.parts ≤ 1 then (s1.addLand p ep k f.vint l [f.sep]).landOne p ep
        else s1.joinPart p (p.siteOf ep) ⟨k, 1, l, f.vint, [f.sep]⟩) := by
  simp only [exec_landing, execLanding, hp, ht, hb]
  split <;> rfl

section
variable {p : Part} (hp : s1.part? part = some p)
include hp

theorem exec_dataReply_data {b : List Byte} {st : Word} {m y : Bool} {r : Option (BitVec 5)} (hb : f.body = .data b st m y r) :
    exec (.dataReply part ep) s
      = .next (((s1.answered part ep f.sep f.vint).logReply (p.siteOf ep) f (wordOf (b.take 8)) r b).dataToCtx (p.siteOf ep) f
          { bytes := b, sticky := st, miss := m, sync := y, refused := r }) := by
  simp only [exec_dataReply, execDataReply, ht, hp, hb]

/-- An acknowledgement goes by its reply context; that of cellar traffic is not logged. -/
theorem exec_acknowledgement_ack {r : Option (BitVec 5)} {q : Nat} (hb : f.body = .ack r q) :
    let s2 := s1.answered part ep f.sep f.vint
    let s3 := s2.logReply (p.siteOf ep) f (BitVec.ofNat 64 q) r []
    exec (.acknowledgement part ep) s = .next (if f.ctx = replyCore then (s3.ownAnswered (p.siteOf ep) f.id r).wakeLaunches (p.siteOf ep)
      else if f.ctx = replyCopy then s3.ackCopy (p.siteOf ep) f r
      else if f.ctx = replyTile then s3.ackTile (p.siteOf ep) f r
      else if f.ctx = replyCellar then s2.ackCellar (p.siteOf ep) f
      else s3.ackToCtx (p.siteOf ep) f r q) := by
  simp only [exec_acknowledgement, execAcknowledgement, ht, hp, hb]
  by_cases hcellar : f.ctx = replyCellar
  · simp [hcellar, replyCellar, replyCore, replyCopy, replyTile]
  · simp [hcellar]

/-- An acknowledgement of a written landing answers the flits of its request and is logged (R389, R483). -/
theorem exec_landingAck_written {k : LandKey} {l : List Nat} {q : List (Nat × List Byte)} (hb : f.body = .landAck k l q none) :
    exec (.landingAck part ep) s
      = .next (((s1.landAnswered part ep f.sep f.vint l).logEv (p.siteOf ep) 2 0 0 0 f.sep f.seq []).ackLanding (p.siteOf ep) k 1 q
          none) := by
  simp only [exec_landingAck, execLandingAck, ht, hp, hb]
  rfl

/-- A source core's refusal answers the request alone: it has sent no landing. -/
theorem exec_landingAck_refused {k : LandKey} {q : List (Nat × List Byte)} {c : BitVec 5} (hslot : isSlot f.sep = false)
    (hb : f.body = .landAck k [f.sep] q (some c)) : exec (.landingAck part ep) s
      = .next (((s1.answered part ep f.sep f.vint).logEv (p.siteOf ep) 2 0 (c.setWidth 64) 0 f.sep f.seq []).ackLanding (p.siteOf ep) k
          1 q (some c)) := by
  simp only [exec_landingAck, execLandingAck, ht, hp, hb, hslot, beq_self_eq_true, Option.isSome_some]
  rfl

end
end

section
variable {s : State} {site : Nat} {f : Flit} {a : Answer} {o : OutOp} (hid : f.id ≠ idBlock)
  (ho : List.find? (fun (o : OutOp) => o.id == f.id) (s.ctx site f.ctx).ops = some o)
include hid ho

/-- The bytes of a load that is no read of an rw region complete it. -/
theorem dataToCtx_load {d : Reg} {size : Nat} {sext : Bool} {line : Option Nat} (hw : o.what = .load d size sext line)
    (hrw : s.rwLoad site f.ctx o.addr = false) : s.dataToCtx site f a = s.complete site f.ctx f.id a := by
  simp only [State.dataToCtx, if_neg hid, ho, hw, hrw]
  rfl

theorem dataToCtx_geta {tag len dst left : Nat} {seq : BitVec 32} {got : List (Nat × List Byte)} {bad : Option (BitVec 5)}
    (hw : o.what = .geta tag len seq dst left got bad) :
    s.dataToCtx site f a = s.messageAnswer site f.ctx f.id f.tag a.bytes a.sticky a.refused := by
  simp only [State.dataToCtx, if_neg hid, ho, hw]

end

/-! ## Requests (R358, R362, R365, R373) -/

section
variable {s : State} {site ch : Nat} {p : Part} {x : Xfer} (hp : s.partAt site = some p)
  (hx : ((s.core site).chan ch).sender = some x) (hf : x.frozen = false) (hw : x.packetsOut < landingWindow)
include hp hx hf hw

/-- The open of a remote destination goes first. -/
theorem exec_copyRequest_opens {d : Nat} (hd : x.remoteDest (s.lcn site) = some d) (ho : x.openSent = false) :
    exec (.copyRequest site ch) s = .next (s.sendOpen site ch x d) := by
  rw [State.lcn] at hd
  simp only [exec_copyRequest, execCopyRequest, hx, hp, hf, Nat.not_le.mpr hw, hd, ho]
  rfl

section
variable (ho : x.remoteDest (s.lcn site) = none ∨ x.openSent = true)
include ho

theorem exec_copyRequest_drains (hk : x.kind = .wstream) :
    exec (.copyRequest site ch) s = .next (s.drainPushes p site ch x) := by
  rw [State.lcn] at ho
  simp only [exec_copyRequest, execCopyRequest, hx, hp, hf, Nat.not_le.mpr hw, hk]
  rcases ho with ho | ho <;> simp [ho]

/-- The next request goes to the destination of its first element, unless that has no translation (R373). -/
theorem exec_copyRequest_next (hk : x.kind ≠ .wstream) {y : Option Nat} {at' : Nat} {l : List (Option Nat × Nat)}
    (hl : (s.nextReq p site x).2 = (y, at') :: l) :
    (∀ dep base, s.destOf p site x at' = .ok (dep, base) →
        exec (.copyRequest site ch) s = .next (s.sendReq p site ch x (s.nextReq p site x).1 ((y, at') :: l) dep base))
      ∧ (∀ q, s.destOf p site x at' = .error (.miss q) →
        exec (.copyRequest site ch) s = .next ((s.due (.translationMiss site q)).due (.copyRequest site ch)))
      ∧ (s.destOf p site x at' = .error .bad → exec (.copyRequest site ch) s = .next (s.freezeXfer site ch x at' true)) := by
  rw [State.lcn] at ho
  refine ⟨fun dep base hd => ?_, fun q hd => ?_, fun hd => ?_⟩
  all_goals
    simp only [exec_copyRequest, execCopyRequest, hx, hp, hf, Nat.not_le.mpr hw, hk, hl, hd]
    rcases ho with ho | ho <;> simp [ho]

end
end

/-! ## Elements (R351, R362) -/

/-- Elements chosen for a request lie in one block: that of the destination block given, if one is. -/
def InBlock (block : Option Nat) (els : List (Option Nat × Nat)) : Prop :=
  ∀ e ∈ els, block = some (e.2 / 256)

/-- From elements of one block on, a request takes further elements of that block alone. -/
theorem nextReqFrom_inBlock (x : Xfer) (lim fuel n : Nat) (block : Option Nat) (bytes : Nat) (acc : List (Option Nat × Nat))
    (h : InBlock block acc) : ∃ b, InBlock b (x.nextReqFrom lim fuel n block bytes acc).2 := by
  induction fuel generalizing n block bytes acc with
  | zero => exact ⟨block, h⟩
  | succ fuel ih =>
    simp only [Xfer.nextReqFrom]
    split
    · exact ⟨block, h⟩
    · split
      · exact ih _ _ _ _ h
      · rename_i d hd
        split
        · rename_i hjoin
          refine ih _ _ _ _ fun e he => ?_
          obtain he | rfl := by simpa using he
          · have hblock := h e he
            simp [hblock] at hjoin
            rw [hjoin.1]
          · rfl
        · exact ⟨block, h⟩

/-- The destinations of a request's elements lie in one 256-byte block. -/
theorem nextReqFrom_oneBlock (x : Xfer) (lim fuel n : Nat) : ∀ e ∈ (x.nextReqFrom lim fuel n none 0 []).2,
    e.2 / 256 = ((x.nextReqFrom lim fuel n none 0 []).2.headD (none, 0)).2 / 256 := by
  obtain ⟨b, hb⟩ := nextReqFrom_inBlock x lim fuel n none 0 [] fun e he => absurd he List.not_mem_nil
  generalize (x.nextReqFrom lim fuel n none 0 []).2 = els at hb ⊢
  cases els with
  | nil => exact fun e he => absurd he List.not_mem_nil
  | cons a t =>
    intro e he
    exact Option.some.inj ((hb e he).symm.trans (hb a List.mem_cons_self))

/-- An element whose source lies in one place is one piece, at its own distance from the first destination. -/
theorem piecesOf_onePlace {s : State} {site : Nat} {x : Xfer} {base first a d : Nat} {els : List (Option Nat × Nat)}
    (h : (some a, d) ∈ els) (hone : (s.srcPlaces site x a x.src.elem).length = 1) :
    ∃ q ∈ s.piecesOf site x base first els, q.2.2 = base + d - first ∧ [(q.1, q.2.1)] = s.srcPlaces site x a x.src.elem := by
  obtain ⟨⟨place, n⟩, hq⟩ := List.length_eq_one_iff.mp hone
  refine ⟨(place, n, base + d - first), List.mem_flatMap.mpr ⟨_, h, ?_⟩, rfl, hq.symm⟩
  simp [hq]

/-! ## Read streams (R384) -/

/-- The pops of a read stream that have landed, or are on their way. -/
def popsAhead (s : State) (site ch : Nat) (x : Xfer) : Nat :=
  let c := s.ownerCtx site x
  ((List.find? (fun (e : SMode × StreamReg) => e.1 == .read && e.2.ch == ch && !e.2.aborted)
    (c.smode.toList.zip c.strm.toList)).map fun e => e.2.landed.length).getD 0
      + ((x.pos + x.src.perPop - 1) / x.src.perPop - x.fed)

section
variable {s : State} {site ch : Nat} {p : Part} {x : Xfer} (hp : s.partAt site = some p)
  (hx : List.find? (fun (x : Xfer) => x.kind == .rstream && !x.ended) ((s.core site).chan ch).live = some x)
include hp hx

theorem exec_streamRefill_waits (h : 32 ≤ popsAhead s site ch x) : exec (.streamRefill site ch) s = .next s := by
  unfold popsAhead at h
  simp only [exec_streamRefill, execStreamRefill, hx, hp, decide_eq_true h, Bool.or_true, Bool.true_or, if_true]

theorem exec_streamRefill_asks (hf : x.frozen = false) (hpos : x.pos < x.count) (h : popsAhead s site ch x < 32) :
    let r := s.fitting p site x (fun m => (x.pos + m, x.refillReq x.pos m)) 3
      (min (min (64 - popsAhead s site ch x) (256 / x.src.popBytes) * x.src.perPop) (x.count - x.pos))
    exec (.streamRefill site ch) s
      = .next (s.sendReq p site ch x r.1 r.2 ((s.lcnOf site).getD 0) (x.pos * x.src.elem)) := by
  unfold popsAhead at h ⊢
  simp only [exec_streamRefill, execStreamRefill, hx, hp, hf, decide_eq_false (Nat.not_le.mpr h),
    decide_eq_false (Nat.not_le.mpr hpos)]
  rfl

end

/-! ## Landings (R362-R369, R374) -/

/-- The first of the oldest landings of a list, beginning with one. -/
def oldestOf (a : Land) (t : List Land) : Land := t.foldl (fun b l => if l.key.age < b.key.age then l else b) a

theorem oldestOf_spec (a : Land) (t : List Land) :
    oldestOf a t ∈ a :: t ∧ ∀ e ∈ a :: t, (oldestOf a t).key.age ≤ e.key.age := by
  induction t generalizing a with
  | nil => simp [oldestOf]
  | cons b t ih =>
    obtain ⟨hmem, hle⟩ := ih (if b.key.age < a.key.age then b else a)
    have hstep : oldestOf a (b :: t) = oldestOf (if b.key.age < a.key.age then b else a) t := rfl
    rw [hstep]
    have hfirst := hle _ List.mem_cons_self
    refine ⟨?_, fun e he => ?_⟩
    · obtain h | h := List.mem_cons.mp hmem
      · rw [h]
        split <;> simp
      · simp [h]
    · obtain rfl | rfl | he := by simpa using he
      · refine Nat.le_trans hfirst ?_
        split <;> omega
      · refine Nat.le_trans hfirst ?_
        split <;> omega
      · exact hle e (List.mem_cons_of_mem _ he)

/-- A state with a landing taken from its endpoint's queue. -/
def withoutLanding (p : Part) (ep : Nat) (l : Land) (t : State) : State :=
  t.setLands p ep ((t.landsAt p ep).filter fun e => !e.key.same l.key)

/-- What a core's port wakes once it has dealt with a landing. -/
def afterLanding (p : Part) (ep : Nat) (t : State) : State :=
  ((t.forwardJoined p (p.siteOf ep)).wakeCopies (p.siteOf ep)).dueLandings p.lead

section
variable {s : State} {p : Part} {ep : Nat} {l : Land} (hslot : isSlot ep = false)
include hslot

/-- A landing of the own engine's transfer is dropped exactly if that was aborted (R374). -/
theorem dropsLanding_own {x : Xfer} (hep : ep = l.key.lcn)
    (hx : (s.core (p.siteOf ep)).xfer l.key.ch l.key.xfer = some x) : s.dropsLanding p ep l = x.aborted := by
  rw [State.dropsLanding, if_neg (by simp [hslot]), if_pos hep, hx]
  rfl

/-- A landing of another core's transfer is dropped exactly if that was closed at the port (R374). -/
theorem dropsLanding_remote {o : OpenRec} (hep : ep ≠ l.key.lcn) (ho : (s.core (p.siteOf ep)).openOf l.key = some o) :
    s.dropsLanding p ep l = o.gone.isSome := by
  rw [State.dropsLanding, if_neg (by simp [hslot]), if_neg hep, ho]
  rfl

end

section
variable {s : State} {p : Part} {ep : Nat} {l : Land} (h : s.nextLanding p ep = some l)
include h

/-- The landing written next may be written, and of those that may it belongs to the oldest-issued transfer (R363). -/
theorem nextLanding_spec : l ∈ s.landsAt p ep ∧ s.mayLand p ep l = true
    ∧ ∀ e ∈ s.landsAt p ep, s.mayLand p ep e = true → l.key.age ≤ e.key.age := by
  unfold State.nextLanding at h
  split at h
  · cases h
  · rename_i a t hlist
    have hold : l = oldestOf a t := (Option.some.inj h).symm
    obtain ⟨hmem, hle⟩ := oldestOf_spec a t
    rw [← hold] at hmem hle
    split at hlist
    · cases hlist
    · rw [← hlist] at hmem hle
      obtain ⟨hin, hmay⟩ := List.mem_filter.mp hmem
      exact ⟨hin, hmay, fun e he hme => hle e (List.mem_filter.mpr ⟨he, hme⟩)⟩

/-- A WM landing of the own engine's transfer is written in its order (R364). -/
theorem nextLanding_own_inOrder {x : Xfer} (hslot : isSlot ep = false) (hep : ep = l.key.lcn)
    (hx : (s.core (p.siteOf ep)).xfer l.key.ch l.key.xfer = some x) (ha : x.aborted = false) (hk : x.kind ≠ .rstream)
    (hw : x.wm = true) : x.landN = l.key.n := by
  have hmay := (nextLanding_spec h).2.1
  rw [State.mayLand, if_neg (by simp [hslot]), if_pos hep] at hmay
  simpa [hx, ha, hk, hw] using hmay

/-- A landing of another core's transfer is written once its open is taken, a WM one in its order (R364, R365). -/
theorem nextLanding_remote_open (hslot : isSlot ep = false) (hep : ep ≠ l.key.lcn) :
    ∃ o, (s.core (p.siteOf ep)).openOf l.key = some o ∧ (o.gone = none → o.wm = true → o.landN = l.key.n) := by
  have hmay := (nextLanding_spec h).2.1
  rw [State.mayLand, if_neg (by simp [hslot]), if_neg hep] at hmay
  cases ho : (s.core (p.siteOf ep)).openOf l.key with
  | none => simp [ho] at hmay
  | some o => exact ⟨o, rfl, fun hg hw => by simpa [ho, hg, hw] using hmay⟩

theorem landOne_slot_done {t : State} (hslot : isSlot ep = true)
    (ht : s.homeStoreAll p l.vint (l.pieces.flatMap fun e => linePieces 8 e.1 e.2) = .done t) :
    s.landOne p ep = ((withoutLanding p ep l t).sendLandAck p ep l l.pieces none).dueLandings p.lead := by
  simp only [State.landOne, h, State.dropsLanding, State.writeLanding, hslot, ht]
  rfl

theorem landOne_slot_full {t : State} (hslot : isSlot ep = true)
    (ht : s.homeStoreAll p l.vint (l.pieces.flatMap fun e => linePieces 8 e.1 e.2) = .full t) :
    s.landOne p ep = ((withoutLanding p ep l t).sendLandAck p ep l [] (some causeKilled)).dueLandings p.lead := by
  simp only [State.landOne, h, State.dropsLanding, State.writeLanding, hslot, ht]
  rfl

theorem landOne_slot_wait {t : State} (hslot : isSlot ep = true)
    (ht : s.homeStoreAll p l.vint (l.pieces.flatMap fun e => linePieces 8 e.1 e.2) = .wait t) : s.landOne p ep = t := by
  simp only [State.landOne, h, State.dropsLanding, State.writeLanding, hslot, ht]
  rfl

section
variable (hslot : isSlot ep = false)
include hslot

theorem landOne_dropped (hd : s.dropsLanding p ep l = true) : s.landOne p ep = afterLanding p ep
    (((withoutLanding p ep l s).updCore (p.siteOf ep) fun c => c.dropLanding l.key).sendLandAck p ep l [] none) := by
  simp only [State.landOne, h, hd, hslot, if_true, Bool.false_eq_true, if_false]
  rfl

theorem landOne_written {t : State} {q : List (Nat × List Byte)} {r : Option (BitVec 5)} (hd : s.dropsLanding p ep l = false)
    (hw : s.writeLanding p ep l = .done t q r) :
    s.landOne p ep = afterLanding p ep ((withoutLanding p ep l t).sendLandAck p ep l q r) := by
  simp only [State.landOne, h, hd, hw, hslot, Bool.false_eq_true, if_false]
  rfl

end

end

/-- A request that does not wait has no earlier transfer before it that would hold its landing back (R367). -/
theorem reqWaits_false_holdsBack {s : State} {site : Nat} {x : Xfer} {srcs dsts : List Range} (h : s.reqWaits site x srcs dsts = false)
    {d : Range} (hd : d ∈ dsts) {e : Nat × Xfer} (he : e ∈ (s.core site).xfers) (hage : e.2.age < x.age) :
    e.2.holdsBack ((s.lcnOf site).getD 0) d = false := by
  obtain ⟨-, hdsts⟩ := Bool.or_eq_false_iff.mp h
  have hearly := List.any_eq_false.mp hdsts d hd
  exact Bool.eq_false_iff.mpr fun hhold =>
    hearly (List.any_eq_true.mpr ⟨e, List.mem_filter.mpr ⟨he, decide_eq_true hage⟩, hhold⟩)

/-- An acknowledged landing leaves the window of its transfer, whose next requests and end become due (R363). -/
theorem ackLanding_written {s : State} {site m : Nat} {k : LandKey} {l : List (Nat × List Byte)} {x : Xfer}
    (hx : (s.core site).xfer k.ch k.xfer = some x) (ha : x.aborted = false) :
    let x1 := { x with reqs := x.reqs.filterMap fun r => r.less k.n m }
    let s1 := s.updCore site fun c => (c.updXfer k.ch k.xfer fun _ => x1).landLines x.vint l
    s.ackLanding site k m l none = ((s1.due (if x.kind = .rstream then .streamRefill site k.ch else .copyRequest site k.ch)).wakeCopies
      site).due (.transferComplete site k.ch) := by
  simp only [State.ackLanding, hx, ha]
  by_cases hk : x.kind = .rstream <;> simp [hk]

/-! ## The end of a transfer (R135, R358) -/

section
variable {s : State} {site ch : Nat} {x : Xfer}
  (hx : List.find? (fun (x : Xfer) => x.written && x.flagState != .sent) ((s.core site).chan ch).xfers = some x)
include hx

theorem exec_transferComplete_flags (hr : x.rel.isSome = true) (hf : x.dst.flag ≠ 0) (ht : x.flagState = .todo) :
    exec (.transferComplete site ch) s = .next (s.addFlag site ch x) := by
  simp only [exec_transferComplete, execTransferComplete, hx]
  rw [hr, ht, bne_iff_ne.mpr hf]
  rfl

theorem exec_transferComplete_ends (h : x.rel = none ∨ x.dst.flag = 0 ∨ x.flagState ≠ .todo) :
    exec (.transferComplete site ch) s = .next (s.xferDone site ch x) := by
  simp only [exec_transferComplete, execTransferComplete, hx]
  rcases h with h | h | h <;> simp [h]

end

/-- done stands still when the next id has not completed. -/
theorem advance_of_not_early (k : Chan) (fuel : Nat) (h : k.early.contains k.done = false) : k.advance fuel = k := by
  cases fuel with
  | zero => rfl
  | succ fuel => rw [Chan.advance, h, if_neg Bool.false_ne_true]

/-- A transfer that completes in order moves done on by one, and leaves its channel (R358). -/
theorem finish_inOrder {k : Chan} {x : Xfer} (hid : x.id = k.done) (h0 : k.early.contains x.id = false)
    (h1 : k.early.contains (x.id + 1) = false) : (k.finish x false).done = k.done + 1
      ∧ (∀ y ∈ (k.finish x false).xfers, y.id ≠ x.id) ∧ (k.finish x false).early = k.early := by
  have hback : (k.early ++ [x.id]).erase x.id = k.early := by
    rw [List.erase_append_right _ (by simpa using h0), List.erase_cons_head, List.append_nil]
  have hnow : (k.early ++ [x.id]).contains x.id = true := by simp
  simp only [Chan.finish, List.length_append, List.length_singleton, Chan.advance, ← hid, hnow, if_true, hback]
  rw [advance_of_not_early _ _ h1]
  refine ⟨rfl, fun y hy => ?_, rfl⟩
  simpa using (List.mem_filter.mp hy).2

/-- Settles O48: a reply and an acknowledgement run their own events, a channel's sender the copy engine's cases, a landing is the oldest of
those that may be written, and a completed transfer moves done on. -/
theorem repliesAndCopiesRunToTheirEnd : Obligations.RepliesAndCopiesRunToTheirEnd := by
  unfold Obligations.RepliesAndCopiesRunToTheirEnd
  refine ⟨fun s part ep f s1 p ht hp => ?replies, ?contexts, ?requests, nextReqFrom_oneBlock,
    fun s site x base first els a d hmem hone => piecesOf_onePlace hmem hone,
    fun s site ch p x hp hx hf hpos => ⟨exec_streamRefill_waits hp hx, exec_streamRefill_asks hp hx hf hpos⟩,
    fun s p ep l h => ?landing, fun s p ep l h => ?order,
    fun s site x srcs dsts h d hd e he hage => reqWaits_false_holdsBack h hd he hage,
    fun s site m k l x hx ha => ackLanding_written hx ha,
    fun s site ch x hx => ⟨exec_transferComplete_flags hx, exec_transferComplete_ends hx⟩,
    fun k x hid h0 h1 => finish_inOrder hid h0 h1⟩
  case replies =>
    refine ⟨fun b st m y r hb => exec_dataReply_data ht hp hb, fun r q hb => exec_acknowledgement_ack ht hp hb,
      fun v r d o hctx ho => ?_, fun l k p0 hp0 hb => exec_landing_arrives ht hp0 hb,
      fun k l q hb => exec_landingAck_written ht hp hb, fun k q c hs hb => exec_landingAck_refused ht hp hs hb⟩
    rw [logReply_operation hctx ho]
    cases r <;> rfl
  case contexts =>
    rintro s site n f a o rfl hid ho
    exact ⟨fun d sz sx l => dataToCtx_load hid ho, fun g l q y z w v => dataToCtx_geta hid ho⟩
  case requests =>
    intro s site ch p x hp hx hf hw
    exact ⟨fun d => exec_copyRequest_opens hp hx hf hw, fun ho => ⟨exec_copyRequest_drains hp hx hf hw ho,
      fun hk y at' l => exec_copyRequest_next hp hx hf hw ho hk⟩⟩
  case landing =>
    refine ⟨fun hslot => ?_, fun x hslot hep hx => ⟨fun ha => ?_, fun ha t q r hw => ?_⟩,
      fun o hslot hep ho => ⟨fun hg => ?_, fun hg t q r hw => ?_⟩⟩
    · cases ht : s.homeStoreAll p l.vint (l.pieces.flatMap fun e => linePieces 8 e.1 e.2) with
      | done t => exact landOne_slot_done h hslot ht
      | full t => exact landOne_slot_full h hslot ht
      | wait t => exact landOne_slot_wait h hslot ht
    · exact landOne_dropped h hslot ((dropsLanding_own hslot hep hx).trans ha)
    · exact landOne_written h hslot ((dropsLanding_own hslot hep hx).trans ha) hw
    · exact landOne_dropped h hslot ((dropsLanding_remote hslot hep ho).trans (Option.isSome_iff_ne_none.mpr hg))
    · exact landOne_written h hslot ((dropsLanding_remote hslot hep ho).trans (by rw [hg]; rfl)) hw
  case order =>
    obtain ⟨hin, -, hold⟩ := nextLanding_spec h
    exact ⟨hin, hold, fun x hslot hep hx ha hk hw => nextLanding_own_inOrder h hslot hep hx ha hk hw, nextLanding_remote_open h⟩

end Sys2Proof.Transfers
end

section
/-!
PROOFS. Continuation records (R209, R212, R216, R221, R236-R240): the bytes of a record read back, and what each operation makes of a
record at its home.
-/

namespace Sys2Proof.Records

open Sys2Proof.Machine Sys2Proof.Accesses

/-! ## The bytes of a record (R209) -/

theorem leNat_leBytes (n v : Nat) : leNat (leBytes n v) = v % 256 ^ n := by
  induction n generalizing v with
  | zero => simp [leBytes, leNat, Nat.mod_one]
  | succ n ih => exact (congrArg (v % 256 + 256 * ·) (ih (v / 256))).trans (by rw [Nat.pow_succ', Nat.mod_mul])

theorem flatMap_leBytes_length (l : List Nat) : (l.flatMap (leBytes 8)).length = 8 * l.length := by
  induction l with
  | nil => rfl
  | cons w l ih => rw [List.flatMap_cons, List.length_append, ih, leBytes_length, List.length_cons]; omega

/-- Words laid out one after the other read back, each as its low 64 bits. -/
theorem wordAt_flatMap {l : List Nat} {i : Nat} (h : i < l.length) : wordAt (l.flatMap (leBytes 8)) i = l[i] % 2 ^ 64 := by
  induction l generalizing i with
  | nil => exact absurd h (Nat.not_lt_zero i)
  | cons w l ih =>
    cases i with
    | zero => simp [wordAt, List.take_left' (leBytes_length 8 w), leNat_leBytes]
    | succ i =>
      have hdrop : (leBytes 8 w ++ l.flatMap (leBytes 8)).drop (8 * (i + 1)) = (l.flatMap (leBytes 8)).drop (8 * i) := by
        rw [Nat.mul_succ, Nat.add_comm, ← List.drop_drop, List.drop_left' (leBytes_length 8 w)]
      rw [List.flatMap_cons, wordAt, hdrop]
      exact ih (Nat.lt_of_succ_lt_succ h)

/-- The first word of a record: the pc, the state and the continuation bit. -/
def firstWord (r : Rec) : Nat := r.pc.toNat + 2 ^ 56 * r.state.toNat + (if r.cont then 2 ^ 58 else 0)

/-- The last word of a record: the count, the hint, the region, the radius and the priority. -/
def lastWord (r : Rec) : Nat :=
  r.count.toNat + 2 ^ 16 * r.hint.toNat + 2 ^ 32 * r.region.toNat + 2 ^ 44 * r.radius.toNat + 2 ^ 48 * r.prio.toNat

/-- The eight words of a record. -/
def recWords (r : Rec) : List Nat := firstWord r :: (r.slots.toList.map BitVec.toNat ++ [lastWord r])

theorem recWords_length (r : Rec) : (recWords r).length = 8 := by simp [recWords]

theorem bytes_eq_recWords (r : Rec) : r.bytes = (recWords r).flatMap (leBytes 8) := by
  simp [Rec.bytes, recWords, firstWord, lastWord, List.flatMap_map]

theorem bytes_length (r : Rec) : r.bytes.length = 64 := by
  rw [bytes_eq_recWords, flatMap_leBytes_length, recWords_length]

theorem wordAt_bytes {r : Rec} {i : Nat} (h : i < 8) : wordAt r.bytes i = (recWords r)[i]'(by rwa [recWords_length]) % 2 ^ 64 := by
  rw [bytes_eq_recWords, wordAt_flatMap]

theorem sliceNat_eq {n lo w : Nat} {b : BitVec w} (h : n / 2 ^ lo % 2 ^ w = b.toNat) : sliceNat n lo w = b :=
  BitVec.eq_of_toNat_eq (by rw [sliceNat, BitVec.toNat_ofNat, h])

theorem firstWord_bytes (r : Rec) : wordAt r.bytes 0 = firstWord r := by
  have hpc := r.pc.isLt
  have hstate := r.state.isLt
  have hcont : (if r.cont then 2 ^ 58 else 0) ≤ 2 ^ 58 := by split <;> omega
  rw [wordAt_bytes (by omega)]
  refine Nat.mod_eq_of_lt (?_ : firstWord r < _)
  rw [firstWord]
  omega

theorem lastWord_bytes (r : Rec) : wordAt r.bytes 7 = lastWord r := by
  have hcount := r.count.isLt
  have hhint := r.hint.isLt
  have hregion := r.region.isLt
  have hradius := r.radius.isLt
  have hprio := r.prio.isLt
  rw [wordAt_bytes (by omega)]
  have hlast : (recWords r)[7]'(by rw [recWords_length]; omega) = lastWord r := by simp [recWords]
  rw [hlast]
  refine Nat.mod_eq_of_lt ?_
  rw [lastWord]
  omega

theorem slot_bytes (r : Rec) (i : Fin 6) : BitVec.ofNat 64 (wordAt r.bytes (i.val + 1)) = r.slots[i] := by
  rw [wordAt_bytes (by omega)]
  have hslot : (recWords r)[i.val + 1]'(by rw [recWords_length]; omega) = r.slots[i].toNat := by
    simp [recWords, List.getElem_append_left]
  rw [hslot, Nat.mod_eq_of_lt (r.slots[i]).isLt, BitVec.ofNat_toNat, BitVec.setWidth_eq]

theorem fields_firstWord (r : Rec) : sliceNat (firstWord r) 0 56 = r.pc ∧ sliceNat (firstWord r) 56 2 = r.state
    ∧ decide (firstWord r / 2 ^ 58 % 2 = 1) = r.cont := by
  have hpc := r.pc.isLt
  have hstate := r.state.isLt
  unfold firstWord
  cases r.cont
  all_goals
    simp only [if_true, Bool.false_eq_true, if_false, decide_eq_true_eq, decide_eq_false_iff_not]
    exact ⟨sliceNat_eq (by omega), sliceNat_eq (by omega), by omega⟩

theorem fields_lastWord (r : Rec) : sliceNat (lastWord r) 0 16 = r.count ∧ sliceNat (lastWord r) 16 16 = r.hint
    ∧ sliceNat (lastWord r) 32 12 = r.region ∧ sliceNat (lastWord r) 44 4 = r.radius ∧ sliceNat (lastWord r) 48 7 = r.prio := by
  have hcount := r.count.isLt
  have hhint := r.hint.isLt
  have hregion := r.region.isLt
  have hradius := r.radius.isLt
  have hprio := r.prio.isLt
  unfold lastWord
  exact ⟨sliceNat_eq (by omega), sliceNat_eq (by omega), sliceNat_eq (by omega), sliceNat_eq (by omega), sliceNat_eq (by omega)⟩

/-- The 64 bytes of a record read back as the record. -/
theorem recOf_bytes (r : Rec) : recOf r.bytes = r := by
  obtain ⟨hpc, hstate, hcont⟩ := fields_firstWord r
  obtain ⟨hcount, hhint, hregion, hradius, hprio⟩ := fields_lastWord r
  have hslots : (Vector.ofFn fun (i : Fin 6) => BitVec.ofNat 64 (wordAt r.bytes (i.val + 1))) = r.slots := by
    ext i hi
    rw [Vector.getElem_ofFn, slot_bytes r ⟨i, hi⟩]
    rfl
  simp only [recOf, firstWord_bytes, lastWord_bytes, hslots, hpc, hstate, hcont, hcount, hhint, hregion, hradius, hprio]

/-! ## The operations at a record's home (R236-R240, R216, R221) -/

section
variable {regs : List Region} {r : Rec}

/-! SPAWN (R236): the state, the region, the hint and the pc are looked at in this order. -/

section
variable {hint : BitVec 16} {radius : BitVec 4} {prio : Option (BitVec 7)} {region : BitVec 32} {lcn : Nat}

/-- The hint that a SPAWN leaves in its record: all ones stand for the issuer's LCN. -/
def spawnHint (hint : BitVec 16) (lcn : Nat) : BitVec 16 := if hint = 0xFFFF then BitVec.ofNat 16 lcn else hint

theorem run_spawn_notIdle (hs : r.state ≠ recIdle) :
    (RecOp.spawn hint radius prio region lcn).run regs r = ⟨none, 1, none, false⟩ := by
  rw [RecOp.run, if_pos hs]

section
variable (hs : r.state = recIdle)
include hs

theorem run_spawn_otherRegion
    (hr : regs.length ≤ r.region.toNat ∨ descends regs region.toNat regs.length r.region.toNat = false) :
    (RecOp.spawn hint radius prio region lcn).run regs r = ⟨none, 2, none, false⟩ := by
  rw [RecOp.run, if_neg (not_not_intro hs), if_pos (by simpa using hr)]

variable {g : Region} (hg : regs[r.region.toNat]? = some g)
  (hd : descends regs region.toNat regs.length r.region.toNat = true)
include hg hd

/-- In a region that the issuer may use the hint and the pc are left to look at. -/
theorem run_spawn_region : (RecOp.spawn hint radius prio region lcn).run regs r
    = if g.cores ≤ (spawnHint hint lcn).toNat then ⟨none, 3, none, false⟩
      else if r.pc.toNat % 4 ≠ 0 then ⟨none, 4, none, false⟩
      else { r with hint := spawnHint hint lcn, radius := radius, prio := prio.getD g.prio }.release := by
  obtain ⟨hlen, -⟩ := List.getElem?_eq_some_iff.mp hg
  rw [RecOp.run, if_neg (not_not_intro hs), if_neg (by simp [hd, hlen])]
  simp only [hg]
  rfl

theorem run_spawn_hint (hc : g.cores ≤ (spawnHint hint lcn).toNat) :
    (RecOp.spawn hint radius prio region lcn).run regs r = ⟨none, 3, none, false⟩ := by
  rw [run_spawn_region hs hg hd, if_pos hc]

variable (hc : (spawnHint hint lcn).toNat < g.cores)
include hc

theorem run_spawn_pc (hpc : r.pc.toNat % 4 ≠ 0) :
    (RecOp.spawn hint radius prio region lcn).run regs r = ⟨none, 4, none, false⟩ := by
  rw [run_spawn_region hs hg hd, if_neg (Nat.not_le.mpr hc), if_pos hpc]

theorem run_spawn_releases (hpc : r.pc.toNat % 4 = 0) : (RecOp.spawn hint radius prio region lcn).run regs r
    = { r with hint := spawnHint hint lcn, radius := radius, prio := prio.getD g.prio }.release := by
  rw [run_spawn_region hs hg hd, if_neg (Nat.not_le.mpr hc), if_neg (not_not_intro hpc)]

end
end

/-! DECR (R237) and DEPADD (R238). -/

theorem run_decr_zero (hc : r.count = 0) : RecOp.decr.run regs r = ⟨none, 0, some causeProt, false⟩ := by
  rw [RecOp.run, if_pos hc]

theorem run_decr_counts (hc : r.count ≠ 0) (h : r.count ≠ 1 ∨ r.state ≠ recWaiting) :
    RecOp.decr.run regs r = ⟨some { r with count := r.count - 1 }, 0, none, false⟩ := by
  have hstays : ¬(r.count - 1 = 0 ∧ r.state = recWaiting) := by
    rintro ⟨hzero, hwaiting⟩
    have hone : r.count = 1 := by bv_omega
    exact h.elim (· hone) (· hwaiting)
  rw [RecOp.run, if_neg hc]
  exact if_neg hstays

theorem run_decr_releases (hc : r.count = 1) (hs : r.state = recWaiting) :
    RecOp.decr.run regs r = ⟨some { r with count := 0, state := recReady }, 0, none, true⟩ := by
  rw [RecOp.run, if_neg (by simp [hc])]
  simp only [hc, hs]
  rfl

theorem run_depadd_refused {amount : BitVec 16} (h : r.state = recReady ∨ 65535 < r.count.toNat + amount.toNat) :
    (RecOp.depadd amount).run regs r = ⟨none, 0, some causeProt, false⟩ := by
  rw [RecOp.run, if_pos h]

theorem run_depadd_adds {amount : BitVec 16} (hs : r.state ≠ recReady) (hc : r.count.toNat + amount.toNat ≤ 65535) :
    (RecOp.depadd amount).run regs r = ⟨some { r with count := r.count + amount }, 0, none, false⟩ := by
  rw [RecOp.run, if_neg (not_or.mpr ⟨hs, Nat.not_lt.mpr hc⟩)]

theorem count_add_toNat {c amount : BitVec 16} (h : c.toNat + amount.toNat ≤ 65535) :
    (c + amount).toNat = c.toNat + amount.toNat := by
  rw [BitVec.toNat_add, Nat.mod_eq_of_lt (by omega)]

end

/-- Settles O32: the bytes of a record are its words, and each operation is the case of its rule. -/
theorem recordOperationsFollowTheirRules : Obligations.RecordOperationsFollowTheirRules := by
  unfold Obligations.RecordOperationsFollowTheirRules
  intro regs r hint radius prio region lcn amount pc slots o h no refuse released
  have hadds : r.state ≠ 2 → r.count.toNat + amount.toNat ≤ 65535 →
      ∃ q, (RecOp.depadd amount).run regs r = ⟨some q, 0, none, false⟩
        ∧ q.count.toNat = r.count.toNat + amount.toNat ∧ q = { r with count := q.count } :=
    fun hs hc => ⟨_, run_depadd_adds hs hc, count_add_toNat hc, rfl⟩
  exact ⟨recOf_bytes r, bytes_length r, run_spawn_notIdle, run_spawn_otherRegion,
    fun g hs hg hd => ⟨run_spawn_hint hs hg hd, run_spawn_pc hs hg hd, run_spawn_releases hs hg hd⟩,
    run_decr_zero, run_decr_counts, run_decr_releases, run_depadd_refused, hadds, rfl, rfl, rfl⟩

end Sys2Proof.Records
end

section
/-!
PROOFS. SPAWN, DECR and DEPADD (R210, R211, R217, R236-R238): the home of a record address, and a record operation that is performed
there at once or sent there.
-/

namespace Sys2Proof.RecordWords

open Sys2Proof.Machine Sys2Proof.Accesses

/-! ## The home of a record address (R119, R210) -/

section
variable {s : State} {c : Ctx} {ea va : Addr} (hva : ownLocal (s.lcn s.cur.1) ea = va)
include hva

theorem recAddr_misaligned (h : va.toNat % 64 ≠ 0) : s.recAddr c ea = .fault causeMisalign := by
  simp [State.recAddr, hva, aligned, h]

section
variable (h : va.toNat % 64 = 0)
include h

section
variable (hlo : 0x10000000 ≤ va.toNat) (hhi : va.toNat < 0x11000000)
include hlo hhi

/-- In the own raw window the home is a declared buffer of the core. -/
theorem recAddr_raw : s.recAddr c ea = if (s.myCore.bufAt c.vintage (va.toNat - 0x10000000) 64).isSome then
    .home (.here (va.toNat - 0x10000000)) (scrRecAddr (s.lcn s.cur.1) (va.toNat - 0x10000000)) else .fault causeProt := by
  simp only [State.recAddr, hva, aligned, h, spaceOf_local (show va.toNat < 2 ^ 48 by omega), placeOfLocal_raw hlo hhi]
  rfl

theorem recAddr_undeclared (hb : s.myCore.bufAt c.vintage (va.toNat - 0x10000000) 64 = none) :
    s.recAddr c ea = .fault causeProt := by
  rw [recAddr_raw hva h hlo hhi, hb]
  rfl

theorem recAddr_declared {q : Nat × Buf} (hb : s.myCore.bufAt c.vintage (va.toNat - 0x10000000) 64 = some q) :
    s.recAddr c ea = .home (.here (va.toNat - 0x10000000)) (scrRecAddr (s.lcn s.cur.1) (va.toNat - 0x10000000)) := by
  rw [recAddr_raw hva h hlo hhi, hb]
  rfl

end

/-- In another core's raw window the home is that core. -/
theorem recAddr_remote {o : Nat} (hspace : spaceOf va = .remote) (hlcn : remoteLcn va < s.ncores s.cur.1)
    (hplace : placeOfLocal (remoteLocal va) = .win 0 o) : s.recAddr c ea = .home (.core (remoteLcn va) o) va := by
  simp only [State.recAddr, hva, aligned, h, hspace, if_neg (Nat.not_le.mpr hlcn), hplace]
  rfl

end
end

/-! ## A record operation of the executing context -/

/-- The context with a record operation counted: a SPAWN's register pends until its answer. -/
def opStarted (c : Ctx) (k : Cnt) (ea : Addr) : Option Reg → Ctx
  | some d => (c.startOp k ea false true (.spawn d)).await d
  | none => c.startOp k ea false true .recop

/-- The state in which a record operation has been performed in the own scratchpad and answered. -/
def performed (s : State) (c c1 : Ctx) (off : Nat) (o : RecOp) : State :=
  let r := (s.setMe c1.advance).recAtScr s.cur.1 c.vintage off o (s.lcn s.cur.1) 0
  r.1.complete s.cur.1 s.cur.2 c.issued { refused := r.2.refused, status := r.2.status }

/-- The state in which a record operation has been sent to another core. -/
def sent (s : State) (c c1 : Ctx) (tag lcn off : Nat) (canon : Addr) (o : RecOp) : State :=
  (s.setMe c1.advance).sendFromCore s.cur.1 lcn s.cur.2 c.issued tag c.vintage (.recop (.core off) canon o)

section
variable {s : State} {c : Ctx} {k : Cnt} {ea canon : Addr} {o : RecOp}

section
variable (hacq : c.acquiring = false) (hk : c.cnt k < 63)
include hacq hk

theorem startRecOp_here (d : Option Reg) {off : Nat} :
    startRecOp s c d k (.here off) canon ea o = .next (performed s c (opStarted c k ea d) off o) := by
  cases d <;> simp [startRecOp, hacq, Ctx.canCount, hk, performed, opStarted]

theorem startRecOp_core (d : Option Reg) {lcn off : Nat} (hsend : s.coreCanSend s.cur.1 lcn = true) :
    startRecOp s c d k (.core lcn off) canon ea o
      = .next (sent s c (opStarted c k ea d) ((d.map (·.toNat)).getD 0) lcn off canon o) := by
  cases d with
  | some d => simpa [startRecOp, hacq, sent, opStarted] using sendRequest_some d ea false true (.spawn d) _ hk hsend
  | none => simpa [startRecOp, hacq, sent, opStarted] using sendRequest_none ea false true .recop _ hk hsend

end

section
variable {d : Option Reg} {waits : Bool}

theorem recordOp_faults {cause : BitVec 5} (h : s.recAddr c ea = .fault cause) :
    recordOp s c d k ea waits o = .next (s.trap cause ea) := by
  simp only [recordOp, h]

section
variable {home : RecHome} (h : s.recAddr c ea = .home home canon)
include h

/-- The order of R217 holds the word back while an earlier operation of the context is not performed. -/
theorem recordOp_waits (hr : s.recordReady s.cur.1 s.cur.2 = false) : recordOp s c d k ea true o = .next s := by
  simp [recordOp, h, hr]

theorem recordOp_ready (hr : s.recordReady s.cur.1 s.cur.2 = true) :
    recordOp s c d k ea waits o = startRecOp s c d k home canon ea o := by
  simp [recordOp, h, hr]

theorem recordOp_unordered : recordOp s c d k ea false o = startRecOp s c d k home canon ea o := by
  simp only [recordOp, h]
  rfl

end
end
end

/-! ## The three words -/

section
variable {d a b : Reg} {s : State} {x y : Word} {c : Ctx}

theorem exec_spawn_issues (h : Issues s { mod := true, prio := true } [a, b] [d] true false false [x, y] c) :
    exec (.spawn d a b) s = recordOp s c (some d) .ld (BitVec.ofNat 56 x.toNat) true
      (.spawn (BitVec.ofNat 16 y.toNat) (BitVec.ofNat 4 (y.toNat / 2 ^ 16)) c.hintPrio c.region (s.lcn s.cur.1)) := by
  have hradius : (y >>> 16).setWidth 4 = BitVec.ofNat 4 (y.toNat / 2 ^ 16) := by
    rw [← BitVec.ofNat_toNat, BitVec.toNat_ushiftRight, Nat.shiftRight_eq_div_pow]
  rw [exec_spawn, execSpawn, issueWord_issues _ h, BitVec.ofNat_toNat, BitVec.ofNat_toNat, ← hradius]
  rfl

theorem exec_decr_issues (h : Issues s noHints [a] [] true false false [x] c) :
    exec (.decr a) s = recordOp s c none .st (BitVec.ofNat 56 x.toNat) true .decr := by
  rw [exec_decr, execDecr, issueWord_issues _ h, BitVec.ofNat_toNat]
  rfl

theorem exec_depadd_issues (h : Issues s noHints [a, b] [] true false false [x, y] c) :
    exec (.depadd a b) s = recordOp s c none .st (BitVec.ofNat 56 x.toNat) false (.depadd (BitVec.ofNat 16 y.toNat)) := by
  rw [exec_depadd, execDepadd, issueWord_issues _ h, BitVec.ofNat_toNat, BitVec.ofNat_toNat]
  rfl

end

/-- Settles O33: the words run their operation by the home that their address has. -/
theorem recordWordsReachTheirRecord : Obligations.RecordWordsReachTheirRecord := by
  unfold Obligations.RecordWordsReachTheirRecord
  intro d a b s x y c ea site n lcn va sp de da spawn add ready
  have hsp : sp → exec (.spawn d a b) s = recordOp s c (some d) .ld ea true spawn := exec_spawn_issues
  have hde : de → exec (.decr a) s = recordOp s c none .st ea true .decr := exec_decr_issues
  have hda : da → exec (.depadd a b) s = recordOp s c none .st ea false add := exec_depadd_issues
  have hfault : ∀ cause, s.recAddr c ea = .fault cause → (sp → exec (.spawn d a b) s = .next (s.trap cause ea))
      ∧ (de → exec (.decr a) s = .next (s.trap cause ea)) ∧ (da → exec (.depadd a b) s = .next (s.trap cause ea)) :=
    fun cause haddr => ⟨fun h => (hsp h).trans (recordOp_faults haddr), fun h => (hde h).trans (recordOp_faults haddr),
      fun h => (hda h).trans (recordOp_faults haddr)⟩
  refine ⟨fun hmis => hfault _ (recAddr_misaligned rfl hmis), ?own, ?other⟩
  case own =>
    intro hal hlo hhi hacq off done
    refine ⟨fun hb => hfault _ (recAddr_undeclared rfl hal hlo hhi hb), fun q hb => ?_⟩
    have haddr := recAddr_declared rfl hal hlo hhi hb
    refine ⟨fun h hr hld => ?_, fun h hr hst => ?_, fun h hst => ?_,
      fun h hr => (hsp h).trans (recordOp_waits haddr hr), fun h hr => (hde h).trans (recordOp_waits haddr hr)⟩
    · rw [hsp h, recordOp_ready haddr hr]
      exact startRecOp_here (k := .ld) hacq hld (some d)
    · rw [hde h, recordOp_ready haddr hr]
      exact startRecOp_here (k := .st) hacq hst none
    · rw [hda h, recordOp_unordered haddr]
      exact startRecOp_here (k := .st) hacq hst none
  case other =>
    intro o hal hspace hlcn hplace hacq hsend sent
    have haddr := recAddr_remote (s := s) (c := c) rfl hal hspace hlcn hplace
    refine ⟨fun h hr hld => ?_, fun h hr hst => ?_, fun h hst => ?_⟩
    · rw [hsp h, recordOp_ready haddr hr]
      exact startRecOp_core (k := .ld) hacq hld (some d) hsend
    · rw [hde h, recordOp_ready haddr hr]
      exact startRecOp_core (k := .st) hacq hst none hsend
    · rw [hda h, recordOp_unordered haddr]
      exact startRecOp_core (k := .st) hacq hst none hsend

end Sys2Proof.RecordWords
end

section
/-!
PROOFS. TSELF, SUSPEND, EXIT and YIELD (R214, R215, R239-R242, R252): the word of a task that ends, waits or gives way, and where it
leaves its context.
-/

namespace Sys2Proof.TaskWords

open Sys2Proof.Machine

/-- TSELF writes the task's record address (R242). -/
theorem tself_writes (d : Reg) : Writes (.tself d) noHints [] d true (fun _ e => BitVec.ofNat 64 e.task.toNat) := by
  intro s vs c h
  rw [exec_tself, execTself, aluOp, issueWord_issues _ h]
  simp only [BitVec.ofNat_toNat]

section
variable {s : State} {c : Ctx}

/-! ## SUSPEND and YIELD -/

section
variable (h : Issues s noHints [] [] true false false [] c)
include h

/-- SUSPEND needs a record (R215). -/
theorem exec_suspend_noRecord (ht : c.task = 0) : exec .suspend s = .next (s.trap causeProt 0) := by
  rw [exec_suspend, execSuspend, issueWord_issues _ h]
  exact if_pos ht

theorem exec_suspend_stands (ht : c.task ≠ 0) : exec .suspend s = suspendWith s c (.suspend (c.pc + 4)) := by
  rw [exec_suspend, execSuspend, issueWord_issues _ h]
  exact if_neg ht

/-! YIELD goes by what holds its context (R241): nothing yet, its query, or the query's answer. -/

theorem exec_yield_asks (hh : s.me.hold = .none) :
    exec .yield s = .next ((s.setMe { s.me with hold := .yield }).due (.yieldQuery s.cur.1 s.cur.2)) := by
  rw [exec_yield, execYield, issueWord_issues _ h]
  simp only [hh]

theorem exec_yield_waits (hh : s.me.hold = .yield) : exec .yield s = .next s := by
  rw [exec_yield, execYield, issueWord_issues _ h]
  simp only [hh]

theorem exec_yield_stands (hh : s.me.hold = .yieldDone true) : exec .yield s = suspendWith s c (.yields (c.pc + 4)) := by
  rw [exec_yield, execYield, issueWord_issues _ h]
  simp only [hh]

theorem exec_yield_goesOn (hh : s.me.hold = .yieldDone false) : exec .yield s = .next (s.setMe c.advance) := by
  rw [exec_yield, execYield, issueWord_issues _ h]
  simp only [hh]

end

/-! ## EXIT -/

/-- EXIT ends its task, or in a trap handler the task's fault domain (R240, R252), whose record has sys.cause and sys.fstep as at the
EXIT (log entry 70). -/
theorem exec_exit_stands {a : Reg} {x : Word} (h : Issues s noHints [a] [] true false false [x] c) : exec (.exit a) s
    = if c.tact then suspendWith s c (.ending false c.cause c.tepc c.tfaddr c.fstep)
      else suspendWith s c (.exit (BitVec.ofNat 32 x.toNat)) := by
  rw [exec_exit, execExit, issueWord_issues _ h, BitVec.ofNat_toNat]
  rfl

end

/-- Settles O34: each word leaves its context at the suspension point of its rule, or where the query of a YIELD puts it. -/
theorem taskWordsSuspendExitAndYield : Obligations.TaskWordsSuspendExitAndYield := by
  unfold Obligations.TaskWordsSuspendExitAndYield
  intro d a s x c none' site n stands
  exact ⟨tself_writes d, fun h => ⟨exec_suspend_noRecord h, exec_suspend_stands h⟩, exec_exit_stands,
    fun h => ⟨exec_yield_asks h, exec_yield_waits h, exec_yield_stands h, exec_yield_goesOn h⟩⟩

end Sys2Proof.TaskWords
end

section
/-!
PROOFS. Carriages at a router (R220-R222, R254, R266) and the district ready pools (R223, R224, R230, R241, R262): whom a carriage is
offered to, the order of a pool's queue, and how a pool answers a pull and a YIELD.
-/

namespace Sys2Proof.ReadyPools

open Sys2Proof.Machine

/-! ## Carriages at a router -/

section
variable {s : State} {site : Nat} {p : Part} {held : Held} {f : Flit} {k : Carr} (hp : s.partAt site = some p)
  (hcarr : (s.router site).carriage site = some held) (hheld : s.heldCarriage p site held = (f, k))
include hp hcarr hheld

theorem exec_carriage_killed (hd : (s.router site).discard.contains k.vint = true) : exec (.carriage .request site) s
    = .next (s.setRouter site ((s.router site).settleCarriage held site false)) := by
  simp only [exec_carriage, execCarriage, if_true, hcarr, hp, hheld, hd]

section
variable (hd : (s.router site).discard.contains k.vint = false)
include hd

theorem exec_carriage_accepted {n : Nat} (he : s.eligible site none k = true) (hn : (s.core site).idleCtx = some n) :
    exec (.carriage .request site) s
      = .next ((s.setRouter site ((s.router site).settleCarriage held site false)).accept site n k) := by
  simp only [exec_carriage, execCarriage, if_true, hcarr, hp, hheld, hd, Bool.false_eq_true, if_false, he, hn]

section
variable (he : s.eligible site none k = false)
include he

theorem exec_carriage_unaccepted : exec (.carriage .request site) s
    = if f.dsite = site ∧ !f.park then
        if p.domainOver k then
          .next ((s.setRouter site ((s.router site).settleCarriage held site false)).updCore site fun c => c.endedOne k.vint 0)
        else .next ((s.setRouter site ((s.router site).settleCarriage held site false)).toPool p.lead k)
      else .next ((s.setRouter site ((s.router site).settleCarriage held site true)).due (.flitRouting .request site)) := by
  simp only [exec_carriage, execCarriage, if_true, hcarr, hp, hheld, hd, Bool.false_eq_true, if_false, he]

section
variable (hsite : f.dsite = site) (hpark : f.park = false)
include hsite hpark

theorem exec_carriage_ended (ho : p.domainOver k = true) : exec (.carriage .request site) s
    = .next ((s.setRouter site ((s.router site).settleCarriage held site false)).updCore site fun c => c.endedOne k.vint 0) := by
  rw [exec_carriage_unaccepted hp hcarr hheld hd he, if_pos ⟨hsite, by rw [hpark]; rfl⟩, if_pos ho]

theorem exec_carriage_pooled (ho : p.domainOver k = false) : exec (.carriage .request site) s
    = .next ((s.setRouter site ((s.router site).settleCarriage held site false)).toPool p.lead k) := by
  rw [exec_carriage_unaccepted hp hcarr hheld hd he, if_pos ⟨hsite, by rw [hpark]; rfl⟩, if_neg (by simp [ho])]

end

theorem exec_carriage_routedOn (hon : f.dsite ≠ site ∨ f.park = true) : exec (.carriage .request site) s
    = .next ((s.setRouter site ((s.router site).settleCarriage held site true)).due (.flitRouting .request site)) := by
  rw [exec_carriage_unaccepted hp hcarr hheld hd he, if_neg (by simpa [Decidable.imp_iff_not_or] using hon)]

end
end
end

/-! ## The order of a pool's queue (R223, R224) -/

/-- A later arrival passes an entry of a lower priority alone. -/
theorem insertEntry_cons_later {e x : PoolEntry} (l : List PoolEntry) (h : x.seq < e.seq) : insertEntry e (x :: l)
    = if e.carr.r.prio ≤ x.carr.r.prio then x :: insertEntry e l else e :: x :: l := by
  have hpasses : (x.carr.r.prio < e.carr.r.prio ∨ x.carr.r.prio = e.carr.r.prio ∧ e.seq < x.seq)
      ↔ ¬e.carr.r.prio ≤ x.carr.r.prio := by
    rw [BitVec.not_le, or_iff_left fun hsame => Nat.lt_asymm h hsame.2]
  by_cases hprio : e.carr.r.prio ≤ x.carr.r.prio
  · rw [insertEntry, if_neg fun hpass => hpasses.mp hpass hprio, if_pos hprio]
  · rw [insertEntry, if_pos (hpasses.mpr hprio), if_neg hprio]

/-- An entry that arrived after all others stands behind those of its priority or a higher one. -/
theorem insertEntry_latest {e : PoolEntry} {l : List PoolEntry} (h : ∀ x ∈ l, x.seq < e.seq) : insertEntry e l
    = l.takeWhile (fun x => decide (e.carr.r.prio ≤ x.carr.r.prio))
      ++ e :: l.dropWhile fun x => decide (e.carr.r.prio ≤ x.carr.r.prio) := by
  induction l with
  | nil => rfl
  | cons x l ih =>
    obtain ⟨hx, hl⟩ := List.forall_mem_cons.mp h
    rw [insertEntry_cons_later l hx]
    by_cases hprio : e.carr.r.prio ≤ x.carr.r.prio
    · simp [hprio, ih hl]
    · simp [hprio]

/-! ## Arrivals and returns (R222-R224) -/

/-- The pool without its first arrival, which has taken the next arrival number. -/
def admitted (q : Pool) (rest : List Carr) : Pool := { q with arriving := rest, nextSeq := q.nextSeq + 1 }

section
variable {s : State} {part d : Nat} {p : Part} (hp : s.part? part = some p)
include hp

section
variable {k : Carr} {rest : List Carr} (ha : (p.pool d).arriving = k :: rest)
include ha

theorem exec_poolEntry_sent {r : PullReq}
    (hr : List.find? (fun (r : PullReq) => s.eligible r.site none k) (p.pool d).pulls = some r) :
    exec (.poolEntry part d) s = .next ((s.setPart part (p.setPool d { admitted (p.pool d) rest with
      pulls := (p.pool d).pulls.erase r,
      sent := (p.pool d).sent ++ [(r.site, ⟨(p.pool d).nextSeq, k, none⟩)] })).due (.poolPull r.site)) := by
  simp only [exec_poolEntry, execPoolEntry, hp, ha, hr, admitted]

theorem exec_poolEntry_queued (hr : ∀ r ∈ (p.pool d).pulls, s.eligible r.site none k = false) :
    exec (.poolEntry part d) s = .next ((s.setPart part (p.setPool d { admitted (p.pool d) rest with
      entries := insertEntry ⟨(p.pool d).nextSeq, k, none⟩ (p.pool d).entries })).callFor p d k) := by
  have hnone : List.find? (fun (r : PullReq) => s.eligible r.site none k) (p.pool d).pulls = none :=
    List.find?_eq_none.mpr fun r hmem => by simp [hr r hmem]
  simp only [exec_poolEntry, execPoolEntry, hp, ha, hnone, admitted]

end

section
variable {x : Nat × PoolEntry}
  (hx : List.find? (fun (x : Nat × PoolEntry) => (s.core x.1).pull.isNone || !s.eligible x.1 none x.2.carr) (p.pool d).sent
    = some x)
include hx

theorem exec_entryReturn_sent {r : PullReq}
    (hr : List.find? (fun (r : PullReq) => s.eligible r.site none x.2.carr) (p.pool d).pulls = some r) :
    exec (.entryReturn part d) s = .next ((s.setPart part (p.setPool d { (p.pool d) with
      sent := (p.pool d).sent.erase x ++ [(r.site, x.2)], pulls := (p.pool d).pulls.erase r })).due (.poolPull r.site)) := by
  simp only [exec_entryReturn, execEntryReturn, hp, hx, hr]

theorem exec_entryReturn_queued
    (hr : List.find? (fun (r : PullReq) => s.eligible r.site none x.2.carr) (p.pool d).pulls = none) :
    exec (.entryReturn part d) s = .next ((s.setPart part (p.setPool d { (p.pool d) with
      sent := (p.pool d).sent.erase x, entries := insertEntry x.2 (p.pool d).entries })).callFor p d x.2.carr) := by
  simp only [exec_entryReturn, execEntryReturn, hp, hx, hr]

end
end

/-! ## Pulls (R224, R241, R262): a pull and its pool's answer are one event (log entry 71) -/

section
variable {s : State} {site l n : Nat} {p : Part}

/-! A core without a pull, to which nothing was sent, takes an entry, restores its best image or has its pull recorded. -/

section
variable (hpull : (s.core site).pull = none) (hsent : (p.pool (l / 64)).sent.find? (fun x => x.1 == site) = none)
include hpull hsent

theorem pull_takes {e : PoolEntry} (hi : p.bestImage l = none)
    (he : s.first (p.pool (l / 64)) (fun e => s.eligible site none e.carr) = some e) : s.pull site p l n
      = ((s.setPart p.lead (p.setPool (l / 64) ((p.pool (l / 64)).without e.seq))).clearPull site).accept site n e.carr := by
  simp only [State.pull, hsent, hpull, Option.isSome_none, Bool.false_eq_true, if_false, hi, he]

theorem pull_recorded (hi : p.bestImage l = none)
    (he : s.first (p.pool (l / 64)) (fun e => s.eligible site none e.carr) = none) : s.pull site p l n
      = (s.setPart p.lead (p.setPool (l / 64) { (p.pool (l / 64)) with
          pulls := (p.pool (l / 64)).pulls ++ [⟨site, n⟩] })).updCore site fun c => { c with pull := some n } := by
  simp only [State.pull, hsent, hpull, Option.isSome_none, Bool.false_eq_true, if_false, hi, he]

theorem pull_restores {i : Image} (hi : p.bestImage l = some i)
    (he : s.first (p.pool (l / 64)) (fun e => decide (i.c.prio < e.carr.r.prio) && s.eligible site none e.carr) = none) :
    s.pull site p l n = s.due (.imageRestore site i.slot) := by
  simp only [State.pull, hsent, hpull, Option.isSome_none, Bool.false_eq_true, if_false, hi, he]

end

@[simp] theorem pool_setPool_same (p : Part) (d : Nat) (q : Pool) : (p.setPool d q).pool d = q :=
  Tbl.get_put_same _ _ _ _

/-- A recorded pull stands at its core and at the end of its pool's list. -/
theorem recorded_reads (q : Pool) :
    let t := (s.setPart p.lead (p.setPool (l / 64) q)).updCore site fun c => { c with pull := some n }
    (t.core site).pull = some n ∧ ∀ p', t.part? p.lead = some p' → p'.pool (l / 64) = q := by
  refine ⟨?_, fun p' hp' => ?_⟩
  · rw [State.updCore, State.core_setCore_same]
  · rw [State.updCore, State.part?_setCore, State.part?_setPart_same, Option.some.injEq] at hp'
    rw [← hp', pool_setPool_same]

section
variable (hp : s.partAt site = some p) (hl : s.lcnOf site = some l)
include hp hl

section
variable (hfenced : (s.core site).fenced = false) (hdrained : (s.core site).drained = false) (hdead : (s.core site).dead = false)
  (hstopped : (s.core site).stopped = false)
include hfenced hdrained hdead hstopped

theorem exec_poolPull_pulls (hidle : (s.core site).idleCtx = some n) (hpull : (s.core site).pull = none)
    (hyield : ∀ m < 8, ((s.core site).ctx m).occ ≠ .yielded) : exec (.poolPull site) s = .next (s.pull site p l n) := by
  have hnone : (List.range 8).find? (fun m => ((s.core site).ctx m).occ == .yielded) = none :=
    List.find?_eq_none.mpr fun m hm => by simpa using hyield m (List.mem_range.mp hm)
  have hfresh : (s.core site).pullStale = false := by rw [Core.pullStale, hpull]
  simp only [exec_poolPull, execPoolPull, hp, hl, hfenced, hdrained, hdead, hstopped, Bool.or_false, Bool.false_eq_true, if_false,
    hnone, hfresh, hidle]

/-- A context that yielded takes the entry that its query reserved (R241). -/
theorem exec_poolPull_yielded {e : PoolEntry}
    (hyield : (List.range 8).find? (fun m => ((s.core site).ctx m).occ == .yielded) = some n)
    (he : (p.pool (l / 64)).entries.find? (fun e => e.reserved == some (site, n)) = some e)
    (hel : s.eligible site (some n) e.carr = true) : exec (.poolPull site) s
      = .next (((s.updCtx site n fun x => { x with occ := .idle }).setPart p.lead
          (p.setPool (l / 64) ((p.pool (l / 64)).without e.seq))).accept site n e.carr) := by
  simp only [exec_poolPull, execPoolPull, hp, hl, hfenced, hdrained, hdead, hstopped, Bool.or_false, Bool.false_eq_true, if_false,
    hyield, State.takeYielded, he, hel, if_true]

end

theorem exec_pullWithdraw_busy {m : Nat} (hpull : (s.core site).pull = some m) (hbusy : ((s.core site).ctx m).occ ≠ .idle) :
    exec (.pullWithdraw site) s = .next ((s.withdraw site p l).due (.poolPull site)) := by
  have hstale : (s.core site).pullStale = true := by simpa [Core.pullStale, hpull] using hbusy
  simp only [exec_pullWithdraw, execPullWithdraw, hp, hl, hstale, if_true]

/-! ## The query of a YIELD (R241) -/

section
variable {ctx : Nat} (hhold : (s.ctx site ctx).hold = .yield)
include hhold

theorem exec_yieldQuery_reserves {e : PoolEntry} (ht : (s.ctx site ctx).task ≠ 0)
    (he : s.first (p.pool (l / 64)) (fun e =>
      decide ((s.ctx site ctx).prio ≤ e.carr.r.prio) && s.eligible site (some ctx) e.carr) = some e) :
    exec (.yieldQuery site ctx) s
      = .next ((s.setPart p.lead (p.setPool (l / 64) ((p.pool (l / 64)).reserve e.seq site ctx))).updCtx site ctx
          fun x => { x with hold := .yieldDone true }) := by
  simp only [exec_yieldQuery, execYieldQuery, hp, hl, hhold, ne_eq, not_true_eq_false, if_false, ht, he]

theorem exec_yieldQuery_denies (h : (s.ctx site ctx).task = 0 ∨ s.first (p.pool (l / 64)) (fun e =>
      decide ((s.ctx site ctx).prio ≤ e.carr.r.prio) && s.eligible site (some ctx) e.carr) = none) :
    exec (.yieldQuery site ctx) s = .next (s.updCtx site ctx fun x => { x with hold := .yieldDone false }) := by
  have hnone : (if (s.ctx site ctx).task = 0 then none else s.first (p.pool (l / 64)) fun e =>
      decide ((s.ctx site ctx).prio ≤ e.carr.r.prio) && s.eligible site (some ctx) e.carr) = none :=
    ite_eq_left_iff.mpr h.resolve_left
  simp only [exec_yieldQuery, execYieldQuery, hp, hl, hhold, ne_eq, not_true_eq_false, if_false, hnone]

end
end
end

/-! ## The obligation -/

/-- Settles O45: each event of a carriage or a pool is the case of its rule. -/
theorem carriagesReachACoreOrAPool : Obligations.CarriagesReachACoreOrAPool := by
  unfold Obligations.CarriagesReachACoreOrAPool
  refine ⟨?carriage, ?arrival, fun e l => insertEntry_latest, ?pull, ?returns, ?yield⟩
  case carriage =>
    intro s site p h f k hp hcarr hheld gone
    exact ⟨exec_carriage_killed hp hcarr hheld, fun hd => ⟨fun n => exec_carriage_accepted hp hcarr hheld hd,
      fun he => ⟨exec_carriage_ended hp hcarr hheld hd he, exec_carriage_pooled hp hcarr hheld hd he,
        exec_carriage_routedOn hp hcarr hheld hd he⟩⟩⟩
  case arrival =>
    intro s part d p k rest hp ha q e q1
    exact ⟨fun r => exec_poolEntry_sent hp ha, exec_poolEntry_queued hp ha⟩
  case pull =>
    intro s site l p hp hl c q
    refine ⟨fun n hf hdr hde hst hidle hpull hsent hyield => ?_,
      fun n e hf hdr hde hst => exec_poolPull_yielded hp hl hf hdr hde hst, fun m => exec_pullWithdraw_busy hp hl⟩
    have hnone : q.sent.find? (fun x => x.1 == site) = none :=
      List.find?_eq_none.mpr fun x hx => by simpa using hsent x hx
    rw [exec_poolPull_pulls hp hl hf hdr hde hst hidle hpull hyield]
    refine ⟨fun hi => ⟨fun e he => ?_, fun he => ?_⟩, fun i hi he => ?_⟩
    · rw [pull_takes hpull hnone hi he]
    · rw [pull_recorded hpull hnone hi he]
      obtain ⟨hcore, hpool⟩ := recorded_reads (s := s) (site := site) (l := l) (n := n) (p := p)
        { q with pulls := q.pulls ++ [⟨site, n⟩] }
      exact ⟨_, rfl, hcore, fun p' hp' => congrArg Pool.pulls (hpool p' hp')⟩
    · rw [pull_restores hpull hnone hi he]
  case returns =>
    intro s part d p x hp hx wants
    exact ⟨exec_entryReturn_queued hp hx, fun r => exec_entryReturn_sent hp hx⟩
  case yield =>
    intro s site ctx l p hp hl hhold c q may
    exact ⟨fun e => exec_yieldQuery_reserves hp hl hhold, exec_yieldQuery_denies hp hl hhold⟩

end Sys2Proof.ReadyPools
end

section
/-!
PROOFS. Traps (R244-R246, R250-R252): what taking a trap writes and what it leaves, the words TRAP and ERET, the HINT words, and
the words that are no instruction.
-/

namespace Sys2Proof.Traps

open Sys2Proof.Machine

/-! ## Taking a trap (R244, R245) -/

section
variable {s : State} {site n : Nat} {cause : BitVec 5} {faddr : Addr} {fstep : BitVec 32}

/-- With tact = 0 the context enters its handler, and sys.time is noted for its fault record. -/
theorem trapAt_enters (h : (s.ctx site n).tact = false) : s.trapAt site n cause faddr fstep
    = s.setCtx site n { (s.ctx site n).enterTrap cause faddr fstep with ttime := s.timeAt site } := by
  simp only [State.trapAt, State.updCtx, Ctx.takeTrap, h, Bool.false_eq_true, if_false]

/-- With tact = 1 the context's fault domain ends, and that end is due. -/
theorem trapAt_nested (h : (s.ctx site n).tact = true) : s.trapAt site n cause faddr fstep
    = (s.setCtx site n ((s.ctx site n).endNested cause faddr)).due (.suspensionPoint site n) := by
  simp only [State.trapAt, State.updCtx, Ctx.takeTrap, h, if_true]
  rfl

/-- The end of a fault domain by a trap in a handler: the record takes the entry's epc and faddr (R245, R253). -/
theorem endNested_hold {c : Ctx} (h : c.tact = true) :
    (c.endNested cause faddr).hold = .suspending (.ending true cause c.tepc c.tfaddr c.fstep) := by
  simp only [Ctx.endNested, h, if_true]

/-- A part of the machine that neither the writing of this context nor a due event concerns is as it was. -/
theorem trapAt_keeps {α : Type} (f : State → α) (hctx : ∀ x, f (s.setCtx site n x) = f s := by intro; rfl)
    (hdue : ∀ t i, f (t.due i) = f t := by intros; rfl) : f (s.trapAt site n cause faddr fstep) = f s := by
  cases h : (s.ctx site n).tact with
  | false => rw [trapAt_enters h, hctx]
  | true => rw [trapAt_nested h, hdue, hctx]

section
variable (hn : n < 8)
include hn

theorem ctx_trapAt_enters (h : (s.ctx site n).tact = false) : (s.trapAt site n cause faddr fstep).ctx site n
    = { (s.ctx site n).enterTrap cause faddr fstep with ttime := s.timeAt site } := by
  rw [trapAt_enters h, State.ctx_setCtx_same _ _ _ _ hn]

theorem ctx_trapAt_nested (h : (s.ctx site n).tact = true) :
    (s.trapAt site n cause faddr fstep).ctx site n = (s.ctx site n).endNested cause faddr := by
  rw [trapAt_nested h, State.ctx_due, State.ctx_setCtx_same _ _ _ _ hn]

/-- A part of the context that neither trap entry nor a nested end writes is as the completion of its scalar words leaves it (R145). -/
theorem ctx_trapAt_keeps {α : Type} (f : Ctx → α)
    (henter : ∀ (c : Ctx) time, f { c.enterTrap cause faddr fstep with ttime := time } = f c.drainScalar := by intros; rfl)
    (hend : ∀ c : Ctx, f (c.endNested cause faddr) = f c.drainScalar := by intro; rfl) :
    f ((s.trapAt site n cause faddr fstep).ctx site n) = f (s.ctx site n).drainScalar := by
  cases h : (s.ctx site n).tact with
  | false => rw [ctx_trapAt_enters hn h, henter]
  | true => rw [ctx_trapAt_nested hn h, hend]

end
end

/-- Settles O20: the two ways of `trapAt`, and what neither of them writes. -/
theorem trapEntrySavesAndEnters : Obligations.TrapEntrySavesAndEnters := by
  unfold Obligations.TrapEntrySavesAndEnters
  intro s site n cause faddr fstep hn c t d epc
  refine ⟨fun h => ?entry, fun h => ?record, fun h => ?nested, ctx_trapAt_keeps hn (·.due), ctx_trapAt_keeps hn (·.sb),
    fun r => ctx_trapAt_keeps hn (·.get r), ctx_trapAt_keeps hn (·.smode), ctx_trapAt_keeps hn (·.spos),
    ctx_trapAt_keeps hn (·.strm), ctx_trapAt_keeps hn (·.ld), ctx_trapAt_keeps hn (·.st), ctx_trapAt_keeps hn (·.cp),
    ctx_trapAt_keeps hn (·.tl), ctx_trapAt_keeps hn (·.sticky), ctx_trapAt_keeps hn (·.srstate), ctx_trapAt_keeps hn (·.tvec),
    ctx_trapAt_keeps hn (·.k), ctx_trapAt_keeps hn (·.task), ctx_trapAt_keeps hn (·.region), ctx_trapAt_keeps hn (·.vintage),
    fun site' n' hne => trapAt_keeps (·.ctx site' n') (State.ctx_setCtx_ne s site n site' n' · hne), trapAt_keeps (·.mem),
    trapAt_keeps (·.routers), trapAt_keeps (·.rims), trapAt_keeps (·.parts), trapAt_keeps (·.bands), trapAt_keeps (·.module)⟩
  case entry =>
    have hpending : t.pending = s.pending := (congrArg State.pending (trapAt_enters h)).trans rfl
    rw [show d = _ from ctx_trapAt_enters hn h]
    exact ⟨rfl, rfl, rfl, rfl, rfl, rfl, rfl, rfl, rfl, hpending⟩
  case record =>
    rw [show d = _ from ctx_trapAt_enters hn h]
    exact ⟨rfl, rfl, rfl⟩
  case nested =>
    have hpending : t.pending = s.pending ++ [.ev (.suspensionPoint site n)] := congrArg State.pending (trapAt_nested h)
    rw [show d = _ from ctx_trapAt_nested hn h]
    exact ⟨endNested_hold h, rfl, rfl, h, rfl, rfl, hpending⟩

/-! ## TRAP and ERET (R250, R251) -/

section
variable {s : State} {c : Ctx}

theorem exec_trap_traps {imm : BitVec 16} (h : Issues s noHints [] [] true false false [] c) :
    exec (.trap imm) s = .next (s.trap causeTrap (BitVec.ofNat 56 imm.toNat)) := by
  rw [exec_trap, execTrap, issueWord_issues _ h, BitVec.ofNat_toNat]

section
variable (h : Issues s noHints [] [] true true false [] c)
include h

theorem exec_eret_outside (ht : c.tact = false) : exec .eret s = .next (s.trap causeIllegal 0) := by
  simp only [exec_eret, execEret, issueWord_issues _ h, ht, Bool.not_false, if_true]

theorem exec_eret_returns (ht : c.tact = true) :
    exec .eret s = .next ((s.setMe c.returnFromTrap).resumeTile s.cur.1 s.cur.2) := by
  simp only [exec_eret, execEret, issueWord_issues _ h, ht, Bool.not_true, Bool.false_eq_true, if_false]

end

/-- Without a stopped tile command nothing starts again (R337). -/
theorem resumeTile_of_not_stuck {site n : Nat} (h : (s.core site).tileStuck n = false) : s.resumeTile site n = s := by
  simp only [State.resumeTile, h, Bool.not_false, Bool.true_or, if_true]

/-! ## HINT words (R66, R70) -/

/-- A HINT word joins the open group, or the one that it opens, unless its kind is there. -/
theorem hintWord_joins {g : HintGroup} (dup : HintGroup → Bool) (f : HintGroup → HintGroup) (hrun : s.me.occ = .running)
    (hg : s.me.hints.getD ⟨s.me.pc, none, none, none⟩ = g) : hintWord s dup f
      = if dup g then .next (s.trap causeIllegal 0) else .next (s.setMe { s.me with hints := some (f g), pc := s.me.pc + 4 }) := by
  subst hg
  simp only [hintWord, hrun, ne_eq, not_true_eq_false, if_false]

/-! ## Words that are no instruction (R74, R166, R245) -/

section
variable (hrun : s.me.occ = .running)
include hrun

theorem exec_illegalEncoding_traps : exec .illegalEncoding s = .next (s.trap causeIllegal 0) := by
  simp only [exec_illegalEncoding, execIllegalEncoding, hrun, ne_eq, not_true_eq_false, if_false]

/-- The cause of a fetch fault (R166). -/
def fetchCause : FetchCause → BitVec 5
  | .xlate => causeXlate
  | .prot => causeProt

theorem exec_fetchFault_traps {f : FetchCause} (hpc : s.me.pc ≠ s.me.tvec) :
    exec (.instructionFetchFault f) s = .next (s.trap (fetchCause f) s.me.pc) := by
  simp only [exec_instructionFetchFault, execInstructionFetchFault, hrun, ne_eq, not_true_eq_false, if_false, hpc]
  rfl

/-- A fetch fault at sys.tvec ends the fault domain, whether a handler runs or not. -/
theorem exec_fetchFault_ends {f : FetchCause} (hpc : s.me.pc = s.me.tvec) : exec (.instructionFetchFault f) s
    = .next ((s.setMe { s.me.endNested (fetchCause f) s.me.pc with ttime := if s.me.tact then s.me.ttime else s.timeAt s.cur.1 }).due
        (.suspensionPoint s.cur.1 s.cur.2)) := by
  simp only [exec_instructionFetchFault, execInstructionFetchFault, hrun, ne_eq, not_true_eq_false, if_false, if_pos hpc]
  rfl

end
end

/-- Settles O21: each word has the effect of its rule. -/
theorem systemWordsTrapReturnAndHint : Obligations.SystemWordsTrapReturnAndHint := by
  unfold Obligations.SystemWordsTrapReturnAndHint
  refine ⟨fun s imm c => exec_trap_traps, fun s c h => ⟨exec_eret_outside h, fun ht => ⟨exec_eret_returns h ht, ?unstuck⟩⟩,
    fun s g hrun hg => ⟨fun p => ?imm, fun nt br => ?sched, fun pv p ftz => ?mod⟩, fun s => exec_illegalEncoding_traps,
    fun s f hrun => ⟨exec_fetchFault_traps hrun, fun hpc hn => ?atTvec⟩⟩
  case unstuck =>
    intro hstuck
    exact (exec_eret_returns h ht).trans (congrArg _ (resumeTile_of_not_stuck hstuck))
  case imm => exact hintWord_joins (·.imm.isSome) (fun g => { g with imm := some p }) hrun hg
  case sched => exact hintWord_joins (·.sched.isSome) (fun g => { g with sched := some (nt, br) }) hrun hg
  case mod => exact hintWord_joins (·.mod.isSome) (fun g => { g with mod := some (pv, p, ftz) }) hrun hg
  case atTvec =>
    refine ⟨_, exec_fetchFault_ends hrun hpc, ?_, rfl⟩
    exact ⟨_, _, _, congrArg Ctx.hold (State.me_setMe s _ hn)⟩

end Sys2Proof.Traps
end

section
/-!
PROOFS. SYSWR (R30, R126, R249): what the write of each system register does, and when it traps.
-/

namespace Sys2Proof.SystemRegisters

open Sys2Proof.Machine Sys2Proof.WordIssue

theorem aligned_iff {a : Addr} {size : Nat} : aligned a size = true ↔ a.toNat % size = 0 := decide_eq_true_iff

theorem ite_aligned {α : Type} (a : Addr) (size : Nat) (x y : α) :
    (if aligned a size then x else y) = if a.toNat % size = 0 then x else y := by
  simp only [aligned_iff]

/-! ## The write of sys.syncobj (R126) -/

/-- A core whose sync table binds region i of a vintage to an object; lines of an rw region leave its cache (R121). -/
def bindRegion (vint : BitVec 32) (i : Nat) (obj : Addr) (r : DRegion) (k : Core) : Core :=
  let bound := { k with sync := (k.sync.filter fun b => !(b.vint == vint && b.region == i)) ++ [⟨vint, i, obj⟩] }
  if r.intent = 3 then bound.dropLines vint [r] else bound

section
variable {s : State} {c : Ctx} {v : Word}

theorem writeSyncobj_misaligned (h : (v.setWidth 56).toNat % 8 ≠ 0) :
    writeSyncobj s c v = .next (s.trap causeMisalign (v.setWidth 56)) := by
  rw [writeSyncobj, if_pos]
  rwa [Bool.not_eq_true', Bool.eq_false_iff, Ne, aligned_iff]

section
variable (h : (v.setWidth 56).toNat % 8 = 0)
include h

theorem writeSyncobj_undeclared (hr : s.declared s.cur.1 c c.syncreg.toNat = none) :
    writeSyncobj s c v = .next (s.trap causeUndeclared (v.setWidth 56)) := by
  simp only [writeSyncobj, aligned_iff.mpr h, Bool.not_true, Bool.false_eq_true, if_false, hr]

theorem writeSyncobj_binds {r : DRegion} (hr : s.declared s.cur.1 c c.syncreg.toNat = some r) : writeSyncobj s c v
    = .next ((s.setMe c.advance).updCore s.cur.1 (bindRegion c.vintage c.syncreg.toNat (v.setWidth 56) r)) := by
  simp only [writeSyncobj, aligned_iff.mpr h, Bool.not_true, Bool.false_eq_true, if_false, hr]
  rfl

end
end

/-! ## SYSWR (R249) -/

/-- Settles O23: a SYSWR that issues and need not wait takes the arm of its register. -/
theorem syswrWritesTheRegister : Obligations.SyswrWritesTheRegister := by
  unfold Obligations.SyswrWritesTheRegister
  intro s a x c num h addr go
  rw [exec_syswr, execSyswr, issueWord_issues _ h]
  simp only [show addr = x.setWidth 56 from BitVec.ofNat_toNat .., BitVec.ofNat_toNat]
  refine ⟨?sticky, ?cause, ?epc, ?faddr, ?fstep, ?srstate, ?tvec, ?syncreg, ?syncobj⟩
  case sticky =>
    rintro rfl - hdue hdraws
    rw [if_neg (ne_true_of_eq_false (stateBusy_eq_false (fun _ => hdue) fun _ => hdraws))]
    rfl
  case srstate =>
    rintro rfl hdraws
    rw [if_neg (ne_true_of_eq_false (stateBusy_eq_false (absurd · (by decide)) fun _ => hdraws))]
    rfl
  case cause | faddr | fstep | syncreg =>
    rintro rfl
    rfl
  case epc | tvec =>
    rintro rfl
    exact ite_aligned ..
  case syncobj =>
    rintro rfl
    change writeSyncobj s c x = _
    split
    next h8 => exact writeSyncobj_misaligned h8
    next h8 =>
      have h8 := Classical.not_not.mp h8
      split
      next hr => exact writeSyncobj_undeclared h8 hr
      next r hr => exact writeSyncobj_binds h8 hr

end Sys2Proof.SystemRegisters
end

section
/-!
PROOFS. The vector sequencer at issue (09_vector_sequencer.md, R279-R284, R292, R293): the first check of a word that fails, the
entry of a word that passes, VLOOP by its count, and VSYNC.
-/

namespace Sys2Proof.VectorIssue

open Sys2Proof.Machine

/-! ## The checks of a word, in the order of R280 -/

section
variable {o : VOp} {c : Core} {v : BitVec 32} {lcn n r : Nat}

/-- Whether an operand of a form is swizzled (R280, step 3). -/
def swizzled (o : VOp) : Bool := o.operands.any fun e => e.1.fld 16 != 0

theorem check_illegal (h : o.legal lcn = false) : o.check c v lcn n r = some (causeIllegal, 0) := by
  simp [VOp.check, h]

section
variable (hlegal : o.legal lcn = true)
include hlegal

theorem check_swizzled (h : swizzled o = true) : o.check c v lcn n r = some (causeLayout, 0) := by
  rw [swizzled] at h
  simp [VOp.check, hlegal, h]

theorem check_aliased (hswz : swizzled o = false) (h : o.aliased c v lcn n r = true) :
    o.check c v lcn n r = some (causeOverlap, 0) := by
  rw [swizzled] at hswz
  simp [VOp.check, hlegal, hswz, h]

theorem check_data (hswz : swizzled o = false) (h : o.aliased c v lcn n r = false) :
    o.check c v lcn n r = firstData c v lcn n r o.operands := by
  rw [swizzled] at hswz
  simp [VOp.check, hlegal, hswz, h]

end
end

/-! ## The queue -/

/-- The machine with an entry in the own sequencer and the window that the word leaves. -/
def entered (s : State) (c : Ctx) (e : VEntry) (window : List VOp) : State :=
  ((s.setMyCore { s.myCore with vq := s.myCore.vq ++ [e] }).setMe { c.advance with window := window }).due
    (.vectorFinish s.cur.1)

/-- An entry goes in when there is room and nothing holds it. -/
theorem enterVector_free {s : State} {c : Ctx} {e : VEntry} {window : List VOp} (hroom : s.myCore.vq.length < 16)
    (hacq : c.acquiring = false) (hheld : e.heldBy s = none) : enterVector s c e window = .next (entered s c e window) := by
  simp [enterVector, vectorEntries, Nat.not_le.mpr hroom, hacq, hheld, entered]

/-! ## A vector word -/

/-- The word that a context's slots make of a form. -/
def wordOf (c : Ctx) (fn : VFn) (ty : DType) (rnd : Rnd) (sat : Bool) (dk ak bk : Slot) : VOp :=
  ⟨fn, ty, rnd, sat, c.hintFtz, c.slot dk, c.slot ak, if fn.unary then Shape.empty else c.slot bk⟩

section
variable {s : State} {c : Ctx} {fn : VFn} {ty : DType} {rnd : Rnd} {sat : Bool} {dk ak bk : Slot} {o : VOp}
  (h : Issues s { mod := true, ftz := fn.ftzOk ty } [] [] false false false [] c) (ho : wordOf c fn ty rnd sat dk ak bk = o)
include h ho

theorem vecWord_traps {cause : BitVec 5} {fa : Addr} (hc : o.check s.myCore c.vintage (s.lcn s.cur.1) s.cur.2 0 = some (cause, fa)) :
    vecWord s fn ty rnd sat dk ak bk = .next (s.trap cause fa) := by
  subst ho
  rw [wordOf] at hc
  simp only [vecWord, issueWord_issues _ h, hc]

theorem vecWord_enters (hc : o.check s.myCore c.vintage (s.lcn s.cur.1) s.cur.2 0 = none)
    (hdraws : o.draws = false ∨ s.myCore.tileDraws s.cur.2 = false) : vecWord s fn ty rnd sat dk ak bk
      = enterVector s c (entryOf s c [o] 0 0) ((c.window ++ [o]).drop ((c.window ++ [o]).length - 16)) := by
  subst ho
  rw [← Bool.and_eq_false_iff] at hdraws
  rw [wordOf] at hc hdraws
  simp only [vecWord, issueWord_issues _ h, hc, hdraws, wordOf, Bool.false_eq_true, if_false]

end

/-- A word that is a vector word of its form goes through the checks of R280 into the sequencer. -/
theorem sequenced {i : Instr} {fn : VFn} {ty : DType} {rnd : Rnd} {sat : Bool} {dk ak bk : Slot}
    (hi : ∀ s, exec i s = vecWord s fn ty rnd sat dk ak bk) : Sequenced i fn ty rnd sat dk ak bk := by
  intro s c h o lcn n swz e w
  simp only [hi]
  refine ⟨fun hl => vecWord_traps h rfl (check_illegal hl), fun hl => ⟨fun hs => vecWord_traps h rfl (check_swizzled hl hs),
    fun hs => ⟨fun ha => vecWord_traps h rfl (check_aliased hl hs ha), fun ha => ⟨fun cause fa hd => ?_,
      fun hd hdraws hroom hacq hheld => ?_⟩⟩⟩⟩
  · exact vecWord_traps h rfl ((check_data hl hs ha).trans hd)
  · rw [vecWord_enters h rfl ((check_data hl hs ha).trans hd) hdraws]
    exact enterVector_free hroom hacq hheld

/-! ## VLOOP (R292) -/

section
variable {a : Reg} {m : BitVec 5} {s : State} {x : Word} {c : Ctx} (h : Issues s noHints [a] [] false false false [x] c)
include h

theorem exec_vloop_tooMany (hm : c.window.length < m.toNat) : exec (.vloop a m) s = .next (s.trap causeIllegal 0) := by
  simp only [exec_vloop, execVloop, issueWord_issues _ h, hm, if_true]

section
variable (hm : m.toNat ≤ c.window.length) {cnt : Nat} (hcnt : x.toNat % 2 ^ 32 = cnt)
include hm hcnt

theorem exec_vloop_zero (h0 : cnt = 0) : exec (.vloop a m) s = .next (s.setMe { c.advance with window := [] }) := by
  simp only [exec_vloop, execVloop, issueWord_issues _ h, Nat.not_lt.mpr hm, if_false, Issued.v, List.getD_cons_zero, hcnt, h0, if_true]

section
variable (h0 : cnt ≠ 0) {body : List VOp} (hbody : c.window.drop (c.window.length - m.toNat) = body)
include h0 hbody

theorem exec_vloop_traps {cause : BitVec 5} {fa : Addr}
    (hc : loopCheck s.myCore c.vintage (s.lcn s.cur.1) s.cur.2 body 1 cnt = some (cause, fa)) :
    exec (.vloop a m) s = .next (s.trap cause fa) := by
  simp only [exec_vloop, execVloop, issueWord_issues _ h, Nat.not_lt.mpr hm, if_false, Issued.v, List.getD_cons_zero, hcnt, h0, hbody,
    hc]

theorem exec_vloop_enters (hc : loopCheck s.myCore c.vintage (s.lcn s.cur.1) s.cur.2 body 1 cnt = none)
    (hdraws : body.any VOp.draws = false ∨ s.myCore.tileDraws s.cur.2 = false) :
    exec (.vloop a m) s = enterVector s c (entryOf s c body 1 cnt) [] := by
  rw [← Bool.and_eq_false_iff] at hdraws
  simp only [exec_vloop, execVloop, issueWord_issues _ h, Nat.not_lt.mpr hm, if_false, Issued.v, List.getD_cons_zero, hcnt, h0, hbody,
    hc, hdraws, Bool.false_eq_true]

end
end
end

/-! ## VSYNC (R293) -/

section
variable {s : State} {c : Ctx} (h : Issues s noHints [] [] false false false [] c)
include h

theorem exec_vsync_waits (he : ∃ e ∈ s.myCore.vq, e.ctx = s.cur.2) : exec .vsync s = .next s := by
  have hany : (s.myCore.vq.any fun e => e.ctx == s.cur.2) = true := by simpa using he
  simp only [exec_vsync, execVsync, issueWord_issues _ h, hany, if_true]

theorem exec_vsync_goesOn (he : ∀ e ∈ s.myCore.vq, e.ctx ≠ s.cur.2) :
    exec .vsync s = .next (s.setMe { c.advance with window := [] }) := by
  have hany : (s.myCore.vq.any fun e => e.ctx == s.cur.2) = false := by simpa using he
  simp only [exec_vsync, execVsync, issueWord_issues _ h, hany, Bool.false_eq_true, if_false]

end

/-! ## The obligation -/

/-- Settles O36: every vector word is `vecWord` of its form, VLOOP goes by its count and its body, VSYNC by its context's entries. -/
theorem vectorWordsEnterTheSequencer : Obligations.VectorWordsEnterTheSequencer := by
  unfold Obligations.VectorWordsEnterTheSequencer
  refine ⟨fun dk ak bk ty rnd sat => ?words, fun a m s x c h => ?vloop, fun s c h => ⟨exec_vsync_waits h, exec_vsync_goesOn h⟩⟩
  case words =>
    dsimp only
    and_intros
    all_goals exact sequenced fun _ => rfl
  case vloop =>
    refine ⟨exec_vloop_tooMany h, fun hm h0 => exec_vloop_zero h hm rfl h0, fun hm h0 => ⟨fun cause fa hc => ?_,
      fun hc hdraws hroom hacq hheld => ?_⟩⟩
    · exact exec_vloop_traps h hm rfl h0 rfl hc
    · rw [exec_vloop_enters h hm rfl h0 rfl hc hdraws]
      exact enterVector_free hroom hacq hheld

end Sys2Proof.VectorIssue
end

section
/-!
PROOFS. The shape instructions (09_vector_sequencer.md, R270-R273, R276-R278): which record a slot takes from memory, from the shape
store and from the object table, and what SHST, SHSET and SHGET do with a slot.
-/

namespace Sys2Proof.ShapeWords

open Sys2Proof.Machine Sys2Proof.Accesses Sys2Proof.Stores

/-! ## Records -/

/-- A record that a slot takes: valid by R270, and neither bound nor marked as bound (R273). -/
def Loadable (r : Shape) : Prop := r.valid [] = true ∧ r.fld 28 = 0 ∧ r.fld 29 = 0

theorem fld_lt (r : Shape) (f : Nat) : r.fld f < 2 ^ (shapeField f).2.2.1 := Nat.mod_lt _ (Nat.two_pow_pos _)

theorem tabv_eq_false_iff (r : Shape) : r.tabv = false ↔ r.fld 29 = 0 := by
  have h : r.fld 29 < 2 := fld_lt r 29
  rw [Shape.tabv, beq_eq_false_iff_ne]
  omega

theorem loadable_iff {r : Shape} : (r.valid [] && r.fld 28 == 0 && !r.tabv) = true ↔ Loadable r := by
  simp only [Loadable, Bool.and_eq_true, beq_iff_eq, Bool.not_eq_true', tabv_eq_false_iff, and_assoc]

section
variable {s : State} {c : Ctx} {k : Slot} {l : List Byte}

theorem placeShape_loadable (h : Loadable (shapeOf l)) :
    placeShape s c k l = .next (s.setMe (c.setSlot k ((shapeOf l).slice (s.lcn s.cur.1))).advance) :=
  if_pos (loadable_iff.mpr h)

theorem placeShape_illegal (h : ¬Loadable (shapeOf l)) : placeShape s c k l = .next (s.trap causeIllegal 0) :=
  if_neg fun e => h (loadable_iff.mp e)

end

/-! ## SHLD (R272, R273, R277) -/

/-- The bytes of an address of the private window are read at once, unless an earlier block of the word has come or is on its way. -/
theorem withBlock_private {s : State} {c : Ctx} {ea va : Addr} {len : Nat} {k : List Byte → Out} (hf : c.fetched = [])
    (hh : ∀ p, s.me.hold ≠ .block p) (hva : ownLocal (s.lcn s.cur.1) ea = va) (hlo : 0x8000000 ≤ va.toNat)
    (hhi : va.toNat < 0x8004000) :
    withBlock s c ea len k
      = k (memRead s.mem (scrAddr s.cur.1 (0x2E0000 + 0x4000 * s.cur.2 + (va.toNat - 0x8000000))) len) := by
  have hread : readBlock s c ea len
      = .bytes (memRead s.mem (scrAddr s.cur.1 (0x2E0000 + 0x4000 * s.cur.2 + (va.toNat - 0x8000000))) len) := by
    simp only [readBlock, hf, List.find?_nil, hva, spaceOf_local (show va.toNat < 2 ^ 48 by omega), placeOfLocal_private hlo hhi]
    rfl
  unfold withBlock
  split
  next l hl =>
    split at hl
    next p hp => exact absurd hp (hh p)
    next => rw [hread] at hl; cases hl; rfl
  all_goals
    rename_i hl
    split at hl
    next p hp => exact absurd hp (hh p)
    next => rw [hread] at hl; cases hl

section
variable {k : Slot} {a : Reg} {s : State} {x : Word} {c : Ctx} (h : Issues s noHints [a] [] false false false [x] c) {addr : Addr}
  (haddr : x.setWidth 56 = addr)
include h haddr

theorem exec_shld_tableMode (ht : s.tableMode s.cur.1 c.vintage = true) : exec (.shld k a) s = .next (s.trap causeProt addr) := by
  simp only [exec_shld, execShld, issueWord_issues _ h, ht, if_true, Issued.v, List.getD_cons_zero, BitVec.truncate, haddr]

section
variable (ht : s.tableMode s.cur.1 c.vintage = false)
include ht

theorem exec_shld_misaligned (ha : addr.toNat % 64 ≠ 0) : exec (.shld k a) s = .next (s.trap causeMisalign addr) := by
  simp only [exec_shld, execShld, issueWord_issues _ h, ht, Issued.v, List.getD_cons_zero, BitVec.truncate, haddr, aligned, ha,
    decide_false, Bool.not_false, Bool.false_eq_true, if_false, if_true]

section
variable (ha : addr.toNat % 64 = 0)
include ha

theorem exec_shld_stored {l : List Byte} (hl : s.storedShape s.cur.1 c.vintage addr = some l) :
    exec (.shld k a) s = placeShape s c k l := by
  simp only [exec_shld, execShld, issueWord_issues _ h, ht, Issued.v, List.getD_cons_zero, BitVec.truncate, haddr, aligned, ha,
    decide_true, Bool.not_true, Bool.false_eq_true, if_false, hl]

theorem exec_shld_private {va : Addr} (hl : s.storedShape s.cur.1 c.vintage addr = none) (hva : ownLocal (s.lcn s.cur.1) addr = va)
    (hfree : Passes s (rangeOf (s.lcn s.cur.1) s.cur.2 va 64) false) (hf : c.fetched = []) (hh : ∀ p, s.me.hold ≠ .block p)
    (hlo : 0x8000000 ≤ va.toNat) (hhi : va.toNat < 0x8004000) : exec (.shld k a) s
      = placeShape s c k (memRead s.mem (scrAddr s.cur.1 (0x2E0000 + 0x4000 * s.cur.2 + (va.toNat - 0x8000000))) 64) := by
  simp only [exec_shld, execShld, issueWord_issues _ h, ht, Issued.v, List.getD_cons_zero, BitVec.truncate, haddr, aligned, ha,
    decide_true, Bool.not_true, Bool.false_eq_true, if_false, hl, hva, gated_free _ hfree]
  exact withBlock_private hf hh hva hlo hhi

end
end
end

/-! ## SHOBJ (R272, R273) -/

section
variable {k : Slot} {a : Reg} {s : State} {x : Word} {c : Ctx} (h : Issues s noHints [a] [] false false false [x] c)
include h

theorem exec_shobj_broadcast (ht : s.tableMode s.cur.1 c.vintage = false) : exec (.shobj k a) s = .next (s.trap causeProt 0) := by
  simp only [exec_shobj, execShobj, issueWord_issues _ h, ht]

section
variable (ht : s.tableMode s.cur.1 c.vintage = true) {p : Part} (hp : s.partAt s.cur.1 = some p) {idx : Nat}
  (hidx : x.toNat % 65536 = idx)
include ht hp hidx

theorem exec_shobj_beyond (hn : p.objn ≤ idx) : exec (.shobj k a) s = .next (s.trap causeProt 0) := by
  simp only [exec_shobj, execShobj, issueWord_issues _ h, ht, hp, Issued.v, List.getD_cons_zero, hidx, hn, if_true]

section
variable (hn : idx < p.objn) {l : List Byte} (hl : s.viewRead p 0 true (p.objtab + 128 * idx) 128 = l)
include hn hl

theorem exec_shobj_binds (hr : Loadable (shapeOf l)) : exec (.shobj k a) s
    = .next (s.setMe (c.setSlot k ((boundShape idx l).slice (s.lcn s.cur.1))).advance) := by
  simp only [exec_shobj, execShobj, issueWord_issues _ h, ht, hp, Issued.v, List.getD_cons_zero, hidx, Nat.not_le.mpr hn, if_false, hl]
  exact if_pos (loadable_iff.mpr hr)

theorem exec_shobj_illegal (hr : ¬Loadable (shapeOf l)) : exec (.shobj k a) s = .next (s.trap causeIllegal 0) := by
  simp only [exec_shobj, execShobj, issueWord_issues _ h, ht, hp, Issued.v, List.getD_cons_zero, hidx, Nat.not_le.mpr hn, if_false, hl]
  exact if_neg fun e => hr (loadable_iff.mp e)

end
end
end

/-! ## SHST (R273, R278) -/

@[simp] theorem shapeBytes_length (k : Shape) : k.bytes.length = 64 := by
  simp only [Shape.bytes, List.length_flatMap, leBytes_length]
  rfl

/-- Bytes written read back. -/
theorem memRead_memWrite {m : List Host.Cell} (a : Nat) (l : List Byte) (h : Memory.wf m = true) :
    memRead (memWrite m a l) a l.length = l := by
  induction l generalizing m a with
  | nil => rfl
  | cons b t ih =>
    have hb := memSet_wf a b h
    rw [memWrite, List.length_cons, memRead, ih (a + 1) hb, memGet_memWrite_outside (a + 1) a t hb (.inl (Nat.lt_succ_self a)),
      memGet_memSet a a b h, if_pos rfl]

/-- A store at the own scratchpad port leaves its bytes, every other byte, and the slots and registers of its context. -/
theorem storeHere_writes {s : State} {c : Ctx} {off : Nat} {data : List Byte} (hn : s.cur.2 < 8) (hm : Memory.wf s.mem = true) :
    answers (storeHere s c off data) fun t => memRead t.mem (scrAddr s.cur.1 off) data.length = data ∧ t.me.pc = c.pc + 4
      ∧ t.me.k = c.k ∧ (∀ r, t.me.get r = c.get r)
      ∧ ∀ m, (m < scrAddr s.cur.1 off ∨ scrAddr s.cur.1 off + data.length ≤ m) → memGet t.mem m = memGet s.mem m := by
  refine ⟨_, rfl, ?_⟩
  have hmem := scrStore_mem (s.setMe (c.noteOp .st).advance) s.cur.1 c.vintage off data
  obtain ⟨hctx, -, -, -, -, hcur⟩ := scrStore_same (s.setMe (c.noteOp .st).advance) s.cur.1 c.vintage off data
  generalize (s.setMe (c.noteOp .st).advance).scrStore s.cur.1 c.vintage off data = t at hmem hctx hcur
  rw [State.setMe_mem] at hmem
  obtain ⟨l, hl⟩ := hctx s.cur.1 s.cur.2
  have hme : t.me = { (c.noteOp .st).advance with dirtyL := l } := by
    rw [State.me, hcur]
    refine hl.trans ?_
    rw [State.setMe, State.ctx_setCtx_same _ _ _ _ hn]
  dsimp only
  rw [hmem, hme]
  exact ⟨memRead_memWrite _ _ hm, rfl, rfl, fun _ => rfl, fun m hout => memGet_memWrite_outside _ _ _ hm hout⟩

section
variable {k : Slot} {a : Reg} {s : State} {x : Word} {c : Ctx} (h : Issues s noHints [a] [] false false false [x] c)
include h

/-- A slot that the object table binds cannot be stored or set in table mode (R273). -/
theorem exec_shst_bound {addr : Addr} (haddr : x.setWidth 56 = addr) (ht : s.tableMode s.cur.1 c.vintage = true)
    (hk : (c.slot k).tabv = true) : exec (.shst k a) s = .next (s.trap causeProt addr) := by
  simp only [exec_shst, execShst, issueWord_issues _ h, ht, hk, Issued.v, List.getD_cons_zero, BitVec.truncate, haddr, Bool.and_self,
    if_true]

theorem exec_shset_bound {f : BitVec 8} (ht : s.tableMode s.cur.1 c.vintage = true) (hk : (c.slot k).tabv = true) :
    exec (.shset k a f) s = .next (s.trap causeProt 0) := by
  simp only [exec_shset, execShset, issueWord_issues _ h, ht, hk, Bool.and_self, if_true]

section
variable (hfree : s.tableMode s.cur.1 c.vintage = false ∨ (c.slot k).tabv = false)
include hfree

theorem exec_shst_stores {addr : Addr} (haddr : x.setWidth 56 = addr) :
    exec (.shst k a) s = storeAt s c addr (c.slot k).bytes := by
  rw [← Bool.and_eq_false_iff] at hfree
  simp only [exec_shst, execShst, issueWord_issues _ h, hfree, Issued.v, List.getD_cons_zero, BitVec.truncate, haddr, Bool.false_eq_true,
    if_false]

/-! ## SHSET (R270, R273, R276) -/

theorem exec_shset_sets {f : BitVec 8} : exec (.shset k a f) s
    = if fitsField f.toNat x && ((c.slot k).setFld f.toNat x.toNat).valid
        ((List.range 4).filter fun d => (c.slot k).slicedAway d && 3 + d != f.toNat)
      then .next (s.setMe (c.setSlot k ((c.slot k).setFld f.toNat x.toNat)).advance) else .next (s.trap causeIllegal 0) := by
  rw [← Bool.and_eq_false_iff] at hfree
  simp only [exec_shset, execShset, issueWord_issues _ h, hfree, Issued.v, List.getD_cons_zero, Bool.false_eq_true, if_false]

end
end

/-! ## The obligation -/

/-- Settles O38: each word goes by the mode of its launch, the place of its address and the validity of the record. -/
theorem shapeWordsMoveRecords : Obligations.ShapeWordsMoveRecords := by
  unfold Obligations.ShapeWordsMoveRecords
  intro k a b f s x c hn addr site lcn table va off one ok takes new fits
  have haddr : x.setWidth 56 = addr := (BitVec.ofNat_toNat 56 x).symm
  have htakes : ∀ {o l}, o = placeShape s c k l → takes o l := fun ho =>
    ⟨fun hr => ho.trans (placeShape_loadable hr), fun hr => ho.trans (placeShape_illegal hr)⟩
  have hlen := shapeBytes_length (c.slot k)
  refine ⟨fun h => exec_shld_tableMode h haddr, fun h => exec_shld_misaligned h haddr, fun h ht ha => ⟨fun l hl => ?stored,
    fun hl hfree hf hh hlo hhi => ?window⟩, exec_shobj_broadcast, fun p h ht hp => ?shobj, fun h hm hfree ha hpass hlo hhi => ?shst,
    fun h ha hfree => ?misaligned, fun h ht hk => ⟨exec_shst_bound h haddr ht hk, exec_shset_bound h ht hk⟩, fun h hfree => ?shset,
    fun h => ?shget⟩
  case stored => exact htakes (exec_shld_stored h haddr ht ha hl)
  case window => exact htakes (exec_shld_private h haddr ht ha hl rfl hfree hf hh hlo hhi)
  case shobj =>
    exact ⟨exec_shobj_beyond h ht hp rfl, fun hidx hr => exec_shobj_binds h ht hp rfl hidx rfl hr,
      fun hidx hr => exec_shobj_illegal h ht hp rfl hidx rfl hr⟩
  case shst =>
    rw [exec_shst_stores h hfree haddr, storeAt_private hlen ha rfl hlo hhi hpass]
    simpa only [hlen] using storeHere_writes (data := (c.slot k).bytes) hn hm
  case misaligned =>
    rw [exec_shst_stores h hfree haddr]
    exact storeAt_misaligned hlen ha
  case shset =>
    rw [exec_shset_sets h hfree]
    exact ⟨fun hf => if_pos (Bool.and_eq_true _ _ ▸ hf), fun hf => if_neg fun e => hf ((Bool.and_eq_true _ _).mp e)⟩
  case shget => simp only [exec_shget, execShget, issueWord_issues _ h]

end Sys2Proof.ShapeWords
end

section
/-!
PROOFS. The events of the vector sequencer, the tile queue and the slew limiter (09_vector_sequencer.md, R279, R288;
10_matrix_engine.md, R309-R311, R330-R337; 11_matrix_issue_grants_program.md, R341-R345).
-/

namespace Sys2Proof.Engines

open Sys2Proof.Machine

/-! ## VECTOR_FINISH (R279, R288) -/

theorem exec_vectorFinish_runs {s : State} {site : Nat} {e : VEntry} {rest : List VEntry} {acc : VAcc}
    (hq : (s.core site).vq = e :: rest) (hw : s.vectorWaits site e = false)
    (hacc : runReps site e (s.lcn site) e.first (e.last + 1 - e.first) ⟨s, (s.ctx site e.ctx).srstate, 0⟩ = acc) :
    exec (.vectorFinish site) s = .next ((((acc.s.updCore site fun c => { c with vq := rest }).updCtx site e.ctx fun c =>
      { c.orSticky acc.flags with srstate := acc.gen }).wakeContext site e.ctx).wakeEngines site) := by
  rw [State.lcn] at hacc
  simp only [exec_vectorFinish, execVectorFinish, hq, hw, Bool.false_eq_true, if_false, hacc]

/-! ## TILE_COMMAND_START (R311, R313) -/

theorem exec_tileCommandStart_starts {s : State} {site k : Nat} {t : TCmd} (ht : (s.core site).tq[k]? = some t)
    (hfirst : (s.core site).firstStart = some k) (hnear : s.boundaryNear site = false) : exec (.tileCommandStart site k) s
      = .next (((s.setCore site ((s.core site).setCmd k { t with state := .running })).wantRise site).due
          (.tileCommandFinish site k)) := by
  simp only [exec_tileCommandStart, execTileCommandStart, ht, hfirst, hnear]
  exact if_neg (by simp)

/-- What stands for a command that may start (R311, R323). -/
theorem mayStart_spec {c : Core} {k : Nat} (h : c.mayStart k = true) : ∃ t, c.tq[k]? = some t ∧ t.state = .queued ∧ t.held = none
    ∧ (∀ e ∈ c.tq.take k, t.discards e = false → e.clashes t = false ∧ (e.ctx = t.ctx → e.held = none → e.state = .running))
    ∧ (t.fn.unit ≠ 0 → ∀ e ∈ c.tq, e.state = .running → e.fn.unit ≠ t.fn.unit) := by
  unfold Core.mayStart at h
  split at h
  next => exact absurd h Bool.false_ne_true
  next t ht =>
    simp only [Bool.and_eq_true, beq_iff_eq, Option.isNone_iff_eq_none, List.all_filter, List.any_filter, List.all_eq_true,
      Bool.not_eq_true', List.any_eq_false] at h
    obtain ⟨⟨⟨⟨hq, hheld⟩, hctx⟩, hclash⟩, hunit⟩ := h
    refine ⟨t, ht, hq, hheld, fun e he hd => ⟨?_, fun hc hn => ?_⟩, fun hu e he hr hue => ?_⟩
    · simpa [hd] using hclash e he
    · simpa [hd, hc, hn] using hctx e he
    · rw [bne_iff_ne.mpr hu, Bool.true_and, List.any_eq_false] at hunit
      exact hunit e he (by simp [hr, hue])

theorem firstStart_spec {c : Core} {k : Nat} (h : c.firstStart = some k) : c.mayStart k = true ∧ ∀ j < k, c.mayStart j = false := by
  obtain ⟨hk, -, hbefore⟩ := List.find?_range_eq_some.mp h
  exact ⟨hk, fun j hj => by simpa using hbefore j hj⟩

/-! ## TILE_COMMAND_FINISH (R309, R315, R330-R337) -/

section
variable {s : State} {site k : Nat} {t : TCmd} (ht : (s.core site).tq[k]? = some t) (hrun : t.state = .running) (hheld : t.held = none)
  (hw : s.tileWaits site k t = false)
include hrun hheld hw

theorem goesOn : ¬(t.state ≠ .running ∨ t.held.isSome ∨ s.tileWaits site k t) := by simp [hrun, hheld, hw]

include ht

section
variable (hfn : t.fn = .mma ∨ t.fn = .mmcx ∨ t.fn = .mconv)
include hfn

theorem exec_finish_noGrant (hl : (s.slew site).level = 0) : exec (.tileCommandFinish site k) s = .next (s.wantRise site) := by
  obtain hfn | hfn | hfn := hfn
  all_goals simp only [exec_tileCommandFinish, execTileCommandFinish, ht, if_neg (goesOn hrun hheld hw), hfn, hl, if_true]

theorem exec_finish_sums (hl : (s.slew site).level ≠ 0) : exec (.tileCommandFinish site k) s
    = .next (((s.putTile site t (t.sums s site)).wantFall site).tileDone site k t) := by
  obtain hfn | hfn | hfn := hfn
  all_goals simp only [exec_tileCommandFinish, execTileCommandFinish, ht, if_neg (goesOn hrun hheld hw), hfn, hl, if_false]

end

theorem exec_finish_mwld {img : List Byte} (himg : s.scrRead site t.recAt (imgSize t.rec') = img) (hfn : t.fn = .mwld) :
    exec (.tileCommandFinish site k) s = .next ((s.updCore site fun q =>
      { (q.markLines (slotLine t.w) t.vint ((img.length + 63) / 64)) with wslots := q.wslots.setIfInBounds t.w (some img) }).tileDone
        site k t) := by
  simp only [exec_tileCommandFinish, execTileCommandFinish, ht, if_neg (goesOn hrun hheld hw), hfn, himg]

theorem exec_finish_maclr (hfn : t.fn = .maclr) : exec (.tileCommandFinish site k) s
    = .next ((s.putTile site t { (s.core site).tile t.tile with elems := [] }).tileDone site k t) := by
  simp only [exec_tileCommandFinish, execTileCommandFinish, ht, if_neg (goesOn hrun hheld hw), hfn]

theorem exec_finish_macwr (hfn : t.fn = .macwr) : exec (.tileCommandFinish site k) s
    = .next ((s.putTile site t (t.written s site)).tileDone site k t) := by
  simp only [exec_tileCommandFinish, execTileCommandFinish, ht, if_neg (goesOn hrun hheld hw), hfn]

section
variable (hfn : t.fn = .mrel)
include hfn

theorem exec_finish_mrel_frees (hh : (s.core site).holds t.tile t.ctx = true) : exec (.tileCommandFinish site k) s
    = .next (((s.tileDone site k t).updCore site fun q => { q with tq := q.tq.filter fun e => !(t.discards e) }).freeTile site t.tile
        t.ctx) := by
  simp only [exec_tileCommandFinish, execTileCommandFinish, ht, if_neg (goesOn hrun hheld hw), hfn, hh, if_true]

theorem exec_finish_mrel_unheld (hh : (s.core site).holds t.tile t.ctx = false) :
    exec (.tileCommandFinish site k) s = .next (s.tileDone site k t) := by
  simp only [exec_tileCommandFinish, execTileCommandFinish, ht, if_neg (goesOn hrun hheld hw), hfn, hh, Bool.false_eq_true, if_false]

end

section
variable (hfn : t.fn = .macrd ∨ t.fn = .mepi)
include hfn

theorem exec_finish_local (hd : t.d.remote (s.lcn site) = none) {r : List (Nat × List Nat) × Word × Word}
    (hr : t.allRows s site (s.ctx site t.ctx).srstate = r) : exec (.tileCommandFinish site k) s
      = .next (((r.1.foldl (t.writeRow site) s).updCtx site t.ctx fun x => { x.orSticky r.2.2 with srstate := r.2.1 }).tileDone
          site k t) := by
  rw [State.lcn] at hd
  obtain hfn | hfn := hfn
  all_goals simp only [exec_tileCommandFinish, execTileCommandFinish, ht, if_neg (goesOn hrun hheld hw), hfn, hd, hr]

section
variable {dest laddr : Nat} (hd : t.d.remote (s.lcn site) = some (dest, laddr))
include hd

theorem exec_finish_remoteDone (hstep : t.d.size 1 ≤ t.step) (hsent : t.sent = []) (href : t.refusedRow = none) :
    exec (.tileCommandFinish site k) s = .next (s.tileDone site k t) := by
  rw [State.lcn] at hd
  obtain hfn | hfn := hfn
  all_goals
    simp only [exec_tileCommandFinish, execTileCommandFinish, ht, if_neg (goesOn hrun hheld hw), hfn, hd, hsent, href, hstep,
      List.isEmpty_nil, Option.isNone_none, and_self, if_true]

theorem exec_finish_remoteRow (hstep : t.step < t.d.size 1) :
    exec (.tileCommandFinish site k) s = .next (s.sendRow site k t dest laddr) := by
  rw [State.lcn] at hd
  obtain hfn | hfn := hfn
  all_goals
    simp only [exec_tileCommandFinish, execTileCommandFinish, ht, if_neg (goesOn hrun hheld hw), hfn, hd, Nat.not_le.mpr hstep,
      false_and, if_false]

end
end
end

/-- The next row of a remote destination goes out when nothing was refused and its core takes it (R332, R337). -/
theorem sendRow_sends {s : State} {site k dest laddr : Nat} {t : TCmd} (hstep : t.step < t.d.size 1) (href : t.refusedRow = none)
    (hpre : s.preempting site t.ctx = false) (hsend : s.coreCanSend site dest = true) {r : List Nat × Word × Word}
    (hr : t.row s site t.step 0 = r) {pk : Nat × List Byte × Nat} (hpk : t.packet (s.lcn site) laddr t.step r.1 = pk) :
    s.sendRow site k t dest laddr
      = (((s.sendFromCore site dest 10 t.step t.tile t.vint (.row pk.1 pk.2.1 pk.2.2)).updCore site fun c =>
          c.setCmd k { t with step := t.step + 1, sent := t.sent ++ [t.step] }).updCtx site t.ctx fun x => x.orSticky r.2.2).due
            (.tileCommandFinish site k) := by
  rw [State.lcn] at hpk
  simp only [State.sendRow, hpre, href, hsend, Nat.not_le.mpr hstep, hr, hpk, Option.isSome_none, decide_false, Bool.not_true,
    Bool.or_self, Bool.false_eq_true, if_false]

/-! ## TILE_WRITE_ACK and the stop (R336, R337) -/

section
variable {s : State} {site tile k row : Nat} {t : TCmd} {ans : Option (BitVec 5)} {rest : List (Nat × Option (BitVec 5))}
  (hk : List.findIdx? (fun (t : TCmd) => t.tile == tile && t.drains && t.held.isNone && !t.answers.isEmpty) (s.core site).tq
    = some k)
  (ht : (s.core site).tq[k]? = some t) (ha : t.answers = (row, ans) :: rest)
include hk ht ha

theorem exec_tileWriteAck_goesOn (hans : ans = none) (href : t.refusedRow = none) : exec (.tileWriteAck site tile) s
    = .next ((s.setCore site ((s.core site).setCmd k
        { t with answers := rest, sent := t.sent.erase row, refusedRow := none })).due (.tileCommandFinish site k)) := by
  simp only [exec_tileWriteAck, execTileWriteAck, hk, ht, ha, hans, href]

section
variable {low : Nat} (hlow : (ans ≠ none ∧ t.refusedRow = none ∧ low = row) ∨ (ans ≠ none ∧ ∃ r, t.refusedRow = some r ∧ low = min r row)
  ∨ (ans = none ∧ t.refusedRow = some low))
include hlow

/-- After a refusal the command stops with its last acknowledgement, and waits for the others until then. -/
theorem exec_tileWriteAck_refused : exec (.tileWriteAck site tile) s
    = if (t.sent.erase row).isEmpty
      then .next (s.stopTile site k { t with answers := rest, sent := t.sent.erase row, refusedRow := some low } low)
      else .next (s.setCore site ((s.core site).setCmd k
        { t with answers := rest, sent := t.sent.erase row, refusedRow := some low })) := by
  obtain ⟨hans, href, rfl⟩ | ⟨hans, r, href, rfl⟩ | ⟨rfl, href⟩ := hlow
  · obtain ⟨cause, rfl⟩ := Option.ne_none_iff_exists'.mp hans
    simp only [exec_tileWriteAck, execTileWriteAck, hk, ht, ha, href]
  · obtain ⟨cause, rfl⟩ := Option.ne_none_iff_exists'.mp hans
    simp only [exec_tileWriteAck, execTileWriteAck, hk, ht, ha, href]
  · simp only [exec_tileWriteAck, execTileWriteAck, hk, ht, ha, href]

end
end

/-! ### What a wake leaves -/

@[simp] theorem wakeContext_cores (s : State) (site n : Nat) : (s.wakeContext site n).cores = s.cores := by
  unfold State.wakeContext
  split <;> split <;> rfl

@[simp] theorem dueOnce_cores (s : State) (i : Instr) : (s.dueOnce i).cores = s.cores := by
  unfold State.dueOnce
  split <;> rfl

/-- A fold of steps that leave the cores leaves them. -/
theorem foldl_cores {α : Type} {f : State → α → State} (hf : ∀ t e, (f t e).cores = t.cores) (l : List α) (s : State) :
    (l.foldl f s).cores = s.cores :=
  List.foldlRecOn (motive := fun t => t.cores = s.cores) l f rfl fun t ht e _ => (hf t e).trans ht

@[simp] theorem wakeLaunches_cores (s : State) (site : Nat) : (s.wakeLaunches site).cores = s.cores := by
  unfold State.wakeLaunches
  split
  · rfl
  · refine foldl_cores (fun t l => ?_) _ s
    dsimp only
    split <;> split <;> split <;> rfl

@[simp] theorem wakeEngines_cores (s : State) (site : Nat) : (s.wakeEngines site).cores = s.cores := by
  unfold State.wakeEngines
  dsimp only
  rw [wakeLaunches_cores, foldl_cores, foldl_cores, foldl_cores]
  · split <;> rfl
  · intro t e
    split <;> rfl
  · intro t e
    split <;> rfl
  · intro t e
    split <;> split <;> simp

theorem ctx_congr {s t : State} (h : t.cores = s.cores) (site n : Nat) : t.ctx site n = s.ctx site n := by
  simp only [State.ctx, State.core, h]

theorem core_congr {s t : State} (h : t.cores = s.cores) (site : Nat) : t.core site = s.core site := by
  simp only [State.core, h]

/-- The context of a stopped command: its operation ended, and its refusal posted with BUFSTATE and the lowest refused row (R337). -/
def stopPosted (s : State) (site : Nat) (t : TCmd) (row : Nat) (o : OutOp) (c : Ctx) : Ctx :=
  c.post o causeBufstate (BitVec.ofInt 56 (t.d.unitAddr (s.lcn site) ((t.d.rowUnits row).headD 0))) (BitVec.ofNat 32 (2 ^ 31 + row))

section
variable {s : State} {site k row id : Nat} {t : TCmd} {o : OutOp} {c : Ctx} (hid : t.opId = some id)
  (hend : (s.ctx site t.ctx).endOp id = some (o, c))
include hid hend

theorem stopTile_cores : (s.stopTile site k t row).cores
    = ((s.updCore site fun q => q.setCmd k { t with state := .stopped, opId := none, step := row }).setCtx site t.ctx
        (stopPosted s site t row o c)).cores := by
  have hctx : (s.updCore site fun q => q.setCmd k { t with state := .stopped, opId := none, step := row }).ctx site t.ctx
      = s.ctx site t.ctx := Accesses.ctx_updCore rfl site t.ctx
  simp only [State.stopTile, wakeEngines_cores, wakeContext_cores, hid, State.updCtx, hctx, hend]
  rfl

theorem stopTile_posted (hn : t.ctx < 8) : ((s.stopTile site k t row).ctx site t.ctx).posted = c.posted
    ++ [⟨o.cnt, o.id, causeBufstate, BitVec.ofInt 56 (t.d.unitAddr (s.lcn site) ((t.d.rowUnits row).headD 0)),
      BitVec.ofNat 32 (2 ^ 31 + row)⟩] := by
  rw [ctx_congr (stopTile_cores hid hend), State.ctx_setCtx_same _ _ _ _ hn]
  rfl

theorem stopTile_tq (hk : k < (s.core site).tq.length) :
    ((s.stopTile site k t row).core site).tq[k]? = some { t with state := .stopped, opId := none, step := row } := by
  rw [core_congr (stopTile_cores hid hend), State.setCtx, State.core_setCore_same, Core.setCtx, State.updCore, State.core_setCore_same,
    Core.setCmd]
  exact List.getElem?_set_self hk

end

/-! ## The slew limiter (R341-R345) -/

section
variable {x : SlewArray} {cap now : Nat} {can runs : Bool}

theorem wantsRise_iff : wantsRise cap can x = true ↔ can = true ∧ x.level < 4 ∧ x.level < cap := by
  simp only [wantsRise, Bool.and_eq_true, decide_eq_true_eq, and_assoc]

theorem wantsFall_iff : wantsFall cap can x = true ↔ cap < x.level ∨ (can = false ∧ 0 < x.level) := by
  simp only [wantsFall, Bool.or_eq_true, Bool.and_eq_true, decide_eq_true_eq, Bool.not_eq_true']

/-- A want keeps the cycle from which it stands, and one that is over is gone, but for the request age of a command that runs. -/
theorem wants_spec : (x.wants cap can runs now).level = x.level
    ∧ (wantsRise cap can x = true → (x.wants cap can runs now).rise = some (x.rise.getD now))
    ∧ (¬wantsRise cap can x = true → (x.wants cap can runs now).rise = if runs then x.rise else none)
    ∧ (wantsFall cap can x = true → (x.wants cap can runs now).fall = some (x.fall.getD now))
    ∧ (¬wantsFall cap can x = true → (x.wants cap can runs now).fall = none) :=
  ⟨rfl, fun h => if_pos h, fun h => if_neg h, fun h => if_pos h, fun h => if_neg h⟩

end

theorem ite_wantsFall {α : Type} (x : SlewArray) (cap : Nat) (can : Bool) (a b : α) : (if wantsFall cap can x then a else b)
    = if cap < x.level ∨ (can = false ∧ 0 < x.level) then a else b :=
  ite_congr (propext wantsFall_iff) (fun _ => rfl) fun _ => rfl

theorem ite_isSome {α β : Type} (o : Option α) (a b : β) [Decidable (o = none)] :
    (if o.isSome then a else b) = if o = none then b else a := by
  cases o <;> simp

/-- A new cap leaves the module's clock. -/
theorem module_ite_doms (p : Prop) [Decidable p] (s : State) (doms : Tbl Domain) :
    (if p then s else { s with doms := doms }).module = s.module := by
  split <;> rfl

/-! ## The obligation -/

/-- Settles O49: each event runs the oldest work of its engine that may run, and the limiter's boundary is its rule. -/
theorem enginesFinishTheirCommands : Obligations.EnginesFinishTheirCommands := by
  unfold Obligations.EnginesFinishTheirCommands
  refine ⟨fun s site e rest hq hw => exec_vectorFinish_runs hq hw rfl, fun s site k t ht hf hn => exec_tileCommandStart_starts ht hf hn,
    fun c k h => ?first, fun s site k t ht hr hh hw => ?finish, fun s site tile k row t ans rest hk ht ha => ?ack,
    fun s site k row id n t o c hn hctx hid hend hk => ?stop, fun x cap now can runs => ?wants, fun s0 dom => ?boundary⟩
  case first =>
    obtain ⟨hmay, hbefore⟩ := firstStart_spec h
    obtain ⟨t, ht, hq, hheld, hclash, hunit⟩ := mayStart_spec hmay
    exact ⟨t, ht, hq, hheld, hclash, hunit, hbefore⟩
  case finish =>
    refine ⟨fun hfn => ⟨exec_finish_noGrant ht hr hh hw hfn, exec_finish_sums ht hr hh hw hfn⟩, exec_finish_mwld ht hr hh hw rfl,
      exec_finish_maclr ht hr hh hw, exec_finish_macwr ht hr hh hw, exec_finish_mrel_frees ht hr hh hw,
      exec_finish_mrel_unheld ht hr hh hw, fun hfn hd => exec_finish_local ht hr hh hw hfn hd rfl, fun dest laddr hfn hd =>
      ⟨exec_finish_remoteDone ht hr hh hw hfn hd, fun hstep href hpre hsend => ?_⟩⟩
    rw [exec_finish_remoteRow ht hr hh hw hfn hd hstep]
    exact congrArg Host.Outcome.next (sendRow_sends hstep href hpre hsend rfl rfl)
  case ack =>
    refine ⟨exec_tileWriteAck_goesOn hk ht ha, fun low hlow => ⟨fun hsent => ?_, fun hsent => ?_⟩⟩
    all_goals rw [exec_tileWriteAck_refused hk ht ha hlow]
    · exact if_pos (List.isEmpty_iff.mpr hsent)
    · exact if_neg fun e => hsent (List.isEmpty_iff.mp e)
  case stop =>
    subst hctx
    exact ⟨stopTile_posted hid hend hn, stopTile_tq hid hend hk⟩
  case wants =>
    dsimp only
    simp only [← wantsRise_iff, ← wantsFall_iff]
    exact wants_spec
  case boundary =>
    intro d0 d s1 cmd arrays s prio older rises falls up down raise lower
    simp only [exec_slewStepBoundary, execSlewStepBoundary, ite_wantsFall, ite_isSome, module_ite_doms]
    rfl

end Sys2Proof.Engines
end

section
/-!
PROOFS. The elements of the vector forms (09_vector_sequencer.md, R294-R300, R305, R306; 03_number_formats.md, R84, R99): what the
exact operations give on integers, how an integer type encodes an exact integer, and each form on two patterns of one integer type.
-/

namespace Sys2Proof.VectorElements

open Sys2Proof.Machine

/-! ## Exact values that are integers -/

/-- A value held as an integer. -/
def IsInt (v : Val) (i : Int) : Prop := ∃ neg m, v = .fin neg m 0 false ∧ (if neg then -(m : Int) else m) = i

/-- A valid operation gives an integer. -/
def Gives (r : Res) (i : Int) : Prop := r.invalid = false ∧ IsInt r.val i

theorem ite_natAbs (i : Int) : (if decide (i < 0) then -(i.natAbs : Int) else i.natAbs) = i := by
  by_cases h : i < 0
  · simp only [h, decide_true, if_true]; omega
  · simp only [h, decide_false, Bool.false_eq_true, if_false]; omega

theorem ite_natAbs_mul (i : Int) (n : Nat) :
    (if decide (i < 0) then -((i.natAbs * n : Nat) : Int) else (i.natAbs * n : Nat)) = i * n := by
  rw [Int.natCast_mul, ← Int.neg_mul]
  conv => rhs; rw [← ite_natAbs i]
  split
  all_goals rfl

theorem isInt_valOfInt (i : Int) : IsInt (valOfInt i) i := ⟨_, _, rfl, ite_natAbs i⟩

section
variable {u v w : Val} {i j k : Int} (hu : IsInt u i) (hv : IsInt v j)

theorem isInt_zero : IsInt (.zero false) 0 := ⟨false, 0, rfl, rfl⟩

include hu

theorem isInt_neg : IsInt (negVal u) (-i) := by
  obtain ⟨neg, m, rfl, rfl⟩ := hu
  exact ⟨!neg, m, rfl, by cases neg <;> simp⟩

include hv

theorem gives_add (down : Bool) : Gives (addVal down u v) (i + j) := by
  obtain ⟨neg, m, rfl, hi⟩ := hu
  obtain ⟨neg', m', rfl, hj⟩ := hv
  refine ⟨rfl, ?_⟩
  simp only [addVal, addFin, Int.min_self, Int.sub_self, Int.toNat_zero, Nat.pow_zero, Nat.mul_one, hi, hj]
  split
  next h => exact ⟨_, 0, rfl, by simp [h]⟩
  next => exact ⟨_, _, rfl, ite_natAbs _⟩

theorem gives_mul : Gives (mulVal u v) (i * j) := by
  obtain ⟨neg, m, rfl, rfl⟩ := hu
  obtain ⟨neg', m', rfl, rfl⟩ := hv
  refine ⟨rfl, neg ^^ neg', m * m', rfl, ?_⟩
  have hmul := Int.natCast_mul m m'
  match neg, neg' with
  | false, false => exact hmul
  | false, true => exact (congrArg Neg.neg hmul).trans (Int.mul_neg _ _).symm
  | true, false => exact (congrArg Neg.neg hmul).trans (Int.neg_mul _ _).symm
  | true, true => exact hmul.trans (Int.neg_mul_neg _ _).symm

theorem gives_fma (down : Bool) (hw : IsInt w k) : Gives (fmaVal down u v w) (i * j + k) := by
  have hmul := gives_mul hu hv
  have hnan : (isNanVal u || isNanVal v || isNanVal w) = false := by
    obtain ⟨_, _, rfl, _⟩ := hu
    obtain ⟨_, _, rfl, _⟩ := hv
    obtain ⟨_, _, rfl, _⟩ := hw
    rfl
  simp only [fmaVal, hnan, hmul.1, Bool.false_eq_true, if_false]
  exact gives_add hmul.2 hw down

end

/-! ## Comparing integers (R157, R158) -/

section
variable (i j : Int)

@[simp] theorem isNanVal_valOfInt : isNanVal (valOfInt i) = false := rfl

theorem scaledInt_valOfInt : scaledInt (decide (i < 0)) i.natAbs 0 0 = i := by
  simp only [scaledInt, Int.sub_self, Int.toNat_zero, Nat.pow_zero, Nat.mul_one, ite_natAbs]

theorem ltVal_valOfInt : ltVal (valOfInt i) (valOfInt j) = decide (i < j) := by
  simp only [ltVal, valOfInt, Int.min_self, scaledInt_valOfInt]

theorem eqVal_valOfInt : eqVal (valOfInt i) (valOfInt j) = decide (i = j) := by
  simp only [eqVal, valOfInt, Int.min_self, scaledInt_valOfInt]

theorem leVal_valOfInt : leVal (valOfInt i) (valOfInt j) = decide (i ≤ j) := by
  rw [leVal, ltVal_valOfInt, eqVal_valOfInt, Bool.eq_iff_iff]
  simp only [Bool.or_eq_true, decide_eq_true_eq]
  omega

theorem minVal_valOfInt : minVal (valOfInt i) (valOfInt j) = valOfInt (if i ≤ j then i else j) := by
  simp only [minVal, isNanVal_valOfInt, ltVal_valOfInt, decide_eq_true_eq, Bool.or_self, Bool.false_eq_true, if_false]
  obtain h | rfl | h := Int.lt_trichotomy i j
  · rw [if_pos h, if_pos (Int.le_of_lt h)]
  · rw [if_neg (Int.lt_irrefl i), if_neg (Int.lt_irrefl i), ite_self, ite_self]
  · rw [if_neg (Int.not_lt.mpr (Int.le_of_lt h)), if_pos h, if_neg (Int.not_le.mpr h)]

theorem maxVal_valOfInt : maxVal (valOfInt i) (valOfInt j) = valOfInt (if i ≤ j then j else i) := by
  simp only [maxVal, isNanVal_valOfInt, ltVal_valOfInt, decide_eq_true_eq, Bool.or_self, Bool.false_eq_true, if_false]
  obtain h | rfl | h := Int.lt_trichotomy i j
  · rw [if_pos h, if_pos (Int.le_of_lt h)]
  · rw [if_neg (Int.lt_irrefl i), if_neg (Int.lt_irrefl i), ite_self, ite_self]
  · rw [if_neg (Int.not_lt.mpr (Int.le_of_lt h)), if_pos h, if_neg (Int.not_le.mpr h)]

end

/-! ## Encoding an integer (R92, R99) -/

theorem intRange_eq (t : DType) : intRange t = (if t.signed then -(2 ^ (t.width - 1)) else 0,
    if t.signed then 2 ^ (t.width - 1) - 1 else 2 ^ t.width - 1) := by
  unfold intRange
  split <;> rfl

theorem roundQ_natCast (m e : Nat) (rnd : Rnd) (neg : Bool) (draw : Word) : roundQ m e 0 false rnd neg draw = (m * 2 ^ e, false) := by
  simp [roundQ, Nat.mod_one]

section
variable {t : DType} (ht : t.isInt = true)
include ht

theorem floatFmt_int : floatFmt t = none := by revert ht; cases t <;> decide

theorem isFloat_int : t.isFloat = false := by revert ht; cases t <;> decide

theorem width_int : 1 ≤ t.width ∧ t.width ≤ 64 := by revert ht; cases t <;> decide

theorem decodeElem_int (a : Nat) : decodeElem t a = valOfInt (intOfBits t.signed t.width a) := by
  simp only [decodeElem, floatFmt_int ht]
  split
  · cases ht
  · rfl

theorem elemVal_int (a : Nat) : elemVal t false a = valOfInt (intOfBits t.signed t.width a) := decodeElem_int ht a

/-- Without sat the stored bits are the integer modulo 2^w, and nothing is sticky. -/
theorem encodeElem_fin (neg : Bool) (m e : Nat) (rnd : Rnd) (ftz : Bool) (draw : Word) :
    encodeElem t (.fin neg m e false) rnd false ftz draw
      = ⟨wrapInt t.width (if neg then -((m * 2 ^ e : Nat) : Int) else (m * 2 ^ e : Nat)), 0⟩ := by
  simp [encodeElem, floatFmt_int ht, encodeInt, roundQ_natCast]

section
variable {v : Val} {i : Int} (hv : IsInt v i) (rnd : Rnd) (ftz : Bool) (draw : Word)
include hv

theorem encodeElem_isInt : encodeElem t v rnd false ftz draw = ⟨wrapInt t.width i, 0⟩ := by
  obtain ⟨neg, m, rfl, rfl⟩ := hv
  simpa using encodeElem_fin ht neg m 0 rnd ftz draw

/-- With sat the integer is clamped to the type's range. -/
theorem encodeElem_sat : (encodeElem t v rnd true ftz draw).bits
    = wrapInt t.width (max (intRange t).1 (min (intRange t).2 i)) := by
  obtain ⟨neg, m, rfl, rfl⟩ := hv
  have hr : roundQ m 0 0 false rnd neg draw = (m, false) := by simpa using roundQ_natCast m 0 rnd neg draw
  have hrange : (intRange t).1 ≤ (intRange t).2 := by cases t <;> decide
  simp only [encodeElem, floatFmt_int ht, encodeInt, hr, if_true]
  generalize (if neg then -(m : Int) else m) = n
  split
  next h => exact congrArg (wrapInt t.width) (by omega)
  next h =>
    refine congrArg (wrapInt t.width) ?_
    split
    all_goals omega

end

theorem encode_gives {r : Res} {i : Int} (h : Gives r i) (rnd : Rnd) (ftz : Bool) (draw : Word) :
    r.encode t rnd false ftz draw = ⟨wrapInt t.width i, 0⟩ := by
  simp [Res.encode, Res.flags, h.1, encodeElem_isInt ht h.2]

end

/-! ## Patterns modulo 2^w (R84) -/

/-- Two integers with the same pattern of w bits. -/
def SameBits (w : Nat) (i j : Int) : Prop := i % 2 ^ w = j % 2 ^ w

section
variable {w : Nat}

section
variable {i j k l : Int} (h : SameBits w i j) (g : SameBits w k l)
include h

theorem SameBits.neg : SameBits w (-i) (-j) :=
  Int.emod_eq_emod_iff_emod_sub_eq_zero.mpr (by
    rw [show -i - -j = -(i - j) by omega]
    have hdvd := Int.dvd_of_emod_eq_zero (Int.emod_eq_emod_iff_emod_sub_eq_zero.mp h)
    exact Int.emod_eq_zero_of_dvd (Int.dvd_neg.mpr hdvd))

include g

theorem SameBits.add : SameBits w (i + k) (j + l) := by
  rw [SameBits, Int.add_emod, show i % 2 ^ w = j % 2 ^ w from h, show k % 2 ^ w = l % 2 ^ w from g, ← Int.add_emod]

theorem SameBits.mul : SameBits w (i * k) (j * l) := by
  rw [SameBits, Int.mul_emod, show i % 2 ^ w = j % 2 ^ w from h, show k % 2 ^ w = l % 2 ^ w from g, ← Int.mul_emod]

end

theorem wrapInt_sameBits {i : Int} {n : Nat} (h : SameBits w i n) : wrapInt w i = n % 2 ^ w := by
  rw [wrapInt, show i % 2 ^ w = n % 2 ^ w from h]
  exact_mod_cast Int.toNat_natCast (n % 2 ^ w)

theorem natCast_wrapInt (i : Int) : (wrapInt w i : Int) = i % 2 ^ w :=
  Int.toNat_of_nonneg (Int.emod_nonneg _ (Int.ne_of_gt (Int.pow_pos (by decide))))

theorem wrapInt_lt (i : Int) : wrapInt w i < 2 ^ w := by
  have hpos : (0 : Int) < 2 ^ w := Int.pow_pos (by decide)
  have h := Int.emod_lt_of_pos i hpos
  rw [← natCast_wrapInt] at h
  exact_mod_cast h

theorem wrapInt_sub_emod (i : Int) : ((wrapInt w i : Int) - i) % 2 ^ w = 0 := by
  rw [natCast_wrapInt, Int.sub_emod, Int.emod_emod, ← Int.sub_emod, Int.sub_self, Int.zero_emod]

/-- The integer of a pattern, with the pattern's top bit as its sign in a signed type. -/
theorem intOfBits_of_lt (sg : Bool) {a : Nat} (ha : a < 2 ^ w) :
    intOfBits sg w a = if sg = true ∧ 2 ^ (w - 1) ≤ a then (a : Int) - 2 ^ w else a := by
  simp only [intOfBits, Nat.mod_eq_of_lt ha]

theorem intOfBits_sameBits (sg : Bool) {a : Nat} (ha : a < 2 ^ w) : SameBits w (intOfBits sg w a) a := by
  rw [intOfBits_of_lt sg ha]
  split
  · exact Int.sub_emod_right _ _
  · rfl

/-- The pattern of the negated integer. -/
theorem neg_sameBits (sg : Bool) {a : Nat} (ha : a < 2 ^ w) : SameBits w (-intOfBits sg w a) (2 ^ w - a : Nat) := by
  have hcast : ((2 ^ w - a : Nat) : Int) = -a + 2 ^ w := by
    have hpow : ((2 ^ w : Nat) : Int) = 2 ^ w := Int.natCast_pow 2 w
    rw [Int.natCast_sub (Nat.le_of_lt ha), hpow, Int.sub_eq_add_neg, Int.add_comm]
  rw [hcast]
  exact (intOfBits_sameBits sg ha).neg.trans (Int.add_emod_right _ _).symm

theorem wrapInt_intOfBits (sg : Bool) {a : Nat} (ha : a < 2 ^ w) : wrapInt w (intOfBits sg w a) = a := by
  rw [wrapInt_sameBits (intOfBits_sameBits sg ha), Nat.mod_eq_of_lt ha]

theorem intOfBits_inj (sg : Bool) {a b : Nat} (ha : a < 2 ^ w) (hb : b < 2 ^ w) : intOfBits sg w a = intOfBits sg w b ↔ a = b :=
  ⟨fun h => by rw [← wrapInt_intOfBits sg ha, h, wrapInt_intOfBits sg hb], fun h => by rw [h]⟩

end

/-! ## The forms on patterns of one integer type (R295, R296, R305) -/

/-- A form of type t without sat. -/
def form (fn : VFn) (t : DType) (d x y : Shape) : VOp := ⟨fn, t, .rne, false, false, d, x, y⟩

/-- Of an integer of w bits a quotient by 2^w is 0 or -1, and so is one by any higher power. -/
theorem ediv_two_pow_of_le {w n : Nat} {i : Int} (hw : w ≤ n) (hlo : -2 ^ w ≤ i) (hhi : i < 2 ^ w) : i / 2 ^ n = i / 2 ^ w := by
  have hpow : (2 : Int) ^ w ≤ 2 ^ n := by exact_mod_cast Nat.pow_le_pow_right Nat.two_pos hw
  by_cases h : 0 ≤ i
  · rw [Int.ediv_eq_zero_of_lt h hhi, Int.ediv_eq_zero_of_lt h (Int.lt_of_lt_of_le hhi hpow)]
  · have h : i < 0 := Int.not_le.mp h
    rw [Int.ediv_eq_neg_one_of_neg_of_le h (by omega), Int.ediv_eq_neg_one_of_neg_of_le h (by omega)]

theorem intOfBits_bounds {w a : Nat} (sg : Bool) (ha : a < 2 ^ w) : -2 ^ w ≤ intOfBits sg w a ∧ intOfBits sg w a < 2 ^ w := by
  have ha' : (a : Int) < 2 ^ w := by exact_mod_cast ha
  rw [intOfBits_of_lt sg ha]
  split
  all_goals omega

section
variable {t : DType} (ht : t.isInt = true)
include ht

theorem encode_sameBits {r : Res} {i : Int} {n : Nat} (h : Gives r i) (hn : SameBits t.width i n) (ftz : Bool) (draw : Word) :
    r.encode t .rne false ftz draw = ⟨n % 2 ^ t.width, 0⟩ := by
  rw [encode_gives ht h, wrapInt_sameBits hn]

/-- An integer shifted left by n, modulo 2^w. -/
theorem encode_shift (i : Int) (n : Nat) (ftz : Bool) (draw : Word) :
    (⟨shiftVal (valOfInt i) n, false⟩ : Res).encode t .rne false ftz draw = ⟨wrapInt t.width (i * 2 ^ n), 0⟩ := by
  have hval : (if decide (i < 0) then -((i.natAbs * 2 ^ n : Nat) : Int) else (i.natAbs * 2 ^ n : Nat)) = i * 2 ^ n := by
    rw [ite_natAbs_mul, Int.natCast_pow]
    rfl
  simp only [Res.encode, Res.flags, shiftVal, valOfInt, Int.zero_add, encodeElem_fin ht, hval, Bool.false_eq_true, if_false,
    BitVec.or_self]

variable {a b c : Nat} (ha : a < 2 ^ t.width) (hb : b < 2 ^ t.width) (hc : c < 2 ^ t.width) (draw : Word) (d x y : Shape)

theorem elem_abs : (form .abs t d x y).elem t t a b c draw = ⟨(intOfBits t.signed t.width a).natAbs % 2 ^ t.width, 0⟩ := by
  simp only [VOp.elem, form, absElem, isFloat_int ht, Bool.false_eq_true, if_false]
  rw [wrapInt_sameBits rfl]

section
include ha

theorem elem_neg : (form .neg t d x y).elem t t a b c draw = ⟨(2 ^ t.width - a) % 2 ^ t.width, 0⟩ := by
  simp only [VOp.elem, form, negElem, isFloat_int ht, Bool.false_eq_true, if_false]
  rw [wrapInt_sameBits (neg_sameBits t.signed ha)]

theorem elem_shl : (form .shl t d x y).elem t t a b c draw
    = ⟨if t.width ≤ b then 0 else a * 2 ^ b % 2 ^ t.width, 0⟩ := by
  have hw := (width_int ht).2
  have hbits : SameBits t.width (intOfBits t.signed t.width a * 2 ^ min b 128) (a * 2 ^ min b 128 : Nat) := by
    rw [Int.natCast_mul, Int.natCast_pow]
    exact (intOfBits_sameBits t.signed ha).mul rfl
  simp only [VOp.elem, form, elemVal_int ht, shiftCount, encode_shift ht, wrapInt_sameBits hbits]
  split
  next h => rw [Nat.mod_eq_zero_of_dvd (Nat.dvd_mul_left_of_dvd (Nat.pow_dvd_pow 2 (by omega)) a)]
  next h => rw [show min b 128 = b by omega]

theorem elem_shr : (form .shr t d x y).elem t t a b c draw = ⟨if t.width ≤ b then 0 else a / 2 ^ b, 0⟩ := by
  have hw := (width_int ht).2
  simp only [VOp.elem, form, shrElem, shiftCount]
  split
  next h => rw [Nat.div_eq_of_lt (Nat.lt_of_lt_of_le ha (Nat.pow_le_pow_right Nat.two_pos (by omega)))]
  next h => rw [show min b 128 = b by omega]

/-- The signed value over 2^n, rounded down, modulo 2^w. -/
theorem elem_sra : (form .sra t d x y).elem t t a b c draw
    = ⟨wrapInt t.width ((intOfBits true t.width a).fdiv (2 ^ min b t.width)), 0⟩ := by
  have hw := (width_int ht).2
  obtain ⟨hlo, hhi⟩ := intOfBits_bounds true ha
  simp only [VOp.elem, form, sraElem, shiftCount, Int.fdiv_eq_ediv_of_nonneg _ (Int.pow_nonneg (show (0 : Int) ≤ 2 by decide))]
  by_cases h : t.width ≤ b
  · rw [ediv_two_pow_of_le (show t.width ≤ min b 128 by omega) hlo hhi, Nat.min_eq_right h]
  · rw [show min b 128 = b by omega, show min b t.width = b by omega]

section
include hb

theorem elem_add : (form .add t d x y).elem t t a b c draw = ⟨(a + b) % 2 ^ t.width, 0⟩ := by
  have hbits := (intOfBits_sameBits t.signed ha).add (intOfBits_sameBits t.signed hb)
  rw [← Int.natCast_add] at hbits
  simp only [VOp.elem, form, elemVal_int ht]
  exact encode_sameBits ht (gives_add (isInt_valOfInt _) (isInt_valOfInt _) _) hbits _ _

theorem elem_sub : (form .sub t d x y).elem t t a b c draw = ⟨(a + (2 ^ t.width - b)) % 2 ^ t.width, 0⟩ := by
  have hbits := (intOfBits_sameBits t.signed ha).add (neg_sameBits t.signed hb)
  rw [← Int.natCast_add] at hbits
  simp only [VOp.elem, form, elemVal_int ht]
  exact encode_sameBits ht (gives_add (isInt_valOfInt _) (isInt_neg (isInt_valOfInt _)) _) hbits _ _

omit ht in
theorem product_sameBits : SameBits t.width (intOfBits t.signed t.width a * intOfBits t.signed t.width b) (a * b : Nat) := by
  rw [Int.natCast_mul]
  exact (intOfBits_sameBits t.signed ha).mul (intOfBits_sameBits t.signed hb)

theorem elem_mul : (form .mul t d x y).elem t t a b c draw = ⟨a * b % 2 ^ t.width, 0⟩ := by
  simp only [VOp.elem, form, elemVal_int ht]
  exact encode_sameBits ht (gives_mul (isInt_valOfInt _) (isInt_valOfInt _)) (product_sameBits ha hb) _ _

section
include hc

theorem elem_fma : (form .fma t d x y).elem t t a b c draw = ⟨(a * b + c) % 2 ^ t.width, 0⟩ := by
  have hbits := (product_sameBits ha hb).add (intOfBits_sameBits t.signed hc)
  rw [← Int.natCast_add] at hbits
  simp only [VOp.elem, form, elemVal_int ht]
  exact encode_sameBits ht (gives_fma (isInt_valOfInt _) (isInt_valOfInt _) _ (isInt_valOfInt _)) hbits _ _

theorem elem_fms : (form .fms t d x y).elem t t a b c draw = ⟨(a * b + (2 ^ t.width - c)) % 2 ^ t.width, 0⟩ := by
  have hbits := (product_sameBits ha hb).add (neg_sameBits t.signed hc)
  rw [← Int.natCast_add] at hbits
  simp only [VOp.elem, form, elemVal_int ht]
  exact encode_sameBits ht (gives_fma (isInt_valOfInt _) (isInt_valOfInt _) _ (isInt_neg (isInt_valOfInt _))) hbits _ _

/-- VRSUM of three elements. -/
theorem rsum_int : (form .rsum t d x y).rsum [decodeElem t a, decodeElem t b, decodeElem t c] draw 0
    = ⟨(a + b + c) % 2 ^ t.width, 0⟩ := by
  have hsum := gives_add (gives_add (gives_add isInt_zero (isInt_valOfInt (intOfBits t.signed t.width a)) false).2
    (isInt_valOfInt (intOfBits t.signed t.width b)) false).2 (isInt_valOfInt (intOfBits t.signed t.width c)) false
  have hbits := ((intOfBits_sameBits t.signed ha).add (intOfBits_sameBits t.signed hb)).add (intOfBits_sameBits t.signed hc)
  rw [← Int.natCast_add, ← Int.natCast_add] at hbits
  rw [Int.zero_add] at hsum
  simp only [VOp.rsum, form, isFloat_int ht, decodeElem_int ht, List.foldl_cons, List.foldl_nil, Bool.false_eq_true, if_false]
  rw [encodeElem_isInt ht hsum.2, wrapInt_sameBits hbits]

end

theorem elem_min : (form .min t d x y).elem t t a b c draw
    = ⟨if intOfBits t.signed t.width a ≤ intOfBits t.signed t.width b then a else b, 0⟩ := by
  simp only [VOp.elem, form, elemVal_int ht, minVal_valOfInt, encodeElem_isInt ht (isInt_valOfInt _)]
  split
  · rw [wrapInt_intOfBits _ ha]
  · rw [wrapInt_intOfBits _ hb]

theorem elem_max : (form .max t d x y).elem t t a b c draw
    = ⟨if intOfBits t.signed t.width a ≤ intOfBits t.signed t.width b then b else a, 0⟩ := by
  simp only [VOp.elem, form, elemVal_int ht, maxVal_valOfInt, encodeElem_isInt ht (isInt_valOfInt _)]
  split
  · rw [wrapInt_intOfBits _ hb]
  · rw [wrapInt_intOfBits _ ha]

theorem elem_ceq : (form .ceq t d x y).elem t t a b c draw = ⟨maskElem t (a == b), 0⟩ := by
  simp only [VOp.elem, form, elemVal_int ht, eqVal_valOfInt, intOfBits_inj t.signed ha hb]
  rfl

end
end

/-- With sat a sum is clamped to the type's range (R99). -/
theorem elem_add_sat : ((⟨.add, t, .rne, true, false, d, x, y⟩ : VOp).elem t t a b c draw).bits = wrapInt t.width
    (max (intRange t).1 (min (intRange t).2 (intOfBits t.signed t.width a + intOfBits t.signed t.width b))) := by
  simp only [VOp.elem, elemVal_int ht, Res.encode]
  exact encodeElem_sat ht (gives_add (isInt_valOfInt _) (isInt_valOfInt _) _).2 _ _ _

theorem elem_clt : (form .clt t d x y).elem t t a b c draw
    = ⟨maskElem t (decide (intOfBits t.signed t.width a < intOfBits t.signed t.width b)), 0⟩ := by
  simp only [VOp.elem, form, elemVal_int ht, ltVal_valOfInt]

theorem elem_cle : (form .cle t d x y).elem t t a b c draw
    = ⟨maskElem t (decide (intOfBits t.signed t.width a ≤ intOfBits t.signed t.width b)), 0⟩ := by
  simp only [VOp.elem, form, elemVal_int ht, leVal_valOfInt]

end

/-! ## VEXP2 (R298-R300) -/

/-- VEXP2 of an f32 pattern is the value that R300 computes of it, encoded once. -/
theorem elem_exp2 (p : Nat) (d x y : Shape) : (form .exp2 .f32 d x y).elem .f32 .f32 p 0 0 0
    = (exp2Val (f32Val p)).encode .f32 .rne false false 0 := rfl

/-! ## The obligation -/

/-- Settles O37: an integer form is its exact operation modulo 2^w, a selection or a mask; VEXP2 of the worked example is computed. -/
theorem vectorElementsFollowTheirForms : Obligations.VectorElementsFollowTheirForms := by
  unfold Obligations.VectorElementsFollowTheirForms
  refine ⟨fun t a b c dr d x y ht ha hb hc => ?integers, fun d x y => ?exp2⟩
  case integers =>
    simp only [← intOfBits_of_lt t.signed ha, ← intOfBits_of_lt t.signed hb]
    refine ⟨elem_add ht ha hb .., elem_sub ht ha hb .., elem_mul ht ha hb .., elem_fma ht ha hb hc .., elem_fms ht ha hb hc ..,
      elem_neg ht ha .., elem_abs ht .., rfl, rfl, rfl, elem_shl ht ha .., elem_shr ht ha .., ?sra, elem_min ht ha hb ..,
      elem_max ht ha hb .., elem_ceq ht ha hb .., elem_clt ht .., elem_cle ht .., rfl, rfl, ?sat, rsum_int ht ha hb hc ..⟩
    case sra =>
      have hval : (if 2 ^ (t.width - 1) ≤ a then (a : Int) - 2 ^ t.width else a) = intOfBits true t.width a := by
        simp only [intOfBits_of_lt true ha, true_and]
      rw [hval]
      exact ⟨_, elem_sra ht ha .., wrapInt_lt _, wrapInt_sub_emod _⟩
    case sat =>
      rw [elem_add_sat ht, intRange_eq]
      rfl
  case exp2 =>
    intro exp2
    have hexp : ∀ p, exp2 p = (exp2Val (f32Val p)).encode .f32 .rne false false 0 := fun p => elem_exp2 p d x y
    simp only [hexp]
    decide

end Sys2Proof.VectorElements
end

section
/-!
PROOFS. COPY, GATHER and SCATTER at issue (12_copy_engine.md, R355, R357, R361, R376, R380, R381, R383): the records and bytes that a
copy word reads, the rules of its channel, its checks in their order, and the transfer that it queues.
-/

namespace Sys2Proof.CopyWords

open Sys2Proof.Machine Sys2Proof.ShapeWords

/-! ## Records (R355, R361 step 2) -/

section
variable {s : State} {c : Ctx} {a : Addr}

theorem withRecord_misaligned (k : Pat → Out) (ha : a.toNat % 64 ≠ 0) : withRecord s c a k = .next (s.trap causeMisalign a) := by
  simp [withRecord, aligned, ha]

section
variable (ha : a.toNat % 64 = 0)
include ha

theorem recordRead_stored {l : List Byte} (hl : s.storedPat s.cur.1 c.vintage a = some l) : RecordRead s c a (patOf l) := by
  intro k
  simp [withRecord, aligned, ha, hl]

theorem recordRead_private {va : Addr} (hl : s.storedPat s.cur.1 c.vintage a = none) (hva : ownLocal (s.lcn s.cur.1) a = va)
    (hfree : Passes s (rangeOf (s.lcn s.cur.1) s.cur.2 va 64) false) (hf : c.fetched = []) (hh : ∀ p, s.me.hold ≠ .block p)
    (hlo : 0x8000000 ≤ va.toNat) (hhi : va.toNat < 0x8004000) :
    RecordRead s c a
      (patOf (memRead s.mem (scrAddr s.cur.1 (0x2E0000 + 0x4000 * s.cur.2 + (va.toNat - 0x8000000))) 64)) := by
  intro k
  calc withRecord s c a k = withBlock s c a 64 fun l => k (patOf l) := by
        simp [withRecord, aligned, ha, hl, hva, gated_free _ hfree]
    _ = _ := withBlock_private hf hh hva hlo hhi

end
end

/-! ## The channel (R357, R383) -/

/-- What a COPY, GATHER or SCATTER waits for: its channel holds 4 transfers, or a stream that is not of its context. -/
def ChanBusy (s : State) (ch : Nat) : Prop :=
  4 ≤ (s.myCore.chan ch).live.length ∨ ∃ z, (s.myCore.chan ch).stream = some z ∧ z.mine s.cur.2 = false

section
variable {s : State} {ch : Nat} (k : Bool → Out)

theorem chanWord_busy (h : ChanBusy s ch) : chanWord s ch k = .next s := by
  obtain hfull | ⟨z, hz, hmine⟩ := h
  · simp [chanWord, hfull]
  · simp [chanWord, hz, hmine]

/-- Past the rules of its channel a word finds a stream there only if it is one of its own context. -/
theorem chanWord_free (h : ¬ChanBusy s ch) : chanWord s ch k = k (s.myCore.chan ch).stream.isSome := by
  obtain ⟨hroom, hown⟩ := not_or.mp h
  rw [chanWord, if_neg hroom]
  cases hz : (s.myCore.chan ch).stream with
  | none => rfl
  | some z =>
    have hmine : z.mine s.cur.2 = true := eq_true_of_ne_false fun hother => hown ⟨z, hz, hother⟩
    simp [hmine]

end

/-! ## The checks, in the order of R361 -/

/-- The first check of a list that fails traps; a word that passes them all goes on. -/
def checked (s : State) (l : List (Option (BitVec 5 × Addr))) (out : Out) : Out :=
  match firstFail l with
  | some (cause, fa) => .next (s.trap cause fa)
  | none => out

section
variable {s : State} {l : List (Option (BitVec 5 × Addr))} {out : Out}

theorem checked_traps {cause : BitVec 5} {fa : Addr} (h : firstFail l = some (cause, fa)) :
    checked s l out = .next (s.trap cause fa) := by
  simp [checked, h]

theorem checked_passes (h : firstFail l = none) : checked s l out = out := by
  simp [checked, h]

end

theorem firstFail_append_none (l : List (Option (BitVec 5 × Addr))) : firstFail (l ++ [none]) = firstFail l := by
  induction l with
  | nil => rfl
  | cons e t ih =>
    cases e with
    | none => exact ih
    | some e => rfl

/-- A check that cannot fail adds nothing behind the others. -/
theorem checked_append_none (s : State) (l : List (Option (BitVec 5 × Addr))) (out : Out) :
    checked s (l ++ [none]) out = checked s l out := by
  rw [checked, firstFail_append_none]
  rfl

/-- The checks that COPY, GATHER and SCATTER share (R361): the records, the overlap, source, destination and flag word. -/
def transferChecks (s : State) (c : Ctx) (bad peer rel : Bool) (src dst : Pat) : List (Option (BitVec 5 × Addr)) :=
  [failIf bad causeIllegal, failIf (!dst.once || s.spansShare src dst) causeOverlap, s.patFail c src (.source peer),
    s.patFail c dst .dest, s.flagFail c dst rel]

/-! ## The transfer (R357, R376) -/

/-- The machine with a transfer queued on a channel and counted in cp, its id in x[d]. -/
def queued (s : State) (c : Ctx) (d : Reg) (ch : Nat) (flags : Word) (z : Xfer) : State :=
  (finishScalar (s.setMyCore (s.myCore.queueXfer ch { z with opId := some c.issued }))
    (c.startOp .cp (BitVec.ofInt 56 z.dst.spanI.1) false true (.copy ch z.id.toNat)) d (BitVec.ofNat 64 z.id.toNat) flags).due
      (.copyRequest s.cur.1 ch)

section
variable {s : State} {c : Ctx} {d : Reg} {ch : Nat} {flags : Word} {z : Xfer}

theorem startCopy_queues (hcp : c.cp < 63) (hacq : c.acquiring = false) :
    startCopy s c d ch flags z = .next (queued s c d ch flags z) := by
  simp [startCopy, Ctx.canCount, Ctx.cnt, hcp, hacq, queued, BitVec.ofNat_toNat]

/-- What a word does once its records are read: the first check that fails traps it, and one that passes queues its transfer. -/
theorem checkedCopy_outcomes {o : Out} {l : List (Option (BitVec 5 × Addr))} (ho : o = checked s l (startCopy s c d ch flags z)) :
    (∀ cause fa, firstFail l = some (cause, fa) → o = .next (s.trap cause fa))
      ∧ (firstFail l = none → c.cp < 63 → c.acquiring = false → o = .next (queued s c d ch flags z)) := by
  subst ho
  exact ⟨fun _ _ hl => checked_traps hl, fun hl hcp hacq => (checked_passes hl).trans (startCopy_queues hcp hacq)⟩

end

/-! ## COPY (R361, R376, R552) -/

/-- Whether the records of a COPY are illegal (R352, R353, R361, R552), or its channel carries a stream of its context. -/
def copyIllegal (src dst : Pat) (wm own : Bool) : Bool :=
  !src.valid || !dst.valid || src.esize != dst.esize || src.count != dst.count || (wm && !dst.canonical)
    || (spaceOf src.base == .peer && !src.dense) || own

section
variable {d a b : Reg} {ch : BitVec 3} {wm acq rel : Bool} {scope : Scope} {s : State} {x y : Word} {c : Ctx}
  (h : Issues s ntHints [a, b] [d] true false false [x, y] c)
include h

theorem exec_copy_busy (hbusy : ChanBusy s ch.toNat) : exec (.copy d a b ch wm acq rel scope) s = .next s := by
  rw [exec_copy, execCopy, issueWord_issues _ h, chanWord_busy _ hbusy]

theorem exec_copy_read {src dst : Pat} (hbusy : ¬ChanBusy s ch.toNat) (hsrc : RecordRead s c (BitVec.ofNat 56 x.toNat) src)
    (hdst : RecordRead s c (BitVec.ofNat 56 y.toNat) dst) : exec (.copy d a b ch wm acq rel scope) s
      = checked s (transferChecks s c (copyIllegal src dst wm (s.myCore.chan ch.toNat).stream.isSome) true rel src dst)
        (startCopy s c d ch.toNat 0 { newXfer s c ch.toNat .copy src dst with
          wm := wm, rel := scopeIf rel scope, acqWait := c.acquireWaits acq scope }) := by
  rw [BitVec.ofNat_toNat] at hsrc hdst
  rw [exec_copy, execCopy, issueWord_issues _ h, chanWord_free _ hbusy]
  exact (hsrc _).trans (hdst _)

end

/-! ## GATHER and SCATTER (R361, R380, R381) -/

/-- The check of R381 with oobf: the first index out of range, of a list at an address, faults PROT. -/
def indexCheck (oobf : Bool) (list : Addr) (width : Nat) (outside : Option Nat) : Option (BitVec 5 × Addr) :=
  if oobf then outside.map fun p => (causeProt, list + BitVec.ofNat 56 (8 + width * p)) else none

/-- Whether the records and the index list's header of a GATHER or SCATTER are illegal (R361, R380), or its channel carries a stream
of its context. -/
def indexedIllegal (tab lin : Pat) (hdr : Nat) (own : Bool) : Bool :=
  !tab.tableOk || !lin.valid || tab.esize != lin.esize || lin.count != hdr % 512 * rowLen tab || own || !idxHeaderOk hdr

section
variable {s : State} {c : Ctx} {d : Reg} {ch : Nat} {own scatter oobf acq rel : Bool} {scope : Scope} {list : Addr} {tab lin : Pat}
  {hdr : Nat} {idx : List Byte} {r : List (Option Nat) × Option Nat}

/-- GATHER reads the table and SCATTER writes it. -/
theorem startIndexed_eq {src dst : Pat} {kind : XKind} (hr : idxOf (tab.sizes.getD 1 1) (idxBytes hdr) idx (hdr % 512) = r)
    (hends : (if scatter then lin else tab) = src ∧ (if scatter then tab else lin) = dst ∧ (if scatter then .scatter else .gather) = kind) :
    startIndexed s c d ch own scatter oobf acq rel scope list tab lin hdr idx
      = checked s (transferChecks s c (indexedIllegal tab lin hdr own) false rel src dst ++ [indexCheck oobf list (idxBytes hdr) r.2])
        (startCopy s c d ch (if r.2.isSome then stickyGoob else 0) { newXfer s c ch kind src dst with
          idx := r.1, count := hdr % 512 * rowLen tab, rel := scopeIf rel scope, acqWait := c.acquireWaits acq scope }) := by
  obtain ⟨rfl, rfl, rfl⟩ := hends
  have hlast : (match r.2 with
      | some p => if oobf then some (causeProt, list + BitVec.ofNat 56 (8 + idxBytes hdr * p)) else none
      | none => none) = indexCheck oobf list (idxBytes hdr) r.2 := by
    cases r.2 <;> cases oobf <;> rfl
  subst hr
  rw [← hlast]
  rfl

end

section
variable {d a b : Reg} {ch : BitVec 3} {scatter oobf acq rel : Bool} {scope : Scope} {s : State} {x y : Word} {c : Ctx}
  (h : Issues s ntHints [a, b] [d] true false false [x, y] c)
include h

theorem indexedWord_busy (hbusy : ChanBusy s ch.toNat) : indexedWord d a b ch scatter oobf acq rel scope s = .next s := by
  rw [indexedWord, issueWord_issues _ h, chanWord_busy _ hbusy]

section
variable {tab lin : Pat} {ra rb : Addr} (hra : BitVec.ofNat 56 x.toNat = ra) (hrb : BitVec.ofNat 56 y.toNat = rb)
  (hbusy : ¬ChanBusy s ch.toNat) (htab : RecordRead s c ra tab) (hlin : RecordRead s c (ra + 64) lin)
include hra hrb hbusy htab hlin

/-- With both records read, the index list's address is looked at. -/
theorem indexedWord_records : indexedWord d a b ch scatter oobf acq rel scope s
    = if !aligned rb 8 then .next (s.trap causeMisalign rb)
      else withBytes s c 1 rb 8 [] fun hd => withBytes s c 40 (rb + 8) (if idxHeaderOk (leNat hd) then leNat hd % 512 * idxBytes (leNat hd) else 0)
        [] fun l => startIndexed s c d ch.toNat (s.myCore.chan ch.toNat).stream.isSome scatter oobf acq rel scope rb tab lin (leNat hd) l := by
  subst hra hrb
  rw [BitVec.ofNat_toNat] at *
  rw [indexedWord, issueWord_issues _ h, chanWord_free _ hbusy]
  exact (htab _).trans (hlin _)

theorem indexedWord_misaligned (hal : rb.toNat % 8 ≠ 0) :
    indexedWord d a b ch scatter oobf acq rel scope s = .next (s.trap causeMisalign rb) := by
  rw [indexedWord_records h hra hrb hbusy htab hlin]
  simp [aligned, hal]

theorem indexedWord_read {hd l : List Byte} (hal : rb.toNat % 8 = 0) (hhd : BytesRead s c 1 rb 8 hd)
    (hl : BytesRead s c 40 (rb + 8) (if idxHeaderOk (leNat hd) then leNat hd % 512 * idxBytes (leNat hd) else 0) l) :
    indexedWord d a b ch scatter oobf acq rel scope s = startIndexed s c d ch.toNat (s.myCore.chan ch.toNat).stream.isSome scatter oobf
      acq rel scope rb tab lin (leNat hd) l := by
  rw [indexedWord_records h hra hrb hbusy htab hlin, aligned, decide_eq_true hal]
  exact (hhd _).trans (hl _)

end
end

/-! ## The obligation -/

/-- Settles O40: the words go by their channel, then by their records and index list, then by the checks of R361. -/
theorem copiesAreCheckedAndQueued : Obligations.CopiesAreCheckedAndQueued := by
  unfold Obligations.CopiesAreCheckedAndQueued
  intro d a b ch wm oobf acq rel scope s x y c site n lcn ra rb chan is fails queues waits new own order
  refine ⟨fun ha k => withRecord_misaligned k ha, fun l ha hl => recordRead_stored ha hl,
    fun ha hl hfree hf hh hlo hhi _ => recordRead_private ha hl rfl hfree hf hh hlo hhi,
    fun h hbusy => ⟨exec_copy_busy h hbusy, indexedWord_busy h hbusy, indexedWord_busy h hbusy⟩,
    fun src dst h hfree hsrc hdst => checkedCopy_outcomes ((exec_copy_read h hfree hsrc hdst).trans (checked_append_none ..).symm),
    fun tab lin hd l h hfree htab hlin => ?indexed⟩
  case indexed =>
    refine ⟨fun hal => ?misaligned, fun hal hhd hl => ⟨checkedCopy_outcomes ?scatter, checkedCopy_outcomes ?gather⟩⟩
    case misaligned =>
      constructor
      all_goals exact indexedWord_misaligned h rfl rfl hfree htab hlin hal
    case scatter => exact (indexedWord_read h rfl rfl hfree htab hlin hal hhd hl).trans (startIndexed_eq rfl ⟨rfl, rfl, rfl⟩)
    case gather => exact (indexedWord_read h rfl rfl hfree htab hlin hal hhd hl).trans (startIndexed_eq rfl ⟨rfl, rfl, rfl⟩)

end Sys2Proof.CopyWords
end

section
/-!
PROOFS. STRM, STRMW and STRMEND (R382, R383, R385), CWAIT (R359, R374, R377), the channel queries (R378) and CABORT (R379): how a
register is bound to a transfer, when an id has passed, what a channel shows, and what a CABORT waits for.
-/

namespace Sys2Proof.ChannelWords

open Sys2Proof.Machine Sys2Proof.CopyWords

/-! ## STRM and STRMW (R361, R382, R383) -/

/-- Whether a stream word's record is illegal (R361, R382), its register is a stream already, or its context has a transfer on the
channel. -/
def streamIllegal (s : State) (c : Ctx) (write : Bool) (d : Reg) (ch : Nat) (p : Pat) : Bool :=
  !p.valid || decide (3 < p.esize) || p.flag != 0 || (p.ext && p.pack) || (write && !p.canonical)
    || (spaceOf p.base == .peer && !p.dense) || c.mode d != .off || (s.myCore.chan ch).live.any fun z => z.mine s.cur.2

/-- The checks of a stream word, in the order of R361. -/
def streamChecks (s : State) (c : Ctx) (write : Bool) (d : Reg) (ch : Nat) (p : Pat) : List (Option (BitVec 5 × Addr)) :=
  [failIf (streamIllegal s c write d ch p) causeIllegal, failIf (write && !p.once) causeOverlap,
    s.patFail c p (if write then .dest else .stream)]

/-- The context with x[d] a stream of a channel, at position 0. -/
def bindReg (c : Ctx) (write : Bool) (d : Reg) (ch : Nat) (p : Pat) : Ctx :=
  { c with
    issued := c.issued + 1, smode := c.smode.setIfInBounds (streamIx d) (if write then .write else .read),
    spos := c.spos.setIfInBounds (streamIx d) 0, strm := c.strm.setIfInBounds (streamIx d) ⟨ch, [], [], p.pops, false⟩ }

/-- The machine with x[d] bound to the next transfer of a channel; a read stream starts to fill. -/
def bound (s : State) (c : Ctx) (write : Bool) (d : Reg) (ch : Nat) (p : Pat) : State :=
  let t := (s.setMyCore (s.myCore.queueXfer ch { newXfer s c ch (if write then .wstream else .rstream) p p with
    wm := write })).setMe (bindReg c write d ch p).advance
  if write then t else t.due (.streamRefill s.cur.1 ch)

section
variable {write : Bool} {d a : Reg} {ch : BitVec 3} {s : State} {x : Word} {c : Ctx} {p : Pat}
  (h : Issues s noHints [a] [] false false false [x] c) (hclear : c.clear d = true)
  (hroom : (s.myCore.chan ch.toNat).live.length < 4) (hacq : c.acquiring = false)
  (hp : RecordRead s c (BitVec.ofNat 56 x.toNat) p)
include h hclear hroom hacq hp

/-- With its record read a stream word goes by its checks, then waits for an empty channel. -/
theorem streamWord_read : streamWord write d a ch s = checked s (streamChecks s c write d ch.toNat p)
    (if (s.myCore.chan ch.toNat).live.isEmpty then .next (bound s c write d ch.toNat p) else .next s) := by
  have hgoes : ¬(!c.clear d || decide (4 ≤ (s.myCore.chan ch.toNat).live.length) || c.acquiring) = true := by
    simp [hclear, hacq, hroom]
  rw [BitVec.ofNat_toNat] at hp
  rw [streamWord, issueWord_issues _ h]
  refine (if_neg hgoes).trans ((hp _).trans ?_)
  rw [checked, streamChecks]
  cases (s.myCore.chan ch.toNat).live.isEmpty <;> rfl

theorem streamWord_traps {cause : BitVec 5} {fa : Addr} (hc : firstFail (streamChecks s c write d ch.toNat p) = some (cause, fa)) :
    streamWord write d a ch s = .next (s.trap cause fa) :=
  (streamWord_read h hclear hroom hacq hp).trans (checked_traps hc)

section
variable (hc : firstFail (streamChecks s c write d ch.toNat p) = none)
include hc

theorem streamWord_waits (hlive : (s.myCore.chan ch.toNat).live ≠ []) : streamWord write d a ch s = .next s := by
  rw [streamWord_read h hclear hroom hacq hp, checked_passes hc, if_neg (by simpa using hlive)]

theorem streamWord_binds (hlive : (s.myCore.chan ch.toNat).live = []) :
    streamWord write d a ch s = .next (bound s c write d ch.toNat p) := by
  rw [streamWord_read h hclear hroom hacq hp, checked_passes hc, if_pos (by simp [hlive])]

end
end

/-! ## STRMEND (R385) -/

section
variable {d : Reg} {ch : BitVec 3} {s : State} {c : Ctx} (h : Issues s noHints [] [] false false false [] c)
include h

theorem exec_strmend_illegal (hd : c.mode d = .off ∨ (c.strm[streamIx d]?.getD StreamReg.off).ch ≠ ch.toNat) :
    exec (.strmend d ch) s = .next (s.trap causeIllegal 0) := by
  rw [exec_strmend, execStrmend, issueWord_issues _ h, if_pos hd]

theorem exec_strmend_ends (hd : c.mode d ≠ .off) (hch : (c.strm[streamIx d]?.getD StreamReg.off).ch = ch.toNat) {t : State}
    (ht : s.endStream s.cur.1 s.cur.2 (streamIx d) = t) :
    exec (.strmend d ch) s = .next (t.setMe (t.me.put d (Config.freeBits 64 s.tick)).advance) := by
  subst ht
  rw [exec_strmend, execStrmend, issueWord_issues _ h, if_neg (by simp [hd, hch])]

end

/-! ## CWAIT (R359, R374, R377) -/

/-- An id has passed when the channel's done id is ahead of it by less than half of all ids. -/
theorem passed_iff (k : Chan) (id : BitVec 32) : k.passed id = true ↔ 1 ≤ (k.done - id).toNat ∧ (k.done - id).toNat < 2 ^ 31 := by
  simp [Chan.passed]

/-- The bits of a mask without one of them. -/
theorem getLsbD_clearBit (m : BitVec 8) (i j : Nat) :
    (m &&& ~~~((1 : BitVec 8) <<< i)).getLsbD j = (m.getLsbD j && !decide (j = i)) := by
  by_cases hj : j < 8
  · by_cases hi : j < i
    · simp [hj, hi, Nat.ne_of_lt hi]
    · simp [hj, hi, show j - i = 0 ↔ j = i by omega]
  · simp [BitVec.getLsbD_of_ge m j (by omega)]

section
variable {a : Reg} {ch : BitVec 3} {s : State} {x : Word} {c : Ctx} (h : Issues s noHints [a] [] false false false [x] c)
  {id : BitVec 32} (hid : BitVec.ofNat 32 x.toNat = id)
include h hid

/-- CWAIT goes by whether its id has passed, then by the abort bit of its channel. -/
theorem exec_cwait_issues : exec (.cwait a ch) s
    = if (s.myCore.chan ch.toNat).passed id then
        if c.abortMask.getLsbD ch.toNat then
          .next ((s.setMe { s.me with abortMask := s.me.abortMask &&& ~~~((1 : BitVec 8) <<< ch.toNat) }).trap causeCopyAbort 0)
        else .next (s.setMe c.advance)
      else .next (s.setMe { s.me with stall := some (.done ch.toNat id) }) := by
  subst hid
  rw [BitVec.ofNat_toNat, exec_cwait, execCwait, issueWord_issues _ h, ← ite_not]
  simp only [Bool.not_eq_true', Bool.not_eq_false, Issued.v, List.getD_cons_zero]

end

/-! ## The queries (R378) -/

/-- The machine after a query of a channel: x[d] has the value, which is logged. -/
def answered (s : State) (c : Ctx) (d : Reg) (v : Word) : State :=
  (finishScalar s c d v 0).logEv s.cur.1 9 s.cur.2 v 0 0xFFFF 0 []

theorem chanQuery_issues {d : Reg} {ch : BitVec 3} {s : State} {c : Ctx} {f : Chan → Word} {v : Word}
    (h : Issues s noHints [] [d] false false false [] c) (hv : f (s.myCore.chan ch.toNat) = v) :
    chanQuery d ch f s = .next (answered s c d v) := by
  subst hv
  rw [chanQuery, issueWord_issues _ h]
  rfl

theorem watermark_none {k : Chan} (h : k.live.all (fun z => !z.wm) = true) : k.watermark = k.wm := by
  have hnone : List.find? (fun (z : Xfer) => z.wm) k.live = none := by simpa using h
  rw [Chan.watermark, hnone]

theorem watermark_some {k : Chan} {z : Xfer} (h : List.find? (fun (z : Xfer) => z.wm) k.live = some z) :
    k.watermark = BitVec.ofNat 56 z.mark := by
  rw [Chan.watermark, h]

/-! ## CABORT (R374, R375, R379) -/

/-- Whether an aborted transfer of a vintage has packets out on a channel of the own core. -/
def abortsOut (s : State) (ch : Nat) (v : BitVec 32) : Bool :=
  (s.myCore.chan ch).xfers.any fun z => z.vint == v && z.aborted

/-- A CABORT that has aborted its transfers is held while packets of theirs are out. -/
def cabortWaits (s : State) (ch : Nat) (v : BitVec 32) : State :=
  if abortsOut s ch v then s.setMe { s.me with hold := .cabort } else s.setMe s.me.advance

/-- The unfinished transfers of a vintage on a channel of the own core. -/
def cabortList (s : State) (ch : Nat) (v : BitVec 32) : List Xfer :=
  (s.myCore.chan ch).live.filter fun z => z.vint == v

/-- The machine with the transfers of a vintage on a channel aborted, and their streams cut. -/
def cabortAll (s : State) (ch : Nat) (v : BitVec 32) : State :=
  ((cabortList s ch v).foldl (fun u z => u.abortXfer s.cur.1 ch z.id (!z.mine s.cur.2)) s).cutStreams s.cur.1 ch (cabortList s ch v)

section
variable {s : State} {ch : Nat} {v : BitVec 32} (hv : ∀ z ∈ (s.myCore.chan ch).xfers, z.vint ≠ v)
include hv

theorem cabortList_nil : cabortList s ch v = [] := by
  simp only [cabortList, Chan.live, List.filter_filter, List.filter_eq_nil_iff, Bool.and_eq_true, beq_iff_eq]
  exact fun z hz hq => hv z hz hq.1

theorem cabortAll_none : cabortAll s ch v = s := by
  rw [cabortAll, cabortList_nil hv]
  rfl

theorem cabortWaits_none : cabortWaits s ch v = s.setMe s.me.advance := by
  have hout : abortsOut s ch v = false := by
    simp only [abortsOut, List.any_eq_false, Bool.and_eq_true, beq_iff_eq]
    exact fun z hz hq => hv z hz hq.1
  rw [cabortWaits, hout]
  rfl

end

section
variable {ch : BitVec 3} {s : State} {c : Ctx} (h : Issues s noHints [] [] false false false [] c)
include h

theorem exec_cabort_aborts (hh : s.me.hold = .none) :
    exec (.cabort ch) s = .next (cabortWaits (cabortAll s ch.toNat c.vintage) ch.toNat c.vintage) := by
  simp only [exec_cabort, execCabort, issueWord_issues _ h, hh, cabortWaits, apply_ite Host.Outcome.next]
  rfl

theorem exec_cabort_held (hh : s.me.hold = .cabort) : exec (.cabort ch) s = .next (cabortWaits s ch.toNat c.vintage) := by
  simp only [exec_cabort, execCabort, issueWord_issues _ h, hh, cabortWaits, apply_ite Host.Outcome.next]
  rfl

end

/-! ## The obligation -/

/-- Settles O41: a stream word goes by its checks and its channel, STRMEND by its register, CWAIT by whether its id has passed, and
CABORT by what holds its context. -/
theorem streamAndChannelWords : Obligations.StreamAndChannelWords := by
  unfold Obligations.StreamAndChannelWords
  intro d a ch s x c site n chan ea one zero query id gap
  refine ⟨fun p write h hclear hroom hacq hp => ?stream, exec_strmend_illegal, fun h hd hch => ⟨_, exec_strmend_ends h hd hch rfl⟩,
    fun h hgap => ?stalls, fun h hlo hhi => ?passed, fun h => ?queries, fun h hh hv => ?nothing, exec_cabort_aborts, exec_cabort_held⟩
  case stream =>
    intro o bad checks c1 t
    have ho : o = streamWord write d a ch s := by cases write <;> rfl
    rw [ho]
    exact ⟨fun _ _ => streamWord_traps h hclear hroom hacq hp, streamWord_waits h hclear hroom hacq hp,
      streamWord_binds h hclear hroom hacq hp⟩
  case stalls =>
    have hnot : ¬(1 ≤ gap ∧ gap < 2 ^ 31) := by omega
    exact (exec_cwait_issues h rfl).trans (if_neg (mt (passed_iff ..).mp hnot))
  case passed =>
    have hpassed := (exec_cwait_issues (ch := ch) h rfl).trans (if_pos ((passed_iff ..).mpr ⟨hlo, hhi⟩))
    refine ⟨fun hm => hpassed.trans (if_neg (Bool.eq_false_iff.mp hm)), fun hm => ⟨_, ?_, fun i hi => ?_, hpassed.trans (if_pos hm)⟩⟩
    · rw [getLsbD_clearBit, decide_eq_true rfl, Bool.not_true, Bool.and_false]
    · rw [getLsbD_clearBit, decide_eq_false hi, Bool.not_false, Bool.and_true]
  case queries =>
    rw [exec_cdone, execCdone, exec_cnext, execCnext, exec_chstat, execChstat, exec_cwm, execCwm]
    refine ⟨chanQuery_issues h (BitVec.ofNat_toNat ..).symm, chanQuery_issues h (BitVec.ofNat_toNat ..).symm, chanQuery_issues h rfl,
      fun hall => chanQuery_issues h ?_, fun z hz => chanQuery_issues h ?_⟩
    · rw [watermark_none hall, BitVec.ofNat_toNat]
    · rw [watermark_some hz, ← BitVec.ofNat_toNat, BitVec.toNat_ofNat]
  case nothing => rw [exec_cabort_aborts h hh, cabortAll_none hv, cabortWaits_none hv]

end Sys2Proof.ChannelWords
end

section
/-!
PROOFS. The rounds of a group (14_collective_engine.md, R415-R429): what a router does with a message on its way up, how a round closes
and its result comes down, what a port keeps, the proxies of a spared core, and the timers.
-/

namespace Sys2Proof.Rounds

open Sys2Proof.Machine

/-! ## Reading an entry or a port after an update -/

section
variable {s : State} {site g : Nat}

theorem gentry_setColUp (l : List (Nat × Nat × CMsg)) :
    (s.setRouter site { s.router site with colUp := l }).gentry site g = s.gentry site g := by
  rw [State.gentry, State.router_setRouter_same, State.gentry]

@[simp] theorem gentry_setGentry_same (e : GEntry) : (s.setGentry site g e).gentry site g = some e := by
  rw [State.gentry, State.setGentry, State.router_setRouter_same, Tbl.find?_put_same]

theorem cport_setColIn (l : List (Nat × CMsg)) :
    (s.setCore site { s.core site with colIn := l }).cport site g = s.cport site g := by
  rw [State.cport, State.core_setCore_same, State.cport]

theorem router_setRouter (r : Router) (x : Nat) : (s.setRouter site r).router x = if x = site then r else s.router x :=
  Tbl.get_put ..

theorem colDown_setRouter {r : Router} (hr : r.colDown = (s.router site).colDown) (x : Nat) :
    ((s.setRouter site r).router x).colDown = (s.router x).colDown := by
  rw [router_setRouter]
  split
  · rename_i h
    rw [hr, h]
  · rfl

theorem gentry_congr {t : State} (h : t.routers = s.routers) : t.gentry site g = s.gentry site g := by
  rw [State.gentry, State.router, h, State.gentry, State.router]

theorem router_congr {t : State} (h : t.routers = s.routers) (x : Nat) : t.router x = s.router x := by
  rw [State.router, h, State.router]

end

/-- A fold of steps that leave the routers leaves them. -/
theorem foldl_routers {α : Type} {f : State → α → State} (hf : ∀ t e, (f t e).routers = t.routers) (l : List α) (s : State) :
    (l.foldl f s).routers = s.routers :=
  List.foldlRecOn (motive := fun t => t.routers = s.routers) l f rfl fun t ht e _ => (hf t e).trans ht

/-- Round numbers count modulo 2^16: a round is at or after another when it is ahead of it by less than half of them (R420). -/
theorem roundGe_iff (a b : BitVec 16) : roundGe a b = true ↔ (a - b).toNat < 2 ^ 15 := by
  simp [roundGe]

theorem roundGe_self (a : BitVec 16) : roundGe a a = true := by
  simp [roundGe]

/-! ## The way up (R415, R417, R418, R428, R429) -/

theorem released_iff (s : State) (site : Nat) (rel : List (Nat × Nat)) :
    s.released site rel = true ↔ ∀ e ∈ rel, ∀ o ∈ (s.ctx site e.1).ops, o.id ≠ e.2 := by
  simp [State.released]

/-- What the port of a core sends: over the link, or as proxy beats when the router of its own bit stands elsewhere (R417, R429). -/
def sentOut (s : State) (site g : Nat) (q : CPort) (m : CMsg) : State :=
  if q.osite = site then s.sendUp site g 0 m
  else (m.split (s.routedTo 3 ((s.lcnOf site).getD 0xFFFF) ((s.lcnOf site).getD 0xFFFF) q.osite)).foldl (fun u b => u.sendUp q.osite g 6 b) s

section
variable {s : State} {site g : Nat}

theorem exec_contribution_takes {q : Nat} {m : CMsg} {rest : List (Nat × Nat × CMsg)}
    (h : takeUp g (fun q => q != 6) (s.router site).colUp = some (q, m, rest)) :
    exec (.contribution site g) s = .next ((s.setRouter site { s.router site with colUp := rest }).takeInput site g q m) := by
  simp only [exec_contribution, execContribution, h]

section
variable {q : CPort} {m : CMsg} {rel : List (Nat × Nat)} {t : List (CMsg × List (Nat × Nat))}
  (hup : takeUp g (fun q => q != 6) (s.router site).colUp = none) (hq : s.cport site g = some q) (hout : q.out = (m, rel) :: t)
include hup hq hout

/-- With none on the way the core's port has the turn: its oldest contribution leaves once it is released. -/
theorem exec_contribution_port : exec (.contribution site g) s
    = .next (if s.released site rel then (sentOut (s.setCport site g { q with out := t }) site g q m).wakeImages site else s) := by
  simp only [exec_contribution, execContribution, hup, State.portSend, hq, hout]
  rfl

end

section
variable {q : Nat} {m : CMsg} {rest : List (Nat × Nat × CMsg)} {e : GEntry}
  (hup : takeUp g (fun q => q == 6) (s.router site).colUp = some (q, m, rest)) (he : s.gentry site g = some e)
include hup he

theorem exec_proxyContribution_keeps (hw : assemble (e.beats ++ [m]) m e.conf.words = none) : exec (.proxyContribution site g) s
    = .next ((s.setRouter site { s.router site with colUp := rest }).setGentry site g { e with beats := e.beats ++ [m] }) := by
  simp only [exec_proxyContribution, execProxyContribution, hup, (gentry_setColUp rest).trans he, hw]

theorem exec_proxyContribution_takes {w : CMsg} (hw : assemble (e.beats ++ [m]) m e.conf.words = some w) : exec (.proxyContribution site g) s
    = .next (((s.setRouter site { s.router site with colUp := rest }).setGentry site g
        { e with beats := (e.beats ++ [m]).filter fun b => b.round != m.round }).takeInput site g 0 w) := by
  simp only [exec_proxyContribution, execProxyContribution, hup, (gentry_setColUp rest).trans he, hw]

end
end

/-! ## A message at a router's entry (R418, R420) -/

/-- A message of the open round that the entry takes: its input is expected and empty, the round is not closed, and what has come is of
its vintage. -/
def Takes (e : GEntry) (port : Nat) (m : CMsg) : Prop :=
  port ≠ 5 ∧ e.closed = false ∧ Tbl.find? e.inputs port = none ∧ port ∈ e.expects
    ∧ ∀ x, (e.inputs.head?.map (·.2)) = some x → x.vint = m.vint

/-- Whether what has come of the open round is of another vintage. -/
def foreign (e : GEntry) (m : CMsg) : Bool := e.inputs.head?.any fun x => x.2.vint != m.vint

theorem foreign_iff {e : GEntry} {m : CMsg} : foreign e m = false ↔ ∀ x, (e.inputs.head?.map (·.2)) = some x → x.vint = m.vint := by
  unfold foreign
  cases e.inputs <;> simp

theorem refused_iff {e : GEntry} {port : Nat} {m : CMsg} (hport : port ≠ 5) :
    (e.closed || (Tbl.find? e.inputs port).isSome || foreign e m || !e.expects.contains port) = true ↔ ¬Takes e port m := by
  rw [Takes, ← foreign_iff, ← not_iff_not, not_not]
  simp [hport, and_assoc, and_comm, and_left_comm]

/-- The entry with a message at one of its inputs; the first one starts the timer (R421). -/
def withInput (s : State) (site g : Nat) (e : GEntry) (port : Nat) (m : CMsg) : GEntry :=
  { e with inputs := Tbl.put e.inputs port m, timer := if e.inputs.isEmpty then s.startTimer site g else e.timer }

section
variable {s : State} {site g port : Nat} {m : CMsg} {e : GEntry} (he : s.gentry site g = some e)
include he

section
variable (hr : m.round = e.round)
include hr

theorem takeInput_input (hport : port ≠ 5) : s.takeInput site g port m
    = if e.closed || (Tbl.find? e.inputs port).isSome || foreign e m || !e.expects.contains port then s
      else if (withInput s site g e port m).absent.isEmpty then s.closeRound site g (withInput s site g e port m) none
      else s.setGentry site g (withInput s site g e port m) := by
  simp only [State.takeInput, he, hr, hport, if_true, if_false]
  unfold foreign withInput
  cases e.inputs <;> rfl

theorem takeInput_takes (h : Takes e port m) : s.takeInput site g port m
    = if (withInput s site g e port m).absent.isEmpty then s.closeRound site g (withInput s site g e port m) none
      else s.setGentry site g (withInput s site g e port m) :=
  (takeInput_input he hr h.1).trans (if_neg fun hno => (refused_iff h.1).mp hno h)

theorem takeInput_discards (hport : port ≠ 5) (h : ¬Takes e port m) : s.takeInput site g port m = s :=
  (takeInput_input he hr hport).trans (if_pos ((refused_iff hport).mpr h))

theorem takeInput_chainTotal (hopen : e.closed = false) :
    s.takeInput site g 5 m = (s.setGentry site g { e with closed := true }).sendDown site g { m with routed := none } := by
  simp [State.takeInput, he, hr, hopen]

end

theorem takeInput_parks (hr : m.round ≠ e.round) (hlt : (m.round - e.round).toNat < 2 ^ 15) :
    s.takeInput site g port m = s.setGentry site g { e with parked := e.parked ++ [(port, m)] } := by
  simp only [State.takeInput, he, hr, if_false, (roundGe_iff ..).mpr hlt, if_true]

theorem takeInput_earlier (hge : 2 ^ 15 ≤ (m.round - e.round).toNat) : s.takeInput site g port m = s := by
  have hr : m.round ≠ e.round := fun h => by simp [h] at hge
  have hnot : ¬roundGe m.round e.round = true := fun h => absurd ((roundGe_iff ..).mp h) (Nat.not_lt.mpr hge)
  simp only [State.takeInput, he, hr, if_false, hnot]
  rfl

end

/-! ## The end of a round (R418, R419, R421) -/

section
variable {s : State} {site g : Nat} {e : GEntry} {own : Option Report} {m : CMsg} (hm : e.total own = some m)
include hm

theorem closeRound_root (hp : e.parent = 0) : s.closeRound site g e own = (s.setGentry site g { e with closed := true }).sendDown site g m := by
  simp only [State.closeRound, hm, State.sendTotal, hp, if_true]

theorem closeRound_partial {up : Nat} (hp : e.parent ≠ 0) (hup : neighbour site (e.parent - 1) = some up) :
    s.closeRound site g e own = (s.setGentry site g { e with closed := true }).sendUp up g ((e.parent - 1 + 2) % 4 + 1) m := by
  simp only [State.closeRound, hm, State.sendTotal, hp, if_false, hup]

end

/-! ## A result at a router (R419, R420, R429) -/

/-- The sites of the routers below an entry's. -/
def childSites (site : Nat) (e : GEntry) : List Nat :=
  ((List.range 4).filter fun i => e.child.getLsbD i).filterMap fun i => neighbour site i

/-- The result on its way to every child. -/
def toChildren (s : State) (site g : Nat) (e : GEntry) (m : CMsg) : State :=
  (childSites site e).foldl (fun t k => t.sendDown k g m) s

/-- The result on its way to the own contributor, as proxy beats when the site of it, `at'`, is not the router's. -/
def toOwn (s : State) (site g : Nat) (e : GEntry) (m : CMsg) (at' : Nat) (r : Routed) : State :=
  if !e.own then s
  else if at' = site then (s.toPort site (tagResult g) m).due (.result site g)
  else (m.split r).foldl (fun u b => (u.toPort at' (tagProxy g) b).later (.proxyResult at' g)) s

/-- The entry in its next round. -/
def nextRound (e : GEntry) : GEntry := { e with round := e.round + 1, inputs := [], closed := false, parked := [], timer := ⟨0, none⟩ }

/-- The router with its entry in the next round, the parked messages before the others on their way up. -/
def reopened (s : State) (site g : Nat) (e : GEntry) : State :=
  let t := s.setGentry site g (nextRound e)
  t.setRouter site { t.router site with colUp := (e.parked.map fun b => (g, b.1, b.2)) ++ (t.router site).colUp }

theorem forward_open {s : State} {site g : Nat} {e : GEntry} {m : CMsg} (he : s.gentry site g = some e) (hr : m.round = e.round) :
    s.forward site g m = (e.parked.map fun b => (g, b.1, b.2)).foldl (fun t _ => t.due (.contribution site g))
      (reopened (toOwn (toChildren s site g e m) site g e m (s.ownSite site e) (s.routedTo 4 e.olcn e.olcn (s.ownSite site e))) site g e) := by
  rw [State.forward, he]
  exact if_neg (not_not.mpr hr)

theorem toOwn_routers (s : State) (site g : Nat) (e : GEntry) (m : CMsg) (at' : Nat) (r : Routed) :
    (toOwn s site g e m at' r).routers = s.routers := by
  unfold toOwn
  split
  · rfl
  · split
    · rfl
    · exact foldl_routers (fun _ _ => by rfl) _ _

theorem reopened_gentry (s : State) (site g : Nat) (e : GEntry) : (reopened s site g e).gentry site g = some (nextRound e) :=
  (gentry_setColUp _).trans (gentry_setGentry_same _)

theorem reopened_colDown (s : State) (site g : Nat) (e : GEntry) (x : Nat) :
    ((reopened s site g e).router x).colDown = (s.router x).colDown :=
  (colDown_setRouter (by rfl) x).trans (colDown_setRouter (by rfl) x)

section
variable {s : State} {site g : Nat} {e : GEntry} {m : CMsg} (he : s.gentry site g = some e) (hr : m.round = e.round)
include he hr

theorem forward_gentry : (s.forward site g m).gentry site g = some (nextRound e) := by
  rw [forward_open he hr]
  exact (gentry_congr (foldl_routers (fun _ _ => by rfl) _ _)).trans (reopened_gentry ..)

theorem forward_colDown (x : Nat) : ((s.forward site g m).router x).colDown = ((toChildren s site g e m).router x).colDown := by
  rw [forward_open he hr, router_congr (foldl_routers (fun _ _ => by rfl) _ _), reopened_colDown, router_congr (toOwn_routers ..)]

end

theorem colDown_sendDown (s : State) (k g : Nat) (m : CMsg) (x : Nat) :
    ((s.sendDown k g m).router x).colDown = (s.router x).colDown ++ if x = k then [(g, m)] else [] := by
  change ((s.setRouter k _).router x).colDown = _
  rw [router_setRouter]
  split
  · rename_i h
    rw [h]
  · exact (List.append_nil _).symm

/-- What is sent to several routers stands at each of them. -/
theorem mem_colDown_foldl_sendDown {g : Nat} {m : CMsg} {x : Nat} (l : List Nat) (s : State)
    (h : x ∈ l ∨ (g, m) ∈ (s.router x).colDown) : (g, m) ∈ ((l.foldl (fun t k => t.sendDown k g m) s).router x).colDown := by
  induction l generalizing s with
  | nil => exact h.resolve_left List.not_mem_nil
  | cons k l ih =>
    refine ih _ ?_
    rw [colDown_sendDown, List.mem_append]
    obtain hx | hx := h
    · obtain rfl | hx := List.mem_cons.mp hx
      · exact .inr (.inr (by simp))
      · exact .inl hx
    · exact .inr (.inl hx)

theorem mem_childSites {site i y : Nat} {e : GEntry} (hi : i < 4) (hc : e.child.getLsbD i = true) (hy : neighbour site i = some y) :
    y ∈ childSites site e :=
  List.mem_filterMap.mpr ⟨i, List.mem_filter.mpr ⟨List.mem_range.mpr hi, hc⟩, hy⟩

/-! ## Messages at a port (R419, R425, R429, R493) -/

section
variable {s : State} {site g : Nat}

theorem exec_result_router {m : CMsg} {rest : List (Nat × CMsg)} (h : takeTag g (s.router site).colDown = some (m, rest)) :
    exec (.result site g) s = .next ((s.setRouter site { s.router site with colDown := rest }).forward site g m) := by
  simp only [exec_result, execResult, h]

section
variable (hp : (s.core site).paused = true)
include hp

theorem exec_proxyResult_paused : exec (.proxyResult site g) s = .next s := by
  simp only [exec_proxyResult, execProxyResult, State.portStill, hp, if_true]

theorem exec_chainPartial_paused : exec (.chainPartial site g) s = .next s := by
  simp only [exec_chainPartial, execChainPartial, State.portStill, hp, if_true]

theorem exec_result_paused (h : takeTag g (s.router site).colDown = none) : exec (.result site g) s = .next s := by
  simp only [exec_result, execResult, h, State.portStill, hp, if_true]

end

section
variable {m : CMsg} {rest : List (Nat × CMsg)} (hp : (s.core site).paused = false)
include hp

theorem exec_result_port (hd : takeTag g (s.router site).colDown = none) (hin : takeTag g (s.core site).colIn = some (m, rest)) :
    exec (.result site g) s = .next ((s.setCore site { s.core site with colIn := rest }).portResult site g m) := by
  simp only [exec_result, execResult, hd, State.portStill, hp, tagResult, hin, Bool.false_eq_true, if_false, State.updCore]

section
variable {q : CPort} (hq : s.cport site g = some q)
include hq

section
variable (hin : takeTag (64 + g) (s.core site).colIn = some (m, rest)) {n : Nat} (hn : (if q.conf.op = .barrier then 0 else q.conf.words) = n)
include hin hn

theorem exec_proxyResult_keeps (hw : assemble (q.beats ++ [m]) m n = none) : exec (.proxyResult site g) s
    = .next ((s.setCore site { s.core site with colIn := rest }).setCport site g { q with beats := q.beats ++ [m] }) := by
  simp only [exec_proxyResult, execProxyResult, State.portStill, hp, tagProxy, hin, State.updCore, (cport_setColIn rest).trans hq, hn, hw,
    Bool.false_eq_true, if_false]

theorem exec_proxyResult_takes {w : CMsg} (hw : assemble (q.beats ++ [m]) m n = some w) : exec (.proxyResult site g) s
    = .next (((s.setCore site { s.core site with colIn := rest }).setCport site g
        { q with beats := (q.beats ++ [m]).filter fun b => b.round != m.round }).portResult site g w) := by
  simp only [exec_proxyResult, execProxyResult, State.portStill, hp, tagProxy, hin, State.updCore, (cport_setColIn rest).trans hq, hn, hw,
    Bool.false_eq_true, if_false]

end

/-- A predecessor's beat is logged, and kept when its round is not below cr and no other is kept of it. -/
theorem exec_chainPartial_beat (hin : takeTag (128 + g) (s.core site).colIn = some (m, rest)) : exec (.chainPartial site g) s
    = .next (if roundGe m.round q.cr && !(q.preds.any fun b => b.round == m.round) then
        (((s.setCore site { s.core site with colIn := rest }).logMsg site m).setCport site g { q with preds := q.preds ++ [m] }).wakeImages site
      else (s.setCore site { s.core site with colIn := rest }).logMsg site m) := by
  simp only [exec_chainPartial, execChainPartial, State.portStill, hp, tagBeat, hin, State.updCore, (cport_setColIn rest).trans hq,
    Bool.false_eq_true, if_false]
  split <;> rfl

end
end
end

/-- A beat is kept when its round is not below cr and no other is kept of it. -/
theorem keepsBeat_iff (q : CPort) (m : CMsg) : (roundGe m.round q.cr && !(q.preds.any fun b => b.round == m.round)) = true
    ↔ (m.round - q.cr).toNat < 2 ^ 15 ∧ ∀ b ∈ q.preds, b.round ≠ m.round := by
  simp [roundGe_iff]

theorem take_current {q : CPort} {m : CMsg} (hr : m.round = q.rr) (hnew : ∀ h ∈ q.held, h.round ≠ m.round)
    (hcr : (m.round - q.cr).toNat ≥ 2 ^ 15) : q.take m = { q with held := q.held ++ [m], last := m.status } := by
  have hfirst : q.held.any (fun h => h.round == q.rr) = false := by simpa [hr] using hnew
  have hbelow : roundGe q.rr q.cr = false := Bool.eq_false_iff.mpr fun h => absurd ((roundGe_iff ..).mp h) (by rw [← hr]; omega)
  simp [CPort.take, hr, roundGe_self, hfirst, hbelow]

/-! ## Timers (R421, R424, R426, R498) -/

/-- What keeps a router from giving a round up: no timeout, no round that waits, its timers at a stand, or its allowance. -/
def Waits (s : State) (site g : Nat) (e : GEntry) : Prop :=
  e.conf.timeout = 0 ∨ e.closed = true ∨ e.inputs = [] ∨ e.absent = [] ∨ s.timersStill site = true ∨ s.passHolds none site g = true
    ∨ e.timer.count (((s.partAt site).map s.timerClock).getD 0) < e.conf.timeout * 256 * (e.ht + 1)

section
variable {s : State} {site g : Nat} {e : GEntry} (he : s.gentry site g = some e)
include he

theorem exec_collectiveTimerExpiry_waits (h : Waits s site g e) : exec (.collectiveTimerExpiry site g) s = .next s := by
  simp only [exec_collectiveTimerExpiry, execCollectiveTimerExpiry, he, List.isEmpty_iff]
  exact if_pos h

theorem exec_collectiveTimerExpiry_reports (h : ¬Waits s site g e) : exec (.collectiveTimerExpiry site g) s
    = .next (s.closeRound site g e (some ⟨false, e.absent.foldl (fun m i => m + 2 ^ i) 0, site⟩)) := by
  simp only [exec_collectiveTimerExpiry, execCollectiveTimerExpiry, he, List.isEmpty_iff]
  exact if_neg h

end

/-- A CHAIN that waits, at a core whose timers run, goes by whether it has trapped, then by its count. -/
theorem exec_chainTimeout_running {s : State} {site n g : Nat} {q : CPort} (hs : (s.ctx site n).stall = some (.beat g))
    (hq : s.cport site g = some q) (ht : q.conf.timeout ≠ 0) (hrun : (s.ctx site n).occ = .running) (hstill : s.timersStill site = false)
    (hpass : ∀ x, s.chainBefore site g = some x → (s.core x).drained = false) : exec (.chainTimeout site n) s
      = if q.tseen = true ∨ (q.wait.getD ⟨0, none⟩).count (((s.partAt site).map s.timerClock).getD 0) < q.conf.timeout * 256 then .next s
        else .next ((s.setCport site g { q with tseen := true, wait := none }).trapAt site n causeCollTimeout 0 0) := by
  have hnone : ((s.chainBefore site g).map fun x => (s.core x).drained).getD false = false := by
    cases hb : s.chainBefore site g with
    | none => rfl
    | some x => exact hpass x hb
  simp only [exec_chainTimeout, execChainTimeout, hs, hq, hrun, hstill, hnone, ht, ne_eq, not_true_eq_false, Bool.false_eq_true, false_or]

/-- A partition whose last rebinding ends takes out of its timers' clock the cycles for which they stood still. -/
theorem timerClock_endRebind {s : State} {p : Part} {a b ep : Nat} (hl : p.rebinding.filter (· != ep) = []) (hfrom : p.stillFrom = some a)
    (hle : p.stillFc ≤ a) (hab : a ≤ b) (hb : s.module.fc = b) : s.timerClock (p.endRebind b ep) = a - p.stillFc := by
  have hclock : s.timerClock (p.endRebind b ep) = b - (p.stillFc + (b - a)) := by
    simp [State.timerClock, Part.endRebind, hl, hfrom, hb]
  omega

theorem count_hold (t : Timer) (a b : Nat) : (t.hold a).count b = t.count a := rfl

theorem count_goOn_hold (t : Timer) (a b : Nat) : ((t.hold a).goOn b).count b = t.count a := by
  simp [Timer.goOn, Timer.hold, Timer.count]

/-! ## The obligation -/

/-- Settles O50: each event takes the oldest message of its kind, and a router's entry, a port or a timer goes by the rule of its round. -/
theorem roundsCombineAndReturn : Obligations.RoundsCombineAndReturn := by
  unfold Obligations.RoundsCombineAndReturn
  refine ⟨fun s site g => ?events, fun s site g port m e he => ?input, fun s site g e own m hm =>
    ⟨closeRound_root hm, fun up => closeRound_partial hm⟩, fun s site g m e he hr => ?forward, fun q m => take_current,
    fun s site g e he => ⟨exec_collectiveTimerExpiry_reports he, exec_collectiveTimerExpiry_waits he⟩,
    fun s site n g q hs hq ht hrun hstill hpass => ?timeout⟩
  case events =>
    refine ⟨fun q m rest => exec_contribution_takes, fun hup q m rel t hq hout => ?port, fun q m rest e hup he =>
      ⟨exec_proxyContribution_keeps hup he, fun w => exec_proxyContribution_takes hup he⟩, fun m rest => exec_result_router,
      fun m rest hd hp => exec_result_port hp hd, fun hp => ⟨exec_proxyResult_paused hp, exec_chainPartial_paused hp, exec_result_paused hp⟩,
      fun m rest q hp hin hq => ⟨exec_proxyResult_keeps hp hq hin rfl, fun w => exec_proxyResult_takes hp hq hin rfl⟩,
      fun m rest q hp hin hq => ?beat⟩
    case port =>
      rw [exec_contribution_port hup hq hout]
      refine ⟨fun hrel => ?_, fun ⟨e, he, o, ho, hid⟩ => ?_⟩
      · rw [if_pos ((released_iff ..).mpr hrel)]
        rfl
      · rw [if_neg fun h => (released_iff ..).mp h e he o ho hid]
    case beat =>
      rw [exec_chainPartial_beat hp hq hin]
      refine ⟨fun hlt hnew => ?_, fun hnot => ?_⟩
      · rw [if_pos ((keepsBeat_iff ..).mpr ⟨hlt, hnew⟩)]
      · rw [if_neg]
        rw [keepsBeat_iff]
        rintro ⟨hlt, hnew⟩
        obtain hge | ⟨b, hb, hsame⟩ := hnot
        · omega
        · exact hnew b hb hsame
  case input =>
    refine ⟨fun hr h => ?_, fun hr => takeInput_discards he hr, fun hr hport hopen => hport ▸ takeInput_chainTotal he hr hopen,
      takeInput_parks he, takeInput_earlier he⟩
    rw [takeInput_takes he hr h]
    exact ⟨fun habs => if_neg (mt List.isEmpty_iff.mp habs), fun habs => if_pos (List.isEmpty_iff.mpr habs)⟩
  case forward =>
    refine ⟨forward_gentry he hr, fun i y hi hc hy => ?_⟩
    rw [forward_colDown he hr]
    exact mem_colDown_foldl_sendDown _ s (.inl (mem_childSites hi hc hy))
  case timeout =>
    have hrule := exec_chainTimeout_running hs hq ht hrun hstill hpass
    refine ⟨fun hseen hcount => hrule.trans (if_neg ?_), fun h => hrule.trans (if_pos h), fun p t a b ep hl _ hle hab =>
      ⟨fun _ => rfl, fun hfrom => timerClock_endRebind hl hfrom hle hab rfl, count_hold t a b, count_goOn_hold t a b⟩⟩
    exact not_or.mpr ⟨Bool.eq_false_iff.mp hseen, Nat.not_lt.mpr hcount⟩

end Sys2Proof.Rounds
end

section
/-!
PROOFS. The configuration of groups (14_collective_engine.md, R411, R432, R437, R572): the checks of a CCFG and of its record, the
message that it sends around, what a router takes from it, and the answer that ends the wait.
-/

namespace Sys2Proof.GroupConfiguration

open Sys2Proof.Machine

/-! ## The record (R437) -/

/-- The number of nodes in a record's header word. -/
def nodeCount (w : Nat) : Nat := w / 2 ^ 48 % 2 ^ 14

/-- The nodes of a record. -/
def nodesOf (w : Nat) (l : List Byte) : List GNode := (List.range (nodeCount w)).map fun i => nodeOf (leNat ((l.drop (8 * i)).take 8))

/-- A header whose reserved bytes are zero and whose number of nodes is in its range. -/
def PlainHeader (w : Nat) (rest : List Byte) : Prop := rest.all (· == 0) = true ∧ 1 ≤ nodeCount w ∧ nodeCount w ≤ 9120

theorem plainHeader_iff {w : Nat} {rest : List Byte} :
    (rest.all (· == 0) && decide (1 ≤ nodeCount w) && decide (nodeCount w ≤ 9120)) = true ↔ PlainHeader w rest := by
  simp only [PlainHeader, Bool.and_eq_true, decide_eq_true_eq, and_assoc]

/-- The message of a legal record, to the routers that are not fenced. -/
def configMsg (s : State) (p : Part) (g root : Nat) (conf : GConf) (t : Tbl GNode) : GroupMsg :=
  ⟨g, some conf, entriesOf p conf root t, s.cur.1, s.cur.2, p.sites.filter fun y => !(s.router y).fenced⟩

section
variable {s : State} {c : Ctx} {p : Part} {g w : Nat} {rest l : List Byte}

theorem startConfig_notPlain (h : ¬PlainHeader w rest) : startConfig s c p g w rest l = .next (s.trap causeIllegal 0) := by
  have hb := Bool.eq_false_iff.mpr (mt plainHeader_iff.mp h)
  simp only [startConfig, ← nodeCount.eq_def, hb, Bool.false_eq_true, if_false]

section
variable (hplain : PlainHeader w rest)
include hplain

theorem startConfig_noConf (hc : confOf w = none) : startConfig s c p g w rest l = .next (s.trap causeIllegal 0) := by
  simp only [startConfig, ← nodeCount.eq_def, plainHeader_iff.mpr hplain, if_true, hc]

theorem startConfig_noTree {conf : GConf} (hc : confOf w = some conf)
    (ht : nodeTable (nodesOf w l) = none ∨ ∃ t, nodeTable (nodesOf w l) = some t ∧ treeRoot p t = none) :
    startConfig s c p g w rest l = .next (s.trap causeIllegal 0) := by
  rw [nodesOf] at ht
  obtain ht | ⟨t, ht, hr⟩ := ht
  · simp only [startConfig, ← nodeCount.eq_def, plainHeader_iff.mpr hplain, if_true, hc, ht]
  · simp only [startConfig, ← nodeCount.eq_def, plainHeader_iff.mpr hplain, if_true, hc, ht, hr]

theorem startConfig_sends {conf : GConf} {t : Tbl GNode} {root : Nat} (hc : confOf w = some conf) (ht : nodeTable (nodesOf w l) = some t)
    (hr : treeRoot p t = some root) : startConfig s c p g w rest l
      = .next (((s.setPart p.lead { p with cfgs := p.cfgs ++ [configMsg s p g root conf t] }).setMe
            { c with hold := .ccfg }).due (.groupConfiguration ((p.sites.filter fun y => !(s.router y).fenced).headD s.cur.1))) := by
  rw [nodesOf] at ht
  simp only [startConfig, ← nodeCount.eq_def, plainHeader_iff.mpr hplain, if_true, hc, ht, hr]
  rfl

end
end

/-! ## CCFG (R411, R432, R437, R572) -/

section
variable {a : Reg} {grp : BitVec 6} {s : State} {x : Word} {c : Ctx} (h : Issues s noHints [a] [] false true false [x] c)
include h

theorem exec_ccfg_held (hh : s.me.hold = .ccfg) : exec (.ccfg a grp) s = .next s := by
  simp only [exec_ccfg, execCcfg, issueWord_issues _ h, hh]

theorem exec_ccfg_answered (hh : s.me.hold = .ccfgDone) : exec (.ccfg a grp) s = .next (s.setMe c.advance) := by
  simp only [exec_ccfg, execCcfg, issueWord_issues _ h, hh]

section
variable (hh : s.me.hold = .none)
include hh

theorem exec_ccfg_prot (hg : 48 ≤ grp.toNat) : exec (.ccfg a grp) s = .next (s.trap causeProt 0) := by
  simp only [exec_ccfg, execCcfg, issueWord_issues _ h, hh, hg, if_true]

section
variable (hg : grp.toNat < 48) {at' : Addr} (hat : BitVec.ofNat 56 x.toNat = at')
include hg hat

theorem exec_ccfg_misaligned (hal : at'.toNat % 64 ≠ 0) : exec (.ccfg a grp) s = .next (s.trap causeMisalign at') := by
  rw [BitVec.ofNat_toNat] at hat
  have hv : Issued.v ⟨c, [x]⟩ 0 = x := rfl
  have hmis : (!aligned at' 64) = true := by simp [aligned, hal]
  simp only [exec_ccfg, execCcfg, issueWord_issues _ h, hh, Nat.not_le.mpr hg, if_false, hv, hat, hmis, if_true]

/-- With its header and its nodes read, a CCFG goes by its record. -/
theorem exec_ccfg_read {p : Part} {hd l : List Byte} (hal : at'.toNat % 64 = 0) (hp : s.partAt s.cur.1 = some p)
    (hhd : BytesRead s c 1 at' 64 hd) (hl : BytesRead s c 1200 (at' + 64) (8 * min 9120 (nodeCount (leNat (hd.take 8)))) l) :
    exec (.ccfg a grp) s = startConfig s { s.me with stall := none } p grp.toNat (leNat (hd.take 8)) (hd.drop 8) l := by
  rw [BitVec.ofNat_toNat] at hat
  have hv : Issued.v ⟨c, [x]⟩ 0 = x := rfl
  have hok : ¬(!aligned at' 64) = true := by simp [aligned, hal]
  simp only [exec_ccfg, execCcfg, issueWord_issues _ h, hh, Nat.not_le.mpr hg, if_false, hv, hat, hok, hp]
  exact (hhd _).trans (hl _)

end
end
end

/-! ## The message at the routers (R437, R572) -/

/-- A router that has taken a configuration: its entry of the group is written or cleared, and the group's messages are gone. -/
def configured (r : Router) (g : Nat) (e : Option GEntry) : Router :=
  { r with
    groups := match e with
      | some x => Tbl.put r.groups g x
      | none => Tbl.del r.groups g,
    colUp := r.colUp.filter fun m => m.1 != g, colDown := r.colDown.filter fun m => m.1 != g }

theorem router_ite_setCore (P : Prop) [Decidable P] (s : State) (site x : Nat) (c : Core) :
    (if P then s else s.setCore site c).router x = s.router x := by
  split <;> rfl

theorem configureAt_router (s : State) (site g : Nat) (e : Option GEntry) :
    (s.configureAt site g e).router site = configured (s.router site) g e := by
  have hrouter : (if configured (s.router site) g e = s.router site then s
      else s.setRouter site (configured (s.router site) g e)).router site = configured (s.router site) g e := by
    split
    · rename_i hsame
      exact hsame.symm
    · exact State.router_setRouter_same ..
  unfold State.configureAt
  exact (router_ite_setCore ..).trans hrouter

theorem exec_groupConfiguration_takes {s : State} {site : Nat} {p : Part} {m : GroupMsg} (hp : s.partAt site = some p)
    (hm : List.find? (fun (m : GroupMsg) => m.left.contains site) p.cfgs = some m) :
    answers (exec (.groupConfiguration site) s) fun t => t.router site = configured (s.router site) m.grp (Tbl.find? m.nodes site) := by
  simp only [exec_groupConfiguration, execGroupConfiguration, hp, hm]
  refine ⟨_, rfl, ?_⟩
  split <;> exact configureAt_router ..

/-- With every router's answer in, the context that was held for the configuration may go on. -/
theorem exec_groupConfigurationAnswer_frees {s : State} {site : Nat} {p : Part} {m : GroupMsg} (hp : s.partAt site = some p)
    (hm : List.find? (fun (m : GroupMsg) => m.site == site && m.left.isEmpty) p.cfgs = some m) (hh : (s.ctx site m.ctx).hold = .ccfg)
    (hn : m.ctx < 8) : answers (exec (.groupConfigurationAnswer site) s) fun t => (t.ctx site m.ctx).hold = .ccfgDone := by
  simp only [exec_groupConfigurationAnswer, execGroupConfigurationAnswer, hp, hm]
  refine ⟨_, rfl, ?_⟩
  beta_reduce
  have hctx : ((s.setPart p.lead { p with cfgs := p.cfgs.filter fun x => x != m }).ctx site m.ctx).hold = .ccfg := hh
  rw [State.updCtx, State.ctx_setCtx_same _ _ _ _ hn, hctx]

/-! ## The obligation -/

/-- Settles O43: CCFG goes by what holds its context, then by its group, its address and its record; a router takes its own entry of the
message, and the last answer ends the wait. -/
theorem groupsAreConfigured : Obligations.GroupsAreConfigured := by
  unfold Obligations.GroupsAreConfigured
  refine ⟨fun a grp s x c h => ⟨exec_ccfg_held h, exec_ccfg_answered h, exec_ccfg_prot h, fun hh hg hal => exec_ccfg_misaligned h hh hg rfl hal,
    fun p hd l hh hg hal hp hhd hl => ?record⟩, fun site s p m hp hm => ?router, fun site s p m hp hm hh hn =>
    exec_groupConfigurationAnswer_frees hp hm hh hn⟩
  case record =>
    have hread := exec_ccfg_read h hh hg rfl hal hp hhd hl
    refine ⟨fun hbad => hread.trans ?illegal, fun conf t root hplain hc ht hr => hread.trans (startConfig_sends hplain hc ht hr)⟩
    case illegal =>
      by_cases hplain : PlainHeader (leNat (hd.take 8)) (hd.drop 8)
      · cases hc : confOf (leNat (hd.take 8)) with
        | none => exact startConfig_noConf hplain hc
        | some conf => exact startConfig_noTree hplain hc ((hbad.resolve_left (not_not.mpr hplain)).resolve_left (by simp [hc]))
      · exact startConfig_notPlain hplain
  case router =>
    obtain ⟨t, ht, hr⟩ := exec_groupConfiguration_takes hp hm
    exact ⟨t, ht, congrArg Router.groups hr⟩

end Sys2Proof.GroupConfiguration
end

section
/-!
PROOFS. CTB at its core (14_collective_engine.md, R417, R428, R433): the contribution that it appends to, and the write queue (R122) that
a releasing one closes.
-/

namespace Sys2Proof.Contributions

open Sys2Proof.Machine

/-! ## CTB (R417, R428) -/

/-- The port with a word appended to its open round: a contribution that is whole is put out, and the next round opens. -/
def appended (q : CPort) (x : Word) (v : BitVec 32) (ids : List (Nat × Nat)) : CPort :=
  if (q.words ++ [x]).length < q.conf.words then { q with words := q.words ++ [x], wvint := v, rel := q.rel ++ ids }
  else { q with
    words := [], rel := [], cr := q.cr + 1, out := q.out ++ [(⟨q.cr, v, q.words ++ [x], false, false, none, none⟩, q.rel ++ ids)] }

/-- The operations that a releasing CTB waits for (R428). -/
def releases (s : State) (c : Ctx) (rel : Bool) : List (Nat × Nat) :=
  if rel then (c.notPerformed .p).map fun o => (s.cur.2, o) else []

/-- The machine once a CTB has appended its word in the state `t`. -/
def contributedTo (t : State) (q : CPort) (c : Ctx) (g : Nat) (acq : Bool) (x : Word) (ids : List (Nat × Nat)) : State :=
  ((((t.setCport t.cur.1 g (appended q x c.vintage ids)).setMe
    (if acq then { c with rounds := c.rounds ++ [(g, q.cr)] } else c).advance).useGroup c.vintage g).logColl x).due (.contribution t.cur.1 g)

/-- The machine with the queued writes of the executing context closed to joins when its CTB releases (R122). -/
def closedFor (s : State) (rel : Bool) : State := if rel then s.setMyCore (s.myCore.closeWq s.cur.2) else s

section
variable {a : Reg} {grp : BitVec 6} {acq rel : Bool} {s : State} {x : Word} {c : Ctx} {q : CPort}

/-- A CTB on its port appends its word; a releasing one has closed the context's queued writes before. -/
theorem exec_ctb_appends (h : Issues s noHints [a] [] false false false [x] c) (hg : grp.toNat < 48)
    (hq : s.cport s.cur.1 grp.toNat = some q) (hown : q.own = true) (hmode : q.conf.chain = false)
    (hroom : q.words ≠ [] ∨ (q.out = [] ∧ q.cr ≠ q.rr + 2)) :
    exec (.ctb a grp acq rel) s = .next (contributedTo (closedFor s rel) q c grp.toNat acq x (releases s c rel)) := by
  have hport : ¬(!q.own || some false == some (!q.conf.chain)) = true := by simp [hown, hmode]
  have hsends : ¬(q.words.isEmpty && !q.out.isEmpty) = true := by
    obtain hw | ⟨ho, _⟩ := hroom
    · simp [hw]
    · simp [ho]
  have hfull : (q.words.isEmpty && q.cr == q.rr + 2) = false := by
    obtain hw | ⟨_, hr⟩ := hroom
    · simp [hw]
    · rw [beq_eq_false_iff_ne.mpr hr, Bool.and_false]
  rw [exec_ctb, execCtb, issueWord_issues _ h]
  simp only [collWord, Nat.not_le.mpr hg, if_false, hq, hport, hsends, hfull, Bool.false_and, Bool.false_eq_true]
  cases rel <;> rfl

end

/-! ## The write queue -/

theorem wq_setCore {s : State} {site : Nat} {c : Core} (hc : c.wq = (s.core site).wq) (y : Nat) :
    ((s.setCore site c).core y).wq = (s.core y).wq := by
  rw [State.core_setCore]
  split
  · rename_i h
    rw [hc, h]
  · rfl

theorem wq_logEv (s : State) (site kind ctx : Nat) (value : Word) (addr : Addr) (src seq : Nat) (payload : List Byte) (y : Nat) :
    ((s.logEv site kind ctx value addr src seq payload).core y).wq = (s.core y).wq := by
  unfold State.logEv
  split
  · split
    · exact wq_setCore (by rfl) y
    · dsimp only
      split <;> exact wq_setCore (by rfl) y
  · exact wq_setCore (by rfl) y

theorem useGroup_cores (s : State) (v : BitVec 32) (g : Nat) : (s.useGroup v g).cores = s.cores := by
  unfold State.useGroup
  split
  · rfl
  · exact State.updPart_cores ..

/-- Appending a word leaves the write queues. -/
theorem wq_contributedTo (t : State) (q : CPort) (c : Ctx) (g : Nat) (acq : Bool) (x : Word) (ids : List (Nat × Nat)) (y : Nat) :
    ((contributedTo t q c g acq x ids).core y).wq = (t.core y).wq := by
  rw [contributedTo, State.core_due, State.logColl, wq_logEv, State.core, useGroup_cores]
  exact (wq_setCore (by rfl) y).trans (wq_setCore (by rfl) y)

/-! ## The obligation -/

/-- A port that takes i32 sums of one word. -/
def sumPort : CPort :=
  newPort placeSite (newEntry placePart ⟨.add, .i32, .i32, 1, false, 0⟩ placeSite ⟨placeSite, 0, 0, true, 0, true⟩)

/-- A context with a queued write that is open to joins, on a core with that port for group 7. -/
def storing : State :=
  ((State.reset.withFetchWord 32 0).slot placeSite 0).updCore placeSite fun c => { c with
    wq := [⟨0, 1, List.replicate 64 0, 0, 1, false, false, [0]⟩], ports := [(7, sumPort)] }

theorem storing_issues : Issues storing noHints [0] [] false false false [0] storing.me :=
  ⟨by decide, by decide, by decide, by decide, by decide⟩

/-- Closing the queued write of that context changes the queue. -/
theorem wq_closedFor_storing : ((closedFor storing true).core placeSite).wq ≠ (storing.core placeSite).wq := by decide

/-- Refutes O42: the model's releasing CTB closes the queued writes of its context to joins (R122, R428), and the statement's outcome leaves
them open. -/
theorem not_collectiveWordsActOnTheirPort : ¬Obligations.CollectiveWordsActOnTheirPort := by
  unfold Obligations.CollectiveWordsActOnTheirPort
  intro h
  obtain ⟨_, _, hports⟩ := h 0 0 7 false true .rne storing 0 storing.me
  obtain ⟨_, _, happends, _⟩ := hports sumPort (by decide) (by decide) rfl
  have hstated : exec (.ctb 0 7 false true) storing
      = .next (contributedTo storing sumPort storing.me 7 false 0 (releases storing storing.me true)) :=
    happends storing_issues rfl (.inr ⟨rfl, by decide⟩)
  have hmodel := exec_ctb_appends (grp := 7) (acq := false) (rel := true) storing_issues (by decide) (q := sumPort) (by decide) rfl rfl
    (.inr ⟨rfl, by decide⟩)
  have hsame := Host.Outcome.next.inj (hmodel.symm.trans hstated)
  have hqueue := congrArg (fun t => (t.core placeSite).wq) hsame
  simp only [wq_contributedTo] at hqueue
  exact wq_closedFor_storing hqueue

end Sys2Proof.Contributions
end

section
/-!
PROOFS. The words of the commit and the recovery engine (15_commit_engine.md, R465-R470; 16_recovery_engine.md, R500-R502): what CASKUSE,
IRREV, ABORT and CKPT ask for and when their context is held, and the logged answers of PROVQ, CMTQ and SCANNO.
-/

namespace Sys2Proof.CommitWords

open Sys2Proof.Machine

/-- The machine once a word has written its answer to x[d], and the answer is logged (R483). -/
def answered (s : State) (c : Ctx) (d : Reg) (v : Word) : State := (finishScalar s c d v 0).logEv s.cur.1 9 s.cur.2 v 0 0xFFFF 0 []

section
variable {d a : Reg} {s : State} {x : Word} {c : Ctx} {p : Part}

/-! ## The words that answer at once (R467, R469, R500) -/

theorem exec_scanno_answers (h : Issues s noHints [] [d] true false false [] c) :
    exec (.scanno d) s = .next (answered s c d (BitVec.ofNat 64 s.myCore.pass)) := by
  rw [exec_scanno, execScanno, issueWord_issues _ h, answered]

theorem exec_provq_answers (h : Issues s noHints [] [d] true false false [] c) :
    exec (.provq d) s = .next (answered s c d (if s.myCore.prov = [] then 0 else 1)) := by
  rw [exec_provq, execProvq, issueWord_issues _ h, answered]
  simp only [List.isEmpty_iff]

/-- CMTQ answers with the code of the state that the partition keeps of the vintage, and with 0 when it keeps none. -/
theorem exec_cmtq_answers (h : Issues s noHints [a] [d] true false false [x] c) (hp : s.partAt s.cur.1 = some p)
    {known : Option (BitVec 32 × VState)}
    (hk : List.find? (fun (e : BitVec 32 × VState) => e.1 == BitVec.ofNat 32 x.toNat) p.vstates = known) :
    exec (.cmtq d a) s = .next (answered s c d (BitVec.ofNat 64 ((known.map fun e => e.2.code).getD 0))) := by
  have hv : (Issued.v ⟨c, [x]⟩ 0).setWidth 32 = BitVec.ofNat 32 x.toNat := (BitVec.ofNat_toNat 32 x).symm
  rw [exec_cmtq, execCmtq, issueWord_issues _ h, answered]
  simp only [hp, Option.bind_some, hv, hk]

theorem exec_cmtq_unknown (h : Issues s noHints [a] [d] true false false [x] c) (hp : s.partAt s.cur.1 = some p)
    (hk : List.find? (fun (e : BitVec 32 × VState) => e.1 == BitVec.ofNat 32 x.toNat) p.vstates = none) :
    exec (.cmtq d a) s = .next (answered s c d 0) := by
  rw [exec_cmtq_answers h hp hk, Option.map_none, Option.getD_none, BitVec.ofNat_eq_ofNat]

/-! ## CASKUSE (R465, R466) -/

/-- CASKUSE leaves its register waiting, and its launch has a query for every slot. -/
theorem exec_caskuse_asks (h : Issues s noHints [] [d] true false false [] c) (hp : s.partAt s.cur.1 = some p) :
    exec (.caskuse d) s = .next ((((s.setMe { c.startOp .no 0 false false (.query d) with sb := c.sb ||| regBit d }.advance).updPart
      p.lead fun r => r.updLaunch c.vintage fun k => { k with
        queries := k.queries ++ [⟨s.cur.1, s.cur.2, c.issued, List.range p.slots, [], 0⟩] })).later
          (.caskuseQuery p.lead 0 c.vintage.toNat)) := by
  rw [exec_caskuse, execCaskuse, issueWord_issues _ h]
  simp only [hp]

/-! ## ABORT (R470) -/

theorem exec_abort_kills (h : Issues s noHints [a] [] true false false [x] c) (hp : s.partAt s.cur.1 = some p) : exec (.abort a) s
    = .next (((s.setMe c).stopCtx s.cur.1 s.cur.2).startKill p.lead c.vintage ⟨5, BitVec.ofNat 32 x.toNat, 0, false⟩) := by
  have hv : (Issued.v ⟨c, [x]⟩ 0).setWidth 32 = BitVec.ofNat 32 x.toNat := (BitVec.ofNat_toNat 32 x).symm
  rw [exec_abort, execAbort, issueWord_issues _ h]
  simp only [hp, hv]

section
variable (h : Issues s noHints [] [] true false false [] c)
include h

/-! ## IRREV (R468) -/

section
variable (hp : s.partAt s.cur.1 = some p)
include hp

theorem exec_irrev_switched (hsw : s.switchedAt s.cur.1 c.vintage = true) : exec .irrev s = .next (s.setMe c.advance) := by
  rw [exec_irrev, execIrrev, issueWord_issues _ h]
  simp only [hp, hsw, if_true]

section
variable (hsw : s.switchedAt s.cur.1 c.vintage = false)
include hsw

theorem exec_irrev_held (hh : s.me.hold = .irrev) : exec .irrev s = .next s := by
  rw [exec_irrev, execIrrev, issueWord_issues _ h]
  simp only [hp, hsw, hh, Bool.false_eq_true, if_false]

theorem exec_irrev_asks (hh : s.me.hold = .none) : exec .irrev s
    = .next (((s.setPart p.lead (p.updLaunch c.vintage fun k => { k with switchAsked := true })).setMe
        { s.me with hold := .irrev, stall := some .switch }).later (.vintageSwitch p.lead c.vintage.toNat)) := by
  rw [exec_irrev, execIrrev, issueWord_issues _ h]
  simp only [hp, hsw, hh, Bool.false_eq_true, if_false]

end
end

/-! ## CKPT (R500, R501) -/

theorem exec_ckpt_captured (hh : s.me.hold = .ckptDone) : exec .ckpt s = .next (s.setMe c.advance) := by
  rw [exec_ckpt, execCkpt, issueWord_issues _ h]
  simp only [hh]

theorem exec_ckpt_held (hh : s.me.hold = .ckpt) : exec .ckpt s = .next s := by
  rw [exec_ckpt, execCkpt, issueWord_issues _ h]
  simp only [hh]

theorem exec_ckpt_unkept (hh : s.me.hold = .none) (hk : s.keepAt s.cur.1 = none) : exec .ckpt s = .next (s.setMe c.advance) := by
  rw [exec_ckpt, execCkpt, issueWord_issues _ h]
  simp only [hh, hk, Option.isNone_none, if_true]

theorem exec_ckpt_asks (hh : s.me.hold = .none) (hk : s.keepAt s.cur.1 ≠ none) :
    exec .ckpt s = .next ((s.setMe { s.me with hold := .ckpt }).wantBoundary s.cur.1) := by
  rw [exec_ckpt, execCkpt, issueWord_issues _ h]
  simp only [hh, Option.isNone_iff_eq_none, hk, if_false]

end
end

/-! ## The obligation -/

/-- Settles O35: each word goes by what the partition, the launch and the core hold of what it asks for, and a held one by its hold. -/
theorem commitWordsAskAndAnswer : Obligations.CommitWordsAskAndAnswer := by
  unfold Obligations.CommitWordsAskAndAnswer
  refine fun d a s x c p hp => ⟨fun h => exec_caskuse_asks h hp, fun h => exec_scanno_answers h,
    fun h => exec_provq_answers h,
    fun h => ⟨fun e he => ?code, exec_cmtq_unknown h hp⟩,
    fun h => ⟨exec_irrev_switched h hp, exec_irrev_held h hp, exec_irrev_asks h hp⟩, fun h => exec_abort_kills h hp,
    fun h => ⟨exec_ckpt_captured h, exec_ckpt_held h, exec_ckpt_unkept h, exec_ckpt_asks h⟩⟩
  case code =>
    have hans := exec_cmtq_answers h hp he
    obtain ⟨v, state⟩ := e
    cases state <;> exact hans

end Sys2Proof.CommitWords
end

section
/-!
PROOFS. The commit engine (15_commit_engine.md, R443, R444, R454, R455, R460-R463, R466; 04_memory_and_ordering.md, R138, R139): the launch
that commits next, the commit broadcast and its publication at a slot, the merge of the oldest committed line, the switch to in-place
writes, and CASKUSE's count.
-/

namespace Sys2Proof.CommitOrder

open Sys2Proof.Machine Sys2Proof.Homes

/-! ## Folds that keep the least -/

/-- A fold's step that keeps, of what it holds and what comes, one whose key is not above the other's. -/
def KeepsLeast {α β : Type} [Preorder β] (key : α → β) (step : Option α → α → Option α) : Prop :=
  ∀ e, step none e = some e
    ∧ ∀ x, (step (some x) e = some x ∧ key x ≤ key e) ∨ (step (some x) e = some e ∧ key e ≤ key x)

section
variable {α β : Type} [Preorder β] {key : α → β} {step : Option α → α → Option α}

/-- A step that chooses by a condition keeps the least if the condition goes by the keys. -/
theorem least_of_ite {c : Prop} [Decidable c] {x e : α} (hnew : c → key e ≤ key x) (hold : ¬c → key x ≤ key e) :
    ((if c then some e else some x) = some x ∧ key x ≤ key e) ∨ ((if c then some e else some x) = some e ∧ key e ≤ key x) := by
  by_cases hc : c
  · exact .inr ⟨if_pos hc, hnew hc⟩
  · exact .inl ⟨if_neg hc, hold hc⟩

theorem foldl_some_least (hs : KeepsLeast key step) (l : List α) (a : α) :
    ∃ b ∈ a :: l, l.foldl step (some a) = some b ∧ ∀ x ∈ a :: l, key b ≤ key x := by
  induction l generalizing a with
  | nil => exact ⟨a, List.mem_singleton_self a, rfl, fun x hx => List.mem_singleton.mp hx ▸ le_refl _⟩
  | cons e t ih =>
    simp only [List.foldl_cons, List.mem_cons, forall_eq_or_imp]
    obtain ⟨hstep, hle⟩ | ⟨hstep, hle⟩ := (hs e).2 a
    · obtain ⟨b, hb, hfold, hleast⟩ := ih a
      obtain ⟨hba, hbt⟩ := List.forall_mem_cons.mp hleast
      exact ⟨b, (List.mem_cons.mp hb).imp_right .inr, by rw [hstep, hfold], hba, hba.trans hle, hbt⟩
    · obtain ⟨b, hb, hfold, hleast⟩ := ih e
      obtain ⟨hbe, hbt⟩ := List.forall_mem_cons.mp hleast
      exact ⟨b, .inr (List.mem_cons.mp hb), by rw [hstep, hfold], hbe.trans hle, hbe, hbt⟩

/-- The fold of a list that is not empty gives one of its members, and none has a lesser key. -/
theorem foldl_least {l : List α} {e : α} {o : Option α} (hfold : l.foldl step none = o) (he : e ∈ l) (hs : KeepsLeast key step) :
    ∃ b ∈ l, o = some b ∧ ∀ x ∈ l, key b ≤ key x := by
  cases l with
  | nil => cases he
  | cons a t =>
    rw [List.foldl_cons, (hs a).1] at hfold
    exact hfold ▸ foldl_some_least hs t a

theorem foldl_eq_some_least {l : List α} {b : α} (hfold : l.foldl step none = some b) (hs : KeepsLeast key step) :
    b ∈ l ∧ ∀ x ∈ l, key b ≤ key x := by
  cases l with
  | nil => cases hfold
  | cons a t =>
    obtain ⟨b', hmem, hb, hleast⟩ := foldl_least hfold List.mem_cons_self hs
    obtain rfl := Option.some.inj hb
    exact ⟨hmem, hleast⟩

end

/-! ## The commit order (R454) -/

/-- The launch that commits next is ready, no older command of its queue holds it, and of those it was ready first. -/
theorem nextCommit_first {p : Part} {l : Launch} (h : p.nextCommit = some l) :
    l ∈ p.launches ∧ l.phase = .ready ∧ p.olderCommand l.queue l.cmd.sub = false
      ∧ ∀ k ∈ p.launches, k.phase = .ready → p.olderCommand k.queue k.cmd.sub = false → l.readyAt ≤ k.readyAt := by
  unfold Part.nextCommit at h
  obtain ⟨hmem, hfirst⟩ := foldl_eq_some_least (key := Launch.readyAt) h fun e =>
    ⟨rfl, fun x => least_of_ite (fun hlt => by omega) fun hge => by omega⟩
  simp only [List.mem_filter, Bool.and_eq_true, beq_iff_eq, Bool.not_eq_true', and_imp] at hmem hfirst
  obtain ⟨hin, hready, hfree⟩ := hmem
  exact ⟨hin, hready, hfree, hfirst⟩

/-! ## Merging (R444) -/

section
variable {s : State} {part slot : Nat} {p : Part} (hp : s.part? part = some p)
include hp

theorem exec_caskMerge_oldest {e : CaskEntry} {es : List CaskEntry}
    (hes : (s.rim (p.chanOf slot)).casks.filter (fun e => e.state == .committed) = es) (he : e ∈ es)
    (hold : ∀ x ∈ es, x = e ∨ e.order < x.order) : exec (.caskMerge part slot) s = .next (s.mergeLine p e.line) := by
  rw [exec_caskMerge, execCaskMerge]
  simp only [hp, hes]
  generalize hfold : List.foldl _ none es = oldest
  obtain ⟨b, hb, rfl, hleast⟩ := foldl_least (key := CaskEntry.order) hfold he fun e =>
    ⟨rfl, fun x => least_of_ite Nat.le_of_lt Nat.le_of_not_lt⟩
  obtain rfl | hlt := hold b hb
  · rfl
  · exact absurd (hleast e he) (Nat.not_le.mpr hlt)

/-! ## The intent record (R454, R455) -/

theorem exec_commitStart_intends {l : Launch} (hi : p.intent = none) (hl : p.nextCommit = some l) :
    exec (.commitStart part) s = .next ((s.setPart part
      { (p.updLaunch l.vint fun k => { k with phase := .intent }) with intent := some l.vint }).due (.commitIntentAck part)) := by
  rw [exec_commitStart, execCommitStart]
  simp only [hp, hi, hl]

theorem exec_commitIntentAck_broadcasts {v : BitVec 32} {l : Launch} (hi : p.intent = some v) (hl : p.launch? v = some l)
    (hph : l.phase = .intent) : exec (.commitIntentAck part) s = .next ((s.setPart part { (p.updLaunch l.vint fun k =>
      { k with phase := .committing, todo := List.range p.slots, acks := List.range p.slots }).setVState l.vint .committing with
        commitCount := p.commitCount + 1 }).due (.commitBroadcast part 0 l.vint.toNat)) := by
  rw [exec_commitIntentAck, execCommitIntentAck]
  simp only [hp, hi, Option.bind_some, hl, hph, ne_eq, not_true, if_false]

end

/-! ## Publication at a slot (R138, R443) -/

/-- An entry once vintage v is committed under an order number. -/
def publishedEntry (v : BitVec 32) (order : Nat) (e : CaskEntry) : CaskEntry :=
  if e.state = .open ∧ e.vint = v then { e with state := .committed, order := order } else e

/-- A slot controller once vintage v is committed: its open entries are committed ones, its undo entries are freed. -/
def published (r : Rim) (v : BitVec 32) (order : Nat) : Rim := { r with
  casks := (r.casks.filter fun e => !(e.state == .undo && e.vint == v)).map (publishedEntry v order),
  reds := r.reds.filter fun a => a.vint != v, rels := forgetReleases v r.rels, inPlace := r.inPlace.filter fun u => u != v }

theorem publishAt_eq_setRim {s : State} (p : Part) {chan : Nat} (v : BitVec 32) (order : Nat) (hr : (s.rim chan).reds = []) :
    s.publishAt p chan v order = s.setRim chan (published (s.rim chan) v order) := by
  simp only [State.publishAt, published, hr, List.filter_nil, List.foldl_nil]
  rfl

section
variable {r : Rim} {v : BitVec 32} {order line i : Nat} {h : Byte} {e : CaskEntry}

theorem publishedEntry_own (hs : e.state = .open) (hv : e.vint = v) :
    publishedEntry v order e = { e with state := .committed, order := order } := if_pos ⟨hs, hv⟩

theorem publishedEntry_other (ho : ¬(e.state = .open ∧ e.vint = v)) : publishedEntry v order e = e := if_neg ho

/-- Where an entry of a published slot comes from. -/
theorem mem_published : e ∈ (published r v order).casks
    ↔ (∃ y ∈ r.casks, y.state = .open ∧ y.vint = v ∧ { y with state := .committed, order := order } = e)
      ∨ e ∈ r.casks ∧ ¬(e.state = .open ∧ e.vint = v) ∧ ¬(e.state = .undo ∧ e.vint = v) := by
  simp only [published, List.mem_map, List.mem_filter, Bool.not_eq_true', Bool.and_eq_false_imp, beq_iff_eq, beq_eq_false_iff_ne]
  constructor
  · rintro ⟨y, ⟨hy, hundo⟩, rfl⟩
    by_cases hown : y.state = .open ∧ y.vint = v
    · exact .inl ⟨y, hy, hown.1, hown.2, (publishedEntry_own hown.1 hown.2).symm⟩
    · rw [publishedEntry_other hown]
      exact .inr ⟨hy, hown, fun hu => hundo hu.1 hu.2⟩
  · rintro (⟨y, hy, hs, hv, rfl⟩ | ⟨hy, hown, hundo⟩)
    · exact ⟨y, ⟨hy, by simp [hs]⟩, publishedEntry_own hs hv⟩
    · exact ⟨e, ⟨hy, fun hs hv => hundo ⟨hs, hv⟩⟩, publishedEntry_other hown⟩

theorem state_of_mem_published (he : e ∈ (published r v order).casks) (hv : e.vint = v) : e.state = .committed := by
  obtain ⟨y, -, -, -, rfl⟩ | ⟨-, hopen, hundo⟩ := mem_published.mp he
  · rfl
  · cases hs : e.state
    case committed => rfl
    case undo => exact absurd ⟨hs, hv⟩ hundo
    · exact absurd ⟨hs, hv⟩ hopen

/-- The committed byte is that of the entry that is newer than every other one of its line. -/
theorem committedByte_newest (he : e ∈ r.casks) (hc : e.state = .committed) (hl : e.line = line) (hm : e.mask / 2 ^ i % 2 = 1)
    (hnew : ∀ x ∈ r.casks, x.state = .committed → x.line = line → x = e ∨ x.order < e.order) :
    r.committedByte line i h = e.data.getD i 0 := by
  have hmem : e ∈ r.casks.filter fun e => e.state == .committed && e.line == line && decide (e.mask / 2 ^ i % 2 = 1) := by
    simp [he, hc, hl, hm]
  dsimp only [Rim.committedByte]
  generalize hfold : List.foldl _ none _ = newest
  obtain ⟨b, hb, rfl, hgreatest⟩ := foldl_least (key := OrderDual.toDual ∘ CaskEntry.order) hfold hmem fun e =>
    ⟨rfl, fun x => least_of_ite Nat.le_of_lt Nat.le_of_not_lt⟩
  simp only [List.mem_filter, Bool.and_eq_true, beq_iff_eq] at hb
  obtain ⟨hin, ⟨hbc, hbl⟩, -⟩ := hb
  obtain rfl | hlt := hnew b hin hbc hbl
  · rfl
  · exact absurd (OrderDual.toDual_le_toDual.mp (hgreatest e hmem)) (Nat.not_le.mpr hlt)

/-- A filter passes over an earlier filter and a map that do not change what it selects. -/
theorem filter_map_filter_eq {α : Type} {P Q : α → Bool} {f : α → α} {l : List α} (hsel : ∀ e ∈ l, (P (f e) && Q e) = P e)
    (hfix : ∀ e, P e = true → f e = e) : ((l.filter Q).map f).filter P = l.filter P := by
  rw [List.filter_map, List.filter_filter]
  calc ((l.filter fun e => (P ∘ f) e && Q e).map f)
    _ = (l.filter P).map f := congrArg (List.map f) (List.filter_congr hsel)
    _ = (l.filter P).map id := List.map_congr_left fun e he => hfix e (List.of_mem_filter he)
    _ = l.filter P := List.map_id _

/-- Publication leaves a committed byte that the vintage has not written. -/
theorem committedByte_published_unwritten
    (hno : ∀ e ∈ r.casks, e.state = .open → e.vint = v → e.line = line → e.mask / 2 ^ i % 2 ≠ 1) :
    (published r v order).committedByte line i h = r.committedByte line i h := by
  unfold Rim.committedByte published
  rw [filter_map_filter_eq (fun e he => ?selected) fun e hP => ?fixed]
  case selected =>
    by_cases hown : e.state = .open ∧ e.vint = v
    · have hunwritten := hno e he hown.1 hown.2
      rw [Bool.eq_iff_iff, publishedEntry_own hown.1 hown.2]
      simpa [hown.1] using hunwritten
    · rw [publishedEntry_other hown]
      cases hs : e.state <;> simp
  case fixed =>
    simp only [Bool.and_eq_true, beq_iff_eq] at hP
    exact publishedEntry_other fun hown => by simp [hown.1] at hP

/-- What vintage v read of itself before its publication is what every committed view reads after. -/
theorem viewByte_published (w : BitVec 32) (hold : ∀ e ∈ r.casks, e.state = .committed → e.order < order)
    (hone : ∀ a ∈ r.casks, ∀ b ∈ r.casks, a.state = .open → b.state = .open → a.vint = v → b.vint = v → a.line = b.line → a = b) :
    (published r v order).viewByte w true line i h = r.viewByte v false line i h := by
  have hview : (published r v order).viewByte w true line i h = (published r v order).committedByte line i h := rfl
  rw [hview]
  cases ho : r.openEntry v line with
  | none =>
    rw [viewByte_unopened ho]
    refine committedByte_published_unwritten fun e he hs hv hl => ?_
    exact absurd (List.find?_eq_none.mp ho e he) (by simp [hs, hv, hl])
  | some e =>
    rw [viewByte_open ho]
    obtain ⟨hin, hs, hv, hl⟩ := openEntry_some ho
    split
    next hm =>
      refine committedByte_newest (e := { e with state := .committed, order := order })
        (mem_published.mpr (.inl ⟨e, hin, hs, hv, rfl⟩)) rfl hl hm fun x hx hxc hxl => ?_
      obtain ⟨y, hy, hys, hyv, rfl⟩ | ⟨hx, -, -⟩ := mem_published.mp hx
      · rw [hone y hy e hin hys hs hyv hv (hxl.trans hl.symm)]
        exact .inl rfl
      · exact .inr (hold x hx hxc)
    next hm =>
      refine committedByte_published_unwritten fun y hy hys hyv hyl => ?_
      rwa [hone y hy e hin hys hs hyv hv (hyl.trans hl.symm)]

end

/-! ## A launch's sessions at the slots -/

/-- A query with a slot's count on its way (R466). -/
def counted (q : CaskQuery) (slot n : Nat) : CaskQuery := { q with todo := q.todo.erase slot, counts := q.counts ++ [(slot, n)] }

section
variable {s : State} {part slot v : Nat} {p : Part} {l : Launch} (hp : s.part? part = some p)
  (hl : p.launch? (BitVec.ofNat 32 v) = some l)
include hp hl

/-! ### The commit broadcast (R455) -/

section
variable (hph : l.phase = .committing)
include hph

theorem exec_commitBroadcast_publishes (ht : l.todo.contains slot = true) : exec (.commitBroadcast part slot v) s
    = .next (((((if (Tbl.find? s.rims (p.chanOf slot)).isSome then s.publishAt p (p.chanOf slot) l.vint p.commitCount else s).updPart part
      fun q => q.updLaunch l.vint fun k => { k with todo := k.todo.erase slot }).due (.commitAck part slot v)).onward
        (List.range p.slots) slot fun y t => t.due (.commitBroadcast part y v))) := by
  rw [exec_commitBroadcast, execCommitBroadcast]
  simp only [hp, hl, hph, ht, ne_eq, not_true, Bool.not_true, Bool.false_eq_true, or_self, if_false]

section
variable (ht : l.todo.contains slot = false) (ha : l.acks.contains slot = true)
include ht ha

theorem exec_commitAck_waits (hleft : l.acks.erase slot ≠ []) : exec (.commitAck part slot v) s
    = .next (s.setPart part (p.updLaunch l.vint fun k => { k with acks := l.acks.erase slot })) := by
  rw [exec_commitAck, execCommitAck]
  simp only [hp, hl, hph, ht, ha, ne_eq, not_true, Bool.not_true, Bool.false_eq_true, or_self, if_false,
    List.isEmpty_eq_false_iff.mpr hleft, Bool.not_false, if_true]

theorem exec_commitAck_commits (hleft : l.acks.erase slot = []) : exec (.commitAck part slot v) s
    = .next (((s.setPart part { (p.updLaunch l.vint fun k => { k with acks := l.acks.erase slot }) with intent := none }).finishLaunch
      part l.vint 0 l.status 0 false).wakeReads p) := by
  rw [exec_commitAck, execCommitAck]
  simp only [hp, hl, hph, ht, ha, ne_eq, not_true, Bool.not_true, Bool.false_eq_true, or_self, if_false,
    List.isEmpty_iff.mpr hleft]

end
end

/-! ### The switch (R461) -/

theorem exec_vintageSwitch_broadcasts (hph : l.phase = .running) (hask : l.switchAsked = true) (hout : l.switchOut = false)
    (holdest : ∀ k ∈ p.launches, k.phase = .unlocking ∨ vintageOlder k.vint l.vint = false) : exec (.vintageSwitch part v) s
      = .next ((s.setPart part (p.updLaunch l.vint fun k =>
          { k with switchOut := true, swTodo := List.range p.slots, swAcks := List.range p.slots })).later (.switch part 0 v)) := by
  have hnone : (p.launches.any fun k => k.phase != .unlocking && vintageOlder k.vint l.vint) = false := by
    rw [List.any_eq_false]
    intro k hk
    obtain hun | hyoung := holdest k hk
    · simp [hun]
    · simp [hyoung]
  rw [exec_vintageSwitch, execVintageSwitch]
  simp only [hp, hl, hph, hask, hout, hnone, ne_eq, not_true, Bool.not_true, Bool.false_eq_true, or_self, if_false]

theorem exec_vintageSwitch_waits (holder : ∃ k ∈ p.launches, k.phase ≠ .unlocking ∧ vintageOlder k.vint l.vint = true) :
    exec (.vintageSwitch part v) s = .next s := by
  have hany : (p.launches.any fun k => k.phase != .unlocking && vintageOlder k.vint l.vint) = true := by
    simpa [List.any_eq_true] using holder
  rw [exec_vintageSwitch, execVintageSwitch]
  simp only [hp, hl, hany, or_true, if_true]

section
variable (ht : l.swTodo.contains slot = true) {s1 : State} {mine : List CaskEntry}
  (ho : (s.rim (p.chanOf slot)).casks.filter (fun e => e.state == .open && e.vint == l.vint) = mine)
include ht ho

theorem exec_switch_full (hs : s.switchEntries p (p.chanOf slot) l.vint mine = (s1, false)) :
    exec (.switch part slot v) s = .next (s1.startKill part l.vint ⟨4, 0, 0, false⟩) := by
  rw [exec_switch, execSwitch]
  simp only [hp, hl, ht, ho, hs, Bool.not_true, Bool.false_eq_true, if_false, Bool.not_false, if_true]

theorem exec_switch_merges (hs : s.switchEntries p (p.chanOf slot) l.vint mine = (s1, true)) : exec (.switch part slot v) s
    = .next (((s1.updPart part fun q => q.updLaunch l.vint fun k => { k with swTodo := k.swTodo.erase slot }).later
        (.switchAck part slot v)).onward (List.range p.slots) slot fun y t => t.later (.switch part y v)) := by
  rw [exec_switch, execSwitch]
  simp only [hp, hl, ht, ho, hs, Bool.not_true, Bool.false_eq_true, if_false]

end

section
variable (ht : l.swTodo.contains slot = false) (ha : l.swAcks.contains slot = true)
include ht ha

theorem exec_switchAck_waits (hleft : l.swAcks.erase slot ≠ []) : exec (.switchAck part slot v) s
    = .next (s.setPart part (p.updLaunch l.vint fun k => { k with swAcks := l.swAcks.erase slot })) := by
  rw [exec_switchAck, execSwitchAck]
  simp only [hp, hl, ht, ha, Bool.not_true, Bool.false_eq_true, or_self, if_false, List.isEmpty_eq_false_iff.mpr hleft,
    Bool.not_false, if_true]

/-- With the last acknowledgement the launch is switched: its slots write in place, and the writes and contexts that waited go on. -/
theorem exec_switchAck_switches (hleft : l.swAcks.erase slot = []) :
    let slots := (List.range p.slots).map p.chanOf
    let switched := slots.foldl (fun t c => t.setRim c { t.rim c with inPlace := (t.rim c).inPlace ++ [l.vint] })
      (s.setPart part ((p.updLaunch l.vint fun k => { k with swAcks := [], switched := true }).setVState l.vint .switched))
    exec (.switchAck part slot v) s = .next (p.bound.foldl (fun t x => t.wakeImages x) (slots.foldl (fun t c =>
      if (t.rim c).waiting.isEmpty && (t.rim c).lands.isEmpty then t else t.resumeRim p c l.vint) switched)) := by
  rw [exec_switchAck, execSwitchAck]
  simp only [hp, hl, ht, ha, Bool.not_true, Bool.false_eq_true, or_self, if_false, List.isEmpty_iff.mpr hleft]

end

/-! ### CASKUSE's count (R466) -/

theorem exec_caskuseQuery_counts {q : CaskQuery} (hq : List.find? (fun (q : CaskQuery) => q.todo.contains slot) l.queries = some q) :
    exec (.caskuseQuery part slot v) s = .next (((s.setPart part (p.updLaunch l.vint fun k => { k with
      queries := k.queries.replace q (counted q slot ((s.rim (p.chanOf slot)).entriesOf l.vint l.switched)) })).later
          (.caskuseAnswer part slot v)).onward (List.range p.slots) slot fun y t => t.later (.caskuseQuery part y v)) := by
  rw [exec_caskuseQuery, execCaskuseQuery]
  simp only [hp, hl, hq, counted]

section
variable {q : CaskQuery} {n : Nat} {left : List (Nat × Nat)}
  (hq : List.find? (fun (q : CaskQuery) => q.counts.any fun e => e.1 == slot) l.queries = some q)
  (hn : List.find? (fun (e : Nat × Nat) => e.1 == slot) q.counts = some (slot, n)) (hleft : q.counts.filter (fun e => e.1 != slot) = left)
include hq hn hleft

theorem exec_caskuseAnswer_answers (ht : q.todo = []) (he : left = []) : exec (.caskuseAnswer part slot v) s
    = .next (((s.setPart part (p.updLaunch l.vint fun k => { k with queries := k.queries.erase q })).logEv q.site 9 q.ctx
        (BitVec.ofNat 64 (64 * (q.sum + n))) 0 0xFFFF 0 []).complete q.site q.ctx q.id { bytes := leBytes 8 (64 * (q.sum + n)) }) := by
  rw [exec_caskuseAnswer, execCaskuseAnswer]
  simp only [hp, hl, hq, hn, hleft, ht, he, Option.map_some, Option.getD_some, List.isEmpty_nil, Bool.and_self, if_true]

theorem exec_caskuseAnswer_sums (hmore : q.todo ≠ [] ∨ left ≠ []) : exec (.caskuseAnswer part slot v) s
    = .next (s.setPart part (p.updLaunch l.vint fun k =>
        { k with queries := k.queries.replace q { q with counts := left, sum := q.sum + n } })) := by
  have hgo : (q.todo.isEmpty && left.isEmpty) = false := by
    simpa only [Bool.and_eq_false_iff, List.isEmpty_eq_false_iff] using hmore
  rw [exec_caskuseAnswer, execCaskuseAnswer]
  simp only [hp, hl, hq, hn, hleft, hgo, Option.map_some, Option.getD_some, Bool.false_eq_true, if_false]

end
end

/-! ## The switch of a slot's entries (R461, R463) -/

section
variable {s : State} {p : Part} {chan : Nat} {v : BitVec 32} {e : CaskEntry} {t : List CaskEntry}

theorem switchEntries_full
    (hfull : 65536 ≤ (((s.mergeLine p e.line).rim chan).casks.filter fun u => u.state == .undo && u.vint == v).length) :
    s.switchEntries p chan v (e :: t) = (s, false) := by
  rw [State.switchEntries, undoShare, if_pos hfull]

/-- An entry of a switched line is replaced by an undo entry of its line's home bytes, and written home. -/
theorem switchEntries_merges
    (hroom : (((s.mergeLine p e.line).rim chan).casks.filter fun u => u.state == .undo && u.vint == v).length < 65536) :
    s.switchEntries p chan v (e :: t) = ((((s.mergeLine p e.line).setRim chan { (s.mergeLine p e.line).rim chan with
      casks := ((s.mergeLine p e.line).rim chan).casks.erase e
        ++ [⟨e.line, (s.mergeLine p e.line).homeRead p e.line 64, 2 ^ 64 - 1, v, .undo, 0⟩] }).homeWriteLine p e.line e.mask
          e.data).switchEntries p chan v t) := by
  rw [State.switchEntries, undoShare, if_neg (Nat.not_le.mpr hroom)]

end

/-! ## The obligation -/

/-- Settles O52: the arbiter and the merge each take the least of a fold, a published slot's committed view is the launch's own, and each
broadcast, acknowledgement and count goes by what its launch has outstanding. -/
theorem launchesCommitInOrder : Obligations.LaunchesCommitInOrder := by
  unfold Obligations.LaunchesCommitInOrder
  refine ⟨fun s part p hp => ⟨fun l => exec_commitStart_intends hp, fun v l => exec_commitIntentAck_broadcasts hp, fun l => nextCommit_first,
      fun slot e ⟨he, hold⟩ => exec_caskMerge_oldest hp rfl he hold⟩,
    fun s p chan v w order line i h hr hold hone => ?publication, fun s part slot v p l hp hl => ?sessions,
    fun s p chan v e t => ⟨switchEntries_full, switchEntries_merges⟩⟩
  case publication =>
    rw [publishAt_eq_setRim p v order hr]
    dsimp only
    rw [State.rim_setRim_same]
    exact ⟨viewByte_published w hold hone, rfl, fun e => state_of_mem_published⟩
  case sessions =>
    exact ⟨exec_commitBroadcast_publishes hp hl,
      fun hph ht ha => ⟨exec_commitAck_waits hp hl hph ht ha, exec_commitAck_commits hp hl hph ht ha⟩,
      exec_vintageSwitch_broadcasts hp hl, fun _ => exec_vintageSwitch_waits hp hl,
      fun ht => ⟨fun s1 => exec_switch_full hp hl ht rfl, fun s1 => exec_switch_merges hp hl ht rfl⟩,
      fun ht ha => ⟨exec_switchAck_waits hp hl ht ha, exec_switchAck_switches hp hl ht ha⟩,
      fun q => exec_caskuseQuery_counts hp hl,
      fun q n hq hn => ⟨exec_caskuseAnswer_answers hp hl hq hn rfl, exec_caskuseAnswer_sums hp hl hq hn rfl⟩⟩

end Sys2Proof.CommitOrder
end

section
/-!
PROOFS. The turns of the machine (18_launch_engine_and_host_ports.md, R522; log entry 9): the event that a step executes, and the tie of
two requests of the SCL ports.
-/

namespace Sys2Proof.Turns

open Sys2Proof.Machine

/-! ## Which event goes first (R522) -/

section
variable {s : State} {i j : Instr} {rest : List Turn}

theorem tied_unrivalled (h : ∀ j r, rest = .event j :: r → s.rivals i j = false) : s.tied i rest = (i, { s with order := rest }) := by
  cases rest with
  | nil => rfl
  | cons t r =>
    cases t with
    | issue => rfl
    | event j => simp [State.tied, h j r rfl]

theorem tied_cycles_apart (hc : Config.cyclesOf (s.tick + 1) ≠ 0) :
    s.tied i (.event j :: rest) = (i, { s with order := .event j :: rest }) := by
  simp [State.tied, hc]

/-- At a tie the request of the port that lost the last one goes first. -/
theorem tied_rivals (hr : s.rivals i j = true) (hc : Config.cyclesOf (s.tick + 1) = 0) :
    s.tied i (.event j :: rest) =
      let s1 := { s with module := { s.module with tieFirstA := !s.module.tieFirstA } }
      if s.ofSclA i = s.module.tieFirstA then (i, { s1 with order := .event j :: rest }) else (j, { s1 with order := .event i :: rest }) := by
  simp [State.tied, hr, hc]

/-! ## The step -/

theorem step_event (h : s.order = .event i :: rest) : step s = exec (s.tied i rest).1 (s.tied i rest).2.begin := by
  rw [step, h]

theorem step_due {rest : List Due} (ho : s.order = []) (hp : s.pending = .ev i :: rest) :
    step s = exec i { s with pending := rest }.begin := by
  rw [step, ho, hp]
  rfl

theorem step_unrivalled (h : s.order = .event i :: rest) (hno : ∀ j r, rest = .event j :: r → s.rivals i j = false) :
    step s = exec i { s.begin with order := rest } := by
  rw [step_event h, tied_unrivalled hno]
  rfl

end

/-! ## The obligation -/

/-- Settles O5: the step is the event that `State.tied` puts first, executed in the begun state, and a tie goes by the port that lost
the last one. -/
theorem stepRunsTheDueEvent : Obligations.StepRunsTheDueEvent := by
  unfold Obligations.StepRunsTheDueEvent
  refine ⟨fun s i rest => step_due, fun s i rest => step_unrivalled, fun s i j rest ho hr => ?_⟩
  dsimp only
  rw [step_event ho]
  by_cases hc : Config.cyclesOf (s.tick + 1) = 0
  · rw [if_neg (not_not_intro hc), tied_rivals hr hc]
    by_cases hfirst : s.ofSclA i = s.module.tieFirstA
    · simp only [if_pos hfirst]
      rfl
    · simp only [if_neg hfirst]
      rfl
  · rw [if_pos hc, tied_cycles_apart hc]
    rfl

end Sys2Proof.Turns
end

section
/-!
PROOFS. Frames of folds over states, and of the resets' shared operations (R9, R456, R537).
-/

namespace Sys2Proof.Resets

open Sys2Proof.Machine

/-- What every step of a fold keeps, the fold keeps. -/
theorem foldl_frame {σ α β : Type} (g : σ → β) {f : σ → α → σ} (hf : ∀ t e, g (f t e) = g t) (l : List α) (s : σ) :
    g (l.foldl f s) = g s := by
  induction l generalizing s with
  | nil => rfl
  | cons e l ih => rw [List.foldl_cons, ih, hf]

/-- The assignment of roles changes nothing but bands. -/
theorem assignRoles_frame {β : Type} (g : State → β) (hg : ∀ t b x, g (State.setBand t b x) = g t) (s : State) :
    g s.assignRoles = g s :=
  foldl_frame g (fun t b => by dsimp only; split; exacts [rfl, hg ..]) _ _

/-- A warm reset that begins is under way. -/
theorem warmReset_warm {s : State} (hw : s.module.warm = false) (hb : s.module.booting = false) (hi : s.module.mgc.input ≠ .off) :
    s.warmReset.module.warm = true := by
  simp only [State.warmReset, hw, hb, hi, Bool.false_eq_true, or_self, if_false, State.later_module]
  rw [assignRoles_frame State.module fun _ _ _ => rfl]

end Sys2Proof.Resets
end

section
/-!
PROOFS. Power and management (20_power_and_management.md, R565; 13_fabric_and_messages.md, R404): a siding area that the waiting replies of
its cores fill is full, whatever its parking lists and pools hold.
-/

namespace Sys2Proof.Management

open Sys2Proof.Machine Sys2Proof.Resets

/-! ## The use of a siding area (R192, R401, R402) -/

/-- The replies that wait behind a full reply queue use their band's siding area. -/
theorem sidingUsed_of_full_queue {s : State} {site : Nat} {c : Core} (p : Part) (hc : s.cores = [(site, c)])
    (hq : replyEntries ≤ c.replies.length) : c.repliesWait.length ≤ s.sidingUsed p (bandOf site) := by
  have hwait : s.repliesParked (bandOf site) = c.repliesWait.length := by
    simp only [State.repliesParked, hc, List.foldl_cons, List.foldl_nil, true_and, if_pos hq, Nat.zero_add]
  rw [State.sidingUsed, hwait]
  omega

theorem exec_sidingFullTimeout_full {s : State} {b : Nat} {p : Part} (hp : s.partOfBand b = some p)
    (hfull : sidingSize ≤ s.sidingUsed p b) : exec (.sidingFullTimeout b) s = .next s.warmReset := by
  rw [exec_sidingFullTimeout, execSidingFullTimeout]
  simp only [hp, if_pos hfull]

/-! ## A band whose waiting replies fill its area -/

/-- A core whose reply queue is full and behind which n replies wait. -/
def waitingCore (n : Nat) : Core :=
  { Core.reset with replies := List.replicate replyEntries ⟨0, 0, 0⟩, repliesWait := List.replicate n (⟨0, 0, 0⟩, 0, 0) }

/-- A partition of band 0 that parks nothing. -/
def emptyPart : Part := Part.new 0 1 [] [] 0 Pcfg.reset

/-- The module with that partition and one such core, at site 0. -/
def waitingState (n : Nat) : State := { State.reset with cores := [(0, waitingCore n)], parts := [(0, emptyPart)] }

theorem waitingState_partOfBand (n : Nat) : (waitingState n).partOfBand 0 = some emptyPart := rfl

theorem emptyPart_sidingUsed : emptyPart.sidingUsed 0 < sidingSize := by decide

theorem waitingState_full : sidingSize ≤ (waitingState sidingSize).sidingUsed emptyPart 0 := by
  have hused := sidingUsed_of_full_queue (s := waitingState sidingSize) emptyPart rfl (List.length_replicate ..).ge
  rwa [waitingCore, List.length_replicate] at hused

/-! ## The obligation -/

/-- Refutes O58: `Part.sidingUsed` counts the parking lists and pools alone, and a band's area is also full, and the module reset, when the
replies that wait behind a full reply queue take its last entry. -/
theorem not_managementFollowsItsRules : ¬ Obligations.ManagementFollowsItsRules := by
  unfold Obligations.ManagementFollowsItsRules
  rintro ⟨-, -, -, -, -, hwatchdogs, -⟩
  obtain ⟨-, -, -, hsiding⟩ := hwatchdogs (waitingState sidingSize) 0 (by decide) rfl rfl nofun
  have hstays := (hsiding emptyPart (waitingState_partOfBand _)).2 emptyPart_sidingUsed
  rw [exec_sidingFullTimeout_full (waitingState_partOfBand _) waitingState_full] at hstays
  have hwarm := warmReset_warm (s := waitingState sidingSize) rfl rfl nofun
  rw [Host.Outcome.next.inj hstays] at hwarm
  cases hwarm

end Sys2Proof.Management
end

section
/-!
PROOFS. The host ports (18_launch_engine_and_host_ports.md, R520-R526, R533; 15_commit_engine.md, R464; 04_memory_and_ordering.md, R140):
reads and writes of every space, the semaphore, the time registers, partition creation and dissolution, and a link that goes down.
-/

namespace Sys2Proof.HostPorts

open Sys2Proof.Machine Sys2Proof.Accesses Sys2Proof.Records

/-! ## Requests and addresses (R520, R521) -/

section
variable {s : State} {scl : Requester}

theorem hostAsk_down (h : s.portUp scl = false) (k : State) : s.hostAsk scl k = .next s := by
  simp [State.hostAsk, h]

theorem hostAsk_warm (hup : s.portUp scl = true) (hw : s.module.warm = true) (k : State) :
    s.hostAsk scl k = .next (s.respond scl 5 []) := by
  simp [State.hostAsk, hup, hw]

theorem hostAsk_up (hup : s.portUp scl = true) (hw : s.module.warm = false) (k : State) : s.hostAsk scl k = .next k := by
  simp [State.hostAsk, hup, hw]

theorem answerAsk_up (hup : s.portUp scl = true) (hw : s.module.warm = false) (r : Nat × State) :
    s.answerAsk scl r = .next (r.2.respond scl r.1 []) := hostAsk_up hup hw _

end

/-- The requests of a host port. -/
def IsHostRequest (scl : Requester) (addr len : Nat) (data : List Byte) (i : Instr) : Prop :=
  i ∈ [.hostMemoryRead scl addr len, .hostMemoryWrite scl addr data, .registerWrite scl addr data, .semRead scl, .semWrite scl,
    .tsecRead scl, .tnsWrite scl len, .timeStep scl len, .pctlCreate scl len, .pctlDissolve scl len]

/-- Each asks for a state in which its port may go on. -/
theorem exec_hostRequest {scl : Requester} {addr len : Nat} {data : List Byte} {i : Instr}
    (hi : IsHostRequest scl addr len data i) (s : State) : ∃ k, exec i s = s.hostAsk scl k := by
  simp only [IsHostRequest, List.mem_cons, List.not_mem_nil, or_false] at hi
  obtain rfl | rfl | rfl | rfl | rfl | rfl | rfl | rfl | rfl | rfl := hi <;> exact ⟨_, rfl⟩

theorem hostPlace_beyond {addr : Nat} (h : 2 ^ 52 ≤ addr) : hostPlace addr = none :=
  if_neg (Nat.div_pos h (Nat.two_pow_pos 52)).ne'

theorem hostPlace_at {space part off : Nat} (hs : space < 16) (hp : part < 16) (ho : off < 2 ^ 44) :
    hostPlace (space * 2 ^ 48 + part * 2 ^ 44 + off) = some (space, part, off) := by
  rw [hostPlace, if_pos (by omega)]
  congr 2
  · omega
  · congr 1 <;> omega

theorem hostSize_iff {addr len : Nat} :
    hostSize addr len = true ↔ len % 8 = 0 ∧ 8 ≤ len ∧ len ≤ 256 ∧ addr % 8 = 0 ∧ addr % 256 + len ≤ 256 := by
  simp [hostSize, and_assoc]

theorem hostSize_at (space part : Nat) {off len : Nat} (hl : len % 8 = 0) (h8 : 8 ≤ len) (ho : off % 8 = 0) (hfit : off % 256 + len ≤ 256) :
    hostSize (space * 2 ^ 48 + part * 2 ^ 44 + off) len = true :=
  hostSize_iff.mpr ⟨hl, h8, by omega, by omega, by omega⟩

/-- An address or a size outside R520 and R521. -/
theorem place_or_size_bad {addr len : Nat}
    (h : 2 ^ 52 ≤ addr ∨ len % 8 ≠ 0 ∨ len < 8 ∨ 256 < len ∨ addr % 8 ≠ 0 ∨ 256 < addr % 256 + len) :
    hostPlace addr = none ∨ hostSize addr len = false := by
  obtain h | h := h
  · exact .inl (hostPlace_beyond h)
  · refine .inr (Bool.eq_false_iff.mpr fun hs => ?_)
    have hlegal := hostSize_iff.mp hs
    omega

/-! ## Reads and writes of the spaces (R140, R464, R521) -/

section
variable {s : State} {scl : Requester} {addr len : Nat} {data : List Byte} (hup : s.portUp scl = true) (hw : s.module.warm = false)
include hup hw

theorem exec_read_bad (h : hostPlace addr = none ∨ hostSize addr len = false) :
    exec (.hostMemoryRead scl addr len) s = .next (s.respond scl 1 []) := by
  rw [exec_hostMemoryRead, execHostMemoryRead, hostAsk_up hup hw]
  obtain h | h := h
  · simp only [h]
  · cases hostPlace addr <;> simp [h]

theorem exec_write_bad (h : hostPlace addr = none ∨ hostSize addr data.length = false) :
    exec (.hostMemoryWrite scl addr data) s = .next (s.respond scl 1 []) := by
  rw [exec_hostMemoryWrite, execHostMemoryWrite, hostAsk_up hup hw]
  obtain h | h := h
  · simp only [h]
  · cases hostPlace addr <;> simp [h]

theorem exec_registerWrite_bad (h : hostPlace addr = none ∨ hostSize addr data.length = false) :
    exec (.registerWrite scl addr data) s = .next (s.respond scl 1 []) := by
  rw [exec_registerWrite, execRegisterWrite, hostAsk_up hup hw]
  obtain h | h := h
  · simp only [h]
  · cases hostPlace addr <;> simp [h]

section
variable {space part off : Nat} {p : Part} (hplace : hostPlace addr = some (space, part, off)) (hne : space ≠ 8)
include hplace hne

theorem exec_read_no_part (hsize : hostSize addr len = true) (hp : s.part? part = none) :
    exec (.hostMemoryRead scl addr len) s = .next (s.respond scl 1 []) := by
  rw [exec_hostMemoryRead, execHostMemoryRead, hostAsk_up hup hw]
  simp [hplace, hsize, hne, hp]

theorem exec_write_no_part (hsize : hostSize addr data.length = true) (hp : s.part? part = none) :
    exec (.hostMemoryWrite scl addr data) s = .next (s.respond scl 1 []) := by
  rw [exec_hostMemoryWrite, execHostMemoryWrite, hostAsk_up hup hw]
  simp [hplace, hsize, hne, hp]

omit hne in
theorem exec_read_held (hsize : hostSize addr len = true) (hp : s.part? part = some p) (h0 : space = 0) (hc : p.committing = true) :
    exec (.hostMemoryRead scl addr len) s
      = .next { s with module := { s.module with held := s.module.held ++ [(scl, addr, len)] } } := by
  rw [exec_hostMemoryRead, execHostMemoryRead, hostAsk_up hup hw]
  simp [hplace, hsize, hp, h0, hc]

theorem exec_read_mapped {l : List Byte} (hsize : hostSize addr len = true) (hp : s.part? part = some p)
    (hfree : space = 0 → p.committing = false) (hb : s.hostBytes p space off len = some l) : exec (.hostMemoryRead scl addr len) s
      = .next ((if space = 2 then s.readMirror p (off / 2 ^ 22) else s).respond scl 0 l) := by
  rw [exec_hostMemoryRead, execHostMemoryRead, hostAsk_up hup hw]
  have hgo : ¬(space = 0 ∧ p.committing = true) := fun h => by simp [hfree h.1] at h
  simp only [hplace, hsize, hne, hp, hgo, hb, Bool.not_true, Bool.false_eq_true, if_false]

theorem exec_read_unmapped (hsize : hostSize addr len = true) (hp : s.part? part = some p) (hfree : space = 0 → p.committing = false)
    (hb : s.hostBytes p space off len = none) : exec (.hostMemoryRead scl addr len) s = .next (s.respond scl 1 []) := by
  rw [exec_hostMemoryRead, execHostMemoryRead, hostAsk_up hup hw]
  have hgo : ¬(space = 0 ∧ p.committing = true) := fun h => by simp [hfree h.1] at h
  simp only [hplace, hsize, hne, hp, hgo, hb, Bool.not_true, Bool.false_eq_true, if_false]

theorem exec_write_part (hsize : hostSize addr data.length = true) (hp : s.part? part = some p) :
    exec (.hostMemoryWrite scl addr data) s = .next ((s.hostWrite p space off data).2.respond scl (s.hostWrite p space off data).1 []) := by
  rw [exec_hostMemoryWrite, execHostMemoryWrite, hostAsk_up hup hw]
  simp [hplace, hsize, hne, hp]

end
end

/-! ## Writes of global memory (R448, R464, R519) -/

section
variable {s : State} {p : Part} {off : Nat} {data : List Byte}

theorem hostWrite_beyond (h : p.capacity < off + data.length) : s.hostWrite p 0 off data = (1, s) := by
  simp [State.hostWrite, h]

theorem hostWrite_locked (h : off + data.length ≤ p.capacity) (hl : s.hostLocked p off data.length = true) :
    s.hostWrite p 0 off data = (2, s) := by
  simp [State.hostWrite, h, hl]

theorem hostWrite_stores (h : off + data.length ≤ p.capacity) (hl : s.hostLocked p off data.length = false) (hn : data.length < 256) :
    s.hostWrite p 0 off data = (0, s.committedWrite p off data) := by
  simp [State.hostWrite, h, hl, hn.ne]

/-- A write of a whole granule takes it off the lost list. -/
theorem hostWrite_stores_granule (h : off + data.length ≤ p.capacity) (hl : s.hostLocked p off data.length = false)
    (hn : data.length = 256) : s.hostWrite p 0 off data = (0, (s.committedWrite p off data).updPart p.lead fun q =>
      { q with lost := q.lost.filter fun g => g != off }) := by
  rw [hn] at h hl
  simp [State.hostWrite, h, hl, hn]

theorem hostBytes_global : s.hostBytes p 0 off n = if off + n ≤ p.capacity then some (s.committedRead p off n) else none := rfl

theorem hostBytes_unused {space : Nat} (h : 4 ≤ space) : s.hostBytes p space off n = none := by
  obtain ⟨k, rfl⟩ := Nat.exists_eq_add_of_le' h
  rfl

theorem hostWrite_unused {space : Nat} (h : 4 ≤ space) : s.hostWrite p space off data = (1, s) := by
  obtain ⟨k, rfl⟩ := Nat.exists_eq_add_of_le' h
  rfl

end

/-! ## Registers (R523) and submissions (R527) -/

theorem wordsFrom_leBytes (off : Nat) {w : Nat} (h : w < 2 ^ 64) : wordsFrom off (leBytes 8 w) = [(off, w)] := by
  have hval : leNat (leBytes 8 w) = w := (leNat_leBytes 8 w).trans (Nat.mod_eq_of_lt h)
  simp [wordsFrom, List.take_of_length_le, hval]

theorem writeRegs_singleton (s : State) (scl : Requester) (part off w : Nat) :
    s.writeRegs scl part [(off, w)] = s.writeReg scl part off w := by
  simp only [State.writeRegs]
  split
  next h => exact Prod.ext h.symm rfl
  next => rfl

section
variable {s : State} {scl : Requester} {part off w : Nat} (hup : s.portUp scl = true) (hw : s.module.warm = false) (hpart : part < 16)
include hup hw hpart

theorem exec_read_registers {len : Nat} (ho : off < 2 ^ 44) (hsize : hostSize (8 * 2 ^ 48 + part * 2 ^ 44 + off) len = true) :
    exec (.hostMemoryRead scl (8 * 2 ^ 48 + part * 2 ^ 44 + off) len) s = .next (match s.readRegs scl part (wordOffs off len) with
      | some (t, l) => t.respond scl 0 l
      | none => s.respond scl 1 []) := by
  rw [exec_hostMemoryRead, execHostMemoryRead, hostAsk_up hup hw]
  simp only [hostPlace_at (by decide : 8 < 16) hpart ho, hsize, Bool.not_true, Bool.false_eq_true, if_false, if_true] <;> rfl

section
variable (ho : off < 2 ^ 44) (ha : off % 8 = 0) (hword : w < 2 ^ 64)
include ho ha hword

theorem exec_registerWrite_word : exec (.registerWrite scl (8 * 2 ^ 48 + part * 2 ^ 44 + off) (leBytes 8 w)) s
    = .next ((s.writeReg scl part off w).2.respond scl (s.writeReg scl part off w).1 []) := by
  rw [exec_registerWrite, execRegisterWrite, hostAsk_up hup hw]
  simp only [hostPlace_at (by decide : 8 < 16) hpart ho, leBytes_length, hostSize_at 8 part (by decide : 8 % 8 = 0) le_rfl ha (by omega),
    wordsFrom_leBytes off hword, writeRegs_singleton, ne_eq, not_true, Bool.not_true, Bool.false_eq_true, or_self, if_false]

theorem exec_write_register_word (hreg : 0x1000 ≤ off) : exec (.hostMemoryWrite scl (8 * 2 ^ 48 + part * 2 ^ 44 + off) (leBytes 8 w)) s
    = .next ((s.writeReg scl part off w).2.respond scl (s.writeReg scl part off w).1 []) := by
  rw [exec_hostMemoryWrite, execHostMemoryWrite, hostAsk_up hup hw]
  simp only [hostPlace_at (by decide : 8 < 16) hpart ho, leBytes_length, hostSize_at 8 part (by decide : 8 % 8 = 0) le_rfl ha (by omega),
    wordsFrom_leBytes off hword, writeRegs_singleton, Bool.not_true, Bool.false_eq_true, if_false, if_true, if_neg (Nat.not_lt.mpr hreg)]

end

/-- A write of the slot of a queue is a submission. -/
theorem exec_write_slot {q : Nat} {data : List Byte} (hq : q < 16) (hd : data.length = 128) :
    exec (.hostMemoryWrite scl (8 * 2 ^ 48 + part * 2 ^ 44 + 256 * q) data) s = exec (.submit scl part q data) s := by
  have hsize : hostSize (8 * 2 ^ 48 + part * 2 ^ 44 + 256 * q) data.length = true := by
    rw [hd]
    exact hostSize_at 8 part (by decide) (by decide) (by omega) (by omega)
  have hdiv : 256 * q / 256 = q := by omega
  rw [exec_hostMemoryWrite, execHostMemoryWrite, exec_submit, execSubmit, hostAsk_up hup hw, hostAsk_up hup hw]
  simp only [hostPlace_at (by decide : 8 < 16) hpart (by omega : 256 * q < 2 ^ 44), hsize, Bool.not_true, Bool.false_eq_true, if_false,
    if_true, if_pos (by omega : 256 * q < 0x1000), if_pos (Nat.mul_mod_right 256 q), hdiv]

end

/-! ## The semaphore (R524) -/

section
variable {s : State} {scl : Requester} (hup : s.portUp scl = true) (hw : s.module.warm = false)
include hup hw

theorem exec_semRead_acquires (hport : scl ≠ .mgc) (hfree : s.module.sem = .free) : exec (.semRead scl) s
    = .next ({ s with module := { s.module with sem := ownerOf scl, semGen := s.module.semGen + 1 } }.respond scl 0
      (leBytes 8 ((if scl = Requester.sclA then 1 else 2) + 2 ^ 16 * (s.module.semGen + 1).toNat))) := by
  rw [exec_semRead, execSemRead, hostAsk_up hup hw]
  cases scl with
  | mgc => exact absurd rfl hport
  | sclA => simp [State.readSem, hfree, Module.semWord, ownerOf]
  | sclB => simp [State.readSem, hfree, Module.semWord, ownerOf]

theorem exec_semRead_held (hheld : s.module.sem ≠ .free) : exec (.semRead scl) s
    = .next (s.respond scl 0 (leBytes 8 ((if s.module.sem = SemOwner.sclA then 1 else 2) + 2 ^ 16 * s.module.semGen.toNat))) := by
  rw [exec_semRead, execSemRead, hostAsk_up hup hw]
  cases hsem : s.module.sem with
  | free => exact absurd hsem hheld
  | sclA => simp [State.readSem, hsem, Module.semWord]
  | sclB => simp [State.readSem, hsem, Module.semWord]

theorem exec_semWrite_holder (h : s.holdsSem scl = true) :
    exec (.semWrite scl) s = .next ({ s with module := { s.module with sem := .free } }.respond scl 0 []) := by
  rw [exec_semWrite, execSemWrite, answerAsk_up hup hw, State.writeSem, if_pos h]

section
variable (h : s.holdsSem scl = false)
include h

/-- What only the holder of the semaphore may ask for has status 3. -/
theorem answerAsk_without_sem (r : Nat × State) : s.answerAsk scl (if s.holdsSem scl then r else (3, s)) = .next (s.respond scl 3 []) := by
  rw [answerAsk_up hup hw, h]
  rfl

theorem exec_semWrite_other : exec (.semWrite scl) s = .next (s.respond scl 3 []) := answerAsk_without_sem hup hw h _
theorem exec_tnsWrite_other (x : Nat) : exec (.tnsWrite scl x) s = .next (s.respond scl 3 []) := answerAsk_without_sem hup hw h _
theorem exec_timeStep_other (x : Int) : exec (.timeStep scl x) s = .next (s.respond scl 3 []) := answerAsk_without_sem hup hw h _
theorem exec_pctlCreate_other (b : Nat) : exec (.pctlCreate scl b) s = .next (s.respond scl 3 []) := answerAsk_without_sem hup hw h _
theorem exec_pctlDissolve_other (b : Nat) : exec (.pctlDissolve scl b) s = .next (s.respond scl 3 []) := answerAsk_without_sem hup hw h _

end
end

theorem exec_semRead_mgc_free {s : State} (hw : s.module.warm = false) (hfree : s.module.sem = .free) :
    exec (.semRead .mgc) s = .next (s.respond .mgc 0 (leBytes 8 (2 ^ 16 * s.module.semGen.toNat))) := by
  rw [exec_semRead, execSemRead, hostAsk_up rfl hw]
  simp [State.readSem, hfree, Module.semWord]

/-! ## Time (R533, R534) -/

section
variable {s : State} {x : Nat}

theorem writeTns_beyond (h : 999999999 < x) : s.writeTns x = (1, s) := if_pos h

theorem writeTns_staged {sec : BitVec 48} (h : x ≤ 999999999) (hs : s.module.stagedSec = some sec) :
    s.writeTns x = (0, s.setClock (sec.toNat * 1000000000 + x)) := by
  simp [State.writeTns, hs, Nat.not_lt.mpr h, Nat.mod_eq_of_lt sec.isLt]

theorem writeTns_current (h : x ≤ 999999999) (hs : s.module.stagedSec = none) :
    s.writeTns x = (0, s.setClock (s.module.clock.ns / 1000000000 % 2 ^ 48 * 1000000000 + x)) := by
  simp [State.writeTns, hs, Nat.not_lt.mpr h]

/-- A distribution corrects a band's copy to within 4 ns, by the model's free bits (log entry 7). -/
theorem exec_timeDistribution_within (s : State) (b : Nat) : ∃ k : Int, -4 ≤ k ∧ k ≤ 4
    ∧ exec (.timeDistribution b) s = .next (s.setBand b { s.band b with floor := s.bandNs b, skew := k }) :=
  ⟨(((Config.freeBits 4 s.tick).toNat % 9 : Nat) : Int) - 4, by omega, by omega, rfl⟩

end

/-! ## Partition configuration (R525, R526) -/

section
variable {s : State} {b : Nat} {p : Part}

theorem pctlCreate_beyond (h : 12 ≤ b) : s.pctlCreate b = (1, s) := if_pos h

theorem pctlCreate_not_lead (h : b < 12) (hl : (s.band b).record.lead.toNat ≠ b) : s.pctlCreate b = (1, s) := by
  simp [State.pctlCreate, Nat.not_le.mpr h, hl]

theorem pctlCreate_refused (h : b < 12) (hl : (s.band b).record.lead.toNat = b)
    (hno : (s.band b).pctl ≠ 0 ∨ s.configOk (s.band b).record = false) : s.pctlCreate b = (5, s) := by
  simp only [State.pctlCreate, if_neg (Nat.not_le.mpr h), hl, ne_eq, not_true, if_false]
  exact if_pos (hno.imp_right fun h => by simp [h])

theorem pctlCreate_starts (h : b < 12) (hl : (s.band b).record.lead.toNat = b) (hz : (s.band b).pctl = 0)
    (hok : s.configOk (s.band b).record = true) :
    s.pctlCreate b = (0, (s.setBand b { s.band b with pctl := 1 }).later (.pctlOperationEnd b)) := by
  simp [State.pctlCreate, Nat.not_le.mpr h, hl, hz, hok]

theorem pctlDissolve_beyond (h : 12 ≤ b) : s.pctlDissolve b = (1, s) := if_pos h

theorem pctlDissolve_unassigned (h : b < 12) (hp : s.partOfBand b = none) : s.pctlDissolve b = (5, s) := by
  simp [State.pctlDissolve, Nat.not_le.mpr h, hp]

theorem pctlDissolve_busy (h : b < 12) (hp : s.partOfBand b = some p) (hbusy : p.busy = true ∨ s.partBusy p = true) :
    s.pctlDissolve b = (5, s) := by
  simp only [State.pctlDissolve, if_neg (Nat.not_le.mpr h), hp, if_pos hbusy]

theorem pctlDissolve_starts (h : b < 12) (hp : s.partOfBand b = some p) (h1 : p.busy = false) (h2 : s.partBusy p = false) :
    s.pctlDissolve b = (0, ((s.setPart p.lead { p with queues := p.queues.map fun x => { x with en := false } }).setBand b
      { s.band b with pctl := 2 }).later (.pctlOperationEnd b)) := by
  simp [State.pctlDissolve, Nat.not_le.mpr h, hp, h1, h2]

/-- A band after its configuration operation. -/
def operationDone (t : State) (b : Nat) : State := t.setBand b { t.band b with pctl := 0 }

theorem operationDone_pctl (t : State) (b : Nat) : ((operationDone t b).band b).pctl = 0 := by
  rw [operationDone, State.band_setBand_same]

theorem exec_pctlOperationEnd_dissolves (h : (s.band b).pctl = 2) (hp : s.partOfBand b = some p) :
    exec (.pctlOperationEnd b) s = .next (operationDone (s.clearBands p.lead p.nb) b) := by
  rw [exec_pctlOperationEnd, execPctlOperationEnd]
  simp [h, hp, operationDone]

theorem exec_pctlOperationEnd_reconfigures (h : (s.band b).pctl = 1) (hp : s.part? b = some p) (hnb : p.nb = (s.band b).record.nb.toNat) :
    exec (.pctlOperationEnd b) s = .next (operationDone (s.installConfig p (s.band b).record true) b) := by
  rw [exec_pctlOperationEnd, execPctlOperationEnd]
  simp [h, hp, hnb, operationDone]

theorem exec_pctlOperationEnd_creates (h : (s.band b).pctl = 1) (hp : s.part? b = none) :
    exec (.pctlOperationEnd b) s = .next (operationDone (execPctlOperationEnd.create s (s.band b).record) b) := by
  rw [exec_pctlOperationEnd, execPctlOperationEnd]
  simp [h, hp, operationDone]

theorem exec_pctlOperationEnd_idle (h : (s.band b).pctl = 0) : exec (.pctlOperationEnd b) s = .next s := by
  rw [exec_pctlOperationEnd, execPctlOperationEnd]
  simp [h]

/-- An operation under way ends. -/
theorem exec_pctlOperationEnd_done (h : (s.band b).pctl = 1 ∨ (s.band b).pctl = 2) :
    ∃ t, exec (.pctlOperationEnd b) s = .next (operationDone t b) := by
  rw [exec_pctlOperationEnd, execPctlOperationEnd]
  obtain h | h := h
  · cases hp : s.part? b with
    | none => exact ⟨execPctlOperationEnd.create s (s.band b).record, by simp [h, operationDone]⟩
    | some p => by_cases hnb : p.nb = (s.band b).record.nb.toNat <;> exact ⟨_, by simp [h, hnb, operationDone]; rfl⟩
  · cases hp : s.partOfBand b <;> exact ⟨_, by simp [h, operationDone]; rfl⟩

theorem create_unbuilt {c : Pcfg} (h : (s.clearBands c.lead.toNat c.nb.toNat).buildPart c = none) :
    execPctlOperationEnd.create s c = s.clearBands c.lead.toNat c.nb.toNat := by
  simp only [execPctlOperationEnd.create, h]

theorem create_built {c : Pcfg} (h : (s.clearBands c.lead.toNat c.nb.toNat).buildPart c = some p) :
    execPctlOperationEnd.create s c = ((s.clearBands c.lead.toNat c.nb.toNat).installConfig p c false).trainLinks p := by
  simp only [execPctlOperationEnd.create, h]

end

/-! ## A link that goes down (R520, R524) -/

theorem holdsSem_iff {s : State} {scl : Requester} (h : scl ≠ .mgc) : s.holdsSem scl = (s.module.sem == ownerOf scl) := by
  cases scl with
  | mgc => exact absurd rfl h
  | sclA => cases hs : s.module.sem <;> simp [State.holdsSem, hs, ownerOf]
  | sclB => cases hs : s.module.sem <;> simp [State.holdsSem, hs, ownerOf]

theorem exec_sclLinkDown_drops (s : State) (scl : Requester) : answers (exec (.sclLinkDown scl) s) fun t =>
    (scl = .sclA → t.module.upA = false ∧ t.module.upB = s.module.upB) ∧ (scl = .sclB → t.module.upB = false ∧ t.module.upA = s.module.upA)
      ∧ (∀ e ∈ t.module.held, e.1 ≠ scl) ∧ t.module.responses = s.module.responses ∧ t.parts = s.parts ∧ t.mem = s.mem
      ∧ (scl ≠ .mgc → s.holdsSem scl = true → t.module.sem = .free)
      ∧ (scl ≠ .mgc → s.holdsSem scl = false → t.module.sem = s.module.sem) := by
  refine ⟨_, rfl, ?_, ?_, fun e he => ?_, rfl, rfl, rfl, fun hm hold => ?_, fun hm hold => ?_⟩
  · rintro rfl
    exact ⟨Bool.and_false _, Bool.and_true _⟩
  · rintro rfl
    exact ⟨Bool.and_false _, Bool.and_true _⟩
  · simpa using (List.mem_filter.mp he).2
  · rw [holdsSem_iff hm] at hold
    simp [hold, hm]
  · rw [holdsSem_iff hm] at hold
    simp [hold]

/-! ## The obligation -/

/-- Settles O56: a host port's request goes on by `hostAsk`, and what it does there is the case of its space, register or operation. -/
theorem hostPortsReadAndWrite : Obligations.HostPortsReadAndWrite := by
  unfold Obligations.HostPortsReadAndWrite
  refine ⟨?asks, ?bad, ?spaces, ?registerReads, ?registerWrites, ?slots, ?semaphore, fun _ => rfl, ?holder,
    fun _ => ⟨_, rfl, rfl, rfl, rfl, rfl⟩, fun _ => rfl, exec_timeDistribution_within, ?operationEnd, exec_sclLinkDown_drops⟩
  case asks =>
    intro s scl addr len data asks
    refine ⟨fun hdown i hi => ?_, fun hup hw i hi => ?_⟩
    · obtain ⟨k, hk⟩ := exec_hostRequest (data := data) hi s
      rw [hk, hostAsk_down hdown]
    · obtain ⟨k, hk⟩ := exec_hostRequest (data := data) hi s
      rw [hk, hostAsk_warm hup hw]
  case bad =>
    intro s scl addr len data hup hw
    exact ⟨fun h => exec_read_bad hup hw (place_or_size_bad h),
      fun h => ⟨exec_write_bad hup hw (place_or_size_bad h), exec_registerWrite_bad hup hw (place_or_size_bad h)⟩⟩
  case spaces =>
    rintro s scl space part off len data hup hw hspace hpart hoff h8 hmin ha hfit rfl addr
    have hplace : hostPlace addr = some (space, part, off) := hostPlace_at (by omega) hpart hoff
    have hsize : hostSize addr data.length = true := hostSize_at space part h8 hmin ha hfit
    have hne : space ≠ 8 := by omega
    have hwrite : ∀ {p}, s.part? part = some p → exec (.hostMemoryWrite scl addr data) s
        = .next ((s.hostWrite p space off data).2.respond scl (s.hostWrite p space off data).1 []) :=
      exec_write_part hup hw hplace hne hsize
    refine ⟨fun hp => ⟨exec_read_no_part hup hw hplace hne hsize hp, exec_write_no_part hup hw hplace hne hsize hp⟩,
      fun p hp h0 => ?global, fun p hp h1 h3 => ⟨?_, hwrite hp⟩, fun p hp h4 => ⟨?_, ?_⟩, fun p hp h0 hgran hcap hlock => ?_⟩
    case global =>
      subst h0
      refine ⟨fun hcap hc => exec_read_unmapped hup hw hplace hne hsize hp (fun _ => hc) ?_,
        fun hcap hc => exec_read_mapped hup hw hplace hne hsize hp (fun _ => hc) ?_,
        fun hc => exec_read_held hup hw hplace hsize hp rfl hc, fun hcap => ?_, fun hcap hlock => ?_, fun hcap hlock hsmall => ?_⟩
      · rw [hostBytes_global, if_neg (Nat.not_le.mpr hcap)]
      · rw [hostBytes_global, if_pos hcap]
      · rw [hwrite hp, hostWrite_beyond hcap]
      · rw [hwrite hp, hostWrite_locked hcap hlock]
      · rw [hwrite hp, hostWrite_stores hcap hlock hsmall]
    · have hfree : space = 0 → p.committing = false := fun h0 => absurd h0 (Nat.ne_of_gt h1)
      cases hb : s.hostBytes p space off data.length with
      | none => exact exec_read_unmapped hup hw hplace hne hsize hp hfree hb
      | some l => exact exec_read_mapped hup hw hplace hne hsize hp hfree hb
    · exact exec_read_unmapped hup hw hplace hne hsize hp (fun h0 => absurd (h0 ▸ h4) (by decide)) (hostBytes_unused h4)
    · rw [hwrite hp, hostWrite_unused h4]
    · subst h0
      rw [hwrite hp, hostWrite_stores_granule hcap hlock hgran]
  case registerReads =>
    intro s scl part off len hup hw hpart ho h8 hmin ha hfit
    exact exec_read_registers hup hw hpart ho (hostSize_at 8 part h8 hmin ha hfit)
  case registerWrites =>
    intro s scl part off w hup hw hpart ho ha hword r
    exact ⟨exec_registerWrite_word hup hw hpart ho ha hword, exec_write_register_word hup hw hpart ho ha hword⟩
  case slots =>
    intro s scl part q data hup hw hpart hq hd
    exact exec_write_slot hup hw hpart hq hd
  case semaphore =>
    intro s scl hup hw m
    exact ⟨exec_semRead_acquires hup hw, exec_semRead_mgc_free hw, exec_semRead_held hup hw, exec_semWrite_holder hup hw,
      fun h => ⟨exec_semWrite_other hup hw h, exec_tnsWrite_other hup hw h, exec_timeStep_other hup hw h,
        exec_pctlCreate_other hup hw h, exec_pctlDissolve_other hup hw h⟩⟩
  case holder =>
    intro s scl hup hw m
    refine ⟨hostAsk_up hup hw _, fun hold => ?_⟩
    have hgo : ∀ r : Nat × State, s.answerAsk scl (if s.holdsSem scl then r else (3, s)) = .next (r.2.respond scl r.1 []) := fun r => by
      rw [answerAsk_up hup hw, if_pos hold]
    simp only [exec_tnsWrite, execTnsWrite, exec_timeStep, execTimeStep, exec_pctlCreate, execPctlCreate, exec_pctlDissolve, execPctlDissolve, hgo]
    refine ⟨fun x hx => by rw [writeTns_beyond hx], fun x sec hx hs => by rw [writeTns_staged hx hs],
      fun x hx hs => by rw [writeTns_current hx hs], fun x => rfl, fun b hb => ⟨by rw [pctlCreate_beyond hb], by rw [pctlDissolve_beyond hb]⟩,
      fun b hb hl => by rw [pctlCreate_not_lead hb hl],
      fun b hb hl => ⟨fun hno => by rw [pctlCreate_refused hb hl hno], fun hz hok => by rw [pctlCreate_starts hb hl hz hok]⟩,
      fun b hb hp => by rw [pctlDissolve_unassigned hb hp],
      fun b p hb hp => ⟨fun hbusy => by rw [pctlDissolve_busy hb hp hbusy], fun h1 h2 => by rw [pctlDissolve_starts hb hp h1 h2]⟩⟩
  case operationEnd =>
    intro s b done c
    refine ⟨fun h p hp => exec_pctlOperationEnd_dissolves h hp, fun h p hp hnb => exec_pctlOperationEnd_reconfigures h hp hnb,
      exec_pctlOperationEnd_idle, fun h hp hb => ?_, fun t ht h => ?_, fun h hp p hb => ?_⟩
    · rw [exec_pctlOperationEnd_creates h hp, create_unbuilt hb]
      rfl
    · obtain ⟨u, hu⟩ := exec_pctlOperationEnd_done h
      obtain rfl := Host.Outcome.next.inj (ht.symm.trans hu)
      exact operationDone_pctl u b
    · rw [exec_pctlOperationEnd_creates h hp, create_built hb]
      rfl

end Sys2Proof.HostPorts
end

section
/-!
PROOFS. Launches (18_launch_engine_and_host_ports.md, R523, R527-R536; 15_commit_engine.md, R438, R445-R450; 01_engines_and_their_ties.md,
R20): commands submitted and taken, admission, locks, the fill, the start, and the kills that end them.
-/

namespace Sys2Proof.Launches

open Sys2Proof.Machine Sys2Proof.HostPorts

/-! ## The launches of a partition -/

theorem vint_of_launch? {p : Part} {v : BitVec 32} {l : Launch} (h : p.launch? v = some l) : l.vint = v :=
  eq_of_beq (List.find?_some (p := fun l : Launch => l.vint == v) h)

/-- A launch found under a changed vintage was changed. -/
theorem launch?_updLaunch {p : Part} {v : BitVec 32} {f : Launch → Launch} {k : Launch} (h : (p.updLaunch v f).launch? v = some k) :
    ∃ l, k = f l := by
  obtain ⟨l, -, hl⟩ := List.mem_map.mp (List.mem_of_find?_eq_some h)
  by_cases hv : l.vint = v
  · exact ⟨l, by rw [← hl, if_pos hv]⟩
  · rw [if_neg hv] at hl
    exact absurd (hl ▸ vint_of_launch? h) hv

/-! ## Submission and the queues' control (R523, R527, R536) -/

section
variable {s : State} {scl : Requester} {part q : Nat} {d : List Byte} {p : Part} {x : LQueue}

section
variable (hp : s.part? part = some p) (hx : p.queues[q]? = some x)
include hp hx

theorem submitTo_size (h : d.length ≠ 128) : s.submitTo scl part q d = (1, [], s) := by
  simp [State.submitTo, hp, hx, h]

theorem submitTo_busy (h : d.length = 128) (hb : s.partBusy p = true) : s.submitTo scl part q d = (5, [], s) := by
  simp [State.submitTo, hp, hx, h, hb]

theorem submitTo_refused (h : d.length = 128) (hb : s.partBusy p = false) (hno : x.en = false ∨ x.flushed = true ∨ 32 ≤ x.cmds.length) :
    s.submitTo scl part q d = (4, [], s) := by
  have hno' : (!x.en) = true ∨ x.flushed = true ∨ 32 ≤ x.cmds.length := hno.imp_left fun h => by rw [h]; rfl
  simp only [State.submitTo, hp, hx, h, hb, ne_eq, not_true, Bool.false_eq_true, if_false, if_pos hno']

theorem submitTo_joins (h : d.length = 128) (hb : s.partBusy p = false) (hen : x.en = true) (hf : x.flushed = false)
    (hn : x.cmds.length < 32) : s.submitTo scl part q d = (0, leBytes 8 x.subs.toNat, (s.setPart part { p with
      queues := p.queues.modify q fun y => { y with cmds := y.cmds ++ [cmdOf d y.subs scl], subs := y.subs + 1 } }).later
        (.launchTake part)) := by
  simp [State.submitTo, hp, hx, h, hb, hen, hf, hn]

theorem setQueue_known (en : Bool) : s.setQueue part q en = (0, (s.setPart part { p with
    queues := p.queues.modify q fun y => { y with en := en, flushed := y.flushed && !en } }).later (.launchTake part)) := by
  obtain ⟨hq, -⟩ := List.getElem?_eq_some_iff.mp hx
  simp [State.setQueue, hp, hq]

theorem flushHost_known : s.flushHost part q = (0, ((s.flushQueue part q).updPart part fun r =>
    { r with queues := r.queues.modify q fun y => { y with flushed := false } }).examine part) := by
  obtain ⟨hq, -⟩ := List.getElem?_eq_some_iff.mp hx
  simp [State.flushHost, hp, hq]

end

section
variable (hup : s.portUp scl = true) (hw : s.module.warm = false)
include hup hw

theorem exec_submit_answered {st : Nat} {l : List Byte} {t : State} (h : s.submitTo scl part q d = (st, l, t)) :
    exec (.submit scl part q d) s = .next (t.respond scl st l) := by
  rw [exec_submit, execSubmit, h, hostAsk_up hup hw]

/-- What the holder of the semaphore asks for is answered. -/
theorem answerAsk_with_sem (hold : s.holdsSem scl = true) (r : Nat × State) :
    s.answerAsk scl (if s.holdsSem scl then r else (3, s)) = .next (r.2.respond scl r.1 []) := by
  rw [answerAsk_up hup hw, if_pos hold]

end
end

/-! ## The end of a launch begins (R264, R265, R267) -/

section
variable {s : State} {part : Nat} {p : Part} {v : BitVec 32} {l : Launch} {how : EndHow} (hp : s.part? part = some p)
  (hl : p.launch? v = some l)
include hp hl

theorem startKill_too_late (h : l.phase = .committing ∨ l.phase = .unlocking ∨ l.phase = .kill3) : s.startKill part v how = s := by
  rw [State.startKill]
  obtain h | h | h := h <;> simp only [hp, hl, h]

/-- The kill's message goes to every bound core. -/
theorem startKill_running (h : l.phase = .running) : ∃ q, (s.startKill part v how).part? part = some q
    ∧ (s.startKill part v how).mem = s.mem
    ∧ (s.startKill part v how).pending = s.pending ++ [.ev (.killMessage (p.bound.headD 0) v.toNat)]
    ∧ ∀ k, q.launch? v = some k → k.phase = .kill1 ∧ k.ending = some how ∧ k.todo = p.bound ∧ k.acks = p.bound := by
  rw [State.startKill]
  simp only [hp, hl, h, reduceCtorEq, if_false]
  refine ⟨_, State.part?_setPart_same .., rfl, rfl, fun k hk => ?_⟩
  obtain ⟨m, rfl⟩ := launch?_updLaunch hk
  exact ⟨rfl, rfl, rfl, rfl⟩

end

/-! ## Commands taken (R438, R439, R445, R519, R529) -/

section
variable {s : State} {part q : Nat} {p : Part} {c : Cmd} (hp : s.part? part = some p) (hstop : p.stopped = false) (hw : s.module.warm = false)
  (hq : List.find? (fun q => (p.headOf q).isSome) ((List.range 16).map fun i => (p.turn + i) % 16) = some q) (hc : p.headOf q = some c)
include hp hstop hw hq hc

theorem exec_launchTake_flushes (h : p.cmplFits c = false ∨ s.systemBadAt p.lead = true) : exec (.launchTake part) s
    = .next ((((s.setPart part { p with turn := (q + 1) % 16 }).updPart part fun r => { r with
        queues := r.queues.modify q fun x => { x with flushed := true } }).flushQueue part q).examine part) := by
  have hbad : (!p.cmplFits c || s.systemBadAt p.lead) = true := by simpa using h
  rw [exec_launchTake, execLaunchTake]
  simp only [hp, hq, hc, hstop, hw, hbad, Bool.or_self, Bool.false_eq_true, if_false, if_true]

section
variable (hfit : p.cmplFits c = true) (hsys : s.systemBadAt p.lead = false)
include hfit hsys

theorem exec_launchTake_lost {g : Nat} (hlost : s.lostTable p c = some g) : exec (.launchTake part) s
    = .next ((((s.setPart part { p with turn := (q + 1) % 16 }).updPart part fun r => { r with
        queues := r.queues.modify q fun x => { x with cmds := x.cmds.drop 1 } }).endCommandAt part q 6 c 0 g).later (.launchTake part)) := by
  rw [exec_launchTake, execLaunchTake]
  simp only [hp, hq, hc, hstop, hw, hfit, hsys, hlost, Bool.not_true, Bool.or_self, Bool.false_eq_true, if_false]

section
variable (hlost : s.lostTable p c = none)
include hlost

theorem exec_launchTake_invalid (hread : s.readLaunch p q c = none) : exec (.launchTake part) s
    = .next ((((s.setPart part { p with turn := (q + 1) % 16 }).updPart part fun r => { r with
        queues := r.queues.modify q fun x => { x with cmds := x.cmds.drop 1 } }).endCommand part q 7 c 0).later (.launchTake part)) := by
  rw [exec_launchTake, execLaunchTake]
  simp only [hp, hq, hc, hstop, hw, hfit, hsys, hlost, hread, Bool.not_true, Bool.or_self, Bool.false_eq_true, if_false]

variable {l : Launch} (hread : s.readLaunch p q c = some l)
include hread

theorem exec_launchTake_full (hn : 64 ≤ (p.launches.filter fun k => k.phase != .unlocking).length) :
    exec (.launchTake part) s = .next s := by
  rw [exec_launchTake, execLaunchTake]
  simp only [hp, hq, hc, hstop, hw, hfit, hsys, hlost, hread, Bool.not_true, Bool.or_self, Bool.false_eq_true, if_false, if_pos hn]

theorem exec_launchTake_assigns (hn : (p.launches.filter fun k => k.phase != .unlocking).length < 64) : exec (.launchTake part) s
    = .next ((((s.setPart part { p with turn := (q + 1) % 16 }).updPart part fun r => ({ r with
        vcount := if p.vcount + 1 = 0 then 1 else p.vcount + 1, launches := r.launches ++ [{ l with vint := p.vcount }] }).setVState
          p.vcount .assigned).later (.admission part p.vcount.toNat)).examine part) := by
  rw [exec_launchTake, execLaunchTake]
  simp only [hp, hq, hc, hstop, hw, hfit, hsys, hlost, hread, Bool.not_true, Bool.or_self, Bool.false_eq_true, if_false,
    if_neg (Nat.not_le.mpr hn)]

end
end
end

/-! ## Admission (R445-R450) -/

/-- A waiting launch that no older waiting one conflicts with, and whose cask and buffers fit (R445, R447, R355). -/
def MayAdmit (p : Part) (w : Launch) : Prop :=
  (∀ l ∈ p.launches, l.phase = .waiting → vintageOlder l.vint w.vint = true → l.conflicts w = false)
    ∧ (p.launches.filter (·.admitted)).foldl (fun n l => n + l.cask) w.cask ≤ p.poolBytes
    ∧ ∀ e ∈ w.bufDecl, p.declaredElsewhere w.vint e.2.1 e.2.2 = false

/-- The admitted launches that conflict with a waiting one. -/
def blockers (p : Part) (w : Launch) : List Launch := (p.launches.filter (·.admitted)).filter fun l => l.conflicts w

/-- A launch that a waiting one of higher priority ends for relaunch (R450). -/
def Yields (w l : Launch) : Prop := l.phase = .running ∧ l.switched = false ∧ l.rootPrio < w.rootPrio

theorem mayAdmit_iff {p : Part} {w : Launch} :
    ((p.launches.any fun l => l.phase == .waiting && vintageOlder l.vint w.vint && l.conflicts w)
      || !decide ((p.launches.filter (·.admitted)).foldl (fun n l => n + l.cask) w.cask ≤ p.poolBytes)
      || !(w.bufDecl.all fun e => !p.declaredElsewhere w.vint e.2.1 e.2.2)) = false ↔ MayAdmit p w := by
  simp [MayAdmit, and_assoc]

section
variable {s : State} {part v g : Nat} {p : Part} {w : Launch} (hp : s.part? part = some p) (hl : p.launch? (BitVec.ofNat 32 v) = some w)
  (hphase : w.phase = .waiting) (hg : p.freeGroup = some g)
include hp hl hphase hg

theorem exec_admission_waits (h : ¬MayAdmit p w) : exec (.admission part v) s = .next s := by
  rw [exec_admission, execAdmission]
  simp only [hp, hl, hphase, hg, ne_eq, not_true, if_false]
  exact if_pos (Bool.not_eq_false _ ▸ mt mayAdmit_iff.mp h)

section
variable (h : MayAdmit p w)
include h

/-- A launch that may be admitted goes in, or ends what blocks it. -/
theorem exec_admission_may : exec (.admission part v) s
    = if (blockers p w).isEmpty then
        let p1 := p.updLaunch w.vint fun k => { k with
          phase := .locking, grp := some g, ranges := s.lockRanges p w, todo := List.range p.slots, acks := List.range p.slots }
        .next (((s.setPart part { p1 with queues := p1.queues.modify w.queue fun x =>
          { x with cmds := x.cmds.filter fun c => c.sub != w.cmd.sub } }).due (.lock part 0 v)).later (.launchTake part))
      else if (blockers p w).all fun l => l.phase == .running && !l.switched && decide (l.rootPrio < w.rootPrio) then
        .next ((blockers p w).foldl (fun t l => t.startKill part l.vint ⟨0, 0, 0, true⟩) s)
      else .next s := by
  rw [exec_admission, execAdmission]
  simp only [hp, hl, hphase, hg, ne_eq, not_true, if_false]
  exact if_neg (Bool.not_eq_true _ ▸ mayAdmit_iff.mpr h)

theorem exec_admission_admits (hb : blockers p w = []) : exec (.admission part v) s
    = .next (((s.setPart part { p.updLaunch w.vint (fun k => { k with
          phase := .locking, grp := some g, ranges := s.lockRanges p w, todo := List.range p.slots, acks := List.range p.slots }) with
        queues := p.queues.modify w.queue fun x => { x with cmds := x.cmds.filter fun c => c.sub != w.cmd.sub } }).due (.lock part 0 v)).later
          (.launchTake part)) := by
  rw [exec_admission_may hp hl hphase hg h, hb]
  rfl

theorem exec_admission_preempts (hb : blockers p w ≠ []) (hy : ∀ l ∈ blockers p w, Yields w l) : exec (.admission part v) s
    = .next ((blockers p w).foldl (fun t l => t.startKill part l.vint ⟨0, 0, 0, true⟩) s) := by
  rw [exec_admission_may hp hl hphase hg h, if_neg (mt List.isEmpty_iff.mp hb)]
  refine if_pos (List.all_eq_true.mpr fun l hmem => ?_)
  obtain ⟨hrun, hsw, hprio⟩ := hy l hmem
  simp [hrun, hsw, hprio]

theorem exec_admission_blocked (hb : blockers p w ≠ []) (hy : ¬∀ l ∈ blockers p w, Yields w l) :
    exec (.admission part v) s = .next s := by
  rw [exec_admission_may hp hl hphase hg h, if_neg (mt List.isEmpty_iff.mp hb)]
  refine if_neg fun hall => hy fun l hmem => ?_
  simpa [Yields, and_assoc] using List.all_eq_true.mp hall l hmem

end
end

/-! ## Locks and the admission instant (R447, R448, R534, R535) -/

/-- A launch at its admission instant. -/
def beginFill (s : State) (part : Nat) (p : Part) (l k : Launch) : Launch := { k with
  phase := .filling, acks := [], todo := p.visits, tadmit := s.partNs part, late := l.start.any fun t => decide (t ≤ s.partNs part + 20000),
  deadlineAt := l.cmd.keptDeadline.or (l.deadns.map fun d => l.start.getD (s.partNs part) + d),
  fillShapes := if l.table then [] else s.section p l.cmd.shsec l.cmd.shn, fillPats := s.section p l.cmd.patsec l.cmd.patn }

/-- The state with the launch at its admission instant. -/
def admittedState (s : State) (part : Nat) (p : Part) (l : Launch) : State :=
  s.setPart part ((p.updLaunch l.vint (beginFill s part p l)).setVState l.vint .running)

/-- The completion tree laid in a reserved group. -/
def layCompletion (t : State) (p : Part) (grp : Option Nat) : State :=
  match t.standingRoot p, grp with
  | some root, some g => t.layGroup p g (entriesOf p confG1 root (t.standingNodes p root))
  | _, _ => t

section
variable {s : State} {part slot v : Nat} {p : Part} {l : Launch} (hp : s.part? part = some p) (hl : p.launch? (BitVec.ofNat 32 v) = some l)
include hp hl

theorem exec_lock_locks (hphase : l.phase = .locking) (ht : l.todo.contains slot = true) : exec (.lock part slot v) s
    = .next ((((s.setRim (p.chanOf slot) { s.rim (p.chanOf slot) with
        locks := (s.rim (p.chanOf slot)).locks ++ [⟨l.vint, l.ranges⟩] }).updPart part fun q =>
          q.updLaunch l.vint fun k => { k with todo := k.todo.erase slot }).due (.lockAck part slot v)).onward
            (List.range p.slots) slot fun y t => t.due (.lock part y v)) := by
  rw [exec_lock, execLock]
  simp only [hp, hl, hphase, ht, ne_eq, not_true, Bool.not_true, Bool.false_eq_true, or_self, if_false]

section
variable (hphase : l.phase = .locking) (ht : l.todo.contains slot = false) (ha : l.acks.contains slot = true)
include hphase ht ha

theorem exec_lockAck_counts (hleft : l.acks.erase slot ≠ []) : exec (.lockAck part slot v) s
    = .next (s.setPart part (p.updLaunch l.vint fun k => { k with acks := l.acks.erase slot })) := by
  have hempty : (l.acks.erase slot).isEmpty = false := by simpa using hleft
  rw [exec_lockAck, execLockAck]
  simp only [hp, hl, hphase, ht, ha, hempty, ne_eq, not_true, Bool.not_true, Bool.not_false, Bool.false_eq_true, or_self, if_false, if_true]

theorem exec_lockAck_last (hleft : l.acks.erase slot = []) : exec (.lockAck part slot v) s
    = .next (((layCompletion (admittedState s part p l) p l.grp).later (.recordStoreFill (p.visits.headD 0) v)).killSections p l) := by
  rw [exec_lockAck, execLockAck, admittedState]
  unfold beginFill
  simp only [hp, hl, hphase, ht, ha, hleft, ne_eq, not_true, Bool.not_true, Bool.false_eq_true, or_self, if_false, List.isEmpty_nil]
  cases l.start <;> cases l.cmd.keptDeadline <;> cases l.deadns <;> rfl

end

omit hp hl in
theorem layCompletion_root {t : State} {root g : Nat} (hr : t.standingRoot p = some root) :
    layCompletion t p (some g) = t.layGroup p g (entriesOf p confG1 root (t.standingNodes p root)) := by
  simp only [layCompletion, hr]

/-! ## The start and the deadline (R534, R535) -/

theorem exec_startTimeReached_fires (hphase : l.phase = .staged) (ht : l.todo = []) (hc : l.start.getD 0 ≤ s.module.clock.ns) :
    exec (.startTimeReached part v) s = .next (((List.range p.nb).map (p.lead + ·)).foldl (fun t b => t.later (.fireWave b v))
      (s.setPart part (p.updLaunch l.vint fun k => { k with todo := (List.range p.nb).map (p.lead + ·), tstart := s.partNs part }))) := by
  rw [exec_startTimeReached, execStartTimeReached]
  simp [hp, hl, hphase, ht, hc]

theorem exec_startTimeReached_early (hc : s.module.clock.ns < l.start.getD 0) : exec (.startTimeReached part v) s = .next s := by
  rw [exec_startTimeReached, execStartTimeReached]
  simp [hp, hl, Nat.not_le.mpr hc]

theorem exec_deadlineExpiry_at {t : Nat} (h : l.deadlineAt = some t) : exec (.deadlineExpiry part v) s
    = .next (if t ≤ s.module.clock.ns then s.startKill part l.vint ⟨2, 0, 0, false⟩ else s) := by
  rw [exec_deadlineExpiry, execDeadlineExpiry]
  simp only [hp, hl, h]

end

/-! ## The fill and the fire waves (R177, R272, R410, R534) -/

section
variable {s : State} {site v : Nat} {p : Part} {l : Launch} (hl : p.launch? (BitVec.ofNat 32 v) = some l)

/-- The buffers that a launch declares. -/
def declaredBufs (l : Launch) : Tbl Buf := l.bufDecl.foldl (fun t e => Tbl.put t e.1 ⟨.empty, 0, e.2.2, e.2.1, false, none⟩) []

/-- A core that a fill has visited. -/
def fillCore (v : Nat) (l : Launch) (c : Core) : Core := { c with
  pats := if l.fillPats.isEmpty then c.pats else Tbl.put c.pats v l.fillPats,
  shapes := if l.fillShapes.isEmpty then c.shapes else Tbl.put c.shapes v l.fillShapes,
  bufs := if (declaredBufs l).isEmpty then c.bufs else Tbl.put c.bufs v (declaredBufs l) }

/-- The state after a fill's visit. -/
def visited (s : State) (site v : Nat) (p : Part) (l : Launch) : State :=
  (s.updCore site (fillCore v l)).updPart p.lead fun q => q.updLaunch l.vint fun k => { k with todo := l.todo.erase site }

include hl

theorem visited_vintage : visited s site v p l = (s.updCore site (fillCore v l)).updPart p.lead fun q =>
    q.updLaunch (BitVec.ofNat 32 v) fun k => { k with todo := l.todo.erase site } := by
  rw [visited, vint_of_launch? hl]

section
variable (hp : s.partAt site = some p) (hphase : l.phase = .filling) (ht : l.todo.contains site = true)
include hp hphase ht

theorem exec_recordStoreFill_onward (hleft : l.todo.erase site ≠ []) : exec (.recordStoreFill site v) s
    = .next ((visited s site v p l).onward p.visits site fun y t => t.later (.recordStoreFill y v)) := by
  have hempty : (l.todo.erase site).isEmpty = false := by simpa using hleft
  rw [exec_recordStoreFill, execRecordStoreFill, visited_vintage hl]
  simp only [hp, hl, hphase, ht, hempty, ne_eq, not_true, Bool.not_true, Bool.false_eq_true, or_self, if_false]
  rfl

theorem exec_recordStoreFill_last (hleft : l.todo.erase site = []) : exec (.recordStoreFill site v) s
    = .next ((visited s site v p l).filled p { l with todo := [] }) := by
  rw [exec_recordStoreFill, execRecordStoreFill, visited_vintage hl]
  simp only [hp, hl, hphase, ht, hleft, ne_eq, not_true, Bool.not_true, Bool.false_eq_true, or_self, if_false, List.isEmpty_nil, if_true]
  rfl

end

theorem exec_fireWave_fires {band : Nat} (hp : s.partOfBand band = some p) (hphase : l.phase = .staged)
    (ht : l.todo.contains band = true) :
    let s1 := (l.seedLcns.filter fun i => bandOf (p.bound.getD i 0) == band).foldl (fun t i => t.fireSeed p l i) s
    let s2 := s1.updPart p.lead fun q => q.updLaunch (BitVec.ofNat 32 v) fun k => { k with todo := l.todo.erase band }
    exec (.fireWave band v) s = .next (if (l.todo.erase band).isEmpty then s2.running p.lead (BitVec.ofNat 32 v) l.tstart else s2) := by
  rw [exec_fireWave, execFireWave]
  simp only [hp, hl, hphase, ht, ne_eq, not_true, Bool.not_true, Bool.false_eq_true, or_self, if_false, vint_of_launch? hl]

end

/-! ## The obligation -/

/-- Settles O53: each command and each event of a launch, by the lemma of the branch that its conditions choose. -/
theorem launchesAreAdmittedAndStarted : Obligations.LaunchesAreAdmittedAndStarted := by
  unfold Obligations.LaunchesAreAdmittedAndStarted
  refine ⟨?queues, ?kills, ?startKill, ?take, ?admission, ?locks, ?fill, ?fire⟩
  case queues =>
    intro s scl part q d p x hup hw hp hx ask
    refine ⟨fun h => exec_submit_answered hup hw (submitTo_size hp hx h),
      fun h hb => exec_submit_answered hup hw (submitTo_busy hp hx h hb),
      fun h hb hno => exec_submit_answered hup hw (submitTo_refused hp hx h hb hno),
      fun h hb hen hf hn => exec_submit_answered hup hw (submitTo_joins hp hx h hb hen hf hn),
      fun en => ⟨fun h => answerAsk_without_sem hup hw h _, fun hold => ?_⟩, fun h => answerAsk_without_sem hup hw h _, fun hold => ?_⟩
    · rw [exec_qctlEnable, execQctlEnable, answerAsk_with_sem hup hw hold, setQueue_known hp hx]
    · rw [exec_qctlFlush, execQctlFlush, answerAsk_with_sem hup hw hold, flushHost_known hp hx]
  case kills =>
    exact fun s part v => ⟨rfl, fun h => by rw [exec_operatorKill, execOperatorKill, h]; rfl⟩
  case startKill =>
    intro s part p v l how hp hl
    refine ⟨startKill_too_late hp hl, fun h => ?_⟩
    obtain ⟨q, hq, hm, hpend, hk⟩ := startKill_running (how := how) hp hl h
    exact ⟨q, hq, hm, hpend, fun k h _ => hk k h⟩
  case take =>
    intro s part q p c hp hstop hw hq hc s0 drop
    exact ⟨exec_launchTake_flushes hp hstop hw hq hc,
      fun g hfit hsys hlost => exec_launchTake_lost hp hstop hw hq hc hfit hsys hlost,
      fun hfit hsys hlost hread => exec_launchTake_invalid hp hstop hw hq hc hfit hsys hlost hread,
      fun l hfit hsys hlost hread => ⟨exec_launchTake_full hp hstop hw hq hc hfit hsys hlost hread,
        exec_launchTake_assigns hp hstop hw hq hc hfit hsys hlost hread⟩⟩
  case admission =>
    intro s part v g p w hp hl hphase hg admitted may blocks
    exact ⟨exec_admission_waits hp hl hphase hg, exec_admission_admits hp hl hphase hg,
      fun hmay hb => ⟨exec_admission_preempts hp hl hphase hg hmay hb, exec_admission_blocked hp hl hphase hg hmay hb⟩⟩
  case locks =>
    intro s part slot v p l hp hl ch
    refine ⟨exec_lock_locks hp hl, fun hphase ht ha => ⟨exec_lockAck_counts hp hl hphase ht ha, ?_⟩, exec_startTimeReached_fires hp hl,
      fun _ => exec_startTimeReached_early hp hl, fun t => exec_deadlineExpiry_at hp hl⟩
    intro root g hleft hgrp now go s1 hroot
    rw [exec_lockAck_last hp hl hphase ht ha hleft, hgrp, layCompletion_root (t := admittedState s part p l) hroot]
    rfl
  case fill =>
    intro s site v p l hp hl hphase ht bufs put s2
    exact ⟨exec_recordStoreFill_onward hl hp hphase ht, exec_recordStoreFill_last hl hp hphase ht⟩
  case fire =>
    intro s band v p l hp hl hphase ht
    exact exec_fireWave_fires hl hp hphase ht

end Sys2Proof.Launches
end

section
/-!
PROOFS. Intervals (16_recovery_engine.md, R471-R488): the capture of a boundary, the copy to the cellar, the close, the fold, and the loss of
a cellar's host.
-/

namespace Sys2Proof.Intervals

open Sys2Proof.Machine

/-! ## The capture (R475) -/

/-- A context at a boundary: its issued scalar words complete, a CKPT is released. -/
def capturedCtx (x : Ctx) : Ctx :=
  match x.hold with
  | .ckpt => { x.drainScalar with hold := .ckptDone }
  | _ => x.drainScalar

theorem capture_ctx (c : Core) {n : Nat} (h : n < 8) : c.capture.ctx n = capturedCtx (c.ctx n) := by
  simp only [Core.ctx, Core.capture, Vector.getElem?_eq_getElem h, Vector.getElem_map, Option.getD_some]
  rfl

section
variable (x : Ctx)

theorem capturedCtx_due : (capturedCtx x).due = [] := by
  rw [capturedCtx]
  split <;> rfl

theorem capturedCtx_x : (capturedCtx x).x = x.x := by
  rw [capturedCtx]
  split <;> rfl

theorem capturedCtx_pc : (capturedCtx x).pc = x.pc := by
  rw [capturedCtx]
  split <;> rfl

theorem capturedCtx_ckpt (h : x.hold = .ckpt) : (capturedCtx x).hold = .ckptDone := by
  rw [capturedCtx, h]

theorem capturedCtx_hold (h : x.hold ≠ .ckpt) : (capturedCtx x).hold = x.hold := by
  rw [capturedCtx]
  split
  next hc => exact absurd hc h
  next => rfl

end

/-! ## What a core sends next to its cellar (R476, R477, R481, R485) -/

section
variable {k : Keep} {log : List LogRec} {iv : Ival} (hcopy : k.copy = some iv)
include hcopy

theorem nextFlit_records (hs : k.sent = 0) (hl : log ≠ []) :
    ∃ r, r ≠ [] ∧ r <+: log ∧ k.nextFlit log = some (0, .cellar k.num [] 0 r false, { k with sent := r.length }) := by
  refine ⟨log.take (max 1 (flitRecs 256 log).length), ?_, List.take_prefix .., ?_⟩
  · rw [Ne, List.take_eq_nil_iff, not_or]
    exact ⟨by omega, hl⟩
  · simp [Keep.nextFlit, hcopy, hs, hl]

section
variable (h : k.sent ≠ 0 ∨ log = [])
include h

omit hcopy in
theorem no_records_next : ¬(k.sent = 0 ∧ (!log.isEmpty) = true) := fun hno => by
  obtain h | rfl := h
  · exact h hno.1
  · cases hno.2

theorem nextFlit_lines (hleft : k.left ≠ []) : k.nextFlit log
    = some (1, .cellar iv.num (k.left.take 3) 0 [] false, { k with left := k.left.drop 3, out := k.out + 1 }) := by
  simp only [Keep.nextFlit, hcopy, if_neg (no_records_next h)]
  exact if_pos (by simpa using hleft)

theorem nextFlit_snapshot (hleft : k.left = []) (hsnap : k.snapLeft ≠ 0) : k.nextFlit log
    = some (1, .cellar iv.num [] (min 3 k.snapLeft) [] false, { k with snapLeft := k.snapLeft - min 3 k.snapLeft, out := k.out + 1 }) := by
  simp only [Keep.nextFlit, hcopy, if_neg (no_records_next h), if_pos hsnap]
  exact if_neg (by simp [hleft])

end

theorem nextFlit_close (hlog : log = []) (hleft : k.left = []) (hsnap : k.snapLeft = 0) (hout : k.out = 0) (hclose : k.closeSent = false) :
    k.nextFlit log = some (1, .cellar iv.num [] 0 [] true, { k with closeSent := true, out := 1 }) := by
  simp [Keep.nextFlit, hcopy, hlog, hleft, hsnap, hout, hclose]

end

/-! ## The fold (R487, R488) -/

section
variable {k : Keep} {last : Ival}

/-- The intervals that a fold's pass has validated. -/
def validated (k : Keep) : List Ival := k.ivals.filter fun iv => beforeEn iv.num k.foldNum

theorem folded_eq (h : (validated k).getLast? = some last) : k.folded = { k with
    mirror := { (validated k).foldl (fun (n : Mirror) iv => n.apply iv.lines) k.mirror with
      num := last.num, en := last.en, pass := k.foldPass, snap := last.snap },
    ivals := k.ivals.filter (fun iv => !beforeEn iv.num k.foldNum), log := k.log.filter (fun r => !beforeEn r.en last.en), fold := false } := by
  rw [validated] at h
  simp only [Keep.folded, h, validated]

theorem folded_ivals (h : (validated k).getLast? = some last) (iv : Ival) :
    iv ∈ k.folded.ivals ↔ iv ∈ k.ivals ∧ beforeEn iv.num k.foldNum = false := by
  rw [folded_eq h]
  simp

theorem folded_log (h : (validated k).getLast? = some last) (r : LogRec) : r ∈ k.folded.log ↔ r ∈ k.log ∧ beforeEn r.en last.en = false := by
  rw [folded_eq h]
  simp

/-- One line of one interval is written over the mirror's. -/
theorem folded_line {e : LineCopy} (hone : validated k = [last]) (hline : last.lines = [e]) :
    k.folded.mirror.lines = Tbl.put k.mirror.lines e.1 e.2.2 := by
  rw [folded_eq (last := last) (by rw [hone]; rfl), hone]
  simp only [List.foldl_cons, List.foldl_nil, hline, Mirror.apply]

end

/-! ## The events (R471, R475-R478, R482, R488) -/

section
variable {s : State} {site ep : Nat} {p : Part} {k : Keep} (hkeep : s.keepAt site = some (p, ep, k))

/-- A keep whose interval is being copied, or closed at once where there is no cellar. -/
def closeInterval (iv : Ival) (lines : List LineCopy) (q : Keep) : Keep :=
  if q.host.isSome then
    { q with num := q.num + 1, want := false, copy := some iv, left := lines, snapLeft := 1024, out := 0, closeSent := false }
  else { q with num := q.num + 1, want := false }

/-- The interval that a boundary captures. -/
def captured (s : State) (site : Nat) (k : Keep) : Ival :=
  ⟨k.num, (s.core site).en, s.timeAt site, site, { (s.core site).capture with log := [] },
    s.lineCopies site ((s.core site).dirty.map (·.1))⟩

/-- The state after a capture, its boundary logged. -/
def boundaryState (s : State) (site : Nat) (p : Part) (ep : Nat) (k : Keep) : State :=
  ((((s.setCore site (s.core site).capture).logEv site 12 0 (k.num.setWidth 64) 0 0xFFFF 0 []).updKeep p.lead ep
    (closeInterval (captured s site k) (s.lineCopies site ((s.core site).dirty.map (·.1)))))).wakeEngines site

include hkeep

theorem wantBoundary_kept : s.wantBoundary site = (s.updKeep p.lead ep fun q => { q with want := true }).due (.checkpointBoundary site) := by
  simp only [State.wantBoundary, hkeep]

theorem exec_checkpointBoundary_inGroup (h : (s.core site).ctxs.toList.any Ctx.inGroup = true) :
    exec (.checkpointBoundary site) s = .next s := by
  rw [exec_checkpointBoundary, execCheckpointBoundary]
  simp only [hkeep]
  exact if_pos (.inr (.inr (.inr h)))

section
variable (hwant : k.want = true) (hcopy : k.copy = none) (hpause : (s.core site).paused = false)
  (hgroup : (s.core site).ctxs.toList.any Ctx.inGroup = false)
include hwant hcopy hpause hgroup

theorem exec_checkpointBoundary_captures : exec (.checkpointBoundary site) s
    = .next (if k.host.isSome then (boundaryState s site p ep k).later (.cellarCopy site)
      else if (s.core site).drained then (boundaryState s site p ep k).later (.scanPass site) else boundaryState s site p ep k) := by
  rw [exec_checkpointBoundary, execCheckpointBoundary]
  simp only [hkeep, hwant, hcopy, hpause, hgroup, Bool.not_true, Option.isSome_none, Bool.false_eq_true, or_self, if_false]
  rfl

theorem exec_checkpointBoundary_copies {h : Nat × Nat} (hhost : k.host = some h) :
    exec (.checkpointBoundary site) s = .next ((boundaryState s site p ep k).later (.cellarCopy site)) := by
  rw [exec_checkpointBoundary_captures hkeep hwant hcopy hpause hgroup, hhost]
  rfl

theorem exec_checkpointBoundary_closes (hhost : k.host = none) (hdrain : (s.core site).drained = false) :
    exec (.checkpointBoundary site) s = .next (boundaryState s site p ep k) := by
  rw [exec_checkpointBoundary_captures hkeep hwant hcopy hpause hgroup, hhost, hdrain]
  rfl

end

theorem exec_cellarCopy_sends {h : Nat × Nat} {id : Nat} {b : Body} {k1 : Keep} (hhost : k.host = some h)
    (hstop : (s.core site).stopped = false) (hfence : (s.core site).fenced = false) (hsend : p.canSend ep (s.hostEp p h.1) = true)
    (hroom : k.lines < cellarSize) (hflit : k.nextFlit (s.core site).log = some (id, b, k1)) : exec (.cellarCopy site) s
    = .next (((s.updKeep p.lead ep fun _ => k1).send p.lead site false ep (s.hostEp p h.1) 11 id h.1 0 b).later (.cellarCopy site)) := by
  rw [exec_cellarCopy, execCellarCopy]
  simp only [hkeep, hhost, hstop, hfence, hsend, hflit, Nat.not_le.mpr hroom, Bool.not_true, Bool.false_eq_true, or_self, if_false]
  rfl

theorem exec_highWater_high (h : s.isHigh site k = true) :
    exec (.highWater site) s = .next ((s.wantBoundary site).requestPass site false) := by
  rw [exec_highWater, execHighWater]
  simp only [hkeep, if_pos h]

theorem exec_highWater_low (h : s.isHigh site k = false) : exec (.highWater site) s = .next s := by
  rw [exec_highWater, execHighWater]
  simp only [hkeep, h, Bool.false_eq_true, if_false]

theorem exec_intervalClose_ends {iv : Ival} (hcopy : k.copy = some iv) (hclose : k.closeSent = true) (hout : k.out = 0) :
    let s1 := s.updKeep p.lead ep fun q => { q with copy := none, closeSent := false }
    let s2 := if k.want then s1.due (.checkpointBoundary site) else s1
    exec (.intervalClose site) s
      = .next ((if (s.core site).drained = true ∧ k.want = false then s2.later (.scanPass site) else s2).noteHigh site) := by
  rw [exec_intervalClose, execIntervalClose]
  simp only [hkeep, hcopy, hclose, hout, Option.isNone_some, Bool.not_true, Bool.false_eq_true, ne_eq, not_true, or_self, if_false,
    Bool.not_eq_eq_eq_not]

theorem exec_mirrorFold_folds (hfold : k.fold = true) :
    let s1 := (s.updKeep p.lead ep fun _ => k.folded).later (.cellarCopy site)
    exec (.mirrorFold site) s = .next (if 16384 ≤ k.lines ∧ k.folded.lines < 16384 then s1.resume site else s1) := by
  have hfull : (k.full = true ∧ (!k.folded.full) = true) ↔ (16384 ≤ k.lines ∧ k.folded.lines < 16384) := by
    rw [Keep.full, Keep.full, Bool.not_eq_true', decide_eq_true_eq, decide_eq_false_iff_not, Nat.not_le, cellarSize]
  rw [exec_mirrorFold, execMirrorFold]
  simp only [hkeep, hfold, Bool.not_true, Bool.false_eq_true, if_false, hfull]

theorem exec_mirrorFold_unasked (hfold : k.fold = false) : exec (.mirrorFold site) s = .next s := by
  rw [exec_mirrorFold, execMirrorFold]
  simp only [hkeep, hfold, Bool.not_false, if_true]

theorem exec_cellarHostLoss_stands {h : Nat × Nat} (hhost : k.host = some h) (hu : s.usable h.1 = true) (hown : h.2 = 0) :
    exec (.cellarHostLoss site) s = .next s := by
  rw [exec_cellarHostLoss, execCellarHostLoss]
  simp only [hkeep, hhost, hu, hown, true_or, and_self, if_true]

theorem exec_cellarHostLoss_lost {h : Nat × Nat} (hhost : k.host = some h) (hu : s.usable h.1 = false) :
    exec (.cellarHostLoss site) s = .next (s.loseCellar p ep k site) := by
  rw [exec_cellarHostLoss, execCellarHostLoss]
  simp only [hkeep, hhost, hu, Bool.false_eq_true, false_and, if_false]

end

/-- The buddy serves a core whose cellar it may hold (R479). -/
theorem chooseHost_buddy {s : State} {p : Part} {site : Nat} (hu : s.usable (buddyOf site) = true) (hfree : (buddyOf site, 0) ∉ p.cellarsUsed) :
    s.chooseHost p site = some (buddyOf site, 0) := by
  simp [State.chooseHost, hu, hfree]

/-! ## The obligation -/

/-- Settles O54: the events of a core's intervals by the lemma of their branch, and what the capture, the next flit and the fold make of a
core and its keep. -/
theorem intervalsAreCapturedCopiedAndFolded : Obligations.IntervalsAreCapturedCopiedAndFolded := by
  unfold Obligations.IntervalsAreCapturedCopiedAndFolded
  refine ⟨?events, fun c n h => ?capture, fun k log iv hcopy => ?flits, fun k last hlast => ?fold, fun s p site => chooseHost_buddy⟩
  case events =>
    intro s site p ep k hkeep c asked
    have hasked : s.wantBoundary site = asked := wantBoundary_kept hkeep
    refine ⟨congrArg _ hasked, exec_checkpointBoundary_inGroup hkeep, fun hwant hcopy hpause hgroup => ?boundary,
      fun h id b k1 => exec_cellarCopy_sends hkeep, fun hhost hn => ?high, fun hn => ?low,
      fun iv => exec_intervalClose_ends hkeep, exec_mirrorFold_folds hkeep, exec_mirrorFold_unasked hkeep,
      fun h => exec_cellarHostLoss_stands hkeep, fun h => exec_cellarHostLoss_lost hkeep⟩
    case boundary =>
      exact ⟨fun h => exec_checkpointBoundary_copies hkeep hwant hcopy hpause hgroup,
        exec_checkpointBoundary_closes hkeep hwant hcopy hpause hgroup⟩
    case high =>
      rw [exec_highWater_high hkeep (Homes.isHigh_iff.mpr ⟨hhost, hn⟩), hasked]
    case low =>
      exact exec_highWater_low hkeep (Bool.eq_false_iff.mpr fun hhigh => Nat.not_lt.mpr hn (Homes.isHigh_iff.mp hhigh).2)
  case capture =>
    rw [capture_ctx c h]
    exact ⟨rfl, capturedCtx_due _, capturedCtx_x _, capturedCtx_pc _, capturedCtx_ckpt _, capturedCtx_hold _⟩
  case flits =>
    exact ⟨nextFlit_records hcopy, nextFlit_lines hcopy, nextFlit_snapshot hcopy, nextFlit_close hcopy⟩
  case fold =>
    have heq := folded_eq hlast
    refine ⟨folded_ivals hlast, by rw [heq], by rw [heq], by rw [heq], by rw [heq], folded_log hlast, fun e hone hline => ?_⟩
    rw [folded_line hone hline]
    exact ⟨Tbl.find?_put_same .., fun j hj => Tbl.find?_put_ne _ _ _ _ hj⟩

end Sys2Proof.Intervals
end

section
/-!
PROOFS. The peer links (19_peer_link_engine.md, R541-R555) and the memory channels (17_memory_rim.md, R507, R513, R515, R519): flits taken
once and in order, replay, lane loss and training, pulls at both ends, the stored code, and blocks that move to spares.
-/

namespace Sys2Proof.PeerLinks

open Sys2Proof.Machine

/-! ## Ports (R545-R549) -/

theorem put_put {α : Type} (t : Tbl α) (i : Nat) (v w : α) : Tbl.put (Tbl.put t i v) i w = Tbl.put t i w := by
  induction t with
  | nil => simp [Tbl.put]
  | cons e t ih =>
    obtain ⟨k, u⟩ := e
    by_cases hlt : i < k
    · simp [Tbl.put, hlt]
    · by_cases heq : i = k
      · simp [Tbl.put, heq]
      · simp [Tbl.put, hlt, heq, ih]

theorem setLink_setLink (s : State) (port : Nat) (x y : BhlPort) : (s.setLink port x).setLink port y = s.setLink port y := by
  simp only [State.setLink, put_put]

theorem link_setLink_ne (s : State) {port q : Nat} (x : BhlPort) (h : q ≠ port) : (s.setLink port x).link q = s.link q := by
  rw [State.link, State.setLink, Tbl.get_put, if_neg h, State.link]

theorem rim_setRim_ne (s : State) {chan c : Nat} (x : Rim) (h : c ≠ chan) : (s.setRim chan x).rim c = s.rim c := by
  rw [State.rim, State.setRim, Tbl.get_put, if_neg h, State.rim]

/-- A running port's state says whether a direction retrains. -/
theorem settle_of_runs {x y : BhlPort} (hs : y.state = x.state) (h : x.runs = true) :
    y.settle = { y with state := if y.retx.isSome || y.rerx.isSome then 3 else 2 } := by
  rw [BhlPort.runs, ← hs] at h
  exact if_pos h

/-! ## A flit that arrives (R541-R543) -/

/-- A port whose line gave up its first flit. -/
def tookFlit (x : BhlPort) (rest : List LinkFlit) : BhlPort := { x with line := rest }

/-- A port that has taken a flit's ack and hold. -/
def heard (x : BhlPort) (f : LinkFlit) : BhlPort := { x with replay := afterAck f.ack x.replay, peerHold := f.hold }

/-- A port that counts a corrupt flit. -/
def countedCorrupt (x : BhlPort) : BhlPort := { x with crcerr := if x.crcerr = 65535 then x.crcerr else x.crcerr + 1 }

/-- A port that counts a replay. -/
def countedReplay (x : BhlPort) : BhlPort := { x with replays := if x.replays = 65535 then x.replays else x.replays + 1 }

section
variable {s : State} {port : Nat} {f : LinkFlit} {rest : List LinkFlit} (hline : (s.link port).line = f :: rest)

/-- The state without the first flit of a port's line, and the same with its ack taken. -/
def lineTaken (s : State) (port : Nat) (rest : List LinkFlit) : State := s.setLink port (tookFlit (s.link port) rest)
def ackTaken (s : State) (port : Nat) (rest : List LinkFlit) (f : LinkFlit) : State :=
  ((lineTaken s port rest).setLink port (heard (tookFlit (s.link port) rest) f)).flushLink port

theorem noteAck_lineTaken (s : State) (port : Nat) (rest : List LinkFlit) (f : LinkFlit) :
    (lineTaken s port rest).noteAck port f = (lineTaken s port rest).setLink port (heard (tookFlit (s.link port) rest) f) := by
  rw [State.noteAck, lineTaken, State.link_setLink_same]
  rfl

theorem takeAck_lineTaken (s : State) (port : Nat) (rest : List LinkFlit) (f : LinkFlit) :
    (lineTaken s port rest).takeAck port f = ackTaken s port rest f := by
  rw [State.takeAck, noteAck_lineTaken, ackTaken]

include hline

theorem arrival_first {kinds : Nat → Bool} (hk : kinds f.kind = true) :
    (s.link port).arrival kinds = some (f, tookFlit (s.link port) rest) := by
  simp only [BhlPort.arrival, hline, if_pos hk]
  rfl

section
variable {kinds : Nat → Bool} (hk : kinds f.kind = true) (k : State → LinkFlit → State)
include hk

theorem receive_loses (h : (tookFlit (s.link port) rest).runs = false ∨ (tookFlit (s.link port) rest).rerx.isSome = true) :
    s.receive port kinds k = lineTaken s port rest := by
  simp only [State.receive, arrival_first hline hk]
  exact if_pos (by simpa using h)

variable (hrun : (tookFlit (s.link port) rest).runs = true) (hre : (tookFlit (s.link port) rest).rerx = none)
include hrun hre

theorem receive_corrupt (hc : (tookFlit (s.link port) rest).corrupt f = true) : s.receive port kinds k
    = ((lineTaken s port rest).setLink port (countedCorrupt (tookFlit (s.link port) rest))).sendNak port := by
  have hre' : (tookFlit (s.link port) rest).rerx.isSome = false := by rw [hre]; rfl
  simp only [State.receive, arrival_first hline hk, hrun, hre', hc, Bool.not_true, Bool.or_self, Bool.false_eq_true, if_false, if_true]
  rfl

theorem receive_intact (hc : (tookFlit (s.link port) rest).corrupt f = false) : s.receive port kinds k = k (lineTaken s port rest) f := by
  simp only [State.receive, arrival_first hline hk, hrun, hre, hc, Bool.not_true, Option.isSome_none, Bool.or_self, Bool.false_eq_true,
    if_false]
  rfl

end

/-! ## Data flits (R542) -/

section
variable (hkind : f.kind = 1)
include hkind

theorem exec_linkDataFlit_loses (h : (tookFlit (s.link port) rest).runs = false ∨ (tookFlit (s.link port) rest).rerx.isSome = true) :
    exec (.linkDataFlit port) s = .next (lineTaken s port rest) := by
  rw [exec_linkDataFlit, execLinkDataFlit, receive_loses hline (by rw [hkind]; rfl) _ h]

variable (hrun : (tookFlit (s.link port) rest).runs = true) (hre : (tookFlit (s.link port) rest).rerx = none)
include hrun hre

theorem exec_linkDataFlit_corrupt (hc : (tookFlit (s.link port) rest).corrupt f = true) : exec (.linkDataFlit port) s
    = .next (((lineTaken s port rest).setLink port (countedCorrupt (tookFlit (s.link port) rest))).sendNak port) := by
  rw [exec_linkDataFlit, execLinkDataFlit, receive_corrupt hline (by rw [hkind]; rfl) _ hrun hre hc]

variable (hc : (tookFlit (s.link port) rest).corrupt f = false)
include hc

theorem exec_linkDataFlit_full (hseq : f.seq = ((ackTaken s port rest f).link port).e)
    (hfull : 1024 ≤ ((ackTaken s port rest f).link port).store.length) :
    exec (.linkDataFlit port) s = .next (ackTaken s port rest f) := by
  rw [exec_linkDataFlit, execLinkDataFlit, receive_intact hline (by rw [hkind]; rfl) _ hrun hre hc, takeAck_lineTaken]
  simp only [hseq, BitVec.sub_self, BitVec.toNat_zero, if_true, if_pos hfull]

/-- The state after a data flit of window 0 is stored. -/
def flitStored (t : State) (port : Nat) (f : LinkFlit) : State :=
  (t.setLink port { t.link port with e := (t.link port).e + 1, nak := none, store := (t.link port).store ++ [f] }).emit port 0 0
    (t.link port).txw .none

theorem exec_linkDataFlit_request {r : LinkReq} (hseq : f.seq = ((ackTaken s port rest f).link port).e)
    (hroom : ((ackTaken s port rest f).link port).store.length < 1024) (hbody : f.body = .request r) :
    exec (.linkDataFlit port) s = .next ((flitStored (ackTaken s port rest f) port f).later (.exportRequest port)) := by
  rw [exec_linkDataFlit, execLinkDataFlit, receive_intact hline (by rw [hkind]; rfl) _ hrun hre hc, takeAck_lineTaken]
  simp only [hseq, BitVec.sub_self, BitVec.toNat_zero, if_true, if_neg (Nat.not_le.mpr hroom), hbody]
  rfl

theorem exec_linkDataFlit_data {id : Nat} {l : List Byte} (hseq : f.seq = ((ackTaken s port rest f).link port).e)
    (hroom : ((ackTaken s port rest f).link port).store.length < 1024) (hbody : f.body = .data id l) :
    exec (.linkDataFlit port) s = .next ((flitStored (ackTaken s port rest f) port f).later (.peerDataReturn port)) := by
  rw [exec_linkDataFlit, execLinkDataFlit, receive_intact hline (by rw [hkind]; rfl) _ hrun hre hc, takeAck_lineTaken]
  simp only [hseq, BitVec.sub_self, BitVec.toNat_zero, if_true, if_neg (Nat.not_le.mpr hroom), hbody]
  rfl

theorem exec_linkDataFlit_early (hseq : f.seq ≠ ((ackTaken s port rest f).link port).e)
    (hwin : (f.seq - ((ackTaken s port rest f).link port).e).toNat < 2048) :
    exec (.linkDataFlit port) s = .next ((ackTaken s port rest f).sendNak port) := by
  have hnz : (f.seq - ((ackTaken s port rest f).link port).e).toNat ≠ 0 := fun h0 =>
    hseq (BitVec.sub_eq_iff_eq_add.mp (BitVec.eq_of_toNat_eq h0 : _ = 0#12) |>.trans (BitVec.zero_add _))
  rw [exec_linkDataFlit, execLinkDataFlit, receive_intact hline (by rw [hkind]; rfl) _ hrun hre hc, takeAck_lineTaken]
  simp only [if_neg hnz, if_pos hwin]

theorem exec_linkDataFlit_again (hwin : 2048 ≤ (f.seq - ((ackTaken s port rest f).link port).e).toNat) : exec (.linkDataFlit port) s
    = .next ((ackTaken s port rest f).emit port 0 0 ((ackTaken s port rest f).link port).txw .none) := by
  rw [exec_linkDataFlit, execLinkDataFlit, receive_intact hline (by rw [hkind]; rfl) _ hrun hre hc, takeAck_lineTaken]
  simp only [if_neg (Nat.ne_of_gt (Nat.lt_of_lt_of_le (by decide : 0 < 2048) hwin)), if_neg (Nat.not_lt.mpr hwin)]

end

/-! ## Idle, nak and retrain flits (R542, R543, R545) -/

section
variable (hrun : (tookFlit (s.link port) rest).runs = true)
include hrun

section
variable (hre : (tookFlit (s.link port) rest).rerx = none)
include hre

section
variable (hc : (tookFlit (s.link port) rest).corrupt f = false)
include hc

theorem exec_linkIdleFlit_acks (hkind : f.kind = 0) : exec (.linkIdleFlit port) s = .next (ackTaken s port rest f) := by
  rw [exec_linkIdleFlit, execLinkIdleFlit, receive_intact hline (by rw [hkind]; rfl) _ hrun hre hc, takeAck_lineTaken]

variable (hkind : f.kind = 2)
include hkind

theorem exec_linkNakFlit_idle
    (h : (heard (tookFlit (s.link port) rest) f).replay = [] ∨ (heard (tookFlit (s.link port) rest) f).retx.isSome = true) :
    exec (.linkNakFlit port) s = .next (ackTaken s port rest f) := by
  rw [exec_linkNakFlit, execLinkNakFlit, receive_intact hline (by rw [hkind]; rfl) _ hrun hre hc, noteAck_lineTaken]
  simp only [State.link_setLink_same]
  exact congrArg _ (if_pos (by simpa using h))

theorem exec_linkNakFlit_resends (hr : (heard (tookFlit (s.link port) rest) f).replay ≠ [])
    (ht : (heard (tookFlit (s.link port) rest) f).retx = none) : exec (.linkNakFlit port) s
    = .next (((((lineTaken s port rest).setLink port (heard (tookFlit (s.link port) rest) f)).setLink port
        (countedReplay (heard (tookFlit (s.link port) rest) f))).resend port (heard (tookFlit (s.link port) rest) f).replay).flushLink port) := by
  rw [exec_linkNakFlit, execLinkNakFlit, receive_intact hline (by rw [hkind]; rfl) _ hrun hre hc, noteAck_lineTaken]
  simp only [State.link_setLink_same]
  exact congrArg _ (if_neg (by simp [hr, ht]))

end

variable (hkind : f.kind = 3)
include hkind

theorem exec_linkRetrainFlit_corrupt (hbad : f.bad = true ∨ f.width = 7) : exec (.linkRetrainFlit port) s
    = .next (((lineTaken s port rest).setLink port (countedCorrupt (tookFlit (s.link port) rest))).sendNak port) := by
  rw [exec_linkRetrainFlit, execLinkRetrainFlit, arrival_first hline (by rw [hkind]; rfl), lineTaken, setLink_setLink]
  have hre' : (tookFlit (s.link port) rest).rerx.isSome = false := by rw [hre]; rfl
  simp only [hrun, hre', Bool.not_true, Bool.false_eq_true, if_false, if_pos hbad]
  rfl

theorem exec_linkRetrainFlit_sets (hbad : f.bad = false) (hw : f.width ≠ 7) : exec (.linkRetrainFlit port) s
    = .next (s.setLink port { heard (tookFlit (s.link port) rest) f with state := 3, retx := some f.width }) := by
  rw [exec_linkRetrainFlit, execLinkRetrainFlit, arrival_first hline (by rw [hkind]; rfl)]
  have hre' : (tookFlit (s.link port) rest).rerx.isSome = false := by rw [hre]; rfl
  simp only [hrun, hre', hbad, hw, Bool.not_true, Bool.false_eq_true, or_self, if_false]
  rw [settle_of_runs ?_ hrun]
  · rfl
  · rfl

end

theorem exec_linkRetrainFlit_drops (hkind : f.kind = 3) (hre : (tookFlit (s.link port) rest).rerx.isSome = true) :
    exec (.linkRetrainFlit port) s = .next (s.dropLink port 1) := by
  rw [exec_linkRetrainFlit, execLinkRetrainFlit, arrival_first hline (by rw [hkind]; rfl)]
  simp only [hrun, hre, Bool.not_true, Bool.false_eq_true, if_false, if_true]

end
end

/-! ## Replay and retraining (R543, R545) -/

section
variable {s : State} {port : Nat} {w : BitVec 3} (hrun : (s.link port).runs = true)
include hrun

theorem exec_linkReplayTimeout_resends (hr : (s.link port).replay ≠ []) (ht : (s.link port).retx = none) :
    exec (.linkReplayTimeout port) s
      = .next ((s.setLink port (countedReplay (s.link port))).resend port (s.link port).replay) := by
  rw [exec_linkReplayTimeout, execLinkReplayTimeout]
  exact if_neg (by simp [hr, hrun, ht])

theorem exec_retrainComplete_tx (ht : (s.link port).retx = some w) (hr : (s.link port).replay = []) (hre : (s.link port).rerx = none) :
    exec (.retrainComplete port true) s
      = .next ((s.setLink port { s.link port with retx := none, txw := w, state := 2 }).flushLink port) := by
  rw [exec_retrainComplete, execRetrainComplete]
  simp only [if_true, ht, hr, hre, List.isEmpty_nil]
  rw [settle_of_runs ?_ hrun]
  · simp only [Option.isSome_none, Bool.or_self, Bool.false_eq_true, if_false, State.resend, List.foldl_nil]
  · rfl

theorem exec_retrainComplete_rx (hre : (s.link port).rerx = some w) (ht : (s.link port).retx = none) :
    exec (.retrainComplete port false) s = .next (s.setLink port { s.link port with rerx := none, rxw := w, state := 2 }) := by
  rw [exec_retrainComplete, execRetrainComplete]
  simp only [Bool.false_eq_true, if_false, hre, ht]
  rw [settle_of_runs ?_ hrun]
  · simp only [Option.isSome_none, Bool.or_self, Bool.false_eq_true, if_false]
  · rfl

/-! ## Lane loss (R545-R547) -/

/-- A port that has marked a lane as lost. -/
def laneMarked (x : BhlPort) (lane : Nat) : BhlPort := { x with lost := x.lost ||| (1 <<< lane) }

section
variable {lane : Nat} (hlane : lane < 16) (hre : (s.link port).rerx = none)
include hlane hre

theorem exec_laneLoss_unused (hin : (widthLanes (s.link port).rxw.toNat).contains lane = false) :
    exec (.laneLoss port lane) s = .next (s.setLink port (laneMarked (s.link port) lane)) := by
  rw [exec_laneLoss, execLaneLoss, laneMarked]
  simp only [hrun, hre, hin, Nat.not_le.mpr hlane, Option.getD_none, Bool.not_true, Bool.not_false, Bool.false_eq_true, or_self, if_false,
    if_true]

variable (hin : (widthLanes (s.link port).rxw.toNat).contains lane = true)
include hin

theorem exec_laneLoss_drops (h : intactWidth (laneMarked (s.link port) lane).lost = none ∨ (s.link port).retx.isSome = true) :
    exec (.laneLoss port lane) s = .next ((s.setLink port (laneMarked (s.link port) lane)).dropLink port 1) := by
  rw [laneMarked] at *
  rw [exec_laneLoss, execLaneLoss]
  simp only [hrun, hre, hin, Nat.not_le.mpr hlane, Option.getD_none, Bool.not_true, Bool.false_eq_true, or_self, if_false]
  obtain h | h := h
  · simp only [h]
  · simp only [h, if_true]
    split <;> rfl

theorem exec_laneLoss_retrains {w : BitVec 3} (ht : (s.link port).retx = none)
    (hw : intactWidth (laneMarked (s.link port) lane).lost = some w) : exec (.laneLoss port lane) s
    = .next ((s.setLink port { laneMarked (s.link port) lane with rerx := some w, nak := none, state := 3 }).emit port 3 0 w .none) := by
  rw [laneMarked] at *
  rw [exec_laneLoss, execLaneLoss]
  simp only [hrun, hre, hin, ht, hw, Nat.not_le.mpr hlane, Option.getD_none, Option.isSome_none, Bool.not_true, Bool.false_eq_true, or_self,
    if_false]
  rw [settle_of_runs ?_ hrun]
  · rfl
  · rfl

end
end

/-! ## Ports that go down and train (R546-R549) -/

section
variable {s : State} {port : Nat}

theorem exec_portDown_running (h : (s.link port).runs = true) : exec (.portDown port) s = .next (s.dropLink port 1) := by
  rw [exec_portDown, execPortDown, h]
  rfl

theorem exec_bhlRetrain_enabled (h : (s.link port).en = true) :
    exec (.bhlRetrain port) s = .next ((s.setLink port { s.link port with rt := true }).dropLink port 1) := by
  rw [exec_bhlRetrain, execBhlRetrain]
  exact if_neg (by simp [h])

theorem exec_bhlEnable_down (h : (s.link port).state = 0) :
    exec (.bhlEnable port true) s = .next ((s.setLink port { s.link port with en := true }).dropLink port 1) := by
  rw [exec_bhlEnable, execBhlEnable]
  exact if_pos h

theorem exec_bhlEnable_up (h : (s.link port).state ≠ 0) :
    exec (.bhlEnable port true) s = .next (s.setLink port { s.link port with en := true }) := by
  rw [exec_bhlEnable, execBhlEnable]
  exact if_neg h

/-- A port that trains: told to, enabled, its module numbered and its band assigned. -/
def Trains (s : State) (port : Nat) : Prop :=
  (s.link port).state = 1 ∧ (s.link port).en = true ∧ s.module.number.isSome = true ∧ (s.partOfBand (port / 2)).isSome = true

theorem not_held_back (h : Trains s port) : ¬((s.link port).state ≠ 1 ∨ (!(s.link port).en) = true ∨ s.module.number.isNone = true
    ∨ (s.partOfBand (port / 2)).isNone = true) := by
  obtain ⟨hstate, hen, hnum, hband⟩ := h
  simp [hstate, hen, Option.isSome_iff_ne_none.mp hnum, Option.isSome_iff_ne_none.mp hband]

/-- A port after its full training, both of its numbers 0. -/
def trained (x : BhlPort) (lost : BitVec 16) (w : BitVec 3) (pmod pport : Nat) : BhlPort :=
  { (x.down 2) with lost := lost, txw := w, rxw := w, rt := false, pmod := BitVec.ofNat 16 pmod, pport := BitVec.ofNat 5 pport }

section
variable {lanes pmod pport : Nat} (h : Trains s port)
include h

theorem exec_fullTrainingComplete_none (hw : intactWidth (~~~(BitVec.ofNat 16 lanes)) = none) :
    exec (.fullTrainingComplete port lanes pmod pport) s
      = .next (s.setLink port { s.link port with lost := ~~~(BitVec.ofNat 16 lanes), rt := false, state := 0 }) := by
  rw [exec_fullTrainingComplete, execFullTrainingComplete]
  simp only [if_neg (not_held_back h), hw]

/-- With no request held at any port, the training changes its own port alone. -/
theorem exec_fullTrainingComplete_up {w : BitVec 3} (hw : intactWidth (~~~(BitVec.ofNat 16 lanes)) = some w)
    (hown : (s.link port).held = []) (hother : ∀ q, q ≠ port → (s.link q).held = []) :
    exec (.fullTrainingComplete port lanes pmod pport) s
      = .next (s.setLink port (trained (s.link port) (~~~(BitVec.ofNat 16 lanes)) w pmod pport)) := by
  have hheld : ((s.link port).down 2).held = [] := hown
  rw [exec_fullTrainingComplete, execFullTrainingComplete]
  simp only [if_neg (not_held_back h), hw]
  rw [← trained, hheld]
  refine congrArg _ (List.foldl_fixed' (fun q => ?_) _)
  by_cases hq : q = port
  · simp [hq]
  · simp [link_setLink_ne s _ hq, hother q hq]

end
end

/-! ## Pulls (R553-R555) -/

section
variable {s : State} {port : Nat}

theorem exec_peerRequest_holds {p : Part} {f : Flit} {s1 : State} {r : PeerRef} {o : Nat} {ds : List (Nat × Nat)} {d : Nat} {k : LandKey}
    (hp : s.partOfBand (port / 2) = some p) (ht : s.takeIn p.lead (portEp port) .request = some (f, s1)) (hb : f.body = .pull r o ds d k)
    (hrun : ((s1.holdPull port f).link port).runs = true) : exec (.peerRequest port) s = .next (s1.holdPull port f) := by
  rw [exec_peerRequest, execPeerRequest]
  simp only [hp, ht, hb, hrun, if_true]

section
variable {f : LinkFlit} {rest : List LinkFlit} (hstore : (s.link port).store = f :: rest)

/-- The state without the first flit of a port's receive store. -/
def storeTaken (s : State) (port : Nat) (rest : List LinkFlit) : State :=
  (s.setLink port { s.link port with store := rest }).wakeStore port

include hstore

section
variable {r : LinkReq} (hb : f.body = .request r)
include hb

/-- A request that the exporting engine refuses with PROT. -/
theorem exec_exportRequest_refuses (h : s.part? r.epart = none ∨ ∃ p, s.part? r.epart = some p
      ∧ ((port / 2 < p.lead ∨ p.lead + p.nb ≤ port / 2) ∨ p.exportEntry r.window = none
        ∨ ∃ b n, p.exportEntry r.window = some (b, n) ∧ n < r.off + r.len)) :
    exec (.exportRequest port) s = .next ((storeTaken s port rest).sendLink port (.refusal r.id 0x05)) := by
  rw [exec_exportRequest, execExportRequest]
  simp only [hstore, hb]
  obtain h | ⟨p, hp, h⟩ := h
  · simp only [h]
    rfl
  · simp only [hp]
    by_cases hin : p.lead ≤ port / 2 ∧ port / 2 < p.lead + p.nb
    · obtain h | h | ⟨b, n, h, hshort⟩ := h
      · omega
      · simp only [h, ite_self]
        rfl
      · simp only [h, if_pos (Or.inl hshort), ite_self]
        rfl
    · have hout : (!(decide (p.lead ≤ port / 2) && decide (port / 2 < p.lead + p.nb))) = true := by
        rw [← Bool.decide_and, decide_eq_false hin]
        rfl
      exact if_pos hout

section
variable {p : Part} {b n : Nat} (hp : s.part? r.epart = some p) (hlo : p.lead ≤ port / 2) (hhi : port / 2 < p.lead + p.nb)
  (he : p.exportEntry r.window = some (b, n)) (hn : r.off + r.len ≤ n) (hcap : b + r.off + r.len ≤ p.capacity)
include hp hlo hhi he hn hcap

/-- A request within its entry is served, when no commit is under way. -/
theorem exec_exportRequest_serves : exec (.exportRequest port) s = if p.committing then .next s
    else .next ((storeTaken s port rest).sendLink port (.data r.id (s.committedRead p (b + r.off) r.len))) := by
  rw [exec_exportRequest, execExportRequest]
  simp only [hstore, hb, hp, hlo, hhi, he, Nat.not_lt.mpr hn, Nat.not_lt.mpr hcap, decide_true, Bool.and_self, Bool.not_true,
    Bool.false_eq_true, or_self, if_false]
  rfl

theorem exec_exportRequest_waits (hc : p.committing = true) : exec (.exportRequest port) s = .next s := by
  rw [exec_exportRequest_serves hstore hb hp hlo hhi he hn hcap, if_pos hc]

theorem exec_exportRequest_reads (hc : p.committing = false) : exec (.exportRequest port) s
    = .next ((storeTaken s port rest).sendLink port (.data r.id (s.committedRead p (b + r.off) r.len))) := by
  rw [exec_exportRequest_serves hstore hb hp hlo hhi he hn hcap, hc]
  rfl

end
end

/-- The state without an answer and the request that it answers. -/
def answerTaken (s : State) (port : Nat) (rest : List LinkFlit) (id : Nat) : State :=
  (s.setLink port { s.link port with store := rest, held := (s.link port).held.filter fun h => h.id != id }).wakeStore port

section
variable {id : Nat}

theorem exec_peerDataReturn_drops (hbody : (∃ l, f.body = .data id l) ∨ ∃ c, f.body = .refusal id c)
    (hfind : List.find? (fun (h : HeldPull) => h.id == id) (s.link port).held = none) :
    exec (.peerDataReturn port) s = .next (answerTaken s port rest id) := by
  rw [exec_peerDataReturn, execPeerDataReturn]
  obtain ⟨l, hb⟩ | ⟨c, hb⟩ := hbody
  · simp only [hstore, hb, hfind]
    rfl
  · simp only [hstore, hb, hfind]
    rfl

variable {h : HeldPull} (hfind : List.find? (fun (h : HeldPull) => h.id == id) (s.link port).held = some h)
include hfind

theorem exec_peerDataReturn_lands {l : List Byte} (hb : f.body = .data id l) :
    exec (.peerDataReturn port) s = .next ((answerTaken s port rest id).answerPull h l none) := by
  rw [exec_peerDataReturn, execPeerDataReturn]
  simp only [hstore, hb, hfind]
  rfl

theorem exec_peerDataReturn_refused {c : BitVec 5} (hb : f.body = .refusal id c) :
    exec (.peerDataReturn port) s = .next ((answerTaken s port rest id).answerPull h [] (some c)) := by
  rw [exec_peerDataReturn, execPeerDataReturn]
  simp only [hstore, hb, hfind]
  rfl

end
end
end

/-! ## Pulls of an entry without a port (R555) -/

@[simp] theorem send_links (s : State) (lead site : Nat) (rim : Bool) (sep dep ctx id tag : Nat) (v : BitVec 32) (b : Body) :
    (s.send lead site rim sep dep ctx id tag v b).links = s.links := by
  rw [State.send]
  split <;> rfl

@[simp] theorem answer_links (s : State) (f : Flit) (b : Body) : (s.answer f b).links = s.links := by
  rw [State.answer]
  split
  · rfl
  · exact send_links ..

@[simp] theorem sendLanding_links (s : State) (f : Flit) (dep : Nat) (k : LandKey) (l : List (Nat × List Byte)) :
    (s.sendLanding f dep k l).links = s.links := by
  rw [State.sendLanding]
  split
  · rfl
  · exact send_links ..

@[simp] theorem answerPull_links (s : State) (h : HeldPull) (l : List Byte) (c : Option (BitVec 5)) :
    (s.answerPull h l c).links = s.links := by
  cases hb : h.flit.body with
  | pull r off dsts dep k =>
    cases c with
    | none => simp only [State.answerPull, hb, sendLanding_links]
    | some c => simp only [State.answerPull, hb, answer_links]
  | _ => simp only [State.answerPull, hb]

/-- A fold of which no element does anything. -/
theorem foldl_unmoved {σ α : Type} {f : σ → α → σ} {l : List α} {t : σ} (h : ∀ x ∈ l, f t x = t) : l.foldl f t = t := by
  induction l with
  | nil => rfl
  | cons x l ih => rw [List.foldl_cons, h x List.mem_cons_self, ih fun y hy => h y (List.mem_cons_of_mem _ hy)]

/-- A fold of which one element alone does anything. -/
theorem foldl_only {σ α : Type} {f : σ → α → σ} {l : List α} {q : α} {s : σ} (hl : l.Nodup) (hq : q ∈ l)
    (hbefore : ∀ x ≠ q, f s x = s) (hafter : ∀ x ≠ q, f (f s q) x = f s q) : l.foldl f s = f s q := by
  obtain ⟨l1, l2, rfl⟩ := List.append_of_mem hq
  obtain ⟨-, hright, hdisj⟩ := List.nodup_append.mp hl
  have hout := (List.nodup_cons.mp hright).1
  rw [List.foldl_append, List.foldl_cons, foldl_unmoved fun x hx => hbefore x (hdisj x hx q List.mem_cons_self),
    foldl_unmoved fun x hx => hafter x fun h => hout (h ▸ hx)]

/-- Whether a request is of an entry of which no port is up. -/
def stranded (s : State) (p : Part) (entry : Nat) (h : HeldPull) : Bool :=
  match h.peer with
  | some r => r.entry == entry && (p.peerPorts r.mask).all fun q => !(s.link q).runs
  | none => false

/-- The stranded requests of a port refused with COPY_ABORT. -/
def refuseStranded (s : State) (p : Part) (entry : Nat) (t : State) (q : Nat) : State :=
  let gone := (t.link q).held.filter (stranded s p entry)
  if gone.isEmpty then t
  else gone.foldl (fun u h => u.answerPull h [] (some causeCopyAbort))
    (t.setLink q { t.link q with held := (t.link q).held.filter fun h => !stranded s p entry h })

section
variable {s t : State} {p : Part} {entry q : Nat}

theorem refuseStranded_none (h : (t.link q).held = []) : refuseStranded s p entry t q = t := by
  rw [refuseStranded, h]
  rfl

theorem refuseStranded_all (hall : ∀ h ∈ (t.link q).held, stranded s p entry h = true) (hne : (t.link q).held ≠ []) :
    refuseStranded s p entry t q = (t.link q).held.foldl (fun u h => u.answerPull h [] (some 0x09))
      (t.setLink q { t.link q with held := [] }) := by
  have hgone : (t.link q).held.filter (stranded s p entry) = (t.link q).held := List.filter_eq_self.mpr hall
  have hleft : (t.link q).held.filter (fun h => !stranded s p entry h) = [] := List.filter_eq_nil_iff.mpr fun h hm => by simp [hall h hm]
  simp only [refuseStranded, hgone, hleft]
  exact if_neg (by simpa using hne)

/-- The requests held at a port that is down are refused, when every other port holds none. -/
theorem exec_peerFailoverTimeout_refuses {part : Nat} (hp : s.part? part = some p) (hdown : (s.link q).runs = false) (hlo : p.lead ≤ q / 2)
    (hhi : q / 2 < p.lead + p.nb) (hq : q < 24)
    (hmine : ∀ h ∈ (s.link q).held, ∃ r, h.peer = some r ∧ r.entry = entry ∧ p.peerPorts r.mask = [q])
    (hother : ∀ q', q' ≠ q → (s.link q').held = []) (hne : (s.link q).held ≠ []) : exec (.peerFailoverTimeout part entry) s
      = .next ((s.link q).held.foldl (fun u h => u.answerPull h [] (some 0x09)) (s.setLink q { s.link q with held := [] })) := by
  have hall : ∀ h ∈ (s.link q).held, stranded s p entry h = true := fun h hm => by
    obtain ⟨r, hr, hent, hports⟩ := hmine h hm
    simp [stranded, hr, hent, hports, hdown]
  have hgo : exec (.peerFailoverTimeout part entry) s = .next (((List.range 24).filter fun q =>
      decide (p.lead ≤ q / 2) && decide (q / 2 < p.lead + p.nb)).foldl (refuseStranded s p entry) s) := by
    rw [exec_peerFailoverTimeout, execPeerFailoverTimeout]
    simp only [hp]
    rfl
  have hlinks : (refuseStranded s p entry s q).links = (s.setLink q { s.link q with held := [] }).links := by
    rw [refuseStranded_all hall hne]
    exact Resets.foldl_frame State.links (fun t e => answerPull_links ..) _ _
  rw [hgo, foldl_only (List.nodup_range.filter _) (by simp [hq, hlo, hhi]) (fun x hx => refuseStranded_none (hother x hx)),
    refuseStranded_all hall hne]
  intro x hx
  refine refuseStranded_none ?_
  rw [State.link, hlinks, ← State.link, link_setLink_ne s _ hx, hother x hx]

end

/-! ## The stored code (R507) -/

section
variable {s : State} {chan : Nat}

theorem exec_codeWindowEnd_open (h : (s.rim chan).bursts < 2 ^ 20) : exec (.codeWindowEnd chan) s = .next s := by
  rw [exec_codeWindowEnd, execCodeWindowEnd]
  exact if_pos h

theorem exec_codeWindowEnd_picks (h : 2 ^ 20 ≤ (s.rim chan).bursts) : exec (.codeWindowEnd chan) s = .next (s.setRim chan
    { s.rim chan with code := if (s.rim chan).mode = 0 then BitVec.ofNat 2 (s.rim chan).bestCode else (s.rim chan).code,
                      bursts := 0, trans := (0, 0, 0) }) := by
  rw [exec_codeWindowEnd, execCodeWindowEnd]
  exact if_neg (Nat.not_lt.mpr h)

end

/-- A search for the cheapest of some keys finds one of them, or its start, and nothing cheaper is left. -/
theorem foldl_cheapest (cost : Nat → Nat) (l : List Nat) (u : Nat) :
    let m := l.foldl (fun m k => if cost k < cost m then k else m) u
    (m = u ∨ m ∈ l) ∧ cost m ≤ cost u ∧ ∀ j ∈ l, cost m ≤ cost j := by
  induction l generalizing u with
  | nil => exact ⟨.inl rfl, le_rfl, nofun⟩
  | cons k l ih =>
    obtain ⟨hmem, hstart, hleast⟩ := ih (if cost k < cost u then k else u)
    rw [List.foldl_cons]
    have hkeep : cost (if cost k < cost u then k else u) ≤ cost u ∧ cost (if cost k < cost u then k else u) ≤ cost k := by
      split <;> omega
    refine ⟨?_, hstart.trans hkeep.1, fun j hj => ?_⟩
    · obtain h | h := hmem
      · split at h
        · exact .inr (List.mem_cons.mpr (.inl (by rw [if_pos ‹_›]; exact h)))
        · exact .inl (by rw [if_neg ‹_›]; exact h)
      · exact .inr (List.mem_cons_of_mem _ h)
    · obtain rfl | hj := List.mem_cons.mp hj
      · exact hstart.trans hkeep.2
      · exact hleast j hj

/-- Another code than the one in use is the cheapest of the three, and saves a sixteenth. -/
theorem bestCode_other {r : Rim} (h : r.bestCode ≠ r.code.toNat) : r.bestCode < 3 ∧ (∀ j, j < 3 → r.cost r.bestCode ≤ r.cost j)
    ∧ r.cost r.code.toNat ≤ 16 * (r.cost r.code.toNat - r.cost r.bestCode) := by
  obtain ⟨hmem, -, hleast⟩ := foldl_cheapest r.cost [0, 1, 2] r.code.toNat
  by_cases hbest : [0, 1, 2].foldl (fun m k => if r.cost k < r.cost m then k else m) r.code.toNat ≠ r.code.toNat
      ∧ r.cost r.code.toNat
        ≤ 16 * (r.cost r.code.toNat - r.cost ([0, 1, 2].foldl (fun m k => if r.cost k < r.cost m then k else m) r.code.toNat))
  · rw [Rim.bestCode, if_pos hbest]
    obtain ⟨hne, hsave⟩ := hbest
    have hin := hmem.resolve_left hne
    exact ⟨by simp only [List.mem_cons, List.not_mem_nil, or_false] at hin; omega,
      fun j hj => hleast j (by simp only [List.mem_cons, List.not_mem_nil, or_false]; omega), hsave⟩
  · exact absurd (if_neg hbest) h

/-! ## Retirement of a channel (R513-R515, R519) -/

section
variable {s : State} {chan : Nat} {p : Part} (hp : s.partOfBand (chan / 128) = some p)
include hp

section
variable (hstate : (s.rim chan).chState = 0) (hask : (s.rim chan).rq = true ∨ 4 ≤ (s.rim chan).uncorr.toNat)
include hstate hask

theorem exec_channelRetirementRequest_asked : exec (.channelRetirementRequest chan) s
    = if s.freeSpares p chan < (31744 - (s.rim chan).blocks.length) + (s.lentBy p chan).length then
        .next (s.setRim chan { s.rim chan with rq := false })
      else .next ((s.setRim chan { s.rim chan with chState := 1, nextBlock := 0, donor := chan }).later (.blockMove chan)) := by
  have hgo : ¬((s.rim chan).chState ≠ 0 ∨ (!(s.rim chan).rq && decide ((s.rim chan).uncorr.toNat < 4)) = true) := by
    simpa [hstate] using hask.resolve_left
  rw [exec_channelRetirementRequest, execChannelRetirementRequest]
  simp only [if_neg hgo, hp]
  rfl

end

section
variable {d : Nat} (hstate : (s.rim chan).chState = 1) (hre : (s.rim chan).rebind = []) (hd : s.nextDonor p chan (s.rim chan).donor = some d)
include hstate hre hd

theorem exec_blockMove_block (hn : (s.rim chan).nextBlock < 31744) : exec (.blockMove chan) s
    = let t := if (Tbl.find? (s.rim chan).blocks (s.rim chan).nextBlock).isSome then s
        else s.giveBlock p chan (s.rim chan).nextBlock chan (65536 * (s.rim chan).nextBlock) d
      .next ((t.setRim chan { t.rim chan with nextBlock := (s.rim chan).nextBlock + 1, donor := d }).later (.blockMove chan)) := by
  rw [exec_blockMove, execBlockMove]
  simp only [hp, hre, hstate, hd, ne_eq, not_true, if_false, slotBlocks, if_pos hn]

theorem exec_blockMove_retired (hn : 31744 ≤ (s.rim chan).nextBlock) (hl : s.lentBy p chan = []) : exec (.blockMove chan) s
    = .next (s.setRim chan { s.rim chan with chState := 2, rq := false, spares := [] }) := by
  rw [exec_blockMove, execBlockMove]
  simp only [hp, hre, hstate, hd, hl, ne_eq, not_true, if_false, slotBlocks, if_neg (Nat.not_lt.mpr hn)]

theorem exec_blockMove_lent {c n : Nat} {more : List (Nat × Nat)} (hn : 31744 ≤ (s.rim chan).nextBlock)
    (hl : s.lentBy p chan = (c, n) :: more) : exec (.blockMove chan) s
    = let t := s.giveBlock p c n chan (0x7C000000 + 65536 * ((Tbl.find? (s.rim c).blocks n).map (·.2)).getD 0) d
      .next ((t.setRim chan { t.rim chan with donor := d }).later (.blockMove chan)) := by
  rw [exec_blockMove, execBlockMove]
  simp only [hp, hre, hstate, hd, hl, ne_eq, not_true, if_false, slotBlocks, if_neg (Nat.not_lt.mpr hn), spareAt]

end

section
variable {n : Nat} {rest : List Nat} (hre : (s.rim chan).rebind = n :: rest)
include hre

theorem exec_blockMove_rebinds : exec (.blockMove chan) s = .next (s.rebindBlock p chan n rest) := by
  rw [exec_blockMove, execBlockMove]
  simp only [hp, hre]

theorem exec_blockMove_no_donor (hds : (s.setRim chan { s.rim chan with rebind := rest }).donors p chan chan = []) :
    exec (.blockMove chan) s = .next (s.setRim chan { s.rim chan with rebind := rest }) := by
  rw [exec_blockMove_rebinds hp hre, State.rebindBlock]
  simp only [hds, List.getElem?_nil]

theorem exec_blockMove_rebinds_own {d : Nat} (hd : ((s.setRim chan { s.rim chan with rebind := rest }).donors p chan chan)[
      n % ((s.setRim chan { s.rim chan with rebind := rest }).donors p chan chan).length]? = some d)
    (hm : (Tbl.find? (s.rim chan).moved n).isSome = false) : exec (.blockMove chan) s
      = .next (((s.setRim chan { s.rim chan with rebind := rest }).giveBlock p chan n chan (65536 * n) d).later (.blockMove chan)) := by
  have hplace : (s.rim chan).blockPlace chan n = (chan, 65536 * n) := by
    simp only [Rim.blockPlace, Option.isSome_eq_false_iff.mp hm |> Option.isNone_iff_eq_none.mp]
  rw [exec_blockMove_rebinds hp hre, State.rebindBlock]
  simp only [hd, hplace]

end
end

section
variable (s : State) (p : Part) (slotChan n chan a d : Nat)

theorem giveBlock_block : Tbl.find? ((s.giveBlock p slotChan n chan a d).rim slotChan).blocks n = some (d, (s.rim d).freeSpare) := by
  simp only [State.giveBlock, State.rim_setRim_same, Tbl.find?_put_same]

theorem giveBlock_moved : (Tbl.find? ((s.giveBlock p slotChan n chan a d).rim slotChan).moved n).isSome = true := by
  simp only [State.giveBlock, State.rim_setRim_same, Tbl.find?_put_same, Option.isSome_some]

theorem giveBlock_spare : (Tbl.find? ((s.giveBlock p slotChan n chan a d).rim d).spares (s.rim d).freeSpare).isSome = true := by
  simp only [State.giveBlock]
  by_cases h : d = slotChan
  · subst h
    simp only [State.rim_setRim_same, Tbl.find?_put_same, Option.isSome_some]
  · rw [rim_setRim_ne _ _ h, State.rim_setRim_same, Tbl.find?_put_same, Option.isSome_some]

theorem giveBlock_parts (h : ∀ e ∈ (s.rim chan).weak, e.2 = false) : (s.giveBlock p slotChan n chan a d).parts = s.parts := by
  have hbad : ((s.rim chan).weak.filter fun e => e.2 && decide (a / 32 ≤ e.1) && decide (e.1 < a / 32 + 2048)) = [] :=
    List.filter_eq_nil_iff.mpr fun e he => by simp [h e he]
  have hlose : s.loseBlock p slotChan n chan a = s := by
    simp only [State.loseBlock, hbad, List.isEmpty_nil, if_true]
  rw [State.giveBlock, hlose]
  rfl

end

/-! ## The obligation -/

/-- Settles O57: every flit, timeout, training, pull and block move by the lemma of the branch that its conditions choose. -/
theorem linksDeliverOnceAndInOrder : Obligations.LinksDeliverOnceAndInOrder := by
  unfold Obligations.LinksDeliverOnceAndInOrder
  refine ⟨?flits, ?retraining, ?lanes, ?training, fun s port p f s1 r o ds d k => exec_peerRequest_holds, ?pulls,
    fun s p part entry q => exec_peerFailoverTimeout_refuses, fun s chan => ⟨exec_codeWindowEnd_open, exec_codeWindowEnd_picks⟩, ?code,
    ?retirement, ?blocks, ?give, ?rebind⟩
  case flits =>
    intro s port f rest hline x s1 y t1 z
    exact ⟨exec_linkDataFlit_loses hline,
      fun hkind hrun hre => ⟨exec_linkDataFlit_corrupt hline hkind hrun hre, fun hc => ⟨exec_linkDataFlit_full hline hkind hrun hre hc,
        fun hseq hroom => ⟨fun r => exec_linkDataFlit_request hline hkind hrun hre hc hseq hroom,
          fun id l => exec_linkDataFlit_data hline hkind hrun hre hc hseq hroom⟩,
        exec_linkDataFlit_early hline hkind hrun hre hc, exec_linkDataFlit_again hline hkind hrun hre hc⟩⟩,
      fun hkind hrun hre hc => exec_linkIdleFlit_acks hline hrun hre hc hkind,
      fun hkind hrun hre hc => ⟨exec_linkNakFlit_idle hline hrun hre hc hkind, exec_linkNakFlit_resends hline hrun hre hc hkind⟩,
      fun hkind hrun hre => exec_linkRetrainFlit_drops hline hrun hkind hre,
      fun hkind hrun hre => ⟨exec_linkRetrainFlit_corrupt hline hrun hre hkind, exec_linkRetrainFlit_sets hline hrun hre hkind⟩⟩
  case retraining =>
    intro s port w x
    exact ⟨fun hr hrun ht => exec_linkReplayTimeout_resends hrun hr ht, fun ht hr hrun hre => exec_retrainComplete_tx hrun ht hr hre,
      fun hre hrun ht => exec_retrainComplete_rx hrun hre ht⟩
  case lanes =>
    intro s port lane hrun hlane x x1
    exact ⟨fun hre hin => exec_laneLoss_unused hrun hlane hre hin,
      fun hre hin => ⟨exec_laneLoss_drops hrun hlane hre hin, fun w ht hw => exec_laneLoss_retrains hrun hlane hre hin ht hw⟩⟩
  case training =>
    intro s port lanes pmod pport x lost trains
    refine ⟨exec_portDown_running, exec_bhlRetrain_enabled, rfl, exec_bhlEnable_down, exec_bhlEnable_up, exec_fullTrainingComplete_none,
      fun w h hw hown hother => ⟨_, exec_fullTrainingComplete_up h hw hown hother, ?_⟩⟩
    simp only [State.link_setLink_same]
    exact ⟨rfl, rfl, rfl, rfl, rfl, rfl, rfl, rfl, rfl, rfl⟩
  case pulls =>
    intro s port f rest hstore x s1
    exact ⟨fun r hb => ⟨exec_exportRequest_refuses hstore hb, fun p b n hp hlo hhi he hn hcap =>
        ⟨exec_exportRequest_waits hstore hb hp hlo hhi he hn hcap, exec_exportRequest_reads hstore hb hp hlo hhi he hn hcap⟩⟩,
      fun id hbody => ⟨exec_peerDataReturn_drops hstore hbody, fun h l hfind => exec_peerDataReturn_lands hstore hfind,
        fun h c hfind => exec_peerDataReturn_refused hstore hfind⟩⟩
  case code =>
    rintro r k rfl
    exact bestCode_other
  case retirement =>
    intro s chan p hp hstate hask r need
    rw [exec_channelRetirementRequest_asked hp hstate hask]
    exact ⟨fun h => if_pos h, fun h => if_neg (Nat.not_lt.mpr h)⟩
  case blocks =>
    intro s chan d p hp hstate hre hd r k onward
    refine ⟨fun hn hb => ?_, fun hn hb => ?_, exec_blockMove_retired hp hstate hre hd, fun c n more => exec_blockMove_lent hp hstate hre hd⟩
    · rw [exec_blockMove_block hp hstate hre hd hn, hb]
      rfl
    · rw [exec_blockMove_block hp hstate hre hd hn, hb]
      rfl
  case give =>
    intro s p slotChan n chan a d hp k t
    exact ⟨giveBlock_block .., giveBlock_moved .., giveBlock_spare .., giveBlock_parts s p slotChan n chan a d⟩
  case rebind =>
    intro s chan n rest p hp hre s0 ds
    exact ⟨exec_blockMove_no_donor hp hre, fun d => exec_blockMove_rebinds_own hp hre⟩

end Sys2Proof.PeerLinks
end

section
/-!
PROOFS. The resets (18_launch_engine_and_host_ports.md, R524, R533, R537; 15_commit_engine.md, R456; 20_power_and_management.md, R566, R569;
01_engines_and_their_ties.md, R10): what the work on the partitions leaves as it was, and the states of a warm reset, its end, its failure
and a cold bring-up.
-/

namespace Sys2Proof.Resets

open Sys2Proof.Machine Sys2Proof.PeerLinks

/-! ## Tables whose values a reset changes -/

section
variable {α : Type} {f : α → α} {d : α}

theorem find?_map_values (f : α → α) (t : Tbl α) (i : Nat) :
    Tbl.find? (t.map fun e => (e.1, f e.2)) i = (Tbl.find? t i).map f := by
  induction t with
  | nil => rfl
  | cons e t ih =>
    by_cases h : e.1 = i
    · simp [Tbl.find?, h]
    · simp [Tbl.find?, h, ih]

/-- A change of every value that fixes the default changes what is read. -/
theorem get_map_values (hd : f d = d) (t : Tbl α) (i : Nat) : Tbl.get d (t.map fun e => (e.1, f e.2)) i = f (Tbl.get d t i) := by
  rw [Tbl.get, Tbl.get, find?_map_values]
  cases Tbl.find? t i with
  | none => exact hd.symm
  | some v => rfl

/-- What holds of a default and of every listed value holds of what is read. -/
theorem get_of_all {P : α → Prop} {t : Tbl α} (hd : P d) (ht : ∀ e ∈ t, P e.2) (i : Nat) : P (Tbl.get d t i) := by
  induction t with
  | nil => exact hd
  | cons e t ih =>
    have hrest := ih fun x hx => ht x (List.mem_cons_of_mem _ hx)
    by_cases h : e.1 = i
    · simpa [Tbl.get, Tbl.find?, h] using ht e List.mem_cons_self
    · simpa [Tbl.get, Tbl.find?, h] using hrest

end

/-! ## What the work on a partition leaves (R456, R526, R537) -/

/-- The module and the bands stand, no site changes its marks, and no partition goes. -/
structure Leaves (s t : State) : Prop where
  module : t.module = s.module
  bands : t.bands = s.bands
  dead : ∀ site, (t.core site).dead = (s.core site).dead
  retired : ∀ site, (t.core site).retired = (s.core site).retired
  stands : ∀ k, (s.part? k).isSome = true → (t.part? k).isSome = true

namespace Leaves

variable {s t u : State}

theorem refl (s : State) : Leaves s s := ⟨rfl, rfl, fun _ => rfl, fun _ => rfl, fun _ h => h⟩

theorem trans (h : Leaves s t) (k : Leaves t u) : Leaves s u :=
  ⟨k.module.trans h.module, k.bands.trans h.bands, fun x => (k.dead x).trans (h.dead x), fun x => (k.retired x).trans (h.retired x),
    fun x hx => k.stands x (h.stands x hx)⟩

/-- A step that changes neither module nor bands, cores and partitions. -/
theorem of_eq (hm : t.module = s.module) (hb : t.bands = s.bands) (hc : t.cores = s.cores) (hp : t.parts = s.parts) : Leaves s t :=
  ⟨hm, hb, fun x => by rw [State.core, hc, State.core], fun x => by rw [State.core, hc, State.core],
    fun k hk => by rwa [State.part?, hp]⟩

theorem foldl {α : Type} {f : State → α → State} (hf : ∀ t e, Leaves t (f t e)) (l : List α) (s : State) : Leaves s (l.foldl f s) :=
  List.foldlRecOn (motive := Leaves s) l f (refl s) fun _ ht e _ => ht.trans (hf _ e)

theorem foldl_from {α : Type} {f : State → α → State} (h : Leaves s t) (hf : ∀ t e, Leaves t (f t e)) (l : List α) :
    Leaves s (l.foldl f t) := h.trans (foldl hf l t)

theorem ite {c : Prop} [Decidable c] (ht : Leaves s t) (hu : Leaves s u) : Leaves s (if c then t else u) := by
  split
  · exact ht
  · exact hu

end Leaves

section
variable (s : State)

theorem later_leaves (d : Due) : Leaves s (s.later d) :=
  .of_eq (State.later_module ..) (State.later_bands ..) (State.later_cores ..) (State.later_parts ..)

theorem due_leaves (i : Instr) : Leaves s (s.due i) := .of_eq rfl rfl rfl rfl

theorem setRim_leaves (c : Nat) (r : Rim) : Leaves s (s.setRim c r) := .of_eq rfl rfl rfl rfl

theorem setLink_leaves (q : Nat) (x : BhlPort) : Leaves s (s.setLink q x) := .of_eq rfl rfl rfl rfl

theorem setRouter_leaves (site : Nat) (r : Router) : Leaves s (s.setRouter site r) := .of_eq rfl rfl rfl rfl

/-- A core changed but for its marks. -/
theorem Leaves.setCore {s t : State} (h : Leaves s t) {site : Nat} {c : Core} (hd : c.dead = (s.core site).dead)
    (hr : c.retired = (s.core site).retired) : Leaves s (t.setCore site c) := by
  refine ⟨h.module, h.bands, fun x => ?_, fun x => ?_, h.stands⟩
  · rw [State.core_setCore]
    split
    · next hx => rw [hd, hx]
    · exact h.dead x
  · rw [State.core_setCore]
    split
    · next hx => rw [hr, hx]
    · exact h.retired x

theorem setPart_leaves (lead : Nat) (p : Part) : Leaves s (s.setPart lead p) := by
  refine ⟨rfl, rfl, fun _ => rfl, fun _ => rfl, fun k hk => ?_⟩
  rw [State.part?_setPart]
  split
  · rfl
  · exact hk

theorem updPart_leaves (lead : Nat) (f : Part → Part) : Leaves s (s.updPart lead f) := by
  rw [State.updPart]
  split
  · exact setPart_leaves ..
  · exact .refl s

/-! ### Lines, casks and records -/

theorem homeWriteLine_leaves (p : Part) (line mask : Nat) (data : List Byte) : Leaves s (s.homeWriteLine p line mask data) := by
  rw [State.homeWriteLine]
  refine .ite (.trans ?_ (later_leaves ..)) ?_
  · exact .of_eq rfl rfl rfl rfl
  · exact .of_eq rfl rfl rfl rfl

theorem mergeLine_leaves (p : Part) (line : Nat) : Leaves s (s.mergeLine p line) := by
  rw [State.mergeLine]
  refine .trans ?_ (setRim_leaves ..)
  exact .foldl (fun t _ => homeWriteLine_leaves t ..) _ _

theorem committedWrite_leaves (p : Part) (ppa : Nat) (data : List Byte) : Leaves s (s.committedWrite p ppa data) := by
  rw [State.committedWrite]
  exact .foldl (fun t _ => .trans (mergeLine_leaves t ..) (homeWriteLine_leaves ..)) _ _

theorem publishAt_leaves (p : Part) (chan : Nat) (v : BitVec 32) (order : Nat) : Leaves s (s.publishAt p chan v order) := by
  rw [State.publishAt]
  refine .foldl_from ?_ (fun t _ => committedWrite_leaves t ..) _
  exact setRim_leaves ..

theorem discardAt_leaves (p : Part) (chan : Nat) (v : BitVec 32) : Leaves s (s.discardAt p chan v) := by
  rw [State.discardAt]
  refine .trans ?_ (setRim_leaves ..)
  exact .foldl (fun t _ => homeWriteLine_leaves t ..) _ _

theorem mergeAll_leaves (p : Part) : Leaves s (s.mergeAll p) := by
  rw [State.mergeAll]
  exact .foldl (fun t _ => .foldl (fun u _ => mergeLine_leaves u ..) _ _) _ _

theorem writeRecord_leaves (lead : Nat) (cmd : Cmd) (words : List Word) (queue outcome : Nat) (v status : BitVec 32) :
    Leaves s (s.writeRecord lead cmd words queue outcome v status) := by
  rw [State.writeRecord]
  split
  · exact .refl s
  · refine .ite (.trans (.trans ?_ (updPart_leaves ..)) (later_leaves ..)) ?_
    · exact committedWrite_leaves ..
    · exact committedWrite_leaves ..

/-! ### Groups -/

theorem configureAt_leaves (site grp : Nat) (e : Option GEntry) : Leaves s (s.configureAt site grp e) := by
  have hrouter : ∀ r, Leaves s (if r = s.router site then s else s.setRouter site r) := fun r =>
    .ite (.refl s) (setRouter_leaves ..)
  unfold State.configureAt
  refine .ite (hrouter _) (.setCore ?_ ?_ ?_)
  · exact hrouter _
  · rfl
  · rfl

theorem layGroup_leaves (p : Part) (grp : Nat) (entries : Tbl GEntry) : Leaves s (s.layGroup p grp entries) := by
  rw [State.layGroup]
  exact .foldl (fun t _ => configureAt_leaves t ..) _ _

theorem standingGroups_leaves (p : Part) : Leaves s (s.standingGroups p) := by
  rw [State.standingGroups]
  split
  · exact .refl s
  · exact .trans (layGroup_leaves s ..) (layGroup_leaves ..)

/-- A partition as its configuration leaves it. -/
def installed (p : Part) (c : Pcfg) (again : Bool) : Part := { p with
  tvec := c.tvec, pcfg := c,
  objtab := if again then c.objtab.toNat else 0, objn := if again then c.objn.toNat else 0,
  grptab := if again then c.grptab.toNat else 0, grpn := if again then c.grpn.toNat else 0 }

/-- A partition set with its standing groups, every other group empty. -/
def groupsLaid (p q : Part) : State :=
  (List.range 46).foldl (fun t g => t.layGroup q (g + 2) []) ((s.setPart p.lead q).standingGroups q)

theorem installConfig_eq (p : Part) (c : Pcfg) (again : Bool) : s.installConfig p c again
    = if again then ((s.groupTable (installed p c again) c.groups c.grptab.toNat []).getD []).foldl
        (fun t e => t.layGroup (installed p c again) e.1 e.2) (groupsLaid s p (installed p c again))
      else groupsLaid s p (installed p c again) := rfl

theorem groupsLaid_leaves (p q : Part) : Leaves s (groupsLaid s p q) :=
  .foldl_from (.trans (setPart_leaves s p.lead q) (standingGroups_leaves _ q)) (fun t _ => layGroup_leaves t ..) _

theorem installConfig_leaves (p : Part) (c : Pcfg) (again : Bool) : Leaves s (s.installConfig p c again) := by
  rw [installConfig_eq]
  exact .ite (.foldl_from (groupsLaid_leaves ..) (fun t _ => layGroup_leaves t ..) _) (groupsLaid_leaves ..)

/-! ### The partition's waiting launches, links and cores -/

theorem examine_leaves (lead : Nat) : Leaves s (s.examine lead) := by
  rw [State.examine]
  split
  · exact .refl s
  · refine .trans (.foldl_from (.foldl_from ?_ (fun t _ => later_leaves t ..) _) (fun t _ => later_leaves t ..) _) (later_leaves ..)
    exact later_leaves ..

theorem trainLinks_leaves (p : Part) : Leaves s (s.trainLinks p) := by
  rw [State.trainLinks]
  refine .ite (.refl s) (.foldl (fun t _ => ?_) _ _)
  exact .ite (setLink_leaves t ..) (.refl t)

theorem forget_leaves (p : Part) (v : BitVec 32) : Leaves s (s.updCores p fun c => c.forget v) := by
  rw [State.updCores]
  refine .foldl (fun t _ => .ite ?_ (.refl t)) _ _
  exact .setCore (.refl t) rfl rfl

/-! ### Launches that end -/

theorem finishLaunch_leaves (lead : Nat) (v : BitVec 32) (outcome : Nat) (status : BitVec 32) (addr : Nat) (relaunch : Bool) :
    Leaves s (s.finishLaunch lead v outcome status addr relaunch) := by
  rw [State.finishLaunch]
  split
  · exact .refl s
  · split
    · exact .refl s
    · refine .trans (.trans (.trans (.trans ?_ (updPart_leaves ..)) (forget_leaves ..)) (due_leaves ..)) (examine_leaves ..)
      split
      · refine .trans (.ite (.refl s) ?_) (layGroup_leaves ..)
        exact writeRecord_leaves s ..
      · exact .ite (.refl s) (writeRecord_leaves s ..)

theorem finishCommit_leaves (p : Part) (l : Launch) : Leaves s (s.finishCommit p l) := by
  rw [State.finishCommit]
  refine .trans ?_ (finishLaunch_leaves ..)
  exact .foldl (fun t _ => .ite (publishAt_leaves t ..) (.refl t)) _ _

/-- Steps 1 to 3 for a partition, before its launches are marked. -/
def commitsEnded (s : State) (p : Part) : State :=
  State.mergeAll ((p.launches.filter fun l => l.admitted && l.phase != .committing).foldl
    (fun t l => (t.rimsOf p).foldl (fun u c => u.discardAt p c l.vint) t)
    ((p.launches.filter fun l => l.phase == .committing).foldl (fun t l => t.finishCommit p l) s)) p

theorem commitsEnded_leaves (p : Part) : Leaves s (commitsEnded s p) := by
  rw [commitsEnded]
  refine .trans (.foldl_from ?_ (fun t _ => .foldl (fun u _ => discardAt_leaves u ..) _ _) _) (mergeAll_leaves ..)
  exact .foldl (fun t _ => finishCommit_leaves t ..) _ _

theorem resetPart_of_part {lead : Nat} {p : Part} (hp : s.part? lead = some p) : s.resetPart lead
    = (commitsEnded s p).updPart lead fun q => { q with
        intent := none, launches := (p.launches.filter fun l => l.admitted && l.phase != .committing).map fun l => { l with phase := .warm } } := by
  rw [State.resetPart, hp]
  rfl

theorem resetPart_leaves (lead : Nat) : Leaves s (s.resetPart lead) := by
  cases hp : s.part? lead with
  | none => rw [State.resetPart, hp]; exact .refl s
  | some p => rw [resetPart_of_part s hp]; exact .trans (commitsEnded_leaves s p) (updPart_leaves ..)

theorem recordReset_leaves (lead : Nat) (l : Launch) : Leaves s (s.recordReset lead l) := writeRecord_leaves s ..

theorem rebuildPart_leaves (lead : Nat) : Leaves s (s.rebuildPart lead) := by
  have hrecords : ∀ l : List Launch, Leaves s (l.foldl (fun t l => t.recordReset lead l) s) := fun l =>
    .foldl (fun t e => recordReset_leaves t lead e) l s
  rw [State.rebuildPart]
  split
  · exact .refl s
  · refine .trans ?_ (examine_leaves ..)
    refine .ite ?_ (.trans ?_ (later_leaves ..))
    all_goals split
    · exact .trans (hrecords _) (setPart_leaves ..)
    · exact .trans (.trans (hrecords _) (installConfig_leaves ..)) (trainLinks_leaves ..)
    · exact .trans (hrecords _) (setPart_leaves ..)
    · exact .trans (.trans (hrecords _) (installConfig_leaves ..)) (trainLinks_leaves ..)

end

/-! ## The reset state (R10, R524, R533) -/

theorem reset_ctx (site n : Nat) : State.reset.ctx site n = Ctx.reset := by
  change (Vector.replicate 8 Ctx.reset)[n]?.getD Ctx.reset = Ctx.reset
  rw [Vector.getElem?_replicate]
  split <;> rfl

theorem link_reset_words : BhlPort.reset.control = 2 ^ 24 ∧ BhlPort.reset.counts = 0 := by decide

/-- A channel's first word at bring-up does not tell its generator's seed. -/
theorem rim_reset_control (seed : BitVec 32) : (Rim.reset seed).control = 2 ^ 4 * 9 := by
  simp [Rim.control, Rim.newCode, Rim.reset]

theorem reset_sound : State.reset.Sound := ⟨memory_nil_wf, fun site n => by rw [reset_ctx]; exact Ctx.reset_sound⟩

/-- A core without a task has its contexts at reset. -/
theorem ctx_of_ctxs {c : Core} (h : c.ctxs = Core.reset.ctxs) (n : Nat) : c.ctx n = Ctx.reset := by
  rw [Core.ctx, h]
  exact reset_ctx 0 n

/-! ## The warm reset (R456, R537) -/

/-- What a function of a band that knows nothing of roles reads, the assignment of roles leaves. -/
theorem assignRoles_band {β : Type} (g : Band → β) (hg : ∀ x r, g { x with roles := r } = g x) (s : State) (b : Nat) :
    g (s.assignRoles.band b) = g (s.band b) := by
  refine foldl_frame (fun t => g (State.band t b)) (fun t k => ?_) _ s
  dsimp only
  split
  · rfl
  · rw [State.band, State.setBand, Tbl.get_put]
    split
    · next h => rw [hg, h]
    · rfl

/-- The state after steps 1 to 3 on the partitions, with the logic of the bands reset. -/
def logicReset (s : State) : State := { s with
  cores := s.cores.map fun (e : Nat × Core) => (e.1, e.2.blank)
  routers := s.routers.map fun (e : Nat × Router) => (e.1, e.2.blank)
  rims := s.rims.map fun (e : Nat × Rim) => (e.1, e.2.restart)
  bands := s.bands.map fun (e : Nat × Band) => (e.1, e.2.restart)
  doms := s.doms.map fun (e : Nat × Domain) => (e.1, e.2.restart)
  links := []
  module := { s.module with warm := true, held := [], latch := [], stagedSec := none }
  pending := [] }

/-- The partitions' part of a warm reset. -/
def partsReset (s : State) : State := (s.parts.map (·.1)).foldl State.resetPart s

/-- The state in which a warm reset waits for its end. -/
def warmState (s : State) : State := (logicReset (partsReset s)).assignRoles.later .warmResetEnd

theorem partsReset_leaves (s : State) : Leaves s (partsReset s) := .foldl (fun t lead => resetPart_leaves t lead) _ s

section
variable {s : State}

theorem exec_warmReset_refused (h : s.module.warm = true ∨ s.module.booting = true ∨ s.module.mgc.input = .off) :
    exec .warmReset s = .next s := by
  rw [exec_warmReset, execWarmReset, State.warmReset]
  exact congrArg _ (if_pos h)

theorem exec_warmReset_begins (hw : s.module.warm = false) (hb : s.module.booting = false) (hi : s.module.mgc.input ≠ .off) :
    exec .warmReset s = .next (warmState s) := by
  rw [exec_warmReset, execWarmReset, State.warmReset]
  exact congrArg _ (if_neg (by simp [hw, hb, hi]))

theorem logicReset_core (s : State) (site : Nat) : (logicReset s).core site = (s.core site).blank :=
  get_map_values (f := Core.blank) rfl s.cores site

theorem logicReset_band (s : State) (b : Nat) : (logicReset s).band b = (s.band b).restart :=
  get_map_values (f := Band.restart) rfl s.bands b

theorem logicReset_roles {β : Type} (g : State → β) (hg : ∀ t b x, g (State.setBand t b x) = g t) (s : State) :
    g (logicReset s).assignRoles = g (logicReset s) := assignRoles_frame g hg _

theorem warmState_module (s : State) : (warmState s).module = { s.module with warm := true, held := [], latch := [], stagedSec := none } := by
  rw [warmState, State.later_module, logicReset_roles State.module fun _ _ _ => rfl, logicReset, (partsReset_leaves s).module]

theorem warmState_links (s : State) : (warmState s).links = [] := by
  rw [warmState, State.later_links, logicReset_roles State.links fun _ _ _ => rfl]
  rfl

theorem warmState_pending (s : State) : (warmState s).pending = [.warmResetEnd] := by
  rw [warmState, State.later, logicReset_roles State.pending fun _ _ _ => rfl]
  rfl

theorem warmState_parts (s : State) : (warmState s).parts = (partsReset s).parts := by
  rw [warmState, State.later_parts, logicReset_roles State.parts fun _ _ _ => rfl]
  rfl

theorem warmState_mem (s : State) : (warmState s).mem = (partsReset s).mem := by
  rw [warmState, State.later_mem, logicReset_roles State.mem fun _ _ _ => rfl]
  rfl

theorem warmState_core (s : State) (site : Nat) : (warmState s).core site = ((partsReset s).core site).blank := by
  rw [warmState, State.core_later, State.core, logicReset_roles State.cores fun _ _ _ => rfl, ← State.core, logicReset_core]

theorem warmState_ctx (s : State) (site n : Nat) : (warmState s).ctx site n = Ctx.reset := by
  rw [State.ctx, warmState_core]
  exact ctx_of_ctxs rfl n

theorem warmState_marks (s : State) (site : Nat) :
    ((warmState s).core site).dead = (s.core site).dead ∧ ((warmState s).core site).retired = (s.core site).retired := by
  rw [warmState_core]
  exact ⟨(partsReset_leaves s).dead site, (partsReset_leaves s).retired site⟩

/-- What a function of a band that knows nothing of roles reads after a warm reset. -/
theorem warmState_band {β : Type} (g : Band → β) (hg : ∀ x r, g { x with roles := r } = g x) (s : State) (b : Nat) :
    g ((warmState s).band b) = g (s.band b).restart := by
  have hbands : (partsReset s).band b = s.band b := by rw [State.band, (partsReset_leaves s).bands, State.band]
  rw [State.band, warmState, State.later_bands, ← State.band, assignRoles_band g hg, logicReset_band, hbands]

/-! ### One partition -/

section
variable {lead : Nat} {p : Part} (hs : s.parts = [(lead, p)])
include hs

theorem part?_of_single : s.part? lead = some p := by
  rw [State.part?, hs, Tbl.find?, if_pos rfl]

theorem partsReset_single : partsReset s = s.resetPart lead := by
  rw [partsReset, hs]
  rfl

/-- The launches admitted and not under commit wait for their records. -/
theorem partsReset_launches : ∃ q, (partsReset s).part? lead = some q ∧ q.intent = none
    ∧ q.launches = (p.launches.filter fun (l : Launch) => l.admitted && l.phase != .committing).map fun (l : Launch) =>
      { l with phase := .warm } := by
  have hstands := (commitsEnded_leaves s p).stands lead (by rw [part?_of_single hs]; rfl)
  obtain ⟨q, hq⟩ := Option.isSome_iff_exists.mp hstands
  rw [partsReset_single hs, resetPart_of_part s (part?_of_single hs)]
  exact ⟨_, State.part?_updPart _ _ _ _ hq, rfl, rfl⟩

/-- With no launch and no open or committed line, memory stays. -/
theorem partsReset_mem (hl : p.launches = []) (hc : ∀ c, (s.rim c).casks = []) : (partsReset s).mem = s.mem := by
  have hmerge : s.mergeAll p = s := foldl_unmoved fun c _ => by rw [hc c]; rfl
  rw [partsReset_single hs, resetPart_of_part s (part?_of_single hs), State.updPart_mem, commitsEnded, hl]
  simp only [List.filter_nil, List.foldl_nil, hmerge]

end

theorem partsReset_none (hs : s.parts = []) : partsReset s = s := by
  rw [partsReset, hs]
  rfl

/-! ## The end of a warm reset (R522, R524, R537) -/

theorem ite_frame {β : Type} (g : State → β) {c : Prop} [Decidable c] {t u : State} {b : β} (ht : g t = b) (hu : g u = b) :
    g (if c then t else u) = b := by
  split
  · exact ht
  · exact hu

theorem configureAt_parts (s : State) (site grp : Nat) (e : Option GEntry) : (s.configureAt site grp e).parts = s.parts := by
  have hrouter : ∀ r, (if r = s.router site then s else s.setRouter site r).parts = s.parts := fun r =>
    ite_frame State.parts rfl rfl
  unfold State.configureAt
  exact ite_frame State.parts (hrouter _) (hrouter _)

theorem layGroup_parts (s : State) (p : Part) (grp : Nat) (entries : Tbl GEntry) : (s.layGroup p grp entries).parts = s.parts :=
  foldl_frame State.parts (fun t _ => configureAt_parts t ..) _ s

theorem standingGroups_parts (s : State) (p : Part) : (s.standingGroups p).parts = s.parts := by
  rw [State.standingGroups]
  split
  · rfl
  · rw [layGroup_parts, layGroup_parts]

theorem trainLinks_parts (s : State) (p : Part) : (s.trainLinks p).parts = s.parts := by
  rw [State.trainLinks]
  split
  · rfl
  · exact foldl_frame State.parts (fun t _ => by dsimp only; split <;> rfl) _ s

theorem examine_parts (s : State) (lead : Nat) : (s.examine lead).parts = s.parts := by
  rw [State.examine]
  split
  · rfl
  · have hlater := fun (d : Launch → Due) (l : List Launch) (t : State) =>
      foldl_frame State.parts (f := fun t x => t.later (d x)) (fun t x => State.later_parts t (d x)) l t
    dsimp only
    rw [State.later_parts, hlater, hlater, State.later_parts]

theorem groupsLaid_parts (s : State) (p q : Part) : (groupsLaid s p q).parts = (s.setPart p.lead q).parts :=
  (foldl_frame State.parts (fun t _ => layGroup_parts t ..) _ _).trans (standingGroups_parts ..)

theorem installConfig_parts (s : State) (p : Part) (c : Pcfg) (again : Bool) :
    (s.installConfig p c again).parts = (s.setPart p.lead (installed p c again)).parts := by
  rw [installConfig_eq]
  split
  · exact (foldl_frame State.parts (fun t _ => layGroup_parts t ..) _ _).trans (groupsLaid_parts ..)
  · exact groupsLaid_parts ..

/-- The choice of cellars changes only what is kept. -/
theorem newKeeps_frame {β : Type} (g : Part → β) (hg : ∀ p k, g { p with keeps := k } = g p) (s : State) (p : Part) :
    g (s.newKeeps p) = g p :=
  foldl_frame g (fun _ _ => hg ..) _ _

theorem buildPart_lead_launches {c : Pcfg} {q : Part} (h : s.buildPart c = some q) : q.lead = c.lead.toNat ∧ q.launches = [] := by
  obtain ⟨r, -, rfl⟩ := Option.map_eq_some_iff.mp h
  rw [newKeeps_frame Part.lead fun _ _ => rfl, newKeeps_frame Part.launches fun _ _ => rfl]
  exact ⟨rfl, rfl⟩

/-- A partition with its bad burst list preserved, its queues and fault log kept, and no launch. -/
def Resumed (p q : Part) : Prop :=
  q.launches = [] ∧ q.preservedN = p.lost.length ∧ q.preserved = p.lost.take 131071 ∧ q.queues = p.queues ∧ q.flog = p.flog
    ∧ q.lost = p.lost

/-- A partition that cannot be rebuilt, and one that is, with what it keeps of itself. -/
def stoppedPart (p : Part) : Part :=
  { p with launches := [], stopped := true, preserved := p.lost.take 131071, preservedN := p.lost.length }
def resumedPart (p q : Part) : Part := { q with
  queues := p.queues, messages := p.messages, flog := p.flog, flogHead := p.flogHead, lost := p.lost,
  preserved := p.lost.take 131071, preservedN := p.lost.length }

section
variable {lead : Nat} {p : Part} (hp : s.part? lead = some p) (hl : p.launches = [])
include hp hl

theorem rebuildPart_parts_stopped (hb : s.buildPart p.pcfg = none) :
    (s.rebuildPart lead).parts = (s.setPart lead (stoppedPart p)).parts := by
  rw [State.rebuildPart, hp]
  simp only [hl, List.foldl_nil, hp, Option.getD_some, hb]
  rw [examine_parts]
  exact ite_frame State.parts rfl (State.later_parts ..)

theorem rebuildPart_parts_resumed {q : Part} (hb : s.buildPart p.pcfg = some q) :
    ∃ again, (s.rebuildPart lead).parts = (s.setPart q.lead (installed (resumedPart p q) p.pcfg again)).parts := by
  rw [State.rebuildPart, hp]
  simp only [hl, List.foldl_nil, hp, Option.getD_some, hb]
  rw [examine_parts]
  exact ⟨_, ite_frame State.parts ((trainLinks_parts ..).trans (installConfig_parts ..))
    ((State.later_parts ..).trans ((trainLinks_parts ..).trans (installConfig_parts ..)))⟩

/-- A partition without launches is rebuilt, or stands stopped when it cannot be. -/
theorem rebuildPart_resumes (hlead : p.pcfg.lead.toNat = lead) : ∃ q, (s.rebuildPart lead).part? lead = some q ∧ Resumed p q := by
  cases hb : s.buildPart p.pcfg with
  | none =>
    refine ⟨stoppedPart p, ?_, rfl, rfl, rfl, rfl, rfl, rfl⟩
    rw [State.part?, rebuildPart_parts_stopped hp hl hb, ← State.part?, State.part?_setPart_same]
  | some q =>
    obtain ⟨hqlead, hql⟩ := buildPart_lead_launches hb
    obtain ⟨again, hparts⟩ := rebuildPart_parts_resumed hp hl hb
    refine ⟨installed (resumedPart p q) p.pcfg again, ?_, hql, rfl, rfl, rfl, rfl, rfl⟩
    rw [State.part?, hparts, hqlead, hlead, ← State.part?, State.part?_setPart_same]

end

/-- The state in which the partitions are rebuilt. -/
def resumedModule (s : State) : State := { s with module := { s.module with warm := false, sem := .free, semGen := 0, tieFirstA := true } }

/-- The state after the partitions are rebuilt. -/
def partsRebuilt (s : State) : State := (s.parts.map (·.1)).foldl State.rebuildPart s

/-- Block moves that a warm reset met go on. -/
def movesResumed (s : State) : State :=
  s.rims.foldl (fun t (e : Nat × Rim) => if e.2.chState = 1 ∨ e.2.rebind ≠ [] then t.later (.blockMove e.1) else t) s

theorem movesResumed_leaves (s : State) : Leaves s (movesResumed s) :=
  .foldl (fun t _ => .ite (later_leaves t _) (.refl t)) _ s

theorem movesResumed_parts (s : State) : (movesResumed s).parts = s.parts :=
  foldl_frame State.parts (fun _ _ => ite_frame State.parts (State.later_parts ..) rfl) _ s

theorem exec_warmResetEnd_ends (hw : s.module.warm = true) :
    exec .warmResetEnd s = .next (movesResumed (partsRebuilt (resumedModule s))) := by
  rw [exec_warmResetEnd, execWarmResetEnd, hw]
  rfl

theorem warmResetEnd_module (s : State) : (movesResumed (partsRebuilt (resumedModule s))).module = (resumedModule s).module :=
  (Leaves.trans (.foldl (fun t lead => rebuildPart_leaves t lead) _ _) (movesResumed_leaves _)).module

theorem warmResetEnd_resumes {lead : Nat} {p : Part} (hs : s.parts = [(lead, p)]) (hlead : p.pcfg.lead.toNat = lead) (hl : p.launches = []) :
    ∃ q, (movesResumed (partsRebuilt (resumedModule s))).part? lead = some q ∧ Resumed p q := by
  have hp : (resumedModule s).part? lead = some p := part?_of_single hs
  have hone : partsRebuilt (resumedModule s) = (resumedModule s).rebuildPart lead := by
    rw [partsRebuilt, show (resumedModule s).parts = [(lead, p)] from hs]
    rfl
  obtain ⟨q, hq, hres⟩ := rebuildPart_resumes hp hl hlead
  refine ⟨q, ?_, hres⟩
  rw [State.part?, movesResumed_parts, hone]
  exact hq

/-! ## A failure, and the cold bring-up (R566, R569) -/

theorem exec_warmResetFailure_again (hw : s.module.warm = true)
    (h : s.module.mgc.warmFails = 0 ∨ s.module.mgc.failAt + 840000000000 < s.module.fc) : exec .warmResetFailure s
      = .next { s with module := { s.module with mgc := { s.module.mgc with warmFails := 1, failAt := s.module.fc } } } := by
  have hfirst : ¬(0 < s.module.mgc.warmFails ∧ s.module.fc ≤ s.module.mgc.failAt + fcTenMinutes) := by
    rw [fcTenMinutes]
    omega
  rw [exec_warmResetFailure, execWarmResetFailure]
  simp only [hw, Bool.not_true, Bool.false_eq_true, if_false, if_neg hfirst]

theorem exec_warmResetFailure_second (hw : s.module.warm = true) (hf : 0 < s.module.mgc.warmFails)
    (hn : s.module.fc ≤ s.module.mgc.failAt + 840000000000) : exec .warmResetFailure s = exec .coldBringup s := by
  rw [exec_warmResetFailure, execWarmResetFailure]
  simp only [hw, Bool.not_true, Bool.false_eq_true, if_false]
  exact if_pos ⟨hf, hn⟩

/-- The powered wafer before its roles are assigned. -/
def poweredUp (s : State) : State :=
  { s.unpowered with
    module := { s.unpowered.module with
      booting := true, boots := s.unpowered.module.boots + 1, mgc := { s.unpowered.module.mgc with input := .full } } }

/-- The state in which a cold bring-up waits for its end. -/
def coldState (s : State) : State := (poweredUp s).assignRoles.later .coldBringupEnd

theorem poweredUp_roles {β : Type} (g : State → β) (hg : ∀ t b x, g (State.setBand t b x) = g t) (s : State) :
    g (poweredUp s).assignRoles = g (poweredUp s) := assignRoles_frame g hg _

theorem coldState_module (s : State) : (coldState s).module = (poweredUp s).module := by
  rw [coldState, State.later_module, poweredUp_roles State.module fun _ _ _ => rfl]

theorem coldState_parts (s : State) : (coldState s).parts = [] := by
  rw [coldState, State.later_parts, poweredUp_roles State.parts fun _ _ _ => rfl]
  rfl

theorem coldState_mem (s : State) : (coldState s).mem = [] := by
  rw [coldState, State.later_mem, poweredUp_roles State.mem fun _ _ _ => rfl]
  rfl

theorem coldState_links (s : State) : (coldState s).links = [] := by
  rw [coldState, State.later_links, poweredUp_roles State.links fun _ _ _ => rfl]
  rfl

theorem coldState_pending (s : State) : (coldState s).pending = [.coldBringupEnd] := by
  rw [coldState, State.later, poweredUp_roles State.pending fun _ _ _ => rfl]
  rfl

theorem exec_coldBringup_refused (h : s.module.booting = true ∨ s.module.mgc.recovery = true) : exec .coldBringup s = .next s := by
  rw [exec_coldBringup, execColdBringup, State.coldBringup]
  exact congrArg _ (if_pos h)

theorem exec_coldBringup_begins (hb : s.module.booting = false) (hr : s.module.mgc.recovery = false) :
    exec .coldBringup s = .next (coldState s) := by
  rw [exec_coldBringup, execColdBringup, State.coldBringup]
  exact congrArg _ (if_neg (by simp [hb, hr]))

/-- The sites listed after a loss of power have no task. -/
theorem coldState_ctx (s : State) (site n : Nat) : (coldState s).ctx site n = Ctx.reset := by
  rw [State.ctx, coldState, State.core_later, State.core, poweredUp_roles State.cores fun _ _ _ => rfl]
  refine ctx_of_ctxs (get_of_all (P := fun c : Core => c.ctxs = Core.reset.ctxs) rfl (fun e he => ?_) site) n
  obtain ⟨x, -, rfl⟩ := List.mem_map.mp he
  rfl

end

/-! ## The obligation -/

/-- Settles O59: the reset state by its definition, and each reset event by the state that its work on the partitions leaves. -/
theorem resetsLeaveTheirState : Obligations.ResetsLeaveTheirState := by
  unfold Obligations.ResetsLeaveTheirState
  refine ⟨?reset, fun s => exec_warmReset_refused, fun s hw hb hi => ⟨_, exec_warmReset_begins hw hb hi, ?warm⟩,
    fun s => ⟨fun hw => ?_, fun hw => ⟨_, exec_warmResetEnd_ends hw, ?ended⟩⟩,
    fun s => ⟨fun hw => ?_, exec_warmResetFailure_again, exec_warmResetFailure_second⟩,
    fun s => ⟨exec_coldBringup_refused, fun hb hr => ⟨_, exec_coldBringup_begins hb hr, ?cold⟩⟩, fun s => ⟨fun hb => ?_, fun hb => ?_⟩⟩
  case reset =>
    exact ⟨rfl, rfl, memory_nil_wf, rfl, reset_sound, rfl, rfl, rfl, rfl, rfl, rfl, rfl, rfl, fun site n => by rw [reset_ctx]; rfl,
      fun b => ⟨rfl, rfl⟩, fun d => ⟨rfl, rfl⟩, fun _ => link_reset_words, fun _ => rim_reset_control _⟩
  case warm =>
    beta_reduce
    rw [warmState_module]
    refine ⟨rfl, rfl, rfl, rfl, warmState_links s, warmState_pending s, warmState_ctx s, warmState_marks s,
      fun b => ⟨warmState_band Band.control (fun _ _ => rfl) s b, warmState_band Band.pcfg (fun _ _ => rfl) s b⟩, fun hs => ⟨?_, ?_, rfl⟩,
      fun lead p hs => ?_, fun lead p hs hl hc => ?_⟩
    · rw [warmState_mem, partsReset_none hs]
    · rw [warmState_parts, partsReset_none hs, hs]
    · rw [State.part?, warmState_parts]
      exact partsReset_launches hs
    · rw [warmState_mem, partsReset_mem hs hl hc]
  case ended =>
    beta_reduce
    rw [warmResetEnd_module]
    exact ⟨rfl, rfl, rfl, rfl, rfl, fun lead p hs _ hlead hl => warmResetEnd_resumes hs hlead hl⟩
  case cold =>
    simp only [State.portUp, coldState_module]
    exact ⟨rfl, rfl, coldState_parts s, coldState_mem s, coldState_pending s, rfl, rfl, rfl, rfl, coldState_links s, coldState_ctx s⟩
  · rw [exec_warmResetEnd, execWarmResetEnd, hw]
    rfl
  · rw [exec_warmResetFailure, execWarmResetFailure, hw]
    rfl
  · rw [exec_coldBringupEnd, execColdBringupEnd, hb]
    rfl
  · rw [exec_coldBringupEnd, execColdBringupEnd, hb]
    rfl

end Sys2Proof.Resets
end

section
/-!
PROOFS. Soundness (R28, R165, R249): every outcome of a word of the scalar pipeline, a branch or jump, a system word or a word that is
no instruction leaves the machine sound, memory as it was, and the partitions as they were but for the end of a launch whose
fetch met a lost granule (R519).
-/

namespace Sys2Proof.Soundness

open Sys2Proof.Machine

/-! ## Steps that keep the machine -/

/-- A step to t from s that leaves the machine sound, and memory and partitions alone. -/
structure Kept (s t : State) : Prop where
  sound : t.Sound
  mem : t.mem = s.mem
  parts : t.parts = s.parts

/-- Every next state of an outcome is kept. -/
def KeptBy (s : State) (o : Out) : Prop := ∀ t, o = .next t → Kept s t

section
variable {s t u : State}

theorem Kept.trans (h : Kept s t) (g : Kept t u) : Kept s u := ⟨g.sound, g.mem.trans h.mem, g.parts.trans h.parts⟩

theorem kept_refl (h : s.Sound) : Kept s s := ⟨h, rfl, rfl⟩

theorem keptBy_next (h : Kept s t) : KeptBy s (.next t) := by
  rintro _ ⟨⟩
  exact h

theorem keptBy_refused (r : Refusal) : KeptBy s (.refused r) := by
  rintro _ ⟨⟩

theorem keptBy_ite {p : Prop} [Decidable p] {o q : Out} (h : KeptBy s o) (g : KeptBy s q) : KeptBy s (if p then o else q) := by
  split
  · exact h
  · exact g

variable (hs : s.Sound)
include hs

theorem kept_of_pending {l : List Due} (h : t = { s with pending := l }) : Kept s t :=
  h ▸ ⟨State.sound_of_eq hs rfl rfl, rfl, rfl⟩

theorem kept_setCtx (site n : Nat) {c : Ctx} (hc : c.sound) : Kept s (s.setCtx site n c) := ⟨State.sound_setCtx site n hs hc, rfl, rfl⟩

theorem kept_setMe {c : Ctx} (hc : c.sound) : Kept s (s.setMe c) := kept_setCtx hs _ _ hc

theorem kept_due (i : Instr) : Kept s (s.due i) := kept_of_pending hs rfl

theorem kept_setMe_due {c : Ctx} (hc : c.sound) (i : Instr) : Kept s ((s.setMe c).due i) :=
  (kept_setMe hs hc).trans (kept_due (kept_setMe hs hc).sound i)

theorem kept_updCore (site : Nat) {f : Core → Core} (hf : (f (s.core site)).ctxs = (s.core site).ctxs) : Kept s (s.updCore site f) :=
  ⟨State.sound_updCore site hs hf, rfl, rfl⟩

theorem kept_trapAt (site n : Nat) (cause : BitVec 5) (fa : Addr) (fs : BitVec 32) : Kept s (s.trapAt site n cause fa fs) :=
  ⟨State.sound_trapAt site n cause fa fs hs, State.trapAt_mem .., State.trapAt_parts ..⟩

theorem keptBy_trap (cause : BitVec 5) (fa : Addr) : KeptBy s (.next (s.trap cause fa)) := keptBy_next (kept_trapAt hs _ _ _ _ _)

theorem kept_stallOn (srcs dests : List Reg) : Kept s (stallOn s s.me srcs dests) := by
  refine ⟨sound_stallOn srcs dests hs, ?_, ?_⟩ <;>
    · unfold stallOn
      split <;> rfl

/-- A word that waits for vector work raises at most a posted fault. -/
theorem kept_drawWait : Kept s s.drawWait := by
  unfold State.drawWait
  split
  · split
    · rename_i p _ _
      have hpost : Kept s (s.updCtx s.cur.1 s.cur.2 fun c => { c with posted := c.posted.erase p }) :=
        kept_setCtx hs _ _ (hs.2 s.cur.1 s.cur.2)
      exact hpost.trans (kept_trapAt hpost.sound _ _ _ _ _)
    · exact kept_refl hs
  · exact kept_refl hs

/-- A log record changes no context. -/
theorem kept_logEv (site kind ctx : Nat) (v : Word) (a : Addr) (src seq : Nat) (l : List Byte) :
    Kept s (s.logEv site kind ctx v a src seq l) := by
  unfold State.logEv
  split
  · split
    · exact kept_updCore hs site rfl
    · have hlog : Kept s (s.updCore site fun c => c.logEv kind ctx v a src seq l) := kept_updCore hs site rfl
      dsimp only
      split
      · exact hlog.trans (kept_of_pending hlog.sound rfl)
      · exact hlog
  · exact kept_updCore hs site rfl

end

/-! ## Events that fall due -/

/-- A fold of steps that record events records events. -/
theorem foldl_pending {α : Type} {f : State → α → State} (hf : ∀ t e, ∃ q, f t e = { t with pending := q }) (l : List α)
    (s : State) :
    ∃ q, l.foldl f s = { s with pending := q } := by
  refine List.foldlRecOn (motive := fun t => ∃ q, t = { s with pending := q }) l f ⟨s.pending, rfl⟩ ?_
  rintro _ ⟨q, rfl⟩ e _
  obtain ⟨r, hr⟩ := hf { s with pending := q } e
  exact ⟨r, hr⟩

theorem wakeLaunches_pending (s : State) (site : Nat) : ∃ q, s.wakeLaunches site = { s with pending := q } := by
  unfold State.wakeLaunches
  split
  · exact ⟨_, rfl⟩
  · refine foldl_pending (fun t l => ?_) _ s
    dsimp only
    split <;> split <;> split <;> exact ⟨_, rfl⟩

theorem ite_dueOnce_pending (p : Prop) [Decidable p] (s : State) (i : Instr) :
    ∃ q, (if p then s.dueOnce i else s) = { s with pending := q } := by
  unfold State.dueOnce
  split
  · split <;> exact ⟨_, rfl⟩
  · exact ⟨_, rfl⟩

theorem pending_trans {s t u : State} (h : ∃ q, t = { s with pending := q }) (g : ∃ q, u = { t with pending := q }) :
    ∃ q, u = { s with pending := q } := by
  obtain ⟨_, rfl⟩ := h
  exact g

theorem wakeEngines_pending (s : State) (site : Nat) : ∃ q, s.wakeEngines site = { s with pending := q } := by
  unfold State.wakeEngines
  dsimp only
  refine pending_trans (pending_trans (pending_trans (pending_trans ?vector (foldl_pending ?tile _ _)) (foldl_pending ?port _ _))
    (foldl_pending ?copy _ _)) (wakeLaunches_pending _ _)
  case vector => split <;> exact ⟨_, rfl⟩
  case tile =>
    intro t e
    split <;> exact ⟨_, rfl⟩
  case port =>
    intro t e
    split <;> exact ⟨_, rfl⟩
  case copy =>
    intro t e
    exact pending_trans (ite_dueOnce_pending _ t _) (ite_dueOnce_pending _ _ _)

/-! ## Words -/

/-- A jump to an aligned address leaves its context sound. -/
theorem sound_goto {c : Ctx} (hc : c.sound) {pc : Addr} (hpc : pc.toNat % 4 = 0) : (c.goto pc).sound := by
  obtain ⟨hx, -, hepc, htvec, -⟩ := hc
  exact ⟨hx, hpc, hepc, htvec, fun _ e => by cases e⟩

section
variable {s : State} (hs : s.Sound)
include hs

/-- Every outcome of an issued word is kept when its effect is, from a context that differs from the old one in its pops. -/
theorem keptBy_issueWord {u : HintUse} {srcs dests : List Reg} {plain priv pair : Bool} {k : Issued → Out}
    (hk : ∀ vs c, c.sound → KeptBy s (k ⟨c, vs⟩)) : KeptBy s (issueWord s u srcs dests plain priv pair k) := by
  have hme : s.me.sound := hs.2 _ _
  obtain ⟨-, h⟩ | ⟨cause, -, h⟩ | ⟨ch, -, h⟩ | h | ⟨vs, c, hi, h⟩ := issueWord_cases s u srcs dests plain priv pair k
  all_goals rw [h]
  · exact keptBy_refused _
  · exact keptBy_trap hs _ _
  · have hmask : Kept s (s.setMe { s.me with abortMask := s.me.abortMask &&& ~~~((1 : BitVec 8) <<< ch) }) := kept_setMe hs hme
    exact keptBy_next (hmask.trans (kept_trapAt hmask.sound _ _ _ _ _))
  · exact keptBy_next (kept_stallOn hs _ _)
  · obtain ⟨-, -, -, hsrc, -⟩ := hi
    exact hk vs c (Ctx.sound_sources hme hsrc)

theorem kept_finishScalar {c : Ctx} (hc : c.sound) (d : Reg) (v flags : Word) : Kept s (finishScalar s c d v flags) :=
  ⟨sound_finishScalar d v flags hs hc, rfl, rfl⟩

theorem keptBy_aluOp (u : HintUse) (srcs : List Reg) (d : Reg) (plain : Bool) (f : Issued → Word) :
    KeptBy s (aluOp s u srcs d plain f) :=
  keptBy_issueWord hs fun _ _ hc => keptBy_next (kept_finishScalar hs hc _ _ _)

theorem keptBy_rrOp (d a b : Reg) (f : Word → Word → Word) : KeptBy s (rrOp s d a b f) := keptBy_aluOp hs _ _ _ _ _

theorem keptBy_unOp (d a : Reg) (f : Word → Word) : KeptBy s (unOp s d a f) := keptBy_aluOp hs _ _ _ _ _

theorem keptBy_riOp (d a : Reg) (imm : BitVec 16) (f : Word → Word → Word) : KeptBy s (riOp s d a imm f) := keptBy_aluOp hs _ _ _ _ _

theorem keptBy_pairOp (d a b : Reg) (f : Word → Word → BitVec 128) : KeptBy s (pairOp s d a b f) :=
  keptBy_issueWord hs fun _ _ hc =>
    keptBy_next (kept_setMe_due hs (Ctx.sound_advance (Ctx.sound_pend _ (Ctx.sound_put _ _ (Ctx.sound_put _ _ hc)))) _)

/-- A form that draws when the rounding is stochastic: it waits, or writes its result with the state of the draw. -/
theorem keptBy_drawing {c : Ctx} (hc : c.sound) (p : Prop) [Decidable p] (d : Reg) (w v flags : Word) :
    KeptBy s (if p then .next s.drawWait else .next (finishScalar s { c with srstate := w } d v flags)) :=
  keptBy_ite (keptBy_next (kept_drawWait hs)) (keptBy_next (kept_finishScalar hs (c := { c with srstate := w }) hc _ _ _))

theorem keptBy_fpOp (srcs : List Reg) (d : Reg) (plain : Bool) (rnd : Rnd) (ftz : Bool) (f : Issued → Res) :
    KeptBy s (fpOp s srcs d plain rnd ftz f) :=
  keptBy_issueWord hs fun _ _ hc => keptBy_drawing hs hc _ _ _ _ _

theorem keptBy_fcvt (d a : Reg) (dt st : DType) (rnd : Rnd) (sat ftz : Bool) : KeptBy s (execFcvt d a dt st rnd sat ftz s) :=
  keptBy_issueWord hs fun _ _ hc => keptBy_drawing hs hc _ _ _ _ _

theorem keptBy_branchOp (a b : Reg) (off : BitVec 16) (cond : Word → Word → Bool) : KeptBy s (branchOp s a b off cond) :=
  keptBy_issueWord hs fun vs c hc => by
    refine keptBy_next (kept_setMe hs (sound_goto hc ?_))
    split
    · exact target_aligned off hc.2.1
    · exact aligned_next hc.2.1

theorem kept_jumpTo {c : Ctx} (hc : c.sound) (d : Reg) {t : Addr} (ht : t.toNat % 4 = 0) : Kept s (jumpTo s c d t) := by
  have htrain : (c.train d).sound := by
    unfold Ctx.train
    split <;> exact hc
  exact kept_setMe_due hs (sound_goto (Ctx.sound_pend _ (Ctx.sound_result d (linkOf c.pc) htrain)) ht) _

theorem keptBy_jal (d : Reg) (off : BitVec 21) : KeptBy s (execJal d off s) :=
  keptBy_issueWord hs fun _ _ hc => keptBy_next (kept_jumpTo hs hc d (target_aligned off hc.2.1))

theorem keptBy_jalr (d a : Reg) (imm : BitVec 16) : KeptBy s (execJalr d a imm s) :=
  keptBy_issueWord hs fun _ _ hc => by
    dsimp only
    split
    · exact keptBy_trap hs _ _
    · rename_i ht
      exact keptBy_next (kept_jumpTo hs hc d (not_not.mp ht))

theorem keptBy_sysrd (num : BitVec 8) (d : Reg) : KeptBy s (execSysrd num d s) :=
  keptBy_issueWord hs fun _ c hc => by
    have hfin := kept_finishScalar hs hc d (s.sysValue s.cur.1 s.cur.2 c num.toNat) 0
    refine keptBy_ite (keptBy_trap hs _ _) (keptBy_ite (keptBy_next (kept_drawWait hs)) (keptBy_next ?_))
    split
    · exact hfin.trans (kept_logEv hfin.sound _ _ _ _ _ _ _ _)
    · exact hfin

end

/-! ## SYSWR (R126, R249) -/

/-- A core whose cached lines of some regions are dropped keeps its contexts but for their outstanding loads. -/
theorem ctx_dropLines (c : Core) (v : BitVec 32) (rs : List DRegion) (n : Nat) :
    ∃ ops, (c.dropLines v rs).ctx n = { c.ctx n with ops := ops } := by
  simp only [Core.ctx, Core.dropLines]
  by_cases hn : n < 8
  · simp only [hn, Vector.getElem?_eq_getElem, Vector.getElem_ofFn, Option.getD_some]
    split <;> exact ⟨_, rfl⟩
  · simp only [Vector.getElem?_eq_none (Nat.le_of_not_lt hn), Option.getD_none]
    exact ⟨_, rfl⟩

section
variable {s : State} (hs : s.Sound)
include hs

/-- A change of a core that leaves each of its contexts sound. -/
theorem kept_updCore_of_ctx (site : Nat) {f : Core → Core} (hf : ∀ n, ((f (s.core site)).ctx n).sound) : Kept s (s.updCore site f) := by
  refine ⟨⟨hs.1, fun a b => ?_⟩, rfl, rfl⟩
  rw [State.ctx, State.updCore, State.core_setCore]
  split
  · exact hf b
  · exact hs.2 a b

theorem keptBy_writeSyncobj {c : Ctx} (hc : c.sound) (v : Word) : KeptBy s (writeSyncobj s c v) := by
  have hadv := kept_setMe hs (Ctx.sound_advance hc)
  unfold writeSyncobj
  dsimp only
  split
  · exact keptBy_trap hs _ _
  · split
    · exact keptBy_trap hs _ _
    · refine keptBy_next (hadv.trans (kept_updCore_of_ctx hadv.sound _ fun n => ?_))
      have hn : (((s.setMe c.advance).core s.cur.1).ctx n).sound := hadv.sound.2 s.cur.1 n
      split
      · obtain ⟨ops, hops⟩ := ctx_dropLines _ c.vintage _ n
        rw [hops]
        exact hn
      · exact hn

/-- The number of a system register decides what SYSWR writes; the addresses that it writes are aligned. -/
theorem keptBy_syswr (num : BitVec 8) (a : Reg) : KeptBy s (execSyswr num a s) := by
  unfold execSyswr
  refine keptBy_issueWord hs fun vs c hc => ?_
  have hwrite : ∀ {x : Ctx}, x.sound → KeptBy s (.next (s.setMe x.advance)) :=
    fun hx => keptBy_next (kept_setMe hs (Ctx.sound_advance hx))
  obtain ⟨hx, hpc, hepc, htvec, hh⟩ := hc
  dsimp only
  refine keptBy_ite (keptBy_next (kept_drawWait hs)) ?_
  split
  case h_3 =>
    split
    · rename_i haddr
      exact hwrite ⟨hx, hpc, of_decide_eq_true haddr, htvec, hh⟩
    · exact keptBy_trap hs _ _
  case h_7 =>
    split
    · rename_i haddr
      exact hwrite ⟨hx, hpc, hepc, of_decide_eq_true haddr, hh⟩
    · exact keptBy_trap hs _ _
  case h_9 => exact keptBy_writeSyncobj hs ⟨hx, hpc, hepc, htvec, hh⟩ _
  case h_10 => exact keptBy_trap hs _ _
  all_goals exact hwrite ⟨hx, hpc, hepc, htvec, hh⟩

end

/-! ## TRAP, ERET and the words that are no instruction (R74, R166, R250, R251) -/

theorem sound_startOp {c : Ctx} (hc : c.sound) (k : Cnt) (addr : Addr) (global isWrite : Bool) (what : OpWhat) :
    (c.startOp k addr global isWrite what).sound := by
  cases k <;> exact Ctx.sound_of_eq hc rfl rfl rfl rfl rfl

section
variable {s : State} (hs : s.Sound)
include hs

/-- A change of a context and of the tile queue, after which the engines look at their work. -/
theorem kept_requeued (site n : Nat) {c : Ctx} (hc : c.sound) (f : TCmd → TCmd) :
    Kept s (((s.setCtx site n c).updCore site fun q => { q with tq := q.tq.map f }).wakeEngines site) := by
  have hctx := kept_setCtx hs site n hc
  have htq := kept_updCore hctx.sound site (f := fun q => { q with tq := q.tq.map f }) rfl
  obtain ⟨_, hwake⟩ := wakeEngines_pending ((s.setCtx site n c).updCore site fun q => { q with tq := q.tq.map f }) site
  exact (hctx.trans htq).trans (kept_of_pending htq.sound hwake)

theorem kept_resumeTile (site n : Nat) : Kept s (s.resumeTile site n) := by
  unfold State.resumeTile
  dsimp only
  split
  · exact kept_refl hs
  · exact kept_requeued hs site n (sound_startOp (hs.2 site n) _ _ _ _ _) _

theorem keptBy_eret : KeptBy s (execEret s) :=
  keptBy_issueWord hs fun _ _ hc => by
    have hret := kept_setMe hs (Ctx.sound_returnFromTrap hc)
    exact keptBy_ite (keptBy_trap hs _ _) (keptBy_next (hret.trans (kept_resumeTile hret.sound _ _)))

theorem keptBy_trapWord (imm : BitVec 16) : KeptBy s (execTrap imm s) := keptBy_issueWord hs fun _ _ _ => keptBy_trap hs _ _

theorem keptBy_illegalEncoding : KeptBy s (execIllegalEncoding s) := keptBy_ite (keptBy_refused _) (keptBy_trap hs _ _)

theorem keptBy_fetchFault (cause : FetchCause) : KeptBy s (execInstructionFetchFault cause s) := by
  refine keptBy_ite (keptBy_refused _) (keptBy_ite (keptBy_next ?_) (keptBy_trap hs _ _))
  refine kept_setMe_due hs ?_ _
  exact Ctx.sound_of_eq (hs.2 s.cur.1 s.cur.2) rfl rfl rfl rfl rfl

/-- Every word of the scalar pipeline, branch, jump or system word but a HINT, and every word that is none, by its form. -/
theorem keptBy_exec {i : Instr} (h : scalarWord i = true) : KeptBy s (exec i s) := by
  cases i with
  | add d a b | sub d a b | and d a b | or d a b | xor d a b | andn d a b | sll d a b | srl d a b | sra d a b | ror d a b
  | slt d a b | sltu d a b | min d a b | max d a b | minu d a b | maxu d a b | mul d a b | mulh d a b | mulhu d a b
  | div d a b | divu d a b | rem d a b | remu d a b | addw d a b | subw d a b | mulw d a b | bext d a b | bextu d a b
  | divt d a b | remt d a b =>
    simp only [exec_add, exec_sub, exec_and, exec_or, exec_xor, exec_andn, exec_sll, exec_srl, exec_sra, exec_ror, exec_slt,
      exec_sltu, exec_min, exec_max, exec_minu, exec_maxu, exec_mul, exec_mulh, exec_mulhu, exec_div, exec_divu, exec_rem,
      exec_remu, exec_addw, exec_subw, exec_mulw, exec_bext, exec_bextu, exec_divt, exec_remt]
    exact keptBy_rrOp hs _ _ _ _
  | bins d a b =>
    rw [exec_bins]
    exact keptBy_aluOp hs _ _ _ _ _
  | clz d a | ctz d a | popc d a | sextb d a | sexth d a | sextw d a | zextw d a =>
    simp only [exec_clz, exec_ctz, exec_popc, exec_sextb, exec_sexth, exec_sextw, exec_zextw]
    exact keptBy_unOp hs _ _ _
  | addi d a imm | andi d a imm | ori d a imm | xori d a imm | slti d a imm =>
    simp only [exec_addi, exec_andi, exec_ori, exec_xori, exec_slti]
    exact keptBy_riOp hs _ _ _ _
  | lui d imm =>
    rw [exec_lui]
    exact keptBy_aluOp hs _ _ _ _ _
  | slli d a pos | srli d a pos | srai d a pos | rori d a pos =>
    simp only [exec_slli, exec_srli, exec_srai, exec_rori]
    exact keptBy_unOp hs _ _ _
  | bexti d a pos len | bextui d a pos len =>
    simp only [exec_bexti, exec_bextui]
    exact keptBy_unOp hs _ _ _
  | binsi d a pos len =>
    rw [exec_binsi]
    exact keptBy_aluOp hs _ _ _ _ _
  | fmin d a b ftz | fmax d a b ftz | feq d a b ftz | flt d a b ftz | fle d a b ftz =>
    simp only [exec_fmin, exec_fmax, exec_feq, exec_flt, exec_fle]
    exact keptBy_aluOp hs _ _ _ _ _
  | fabs d a | fneg d a | fclass d a =>
    simp only [exec_fabs, exec_fneg, exec_fclass]
    exact keptBy_aluOp hs _ _ _ _ _
  | fsgnj d a b =>
    rw [exec_fsgnj]
    exact keptBy_aluOp hs _ _ _ _ _
  | mulx d a b | mulxu d a b =>
    simp only [exec_mulx, exec_mulxu]
    exact keptBy_pairOp hs _ _ _ _
  | fadd d a b rnd ftz | fsub d a b rnd ftz | fmul d a b rnd ftz | fdiv d a b rnd ftz | fma d a b rnd ftz | fms d a b rnd ftz =>
    simp only [exec_fadd, exec_fsub, exec_fmul, exec_fdiv, exec_fma, exec_fms]
    exact keptBy_fpOp hs _ _ _ _ _ _
  | fsqrt d a rnd ftz =>
    rw [exec_fsqrt]
    exact keptBy_fpOp hs _ _ _ _ _ _
  | fcvt d a dt st rnd sat ftz =>
    rw [exec_fcvt]
    exact keptBy_fcvt hs _ _ _ _ _ _ _
  | beq a b off | bne a b off | blt a b off | bge a b off | bltu a b off | bgeu a b off =>
    simp only [exec_beq, exec_bne, exec_blt, exec_bge, exec_bltu, exec_bgeu]
    exact keptBy_branchOp hs _ _ _ _
  | jal d off =>
    rw [exec_jal]
    exact keptBy_jal hs d off
  | jalr d a imm =>
    rw [exec_jalr]
    exact keptBy_jalr hs d a imm
  | sysrd num d =>
    rw [exec_sysrd]
    exact keptBy_sysrd hs num d
  | syswr num a =>
    rw [exec_syswr]
    exact keptBy_syswr hs num a
  | trap imm =>
    rw [exec_trap]
    exact keptBy_trapWord hs imm
  | eret =>
    rw [exec_eret]
    exact keptBy_eret hs
  | illegalEncoding =>
    rw [exec_illegalEncoding]
    exact keptBy_illegalEncoding hs
  | instructionFetchFault cause =>
    rw [exec_instructionFetchFault]
    exact keptBy_fetchFault hs cause
  | _ => exact absurd h Bool.false_ne_true

end

theorem isHint_of_scalarWord {i : Instr} (h : scalarWord i = true) : isHint i = false := by
  cases hi : isHint i
  · rfl
  · unfold isHint at hi
    split at hi
    · exact absurd h Bool.false_ne_true
    · exact absurd h Bool.false_ne_true
    · exact absurd h Bool.false_ne_true
    · exact absurd hi Bool.false_ne_true

/-! ## The issue slot -/

section
variable {s : State} (hs : s.Sound)
include hs

/-- A word but a HINT whose group did not start puts its context back at the group's first word. -/
theorem kept_groupRule {i : Instr} (hi : isHint i = false) (c : Ctx) (site n : Nat) : Kept s (s.groupRule i c site n) := by
  have hstart : (s.ctx site n).unstarted.sound := by
    have hctx := hs.2 site n
    obtain ⟨hx, -, hepc, htvec, -⟩ := hctx
    exact ⟨hx, Ctx.groupStart_aligned (hs.2 site n), hepc, htvec, fun _ e => by cases e⟩
  simp only [State.groupRule, hi, Bool.false_and, Bool.false_eq_true, if_false]
  split
  · exact kept_setCtx hs site n hstart
  · exact kept_refl hs

theorem kept_tookSlot (before : State) (site n : Nat) : Kept s (before.tookSlot s site n) := by
  unfold State.tookSlot
  split
  · exact kept_updCore hs site rfl
  · exact kept_refl hs

theorem kept_afterGroup (before : State) (site n : Nat) : Kept s (before.afterGroup s site n) := by
  unfold State.afterGroup
  split
  · split
    · split
      · exact kept_due hs _
      · exact kept_refl hs
    · exact kept_refl hs
  · exact kept_refl hs

theorem kept_moveStreams (site n : Nat) (l : List Nat) : Kept s (l.foldl (fun u i => u.moveStream site n i) s) := by
  obtain ⟨_, h⟩ := foldl_pending (f := fun u i => State.moveStream u site n i) (fun t i => by
    unfold State.moveStream
    dsimp only
    split <;> exact ⟨_, rfl⟩) l s
  exact kept_of_pending hs h

/-- A launch that ends changes its partition and what is due alone. -/
theorem sound_startKill (lead : Nat) (v : BitVec 32) (how : EndHow) :
    (s.startKill lead v how).Sound ∧ (s.startKill lead v how).mem = s.mem := by
  unfold State.startKill
  split
  · exact ⟨hs, rfl⟩
  · split
    · exact ⟨hs, rfl⟩
    · split
      case h_1 | h_2 | h_3 | h_4 | h_5 | h_6 | h_7 | h_8 | h_9 | h_10 => exact ⟨hs, rfl⟩
      all_goals
        dsimp only
        split <;> exact ⟨State.sound_of_eq hs rfl rfl, rfl⟩

theorem sound_fetchedLost (site : Nat) (c : Ctx) : (s.fetchedLost site c).Sound ∧ (s.fetchedLost site c).mem = s.mem := by
  unfold State.fetchedLost
  split
  · exact ⟨hs, rfl⟩
  · split
    · exact ⟨hs, rfl⟩
    · split
      · unfold State.killLost
        split
        · exact sound_startKill hs _ _ _
        · exact ⟨hs, rfl⟩
      · exact ⟨hs, rfl⟩

end

/-- A fetch from a partition that has lost nothing ends no launch. -/
theorem fetchedLost_of_whole {s : State} {site : Nat} (c : Ctx) (h : ∀ p, s.partAt site = some p → p.lost = []) :
    s.fetchedLost site c = s := by
  unfold State.fetchedLost
  split
  · rfl
  · rename_i p hp
    rw [h p hp]
    rfl

theorem partAt_congr {s t : State} (h : t.parts = s.parts) (site : Nat) : t.partAt site = s.partAt site := by
  simp only [State.partAt, State.partOfBand, h]

/-- What is said of a step: soundness, memory, and the partitions unless a granule of the core's is lost. -/
def StepKept (s : State) (site : Nat) (t : State) : Prop :=
  t.Sound ∧ t.mem = s.mem ∧ ((∀ p, s.partAt site = some p → p.lost = []) → t.parts = s.parts)

theorem Kept.step {s t : State} (h : Kept s t) (site : Nat) : StepKept s site t := ⟨h.sound, h.mem, fun _ => h.parts⟩

theorem stepKept_afterIssue {s t : State} (h : Kept s t) (before : State) (site n : Nat) :
    StepKept s site (before.afterIssue t site n) := by
  have hslot := h.trans (kept_tookSlot h.sound before site n)
  obtain ⟨hsound, hmem⟩ := sound_fetchedLost hslot.sound site (before.ctx site n)
  have hgroup := kept_afterGroup hsound before site n
  have hu : StepKept s site (before.afterGroup ((before.tookSlot t site n).fetchedLost site (before.ctx site n)) site n) := by
    refine ⟨hgroup.sound, hgroup.mem.trans (hmem.trans hslot.mem), fun hwhole => ?_⟩
    rw [hgroup.parts, fetchedLost_of_whole _ fun p hp => hwhole p ((partAt_congr hslot.parts site).symm.trans hp)]
    exact hslot.parts
  unfold State.afterIssue
  dsimp only
  split
  · exact hu
  · obtain ⟨husound, humem, huparts⟩ := hu
    have hmove := kept_moveStreams husound site n (List.range 8)
    exact ⟨hmove.sound, hmove.mem.trans humem, fun hwhole => hmove.parts.trans (huparts hwhole)⟩

/-- An issue slot whose word is one of the scalar pipeline or a system word. -/
theorem stepKept_stepIssue {s t : State} {site n : Nat} (hs : s.Sound)
    (hword : scalarWord (instrOfFetch (s.fetch site (s.ctx site n).vintage (s.ctx site n).pc)) = true)
    (h : stepIssue s site n = .next t) : StepKept s site t := by
  have hslot : Kept s (s.slot site n) := ⟨State.sound_of_eq hs rfl rfl, rfl, rfl⟩
  unfold stepIssue at h
  dsimp only at h
  split at h
  · split at h
    · rename_i u hu
      cases h
      have hexec := hslot.trans (keptBy_exec hslot.sound hword u hu)
      exact stepKept_afterIssue (hexec.trans (kept_groupRule hexec.sound (isHint_of_scalarWord hword) _ site n)) s site n
    · rename_i hnext
      exact absurd h (hnext t)
  · split at h
    · cases h
    · cases h
      exact (kept_refl hs).step site

/-- Settles O60: each form of word leaves the machine sound, and so does what the issue slot adds to it. -/
theorem scalarStepsKeepTheMachineSound : Obligations.ScalarStepsKeepTheMachineSound := by
  unfold Obligations.ScalarStepsKeepTheMachineSound
  intro s t site n rest hs horder s1 hword hstep
  have hs1 : s1.Sound := State.sound_of_eq hs rfl rfl
  have hturn : stepTurn s1 site n = .next t := by rw [← hstep, step, horder]
  change StepKept s1 site t
  unfold stepTurn at hturn
  split at hturn
  · exact stepKept_stepIssue hs1 hword hturn
  · injection hturn with hturn
    rw [← hturn]
    exact (kept_refl hs1).step site

end Sys2Proof.Soundness
end

section
/-!
PROOFS. The integer forms of the scalar pipeline (R148-R154): what each form computes, as arithmetic, and that its word
completes with that value whenever it issues.
-/

namespace Sys2Proof.Integers

open Sys2Proof.Machine

/-! ## Forms -/

/-- A form over operand values completes with its value (R148). -/
theorem aluOp_issues {s : State} {u : HintUse} {srcs : List Reg} {d : Reg} {plain : Bool} {vs : List Word} {c : Ctx}
    (f : Issued → Word) (h : Issues s u srcs [d] plain false false vs c) :
    aluOp s u srcs d plain f = .next (finishScalar s c d (f ⟨c, vs⟩) 0) := by
  rw [aluOp, issueWord_issues _ h]

theorem writes_aluOp {i : Instr} {u : HintUse} {srcs : List Reg} {d : Reg} {plain : Bool} {f : Issued → Word}
    {g : List Word → Ctx → Word} (hexec : ∀ s, exec i s = aluOp s u srcs d plain f) (hfg : ∀ vs c, f ⟨c, vs⟩ = g vs c) :
    Writes i u srcs d plain g := by
  intro s vs c h
  rw [hexec, aluOp_issues f h, hfg]

theorem writes2_rrOp {mk : Reg → Reg → Reg → Instr} {f g : Word → Word → Word}
    (hexec : ∀ d a b s, exec (mk d a b) s = rrOp s d a b f) (hfg : ∀ x y, f x y = g x y) : Writes2 mk g :=
  fun d a b => writes_aluOp (hexec d a b) fun _ _ => hfg _ _

theorem writes_unOp {i : Instr} {d a : Reg} {f g : Word → Word} (hexec : ∀ s, exec i s = unOp s d a f) (hfg : ∀ x, f x = g x) :
    Writes i noHints [a] d false fun vs _ => g (vs.getD 0 0) :=
  writes_aluOp hexec fun _ _ => hfg _

theorem writes1_unOp {mk : Reg → Reg → Instr} {f g : Word → Word} (hexec : ∀ d a s, exec (mk d a) s = unOp s d a f)
    (hfg : ∀ x, f x = g x) : Writes1 mk g :=
  fun d a => writes_unOp (hexec d a) hfg

theorem writesCount_unOp {mk : Reg → Reg → BitVec 6 → Instr} {f : Word → Nat → Word}
    (hexec : ∀ d a pos s, exec (mk d a pos) s = unOp s d a fun x => f x pos.toNat) : WritesCount mk f :=
  fun d a pos => writes_unOp (g := fun x => f x pos.toNat) (hexec d a pos) fun _ => rfl

theorem writesImm_riOp {mk : Reg → Reg → BitVec 16 → Instr} {f g : Word → Word → Word}
    (hexec : ∀ d a imm s, exec (mk d a imm) s = riOp s d a imm f) (hfg : ∀ x i, f x i = g x i) : WritesImm mk g :=
  fun d a imm => writes_aluOp (hexec d a imm) fun _ _ => hfg _ _

/-! ## Values of R149 -/

theorem shAmt_eq (y : Word) : shAmt y = y.toNat % 64 := Nat.and_two_pow_sub_one_eq_mod y.toNat 6

theorem ofBool_decide (p : Prop) [Decidable p] : ofBool (decide p) = if p then 1 else 0 := by
  simp [ofBool]

theorem smin_eq (x y : Word) : smin x y = if x.toInt < y.toInt then x else y := by
  unfold smin
  rcases lt_trichotomy x.toInt y.toInt with h | h | h
  · rw [if_pos h.le, if_pos h]
  · rw [if_pos h.le, if_neg h.not_lt, BitVec.eq_of_toInt_eq h]
  · rw [if_neg h.not_ge, if_neg h.not_gt]

theorem smax_eq (x y : Word) : smax x y = if x.toInt < y.toInt then y else x := by
  unfold smax
  rcases lt_trichotomy x.toInt y.toInt with h | h | h
  · rw [if_pos h.le, if_pos h]
  · rw [if_pos h.le, if_neg h.not_lt, BitVec.eq_of_toInt_eq h]
  · rw [if_neg h.not_ge, if_neg h.not_gt]

theorem umin_eq (x y : Word) : umin x y = if x.toNat < y.toNat then x else y := by
  unfold umin
  rcases lt_trichotomy x.toNat y.toNat with h | h | h
  · rw [if_pos h.le, if_pos h]
  · rw [if_pos h.le, if_neg h.not_lt, BitVec.eq_of_toNat_eq h]
  · rw [if_neg h.not_ge, if_neg h.not_gt]

theorem umax_eq (x y : Word) : umax x y = if x.toNat < y.toNat then y else x := by
  unfold umax
  rcases lt_trichotomy x.toNat y.toNat with h | h | h
  · rw [if_pos h.le, if_pos h]
  · rw [if_pos h.le, if_neg h.not_lt, BitVec.eq_of_toNat_eq h]
  · rw [if_neg h.not_ge, if_neg h.not_gt]

/-! Halves of a 128-bit product. -/

theorem lo64_ofInt (p : Int) : lo64 (BitVec.ofInt 128 p) = BitVec.ofInt 64 p := by
  apply BitVec.eq_of_toNat_eq
  simp only [lo64, BitVec.extractLsb'_toNat, BitVec.toNat_ofInt]
  omega

theorem hi64_ofInt (p : Int) : hi64 (BitVec.ofInt 128 p) = BitVec.ofInt 64 (p / 2 ^ 64) := by
  apply BitVec.eq_of_toNat_eq
  simp only [hi64, BitVec.extractLsb'_toNat, BitVec.toNat_ofInt, Nat.shiftRight_eq_div_pow]
  omega

theorem lo64_ofNat (n : Nat) : lo64 (BitVec.ofNat 128 n) = BitVec.ofNat 64 n := by
  apply BitVec.eq_of_toNat_eq
  simp only [lo64, BitVec.extractLsb'_toNat, BitVec.toNat_ofNat]
  omega

theorem hi64_ofNat (n : Nat) : hi64 (BitVec.ofNat 128 n) = BitVec.ofNat 64 (n / 2 ^ 64) := by
  apply BitVec.eq_of_toNat_eq
  simp only [hi64, BitVec.extractLsb'_toNat, BitVec.toNat_ofNat, Nat.shiftRight_eq_div_pow]
  omega

/-! Low words. -/

theorem low_eq (x : Word) (n : Nat) : x.extractLsb' 0 n = x.setWidth n := by
  apply BitVec.eq_of_toNat_eq
  simp

theorem sxw_add (x y : Word) : sxw (x + y) = ((x.setWidth 32 : BitVec 32) + y.setWidth 32).signExtend 64 := by
  rw [sxw, low_eq, BitVec.setWidth_add _ _ (by decide)]

theorem sxw_sub (x y : Word) : sxw (x - y) = ((x.setWidth 32 : BitVec 32) - y.setWidth 32).signExtend 64 := by
  rw [sxw, low_eq]
  congr 1
  bv_omega

theorem sxw_mul (x y : Word) : sxw (x * y) = ((x.setWidth 32 : BitVec 32) * y.setWidth 32).signExtend 64 := by
  rw [sxw, low_eq, BitVec.setWidth_mul _ _ (by decide)]

theorem zextw_eq (x : Word) : (x.extractLsb' 0 32).setWidth 64 = BitVec.ofNat 64 (x.toNat % 2 ^ 32) := by
  apply BitVec.eq_of_toNat_eq
  simp

/-! Counts of bits. -/

theorem getLsbD_top {n : Nat} {x : Word} (h : x.toNat < 2 ^ (n + 1)) : x.getLsbD n = decide (2 ^ n ≤ x.toNat) := by
  by_cases hn : 2 ^ n ≤ x.toNat
  · rw [decide_eq_true hn]
    exact Nat.testBit_of_two_pow_le_and_two_pow_add_one_gt hn h
  · rw [decide_eq_false hn]
    exact Nat.testBit_lt_two_pow (Nat.lt_of_not_le hn)

/-- The zeros above the highest one bit among n bits that hold the value. -/
theorem clzBits_eq {n : Nat} {x : Word} (h : x.toNat < 2 ^ n) : clzBits n x = if x = 0 then n else n - 1 - x.toNat.log2 := by
  induction n with
  | zero =>
    have hx : x = 0 := BitVec.eq_of_toNat_eq (by simpa using h)
    simp [clzBits, hx]
  | succ n ih =>
    rw [clzBits, getLsbD_top h]
    by_cases hn : 2 ^ n ≤ x.toNat
    · have hne : x.toNat ≠ 0 := by have := Nat.two_pow_pos n; omega
      have hx : x ≠ 0 := fun e => hne (by simp [e])
      have hlog : x.toNat.log2 = n := (Nat.log2_eq_iff hne).mpr ⟨hn, h⟩
      rw [decide_eq_true hn, if_pos rfl, if_neg hx, hlog, Nat.add_sub_cancel, Nat.sub_self]
    · rw [if_neg (by simpa using hn), ih (Nat.lt_of_not_le hn)]
      by_cases hx : x = 0
      · simp [hx, Nat.add_comm]
      · have hne : x.toNat ≠ 0 := fun e => hx (BitVec.eq_of_toNat_eq e)
        have hlog : x.toNat.log2 < n := (Nat.log2_lt hne).mpr (Nat.lt_of_not_le hn)
        simp only [hx, if_false]
        omega

theorem popBits_eq (n : Nat) (x : Word) : popBits n x = ((List.range n).filter fun k => x.getLsbD k).length := by
  induction n with
  | zero => rfl
  | succ n ih =>
    rw [popBits, ih, List.range_succ, List.filter_append, List.length_append, Nat.add_comm]
    cases h : x.getLsbD n <;> simp [h]

/-- Settles O6: each form is a form over its operand values, and each value is the model's. -/
theorem integerFormsWriteTheirValues : Obligations.IntegerFormsWriteTheirValues := by
  unfold Obligations.IntegerFormsWriteTheirValues
  refine ⟨writes2_rrOp exec_add fun _ _ => rfl, writes2_rrOp exec_sub fun _ _ => rfl, writes2_rrOp exec_and fun _ _ => rfl,
    writes2_rrOp exec_or fun _ _ => rfl, writes2_rrOp exec_xor fun _ _ => rfl, writes2_rrOp exec_andn fun _ _ => rfl,
    writes2_rrOp exec_sll fun _ y => by rw [shAmt_eq], writes2_rrOp exec_srl fun _ y => by rw [shAmt_eq],
    writes2_rrOp exec_sra fun _ y => by rw [shAmt_eq], writes2_rrOp exec_ror fun _ y => by rw [shAmt_eq],
    writes2_rrOp exec_slt fun _ _ => ofBool_decide _, writes2_rrOp exec_sltu fun _ _ => ofBool_decide _,
    writes2_rrOp exec_min smin_eq, writes2_rrOp exec_max smax_eq, writes2_rrOp exec_minu umin_eq, writes2_rrOp exec_maxu umax_eq,
    writes2_rrOp exec_mul fun x y => ?mul, writes2_rrOp exec_mulh fun _ _ => hi64_ofInt _, writes2_rrOp exec_mulhu fun _ _ => hi64_ofNat _,
    writes2_rrOp exec_addw sxw_add, writes2_rrOp exec_subw sxw_sub, writes2_rrOp exec_mulw sxw_mul,
    writes1_unOp exec_clz fun x => by rw [clzBits_eq x.isLt], writes1_unOp exec_ctz fun _ => rfl,
    writes1_unOp exec_popc fun x => by rw [popBits_eq], writes1_unOp exec_sextb fun x => by rw [low_eq],
    writes1_unOp exec_sexth fun x => by rw [low_eq], writes1_unOp exec_sextw fun x => by rw [sxw, low_eq],
    writes1_unOp exec_zextw zextw_eq, writesCount_unOp exec_slli, writesCount_unOp exec_srli, writesCount_unOp exec_srai,
    writesCount_unOp exec_rori⟩
  case mul =>
    apply BitVec.eq_of_toNat_eq
    simp

/-! ## Division (R150) -/

/-- A nonzero word reads as a nonzero integer. -/
theorem toInt_ne_zero {b : Word} (hb : b ≠ 0) : b.toInt ≠ 0 := fun e => hb (BitVec.eq_of_toInt_eq e)

theorem divE_divides {a b : Word} (hb : b ≠ 0) : ∃ q r : Int, divE a b = BitVec.ofInt 64 q ∧ remE a b = BitVec.ofInt 64 r
    ∧ a.toInt = q * b.toInt + r ∧ 0 ≤ r ∧ r.natAbs < b.toInt.natAbs := by
  have hne := toInt_ne_zero hb
  have hnonneg := Int.emod_nonneg a.toInt hne
  have hlt := Int.emod_lt_abs a.toInt hne
  refine ⟨a.toInt / b.toInt, a.toInt % b.toInt, if_neg hb, if_neg hb, (Int.ediv_mul_add_emod _ _).symm, hnonneg, ?_⟩
  rw [Int.abs_eq_natAbs] at hlt
  omega

theorem divT_divides {a b : Word} (hb : b ≠ 0) : ∃ q r : Int, divT a b = BitVec.ofInt 64 q ∧ remT a b = BitVec.ofInt 64 r
    ∧ a.toInt = q * b.toInt + r ∧ r.natAbs < b.toInt.natAbs ∧ (r = 0 ∨ (r < 0 ↔ a.toInt < 0)) := by
  have hne := toInt_ne_zero hb
  refine ⟨a.toInt.tdiv b.toInt, a.toInt.tmod b.toInt, if_neg hb, if_neg hb, (Int.tdiv_mul_add_tmod _ _).symm, ?_, ?_⟩
  · rw [Int.natAbs_tmod]
    exact Nat.mod_lt _ (Int.natAbs_pos.mpr hne)
  · rcases lt_or_ge a.toInt 0 with ha | ha
    · have hneg : 0 ≤ (-a.toInt).tmod b.toInt := Int.tmod_nonneg b.toInt (by omega)
      rw [Int.neg_tmod] at hneg
      omega
    · have hge : 0 ≤ a.toInt.tmod b.toInt := Int.tmod_nonneg b.toInt ha
      omega

theorem divU_divides {a b : Word} (hb : b ≠ 0) :
    a.toNat = (divU a b).toNat * b.toNat + (remU a b).toNat ∧ (remU a b).toNat < b.toNat := by
  have hpos : 0 < b.toNat := Nat.pos_of_ne_zero fun e => hb (BitVec.eq_of_toNat_eq e)
  have hq : (divU a b).toNat = a.toNat / b.toNat := by
    rw [divU, if_neg hb, BitVec.toNat_ofNat, Nat.mod_eq_of_lt (lt_of_le_of_lt (Nat.div_le_self _ _) a.isLt)]
  have hr : (remU a b).toNat = a.toNat % b.toNat := by
    rw [remU, if_neg hb, BitVec.toNat_ofNat, Nat.mod_eq_of_lt (lt_of_le_of_lt (Nat.mod_le _ _) a.isLt)]
  rw [hq, hr]
  exact ⟨(Nat.div_add_mod' _ _).symm, Nat.mod_lt _ hpos⟩

/-- Settles O7: the six functions are the model's, each pair that of one exact division. -/
theorem divisionFormsDivide : Obligations.DivisionFormsDivide := by
  unfold Obligations.DivisionFormsDivide
  refine ⟨divE, remE, divT, remT, divU, remU, writes2_rrOp exec_div fun _ _ => rfl, writes2_rrOp exec_rem fun _ _ => rfl,
    writes2_rrOp exec_divt fun _ _ => rfl, writes2_rrOp exec_remt fun _ _ => rfl, writes2_rrOp exec_divu fun _ _ => rfl,
    writes2_rrOp exec_remu fun _ _ => rfl, fun a => ⟨if_pos rfl, if_pos rfl, if_pos rfl, if_pos rfl, if_pos rfl, if_pos rfl⟩,
    fun _ _ => divE_divides, fun _ _ => divT_divides, fun _ _ => divU_divides, ?overflow⟩
  case overflow =>
    rintro _ rfl
    exact ⟨by decide, by decide, by decide, by decide⟩

/-! ## Pair products (R151) -/

/-- The register after an even one is another, and none of the pair's is x0 but the first. -/
theorem pair_next {d : Reg} (h : d.toNat % 2 = 0) : d + 1 ≠ d ∧ d + 1 ≠ 0 := by
  constructor
  · bv_omega
  · bv_omega

/-- What a pair form leaves in its context (R151, R143). -/
theorem pairOp_answers {s : State} {d a b : Reg} {x y : Word} {c : Ctx} {lo hi : Word} (f : Word → Word → BitVec 128)
    (hlo : lo64 (f x y) = lo) (hhi : hi64 (f x y) = hi) (heven : d.toNat % 2 = 0) (hcur : s.cur.2 < 8)
    (h : Issues s noHints [a, b] [d, d + 1] true false true [x, y] c) :
    answers (pairOp s d a b f) fun t => t.me.get d = (if d = 0 then 0 else lo) ∧ t.me.get (d + 1) = hi ∧ t.me.pc = c.pc + 4
      ∧ (∀ r, r ≠ d → r ≠ d + 1 → t.me.get r = c.get r) ∧ t.me.sticky = c.sticky := by
  obtain ⟨hne, hne0⟩ := pair_next heven
  refine ⟨_, by rw [pairOp, issueWord_issues _ h], ?_⟩
  have hme : ∀ e : Ctx, ((s.setMe e).resultDue).me = e := fun e => (State.me_setMe s e hcur)
  beta_reduce
  rw [hme]
  simp only [Issued.v, List.getD_cons_zero, List.getD_cons_succ, hlo, hhi, Ctx.advance_get, Ctx.pend_get, Ctx.advance_pc, Ctx.pend_pc,
    Ctx.put_pc, Ctx.advance_sticky, Ctx.pend_sticky, Ctx.put_sticky]
  refine ⟨?_, ?_, trivial, fun r hd hd1 => ?_, trivial⟩
  · rw [Ctx.get_put_ne _ _ _ _ hne.symm, Ctx.get_put_same]
  · rw [Ctx.get_put_same, if_neg hne0]
  · rw [Ctx.get_put_ne _ _ _ _ hd1, Ctx.get_put_ne _ _ _ _ hd]

/-- Settles O8: the halves of the signed and the unsigned product. -/
theorem pairProductsAreExact : Obligations.PairProductsAreExact := by
  unfold Obligations.PairProductsAreExact
  intro s d a b x y c heven hcur h
  exact ⟨pairOp_answers sprod (lo64_ofInt _) (hi64_ofInt _) heven hcur h,
    pairOp_answers uprod (lo64_ofNat _) (hi64_ofNat _) heven hcur h⟩

/-! ## Bit fields (R152) -/

theorem fieldLen_eq (y : Word) : fieldLen y = y.toNat / 256 % 64 := by
  rw [fieldLen, BitVec.toNat_and, BitVec.toNat_ushiftRight, Nat.shiftRight_eq_div_pow]
  exact Nat.and_two_pow_sub_one_eq_mod _ 6

theorem fieldPos_eq (y : Word) : fieldPos y = y.toNat % 64 := shAmt_eq y

section
variable {pos len : Nat}

theorem fieldValid_eq_true (h1 : 1 ≤ len) (h2 : pos + len ≤ 64) : fieldValid pos len = true := by
  simp [fieldValid, h1, h2]

theorem fieldValid_eq_false (h : ¬(1 ≤ len ∧ pos + len ≤ 64)) : fieldValid pos len = false := by
  rw [fieldValid, ← Bool.decide_and]
  exact decide_eq_false h

theorem getLsbD_fieldMask {k : Nat} (hk : k < 64) : (fieldMask len).getLsbD k = decide (k < len) := by
  rw [fieldMask, BitVec.getLsbD_ofNat, Nat.testBit_two_pow_sub_one]
  simp [hk]

theorem getLsbD_bextuVal (x : Word) {k : Nat} (h1 : 1 ≤ len) (h2 : pos + len ≤ 64) (hk : k < 64) :
    (bextuVal x pos len).getLsbD k = (decide (k < len) && x.getLsbD (pos + k)) := by
  rw [bextuVal, fieldValid_eq_true h1 h2, if_pos rfl, BitVec.getLsbD_and, BitVec.getLsbD_ushiftRight, getLsbD_fieldMask hk, Bool.and_comm]

/-- Above its top bit the field reads as its top bit. -/
theorem getLsbD_bextVal (x : Word) {k : Nat} (h1 : 1 ≤ len) (h2 : pos + len ≤ 64) (hk : k < 64) :
    (bextVal x pos len).getLsbD k = x.getLsbD (pos + min k (len - 1)) := by
  rw [bextVal, fieldValid_eq_true h1 h2, if_pos rfl, BitVec.getLsbD_sshiftRight]
  by_cases hlen : k < len
  · have hsrc : 64 - len + k - (64 - pos - len) = pos + min k (len - 1) := by omega
    simp only [BitVec.getLsbD_shiftLeft, show 64 - len + k < 64 by omega, if_true, hsrc]
    simp [show ¬64 ≤ k by omega, show ¬64 - len + k < 64 - pos - len by omega]
  · have hsrc : 63 - (64 - pos - len) = pos + min k (len - 1) := by omega
    rw [if_neg (by omega), BitVec.msb_eq_getLsbD_last, BitVec.getLsbD_shiftLeft, hsrc]
    simp [show ¬64 ≤ k by omega, show ¬63 < 64 - pos - len by omega]

theorem getLsbD_binsVal (y x : Word) {k : Nat} (h1 : 1 ≤ len) (h2 : pos + len ≤ 64) (hk : k < 64) :
    (binsVal y x pos len).getLsbD k = if pos ≤ k ∧ k < pos + len then x.getLsbD (k - pos) else y.getLsbD k := by
  have hmask : (fieldMask len <<< pos).getLsbD k = decide (pos ≤ k ∧ k < pos + len) := by
    rw [BitVec.getLsbD_shiftLeft, getLsbD_fieldMask (by omega)]
    by_cases hp : pos ≤ k
    · simp only [hk, decide_true, show ¬k < pos by omega, decide_false, Bool.not_false, Bool.true_and]
      exact decide_eq_decide.mpr (by omega)
    · simp [show k < pos by omega, hp]
  simp only [binsVal, fieldValid_eq_true h1 h2, if_true, BitVec.getLsbD_or, BitVec.getLsbD_and, BitVec.getLsbD_not, hmask]
  by_cases hin : pos ≤ k ∧ k < pos + len
  · rw [if_pos hin, decide_eq_true hin, decide_eq_true hk, BitVec.getLsbD_shiftLeft, decide_eq_true hk,
      decide_eq_false (by omega : ¬k < pos)]
    simp only [Bool.not_true, Bool.and_false, Bool.false_or, Bool.true_and, Bool.and_true, Bool.not_false]
  · rw [if_neg hin, decide_eq_false hin, decide_eq_true hk]
    simp only [Bool.not_false, Bool.and_true, Bool.and_false, Bool.or_false]

end

theorem exec_bins_eq (d a b : Reg) (s : State) : exec (.bins d a b) s
    = aluOp s noHints [a, b, d] d true fun i => binsVal (i.v 2) (i.v 0) (fieldPos (i.v 1)) (fieldLen (i.v 1)) := exec_bins d a b s

theorem exec_binsi_eq (d a : Reg) (pos len : BitVec 6) (s : State) : exec (.binsi d a pos len) s
    = aluOp s noHints [a, d] d true fun i => binsVal (i.v 1) (i.v 0) pos.toNat len.toNat := exec_binsi d a pos len s

/-- Settles O9: the model's extract and insert, bit by bit. -/
theorem bitfieldFormsMoveTheirField : Obligations.BitfieldFormsMoveTheirField := by
  unfold Obligations.BitfieldFormsMoveTheirField
  refine ⟨bextVal, bextuVal, binsVal, writes2_rrOp exec_bext fun _ y => ?_, writes2_rrOp exec_bextu fun _ y => ?_,
    fun d a b => writes_aluOp (exec_bins_eq d a b) fun vs c => ?_,
    fun d a pos len => writes_unOp (g := (bextVal · pos.toNat len.toNat)) (exec_bexti d a pos len) fun _ => rfl,
    fun d a pos len => writes_unOp (g := (bextuVal · pos.toNat len.toNat)) (exec_bextui d a pos len) fun _ => rfl,
    fun d a pos len => writes_aluOp (exec_binsi_eq d a pos len) fun _ _ => rfl, fun x pos len h => ?_, fun y x pos len h => ?_,
    fun y x pos len k h1 h2 hk => ⟨getLsbD_bextuVal x h1 h2 hk, getLsbD_bextVal x h1 h2 hk, getLsbD_binsVal y x h1 h2 hk⟩⟩
  · rw [fieldPos_eq, fieldLen_eq]
  · rw [fieldPos_eq, fieldLen_eq]
  · rw [fieldPos_eq, fieldLen_eq]
    rfl
  · simp [bextVal, bextuVal, fieldValid_eq_false h]
  · simp [binsVal, fieldValid_eq_false h]

/-! ## Immediates (R68, R153) -/

theorem imm16_plain {c : Ctx} (imm : BitVec 16) (h : c.hints = none) : c.imm16 imm = BitVec.ofInt 64 imm.toInt := by
  rw [Ctx.imm16, h]
  rfl

/-- A 24-bit payload above 16 bits, as a signed number. -/
theorem toInt_payload (p : BitVec 24) (imm : BitVec 16) : (p ++ imm).toInt = 2 ^ 16 * p.toInt + imm.toNat := by
  have hn : (p ++ imm).toNat = p.toNat * 2 ^ 16 + imm.toNat := by
    rw [BitVec.toNat_append, Nat.shiftLeft_eq, Nat.mul_comm, ← Nat.two_pow_add_eq_or_of_lt imm.isLt]
  have hp := p.isLt
  have himm := imm.isLt
  simp only [BitVec.toInt_eq_toNat_cond, hn]
  split <;> split <;> omega

theorem imm16_hinted {c : Ctx} {g : HintGroup} {p : BitVec 24} (imm : BitVec 16) (h : c.hints = some g) (hp : g.imm = some p) :
    c.imm16 imm = BitVec.ofInt 64 (2 ^ 16 * p.toInt + imm.toNat) := by
  obtain ⟨start, i, sched, mod⟩ := g
  cases hp
  rw [Ctx.imm16, h]
  exact congrArg (BitVec.ofInt 64) (toInt_payload p imm)

/-- Settles O10: each form reads its immediate through `imm16`. -/
theorem immediateFormsWriteTheirValues : Obligations.ImmediateFormsWriteTheirValues := by
  unfold Obligations.ImmediateFormsWriteTheirValues
  exact ⟨writesImm_riOp exec_addi fun _ _ => rfl, writesImm_riOp exec_andi fun _ _ => rfl, writesImm_riOp exec_ori fun _ _ => rfl,
    writesImm_riOp exec_xori fun _ _ => rfl, writesImm_riOp exec_slti fun _ _ => ofBool_decide _,
    fun d imm => writes_aluOp (exec_lui d imm) fun _ _ => rfl, fun _ imm h => imm16_plain imm h,
    fun _ imm _ _ h hp => imm16_hinted imm h hp⟩

end Sys2Proof.Integers
end

section
/-!
PROOFS. Operands of a word (R142, R167, R170), and branches and jumps (R163-R165): where the pc goes and what is linked.
-/

namespace Sys2Proof.Jumps

open Sys2Proof.Machine

/-! ## Operands -/

/-- The stream register behind x16 to x23. -/
def streamOf (c : Ctx) (r : Reg) : StreamReg := c.strm[streamIx r]?.getD StreamReg.off

section
variable {c e : Ctx} {r : Reg} {v : Word} {t : List Word}

/-- A context after the pop of a read stream's first element (R167). -/
def popped (c : Ctx) (r : Reg) (t : List Word) : Ctx :=
  { c with
    strm := c.strm.setIfInBounds (streamIx r) { streamOf c r with landed := t }
    spos := c.spos.setIfInBounds (streamIx r) (c.spos[streamIx r]?.getD 0 + 1) }

theorem source_landed (hm : c.mode r = .read) (hl : (streamOf c r).landed = v :: t) : c.source r = some (v, popped c r t) := by
  unfold streamOf at hl
  simp only [Ctx.source, hm, if_true, hl]
  rfl

theorem source_ended (hm : c.mode r = .read) (hl : (streamOf c r).landed = []) (h0 : (streamOf c r).left = 0) :
    c.source r = some (0, c) := by
  unfold streamOf at hl h0
  simp only [Ctx.source, hm, if_true, hl, h0]

theorem source_awaited (hm : c.mode r = .read) (hl : (streamOf c r).landed = []) (h0 : (streamOf c r).left ≠ 0) : c.source r = none := by
  unfold streamOf at hl h0
  simp only [Ctx.source, hm, if_true, hl, h0, if_false]

theorem source_register (hm : c.mode r ≠ .read) (h : c.source r = some (v, e)) : v = c.get r ∧ e = c ∧ c.clear r = true := by
  simp only [Ctx.source, hm, if_false] at h
  split at h
  · rename_i hclear
    cases h
    exact ⟨rfl, rfl, hclear⟩
  · cases h

/-- A source changes stream data and positions alone. -/
theorem source_frame (h : c.source r = some (v, e)) : e = { c with strm := e.strm, spos := e.spos } := by
  unfold Ctx.source at h
  dsimp only at h
  split at h
  · split at h
    · cases h
      rfl
    · split at h
      · cases h
        rfl
      · cases h
  · split at h
    · cases h
      rfl
    · cases h

theorem sources_cons {l : List Reg} {vs : List Word} (h : c.sources (r :: l) = some (vs, e)) :
    ∃ v d ws, c.source r = some (v, d) ∧ d.sources l = some (ws, e) ∧ vs = v :: ws := by
  rw [Ctx.sources] at h
  split at h
  · cases h
  · rename_i v d hr
    split at h
    · cases h
    · rename_i ws d' hl
      cases h
      exact ⟨v, d, ws, hr, hl, rfl⟩

theorem sources_of_source {d : Ctx} {l : List Reg} {ws : List Word} (hr : c.source r = some (v, d)) (hl : d.sources l = some (ws, e)) :
    c.sources (r :: l) = some (v :: ws, e) := by
  simp only [Ctx.sources, hr, hl]

/-- A register in a stream mode is one of x16 to x23, of an entry of its own. -/
theorem streamIx_lt (hm : c.mode r ≠ .off) : streamIx r < 8 := by
  have hr : 16 ≤ r.toNat ∧ r.toNat ≤ 23 := by
    by_contra hr
    exact hm (if_neg hr)
  unfold streamIx
  omega

theorem popped_self (hm : c.mode r = .read) : streamOf (popped c r t) r = { streamOf c r with landed := t }
    ∧ (popped c r t).spos[streamIx r]?.getD 0 = c.spos[streamIx r]?.getD 0 + 1 := by
  have hlt : streamIx r < 8 := streamIx_lt (c := c) (by simp [hm])
  constructor
  · simp [streamOf, popped, hlt]
  · simp [popped, hlt]

theorem popped_other {k : Nat} (hk : k ≠ streamIx r) : (popped c r t).strm[k]? = c.strm[k]? ∧ (popped c r t).spos[k]? = c.spos[k]? :=
  ⟨Vector.getElem?_setIfInBounds_ne hk.symm, Vector.getElem?_setIfInBounds_ne hk.symm⟩

end

/-- The values of a word's sources: one per field, streams alone changed, and registers read as they are. -/
theorem sources_values {c e : Ctx} {srcs : List Reg} {vs : List Word} (h : c.sources srcs = some (vs, e)) :
    vs.length = srcs.length ∧ e = { c with strm := e.strm, spos := e.spos }
      ∧ ((∀ r ∈ srcs, c.mode r ≠ .read) → e = c ∧ vs = srcs.map c.get ∧ ∀ r ∈ srcs, c.sb &&& regBit r = 0) := by
  induction srcs generalizing c vs with
  | nil =>
    cases h
    exact ⟨rfl, rfl, fun _ => ⟨rfl, rfl, by simp⟩⟩
  | cons r l ih =>
    obtain ⟨v, d, ws, hr, hl, rfl⟩ := sources_cons h
    obtain ⟨hlen, hframe, hplain⟩ := ih hl
    refine ⟨by simp [hlen], ?_, fun hoff => ?_⟩
    · rw [hframe, source_frame hr]
    · have hr' := hoff r (List.mem_cons_self ..)
      obtain ⟨rfl, rfl, hclear⟩ := source_register hr' hr
      obtain ⟨rfl, rfl, hsb⟩ := hplain fun q hq => hoff q (List.mem_cons_of_mem _ hq)
      refine ⟨rfl, rfl, fun q hq => ?_⟩
      obtain rfl | hq := List.mem_cons.mp hq
      · exact of_decide_eq_true hclear
      · exact hsb q hq

/-- Settles O15: a register gives its value; a read stream gives what has landed, and its second element when it is named twice. -/
theorem operandsAreRegistersOrStreamElements : Obligations.OperandsAreRegistersOrStreamElements := by
  unfold Obligations.OperandsAreRegistersOrStreamElements
  refine ⟨fun _ _ _ _ => sources_values, fun c r v t hm => ⟨fun hl => ?landed, source_ended hm, source_awaited hm⟩,
    fun c r v w t hm hl => ?twice⟩
  case landed =>
    obtain ⟨hself, hpos⟩ := popped_self (t := t) hm
    exact ⟨_, source_landed hm hl, congrArg StreamReg.landed hself, hpos, fun k hk => popped_other hk⟩
  case twice =>
    obtain ⟨hself, -⟩ := popped_self (t := w :: t) hm
    have hsecond := source_landed (c := popped c r (w :: t)) (r := r) (t := t) hm (congrArg StreamReg.landed hself)
    exact ⟨_, sources_of_source (source_landed hm hl) (sources_of_source hsecond rfl)⟩

/-! ## Targets (R163) -/

/-- The target of an offset, as an integer modulo 2^56. -/
theorem target_eq {n : Nat} (pc : Addr) (off : BitVec n) : target pc off = BitVec.ofInt 56 (pc.toNat + 4 * off.toInt) := by
  have hoff : off.signExtend 56 <<< 2 = BitVec.ofInt 56 (4 * off.toInt) := by
    rw [BitVec.shiftLeft_eq_mul_twoPow, BitVec.signExtend, Int.mul_comm, BitVec.ofInt_mul]
    rfl
  rw [target, hoff, BitVec.ofInt_add, BitVec.ofInt_natCast, BitVec.ofNat_toNat, BitVec.setWidth_eq]

/-- A branch whose word issues (R163). -/
theorem branchOp_issues {s : State} {a b : Reg} {off : BitVec 16} {x y : Word} {c : Ctx} (cond : Word → Word → Bool)
    (h : Issues s brHints [a, b] [] false false false [x, y] c) :
    branchOp s a b off cond = .next (s.setMe { c with
      pc := if cond x y then BitVec.ofInt 56 (c.pc.toNat + 4 * off.toInt) else c.pc + 4, hints := none, stall := none, fetched := [],
      hold := .none }) := by
  rw [branchOp, issueWord_issues _ h]
  simp only [target_eq]
  rfl

/-- Settles O17: each branch by its condition. -/
theorem branchesSetTheNextPc : Obligations.BranchesSetTheNextPc := by
  unfold Obligations.BranchesSetTheNextPc
  intro a b off s x y c h go
  have hbranch : ∀ {o : Out} {cond : Word → Word → Bool} {p : Bool}, o = branchOp s a b off cond → cond x y = p → o = go p := by
    rintro _ cond _ rfl rfl
    exact branchOp_issues cond h
  exact ⟨hbranch (exec_beq a b off s) (beq_eq_decide x y), hbranch (exec_bne a b off s) (by simp [bne, beq_eq_decide]),
    hbranch (exec_blt a b off s) rfl, hbranch (exec_bge a b off s) rfl,
    hbranch (exec_bltu a b off s) rfl, hbranch (exec_bgeu a b off s) rfl⟩

/-! ## Jumps that link (R164, R165) -/

/-- What a jump that links leaves: the pc, the link in x[d] or at its write stream's tail, and all else as it was. -/
structure Linked (s : State) (c : Ctx) (d : Reg) (target : Addr) (t : State) : Prop where
  pc : t.me.pc = target
  register : c.mode d ≠ .write → d ≠ 0 → t.me.get d = BitVec.ofNat 64 (c.pc + 4).toNat
  stream : c.mode d = .write → (t.me.strm[streamIx d]?.getD StreamReg.off).pushed
    = (c.strm[streamIx d]?.getD StreamReg.off).pushed ++ [BitVec.ofNat 64 (c.pc + 4).toNat] ∧ t.me.get d = c.get d
  others : ∀ r, r ≠ d → t.me.get r = c.get r
  sticky : t.me.sticky = c.sticky
  sup : t.me.sup = c.sup
  hints : t.me.hints = none
  mem : memSame s t
  module : t.module = s.module
  parts : t.parts = s.parts
  contexts : ∀ site n, (site, n) ≠ s.cur → t.ctx site n = s.ctx site n

section
variable {c : Ctx} {d : Reg} {v : Word}

theorem train_frame (c : Ctx) (d : Reg) : ∃ r, c.train d = { c with retReg := r } := by
  unfold Ctx.train
  split <;> exact ⟨_, rfl⟩

/-- A result changes a register or a stream alone. -/
theorem result_frame (c : Ctx) (d : Reg) (v : Word) : (c.result d v).sticky = c.sticky ∧ (c.result d v).sup = c.sup
    ∧ ∀ r, r ≠ d → (c.result d v).get r = c.get r := by
  unfold Ctx.result
  split
  · exact ⟨rfl, rfl, fun _ _ => rfl⟩
  · exact ⟨Ctx.put_sticky .., Ctx.put_sup .., fun r hr => Ctx.get_put_ne _ _ _ _ hr⟩

theorem result_register (hm : c.mode d ≠ .write) (hd : d ≠ 0) : (c.result d v).get d = v := by
  rw [Ctx.result, if_neg hm, Ctx.get_put_same, if_neg hd]

theorem result_stream (hm : c.mode d = .write) : ((c.result d v).strm[streamIx d]?.getD StreamReg.off).pushed
    = (c.strm[streamIx d]?.getD StreamReg.off).pushed ++ [v] ∧ (c.result d v).get d = c.get d := by
  have hlt : streamIx d < 8 := streamIx_lt (c := c) (by simp [hm])
  rw [Ctx.result, if_pos hm]
  exact ⟨by simp [hlt], rfl⟩

end

/-- A jump of a context whose pops alone differ links and goes to its target. -/
theorem jumpTo_linked {s : State} {c : Ctx} {d : Reg} {target : Addr} (hcur : s.cur.2 < 8) :
    Linked s c d target (jumpTo s c d target) := by
  obtain ⟨q, hq⟩ := train_frame c d
  have hlink : linkOf c.pc = BitVec.ofNat 64 (c.pc + 4).toNat := (BitVec.ofNat_toNat ..).symm
  have hme : (jumpTo s c d target).me
      = ((({ c with retReg := q } : Ctx).result d (BitVec.ofNat 64 (c.pc + 4).toNat)).pend (regBit d)).goto target := by
    rw [← hlink, ← hq]
    exact State.me_setMe s _ hcur
  have hget : ∀ r, (jumpTo s c d target).me.get r
      = (({ c with retReg := q } : Ctx).result d (BitVec.ofNat 64 (c.pc + 4).toNat)).get r := fun r => by
    rw [hme]
    exact Ctx.pend_get _ (regBit d) r
  obtain ⟨hsticky, hsup, hothers⟩ := result_frame ({ c with retReg := q } : Ctx) d (BitVec.ofNat 64 (c.pc + 4).toNat)
  refine ⟨by rw [hme]; rfl, fun hm hd => (hget d).trans (result_register hm hd), fun hm => ?_, fun r hr => (hget r).trans (hothers r hr),
    ?_, ?_, by rw [hme]; rfl, fun _ => rfl, rfl, rfl, fun a b h => State.ctx_setMe_ne s _ a b h⟩
  · obtain ⟨hpushed, hkept⟩ := result_stream (c := { c with retReg := q }) (v := BitVec.ofNat 64 (c.pc + 4).toNat) hm
    refine ⟨?_, (hget d).trans hkept⟩
    rw [hme]
    exact (congrArg (fun l => (l[streamIx d]?.getD StreamReg.off).pushed) (Ctx.pend_strm _ (regBit d))).trans hpushed
  · rw [hme]
    exact (Ctx.pend_sticky _ (regBit d)).trans hsticky
  · rw [hme]
    exact (Ctx.pend_sup _ (regBit d)).trans hsup

/-- Settles O18: JAL has no operand, so its context is as it stood. -/
theorem jalLinksAndJumps : Obligations.JalLinksAndJumps := by
  unfold Obligations.JalLinksAndJumps
  intro d off s c hcur h
  have hc : c = s.me := by
    obtain ⟨-, -, -, hsrc, -⟩ := h
    cases hsrc
    rfl
  have hlinked := jumpTo_linked (s := s) (c := c) (d := d) (target := target c.pc off) hcur
  refine ⟨_, by rw [exec_jal, execJal, issueWord_issues _ h], ?_⟩
  subst hc
  exact ⟨hlinked.pc.trans (target_eq _ _), hlinked.register, rfl, hlinked.stream, hlinked.others, hlinked.sticky, hlinked.sup,
    hlinked.hints, hlinked.mem, hlinked.module, hlinked.parts, hlinked.contexts⟩

/-- Settles O19: JALR traps at a target that is not aligned, else links and jumps. -/
theorem jalrLinksAndJumpsOrTraps : Obligations.JalrLinksAndJumpsOrTraps := by
  unfold Obligations.JalrLinksAndJumpsOrTraps
  intro d a imm s x c hcur h target
  have htarget : (x + c.imm16 imm).setWidth 56 = target := (BitVec.ofNat_toNat ..).symm
  have hexec : exec (.jalr d a imm) s = if target.toNat % 4 ≠ 0 then .next (s.trap causeMisalign target)
      else .next (jumpTo s c d target) := by
    rw [exec_jalr, execJalr, issueWord_issues _ h, ← htarget]
    rfl
  refine ⟨fun hodd => by rw [hexec, if_pos hodd]; rfl, fun heven => ⟨_, by rw [hexec, if_neg (not_not.mpr heven)], ?_⟩⟩
  have hlinked := jumpTo_linked (s := s) (c := c) (d := d) (target := target) hcur
  exact ⟨hlinked.pc, rfl, hlinked.register, hlinked.stream, hlinked.others, hlinked.sticky, hlinked.sup, hlinked.hints, hlinked.mem,
    hlinked.module, hlinked.parts, hlinked.contexts⟩

end Sys2Proof.Jumps
end

section
/-!
PROOFS. Scalar floating point (R155-R162): arithmetic that rounds its exact result once, with at most one draw.
-/

namespace Sys2Proof.FloatArith

open Sys2Proof.Machine

theorem drawIf_eq (rnd : Rnd) (s : Word) : drawIf rnd s = if rnd = .rs then srStep s else (s, 0) := by
  cases rnd <;> rfl

/-- A word with no draw outstanding, or with none to make, does not wait (R94). -/
theorem not_waiting {s : State} {rnd : Rnd} (h : rnd = .rs → drawsBusy s = false) : ¬(rnd = .rs ∧ drawsBusy s = true) :=
  fun ⟨hrs, hbusy⟩ => absurd hbusy (by simp [h hrs])

/-- A form of R156 rounds the result of its operands once. -/
theorem fpWrites_fpOp {i : Instr} {srcs : List Reg} {d : Reg} {plain : Bool} {rnd : Rnd} {ftz : Bool} {f : Issued → Res}
    {g : List Word → Res} (hexec : ∀ s, exec i s = fpOp s srcs d plain rnd ftz f) (hfg : ∀ vs c, f ⟨c, vs⟩ = g vs) :
    FpWrites i srcs d plain .f32 rnd false ftz g := by
  intro s vs c h hdraws
  rw [hexec, fpOp, issueWord_issues _ h]
  simp only [if_neg (not_waiting hdraws), drawIf_eq, hfg]

/-- FCVT rounds its source's value once (R162). -/
theorem fpWrites_fcvt (d a : Reg) (dt st : DType) (rnd : Rnd) (sat ftz : Bool) :
    FpWrites (.fcvt d a dt st rnd sat ftz) [a] d false dt rnd sat ftz fun l =>
      ⟨if ftz && (floatFmt st).isSome then flushVal (decodeElem st (l.getD 0 0).toNat) else decodeElem st (l.getD 0 0).toNat, false⟩ := by
  intro s vs c h hdraws
  have harg : fcvtArg st ftz (vs.getD 0 0) = if ftz && (floatFmt st).isSome then flushVal (decodeElem st (vs.getD 0 0).toNat)
      else decodeElem st (vs.getD 0 0).toNat := by
    unfold fcvtArg flushIf
    cases ftz <;> cases (floatFmt st).isSome <;> rfl
  have hflags : ∀ w : Word, w ||| 0 = w := fun w => BitVec.or_zero
  rw [exec_fcvt, execFcvt, issueWord_issues _ h]
  simp only [if_neg (not_waiting hdraws), drawIf_eq, Issued.v, harg, Res.encode, Res.flags, Bool.false_eq_true, if_false, hflags]

/-- Settles O12: each form is one of R156, and FCVT one of R162. -/
theorem floatingArithmeticRoundsOnce : Obligations.FloatingArithmeticRoundsOnce := by
  unfold Obligations.FloatingArithmeticRoundsOnce
  intro d a b rnd ftz v down
  exact ⟨fpWrites_fpOp (exec_fadd d a b rnd ftz) fun _ _ => rfl, fpWrites_fpOp (exec_fsub d a b rnd ftz) fun _ _ => rfl,
    fpWrites_fpOp (exec_fmul d a b rnd ftz) fun _ _ => rfl, fpWrites_fpOp (exec_fdiv d a b rnd ftz) fun _ _ => rfl,
    fpWrites_fpOp (exec_fsqrt d a rnd ftz) fun _ _ => rfl, fpWrites_fpOp (exec_fma d a b rnd ftz) fun _ _ => rfl,
    fpWrites_fpOp (exec_fms d a b rnd ftz) fun _ _ => rfl, fun dt st sat => fpWrites_fcvt d a dt st rnd sat ftz⟩

end Sys2Proof.FloatArith
end

section
/-!
PROOFS. FMIN to FCLASS (R85, R87, R96, R157-R160): the value of an FP32 pattern is encoded as that pattern, and values stand to each
other as the signed magnitudes of their patterns do.
-/

namespace Sys2Proof.FloatPatterns

open Sys2Proof.Machine Sys2Proof.Integers

/-! ## Magnitudes (R85, R86) -/

/-- The pattern of the infinite magnitude. -/
def infMag : Nat := 0x7F800000

/-- The significand of a finite magnitude, in units of its quantum. -/
def sig (p : Nat) : Nat := if p < 2 ^ 23 then p else 2 ^ 23 + p % 2 ^ 23

/-- The exponent of a finite magnitude's quantum. -/
def expo (p : Nat) : Int := if p < 2 ^ 23 then -149 else (p / 2 ^ 23 : Nat) - 150

/-- A finite magnitude in units of the least quantum. -/
def quanta (p : Nat) : Nat := sig p * 2 ^ (expo p + 149).toNat

theorem expo_ge (p : Nat) : -149 ≤ expo p := by
  unfold expo
  split <;> omega

theorem sig_eq_zero {p : Nat} : sig p = 0 ↔ p = 0 := by
  unfold sig
  split <;> omega

theorem quanta_small {p : Nat} (h : p < 2 ^ 23) : quanta p = p := by
  rw [quanta, sig, expo, if_pos h, if_pos h]
  exact Nat.mul_one p

theorem quanta_large {p : Nat} (h : 2 ^ 23 ≤ p) : quanta p = (2 ^ 23 + p % 2 ^ 23) * 2 ^ (p / 2 ^ 23 - 1) := by
  have he : ((p / 2 ^ 23 : Nat) - 150 + 149 : Int).toNat = p / 2 ^ 23 - 1 := by omega
  rw [quanta, sig, expo, if_neg (Nat.not_lt.mpr h), if_neg (Nat.not_lt.mpr h), he]

/-- Larger patterns have larger magnitudes: at the end of a binade the significand starts again with twice the quantum. -/
theorem quanta_strictMono : StrictMono quanta := by
  refine strictMono_nat_of_lt_succ fun p => ?_
  by_cases h1 : p + 1 < 2 ^ 23
  · rw [quanta_small h1, quanta_small (by omega)]
    exact Nat.lt_succ_self p
  by_cases h2 : p + 1 = 2 ^ 23
  · rw [h2, quanta_small (by omega), quanta_large le_rfl]
    omega
  have hp : 2 ^ 23 ≤ p := by omega
  rw [quanta_large hp, quanta_large (by omega)]
  by_cases hend : (p + 1) % 2 ^ 23 = 0
  · have hmod : p % 2 ^ 23 = 2 ^ 23 - 1 := by omega
    have hdiv : (p + 1) / 2 ^ 23 - 1 = p / 2 ^ 23 - 1 + 1 := by omega
    have hpos := Nat.two_pow_pos (p / 2 ^ 23 - 1)
    rw [hend, hmod, hdiv, Nat.pow_succ _ (p / 2 ^ 23 - 1), show 2 ^ 23 + (2 ^ 23 - 1) = 16777215 from rfl]
    omega
  · have hmod : (p + 1) % 2 ^ 23 = p % 2 ^ 23 + 1 := by omega
    have hdiv : (p + 1) / 2 ^ 23 = p / 2 ^ 23 := by omega
    rw [hmod, hdiv]
    exact Nat.mul_lt_mul_of_pos_right (by omega) (Nat.two_pow_pos _)

/-! ## Values and their patterns -/

/-- The sign of a pattern. -/
def sign (x : Nat) : Bool := decide (2 ^ 31 ≤ x)

/-- The value v is that of the FP32 pattern x; the exponent of a zero is open. -/
inductive Reads : Val → Nat → Prop
  | inf {neg : Bool} {x : Nat} : neg = sign x → x % 2 ^ 31 = infMag → Reads (.inf neg) x
  | nan {x : Nat} : infMag < x % 2 ^ 31 → Reads .nan x
  | fin {neg : Bool} {m : Nat} {e : Int} {x : Nat} : neg = sign x → x % 2 ^ 31 < infMag →
      (m = sig (x % 2 ^ 31) ∧ e = expo (x % 2 ^ 31) ∨ x % 2 ^ 31 = 0 ∧ m = 0 ∧ -149 ≤ e) → Reads (.fin neg m e false) x

/-- Whether a pattern is a NaN's (R87). -/
def nanPat (x : Nat) : Bool := decide (infMag < x % 2 ^ 31)

/-- The signed magnitude of a pattern. -/
def signedMag (x : Nat) : Int := if x < 2 ^ 31 then (x : Int) else -((x - 2 ^ 31 : Nat) : Int)

/-- The value of a pattern reads it (R86). -/
theorem reads_f32Val (w : Nat) : Reads (f32Val w) (w % 2 ^ 32) := by
  have hneg : (w % 2 ^ 32 / 2 ^ 31 % 2 == 1) = sign (w % 2 ^ 32) := by
    rw [sign, beq_eq_decide]
    exact decide_eq_decide.mpr (by omega)
  unfold f32Val
  generalize hx : w % 2 ^ 32 = x at hneg ⊢
  have hlt : x < 2 ^ 32 := hx ▸ Nat.mod_lt _ (by decide)
  simp only [decodeFloat, FFmt.signBit, FFmt.qmin, fmtF32, Option.some.injEq]
  norm_num only at hneg ⊢
  split
  · rename_i h
    exact .inf hneg h.symm
  · rename_i h
    split
    · rename_i h'
      refine .nan ?_
      simp only [infMag]
      simp at h'
      omega
    · rename_i h'
      simp at h'
      split
      · rename_i h0
        refine .fin hneg (by simp only [infMag]; omega) (.inl ⟨?_, ?_⟩)
        · rw [sig, if_pos (by omega)]
          omega
        · rw [expo, if_pos (by omega)]
      · rename_i h0
        refine .fin hneg (by simp only [infMag]; omega) (.inl ⟨?_, ?_⟩)
        · rw [sig, if_neg (by omega)]
          norm_num
        · rw [expo, if_neg (by omega)]
          omega

/-! ## Flushed operands (R96, R155) -/

/-- A pattern whose subnormals read as zeros when ftz is set. -/
def lowPat (ftz : Bool) (w : Nat) : Nat := if ftz && decide (w % 2 ^ 31 < 2 ^ 23) then w % 2 ^ 32 / 2 ^ 31 * 2 ^ 31 else w % 2 ^ 32

theorem lowPat_lt (ftz : Bool) (w : Nat) : lowPat ftz w < 2 ^ 32 := by
  unfold lowPat
  split <;> omega

/-- A normal magnitude is at least 2^-126. -/
theorem normal_large {p : Nat} (h : 2 ^ 23 ≤ p) : ¬magLog2 (sig p) (expo p) < -126 := by
  have hlog : (sig p).log2 = 23 := by
    rw [sig, if_neg (Nat.not_lt.mpr h), Nat.log2_eq_iff (by omega)]
    omega
  rw [magLog2, hlog, expo, if_neg (Nat.not_lt.mpr h)]
  omega

/-- A subnormal magnitude is below 2^-126. -/
theorem subnormal_small {p : Nat} (h0 : p ≠ 0) (h : p < 2 ^ 23) : magLog2 (sig p) (expo p) < -126 := by
  have hlog : p.log2 < 23 := (Nat.log2_lt h0).mpr h
  rw [magLog2, sig, expo, if_pos h, if_pos h]
  omega

/-- The flush gives the value of the flushed pattern. -/
theorem reads_flushVal {v : Val} {x : Nat} (h : Reads v x) (hx : x < 2 ^ 32) : Reads (flushVal v) (lowPat true x) := by
  have hkept : 2 ^ 23 ≤ x % 2 ^ 31 → lowPat true x = x := fun hn => by
    rw [lowPat, decide_eq_false (Nat.not_lt.mpr hn)]
    exact Nat.mod_eq_of_lt hx
  have hflushed : x % 2 ^ 31 < 2 ^ 23 → lowPat true x % 2 ^ 31 = 0 ∧ sign (lowPat true x) = sign x := fun hn => by
    rw [lowPat, decide_eq_true hn, Bool.and_self, if_pos rfl]
    exact ⟨Nat.mul_mod_left _ _, decide_eq_decide.mpr (by omega)⟩
  cases h with
  | inf hneg hm =>
    rw [hkept (by rw [hm]; decide)]
    exact .inf hneg hm
  | nan hm =>
    rw [hkept (Nat.le_of_lt (Nat.lt_trans (by decide) hm))]
    exact .nan hm
  | @fin neg m e _ hneg hm hval =>
    simp only [flushVal]
    by_cases hn : x % 2 ^ 31 < 2 ^ 23
    · obtain ⟨hzero, hsign⟩ := hflushed hn
      have hlow : lowPat true x % 2 ^ 31 < infMag := hzero ▸ (by decide)
      split
      · rename_i hm0
        refine .fin (hneg.trans hsign.symm) hlow (.inr ⟨hzero, rfl, ?_⟩)
        obtain ⟨-, rfl⟩ | ⟨-, -, he⟩ := hval
        · exact expo_ge _
        · exact he
      · rename_i hm0
        obtain ⟨rfl, rfl⟩ | ⟨-, h0, -⟩ := hval
        · rw [if_pos (subnormal_small (fun h0 => hm0 (sig_eq_zero.mpr h0)) hn)]
          exact .fin (hneg.trans hsign.symm) hlow (.inr ⟨hzero, rfl, by decide⟩)
        · exact absurd h0 hm0
    · have hn' := Nat.le_of_not_lt hn
      obtain ⟨rfl, rfl⟩ | ⟨h0, -, -⟩ := hval
      · rw [if_neg fun h0 => (by omega : x % 2 ^ 31 ≠ 0) (sig_eq_zero.mp h0), if_neg (normal_large hn'), hkept hn']
        exact .fin hneg hm (.inl ⟨rfl, rfl⟩)
      · omega

theorem reads_fpArg (ftz : Bool) (w : Word) : Reads (fpArg ftz w) (lowPat ftz w.toNat) := by
  have hread := reads_f32Val w.toNat
  cases ftz
  · exact hread
  · have hlow : lowPat true (w.toNat % 2 ^ 32) = lowPat true w.toNat := by
      simp only [lowPat, show w.toNat % 2 ^ 32 % 2 ^ 31 = w.toNat % 2 ^ 31 by omega, Nat.mod_mod]
    exact hlow ▸ reads_flushVal hread (Nat.mod_lt _ (by decide))

/-! ## Encoding (R98) -/

/-- A value of a pattern's significand and exponent is encoded as the pattern. -/
theorem encode_sig {neg : Bool} {p : Nat} (h0 : p ≠ 0) (hp : p < infMag) :
    (encodeFloat fmtF32 (.fin neg (sig p) (expo p) false) .rne false false 0).bits = if neg then 2 ^ 31 + p else p := by
  have hsig : sig p ≠ 0 := fun h => h0 (sig_eq_zero.mp h)
  have hq : max (magLog2 (sig p) (expo p) - (24 - 1)) (-149) = expo p := by
    by_cases h : p < 2 ^ 23
    · have hlog : p.log2 < 23 := (Nat.log2_lt h0).mpr h
      rw [magLog2, sig, expo, if_pos h, if_pos h]
      omega
    · have hlog : (sig p).log2 = 23 := by
        rw [sig, if_neg h, Nat.log2_eq_iff (by omega)]
        omega
      rw [magLog2, hlog, expo, if_neg h]
      omega
  have hmag : (expo p - -149).toNat * 2 ^ (24 - 1) + sig p = p := by
    unfold expo sig
    split <;> omega
  have hround : roundQ (sig p) (expo p) (expo p) false .rne neg 0 = (sig p, false) := by
    simp [roundQ, Nat.mod_one]
  have hqmin : fmtF32.qmin = -149 := rfl
  have hmax : ¬fmtF32.maxBits < p := by
    simp only [fmtF32]
    simp only [infMag] at hp
    omega
  simp only [encodeFloat, hsig, false_and, if_false, Bool.false_eq_true, hqmin]
  have hp24 : ((fmtF32.p : Int)) = 24 := rfl
  have hp24' : fmtF32.p = 24 := rfl
  rw [hp24, hp24', hq, hround, hmag, if_neg hmax]
  rfl

/-- The pattern of a value is the one that it reads, the canonical one for a NaN. -/
theorem f32Bits_reads {v : Val} {x : Nat} (h : Reads v x) (hx : x < 2 ^ 32) :
    f32Bits v = if nanPat x then (0x7FC00000 : Word) else BitVec.ofNat 64 x := by
  have hnot : x % 2 ^ 31 ≤ infMag → nanPat x = false := fun hm => decide_eq_false (Nat.not_lt.mpr hm)
  have hpat : ∀ neg, neg = sign x → (if neg then 2 ^ 31 + x % 2 ^ 31 else x % 2 ^ 31) = x := by
    rintro _ rfl
    by_cases hs : 2 ^ 31 ≤ x
    · rw [sign, decide_eq_true hs, if_pos rfl]
      omega
    · rw [sign, decide_eq_false hs, if_neg (by decide)]
      omega
  cases h with
  | nan hm => rw [nanPat, decide_eq_true hm]; rfl
  | @inf neg _ hneg hm =>
    rw [hnot hm.le, if_neg (by decide), f32Bits]
    have := hpat neg hneg
    rw [hm] at this
    exact congrArg _ this
  | @fin neg m e _ hneg hm hval =>
    rw [hnot hm.le, if_neg (by decide), f32Bits, ← hpat neg hneg]
    have hzero : ∀ e, (encodeFloat fmtF32 (.fin neg 0 e false) .rne false false 0).bits = if neg then 2 ^ 31 + 0 else 0 := fun _ => rfl
    obtain ⟨rfl, rfl⟩ | ⟨h0, rfl, -⟩ := hval
    · by_cases h0 : x % 2 ^ 31 = 0
      · rw [h0, sig_eq_zero.mpr rfl, hzero]
      · rw [encode_sig h0 hm]
    · rw [h0, hzero]

/-! ## Signs (R157, R159) -/

section
variable {v : Val} {x : Nat} (h : Reads v x) (hx : x < 2 ^ 32)
include h

theorem isNanVal_reads : isNanVal v = nanPat x := by
  cases h with
  | nan hm => exact (decide_eq_true hm).symm
  | inf _ hm => exact (decide_eq_false (Nat.not_lt.mpr hm.le)).symm
  | fin _ hm _ => exact (decide_eq_false (Nat.not_lt.mpr hm.le)).symm

theorem signVal_reads (hn : nanPat x = false) : signVal v = sign x := by
  cases h with
  | nan hm => exact absurd hm (of_decide_eq_false hn)
  | inf hneg _ => exact hneg
  | fin hneg _ _ => exact hneg

/-- A value with a given sign reads the pattern with that sign. -/
theorem reads_withSignVal {neg : Bool} {y : Nat} (hy : y % 2 ^ 31 = x % 2 ^ 31) (hs : neg = sign y) : Reads (withSignVal neg v) y := by
  cases h with
  | nan hm => exact .nan (hy ▸ hm)
  | inf _ hm => exact .inf hs (hy.trans hm)
  | fin _ hm hval => exact .fin hs (hy ▸ hm) (hy ▸ hval)

/-- A value with the opposite sign. -/
theorem reads_negVal {y : Nat} (hy : y % 2 ^ 31 = x % 2 ^ 31) (hs : sign y = !sign x) : Reads (negVal v) y := by
  cases h with
  | nan hm => exact .nan (hy ▸ hm)
  | inf hneg hm => exact .inf (hs ▸ congrArg _ hneg) (hy.trans hm)
  | fin hneg hm hval => exact .fin (hs ▸ congrArg _ hneg) (hy ▸ hm) (hy ▸ hval)

end

/-! ## Comparisons (R158) -/

/-- A magnitude with a sign, as an integer. -/
def withSign (neg : Bool) (q : Nat) : Int := if neg then -(q : Int) else q

/-- A value in units of a smaller quantum. -/
theorem scaledInt_down (neg : Bool) (m : Nat) {e lo : Int} (h1 : lo ≤ e) (h2 : -149 ≤ lo) :
    withSign neg (m * 2 ^ (e + 149).toNat) = scaledInt neg m e lo * 2 ^ (lo + 149).toNat := by
  have hexp : (e + 149).toNat = (e - lo).toNat + (lo + 149).toNat := by omega
  rw [hexp, Nat.pow_add, ← Nat.mul_assoc]
  cases neg <;> simp [withSign, scaledInt]

section
variable {na nb : Bool} {ma mb : Nat} {ea eb : Int} (ha : -149 ≤ ea) (hb : -149 ≤ eb)
include ha hb

theorem scaledInt_lt_iff : scaledInt na ma ea (min ea eb) < scaledInt nb mb eb (min ea eb)
    ↔ withSign na (ma * 2 ^ (ea + 149).toNat) < withSign nb (mb * 2 ^ (eb + 149).toNat) := by
  rw [scaledInt_down na ma (min_le_left ea eb) (le_min ha hb), scaledInt_down nb mb (min_le_right ea eb) (le_min ha hb)]
  exact (Int.mul_lt_mul_right (by positivity)).symm

end

theorem withSign_signedMag (x : Nat) (hx : x < 2 ^ 32) : withSign (sign x) (x % 2 ^ 31) = signedMag x := by
  unfold withSign sign signedMag
  by_cases hs : 2 ^ 31 ≤ x
  · rw [decide_eq_true hs, if_pos rfl, if_neg (by omega)]
    omega
  · rw [decide_eq_false hs, if_neg (by decide), if_pos (by omega)]
    omega

section
variable {f : Nat → Nat} (hf : StrictMono f) (h0 : f 0 = 0)
include hf h0

/-- A strictly increasing function keeps the order of signed magnitudes. -/
theorem withSign_lt_iff (s t : Bool) (a b : Nat) : withSign s (f a) < withSign t (f b) ↔ withSign s a < withSign t b := by
  have hab := hf.lt_iff_lt (a := a) (b := b)
  have hba := hf.lt_iff_lt (a := b) (b := a)
  have hza := hf.lt_iff_lt (a := 0) (b := a)
  have hzb := hf.lt_iff_lt (a := 0) (b := b)
  rw [h0] at hza hzb
  cases s <;> cases t <;> simp only [withSign, if_true, Bool.false_eq_true, if_false] <;> omega

end

theorem quanta_zero : quanta 0 = 0 := quanta_small (by decide)

/-- A finite value in units of the least quantum. -/
theorem quanta_of_val {m : Nat} {e : Int} {p : Nat} (h : m = sig p ∧ e = expo p ∨ p = 0 ∧ m = 0 ∧ -149 ≤ e) :
    -149 ≤ e ∧ m * 2 ^ (e + 149).toNat = quanta p := by
  obtain ⟨rfl, rfl⟩ | ⟨rfl, rfl, he⟩ := h
  · exact ⟨expo_ge p, rfl⟩
  · exact ⟨he, by rw [quanta_zero, Nat.zero_mul]⟩

section
variable {v w : Val} {x y : Nat} (h : Reads v x) (g : Reads w y) (hx : x < 2 ^ 32) (hy : y < 2 ^ 32)
  (hnx : nanPat x = false) (hny : nanPat y = false)
include h g hx hy hnx hny

/-- Infinities lie beyond every finite magnitude, and finite values compare as their patterns do. -/
theorem ltVal_reads : ltVal v w = decide (signedMag x < signedMag y) := by
  rw [← withSign_signedMag x hx, ← withSign_signedMag y hy]
  cases h with
  | nan hm => exact absurd hm (of_decide_eq_false hnx)
  | @inf na _ hna hma =>
    subst hna
    cases g with
    | nan hm => exact absurd hm (of_decide_eq_false hny)
    | @inf nb _ hnb hmb =>
      subst hnb
      rw [hma, hmb]
      cases sign x <;> cases sign y <;> decide
    | @fin nb m e _ hnb hmb hval =>
      subst hnb
      rw [hma]
      cases sign x <;> cases sign y <;> simp [ltVal, withSign] <;> omega
  | @fin na ma ea _ hna hma hval =>
    subst hna
    cases g with
    | nan hm => exact absurd hm (of_decide_eq_false hny)
    | @inf nb _ hnb hmb =>
      subst hnb
      rw [hmb]
      cases sign x <;> cases sign y <;> simp [ltVal, withSign] <;> omega
    | @fin nb mb eb _ hnb hmb hval' =>
      subst hnb
      obtain ⟨hea, hqa⟩ := quanta_of_val hval
      obtain ⟨heb, hqb⟩ := quanta_of_val hval'
      refine decide_eq_decide.mpr ((scaledInt_lt_iff hea heb).trans ?_)
      rw [hqa, hqb]
      exact withSign_lt_iff quanta_strictMono quanta_zero _ _ _ _

end

/-- Values are equal when neither is a NaN nor the smaller one. -/
theorem eqVal_eq (v w : Val) : eqVal v w = (!isNanVal v && !isNanVal w && !ltVal v w && !ltVal w v) := by
  cases v with
  | nan => rfl
  | inf na =>
    cases w with
    | nan => rfl
    | inf nb => cases na <;> cases nb <;> rfl
    | fin nb mb eb => cases na <;> rfl
  | fin na ma ea =>
    cases w with
    | nan => rfl
    | inf nb => cases nb <;> rfl
    | fin nb mb eb =>
      simp only [eqVal, ltVal, isNanVal, min_comm eb ea, Bool.not_false, Bool.true_and, ← decide_not, ← Bool.decide_and]
      exact decide_eq_decide.mpr (by omega)

theorem ltVal_nan {v w : Val} (h : (isNanVal v || isNanVal w) = true) : ltVal v w = false := by
  cases v <;> cases w <;> simp [isNanVal] at h <;> rfl

section
variable {v w : Val} {x y : Nat} (h : Reads v x) (g : Reads w y) (hx : x < 2 ^ 32) (hy : y < 2 ^ 32)
include h g hx hy

theorem ltVal_eq : ltVal v w = (!nanPat x && !nanPat y && decide (signedMag x < signedMag y)) := by
  cases hnx : nanPat x
  · cases hny : nanPat y
    · exact ltVal_reads h g hx hy hnx hny
    · exact ltVal_nan (by simp [isNanVal_reads g, hny])
  · exact ltVal_nan (by simp [isNanVal_reads h, hnx])

theorem eqVal_reads : eqVal v w = (!nanPat x && !nanPat y && decide (signedMag x = signedMag y)) := by
  rw [eqVal_eq, isNanVal_reads h, isNanVal_reads g, ltVal_eq h g hx hy, ltVal_eq g h hy hx]
  cases nanPat x <;> cases nanPat y <;> simp only [Bool.not_true, Bool.not_false, Bool.false_and, Bool.and_false, Bool.true_and]
  rw [← decide_not, ← decide_not, ← Bool.decide_and]
  exact decide_eq_decide.mpr (by omega)

theorem leVal_reads : leVal v w = (!nanPat x && !nanPat y && decide (signedMag x ≤ signedMag y)) := by
  rw [leVal, eqVal_reads h g hx hy, ltVal_eq h g hx hy, ← Bool.and_or_distrib_left, ← Bool.decide_or]
  exact congrArg _ (decide_eq_decide.mpr (by omega))

end

/-! ## The smaller and the larger (R157) -/

/-- The order of patterns by sign and magnitude, -0 below +0. -/
def key (x : Nat) : Int := if x < 2 ^ 31 then (x : Int) else -((x - 2 ^ 31 : Nat) : Int) - 1

theorem signedMag_of_key {x y : Nat} (hk : key x < key y) :
    signedMag x < signedMag y ∨ signedMag x = signedMag y ∧ sign x = true ∧ sign y = false := by
  unfold key at hk
  simp only [signedMag, sign, decide_eq_true_eq, decide_eq_false_iff_not]
  split at hk <;> split at hk <;> omega

theorem key_inj {x y : Nat} (hk : key x = key y) : x = y := by
  unfold key at hk
  split at hk <;> split at hk <;> omega

section
variable {v w : Val} {x y : Nat} (h : Reads v x) (g : Reads w y) (hx : x < 2 ^ 32) (hy : y < 2 ^ 32)
  (hnx : nanPat x = false) (hny : nanPat y = false)
include h g hx hy hnx hny

/-- The value of the pattern that comes first is the smaller one, and the other the larger one, in either place. -/
theorem selects_of_key (hk : key x < key y) : minVal v w = v ∧ minVal w v = v ∧ maxVal v w = w ∧ maxVal w v = w := by
  simp only [minVal, maxVal, isNanVal_reads h, isNanVal_reads g, ltVal_reads h g hx hy hnx hny, ltVal_reads g h hy hx hny hnx,
    signVal_reads h hnx, signVal_reads g hny, hnx, hny, decide_eq_true_eq]
  obtain hlt | ⟨heq, hsx, hsy⟩ := signedMag_of_key hk
  · simp [hlt, Int.lt_asymm hlt]
  · simp [heq, hsx, hsy]

theorem reads_minVal : Reads (minVal v w) (if key y < key x then y else x) := by
  obtain hk | hk | hk := lt_trichotomy (key x) (key y)
  · obtain ⟨hmin, -⟩ := selects_of_key h g hx hy hnx hny hk
    rw [if_neg (Int.lt_asymm hk), hmin]
    exact h
  · obtain rfl := key_inj hk
    simp only [minVal, isNanVal_reads h, isNanVal_reads g, hnx, lt_irrefl, if_false, Bool.or_self, Bool.false_eq_true]
    split
    · exact h
    · split
      · exact g
      · split
        · exact h
        · exact g
  · obtain ⟨-, hmin, -⟩ := selects_of_key g h hy hx hny hnx hk
    rw [if_pos hk, hmin]
    exact g

theorem reads_maxVal : Reads (maxVal v w) (if key x < key y then y else x) := by
  obtain hk | hk | hk := lt_trichotomy (key x) (key y)
  · obtain ⟨-, -, hmax, -⟩ := selects_of_key h g hx hy hnx hny hk
    rw [if_pos hk, hmax]
    exact g
  · obtain rfl := key_inj hk
    simp only [maxVal, isNanVal_reads h, isNanVal_reads g, hnx, lt_irrefl, if_false, Bool.or_self, Bool.false_eq_true]
    split
    · exact g
    · split
      · exact h
      · split
        · exact g
        · exact h
  · obtain ⟨-, -, -, hmax⟩ := selects_of_key g h hy hx hny hnx hk
    rw [if_neg (Int.lt_asymm hk), hmax]
    exact h

end

/-! ## The results' patterns -/

/-- A pattern in a register, the canonical NaN in place of a NaN. -/
def canon (b : Bool) (r : Nat) : Word := if b then 0x7FC00000 else BitVec.ofNat 64 r

theorem f32Bits_nan : f32Bits .nan = 0x7FC00000 := rfl

section
variable {v w : Val} {x y : Nat} (h : Reads v x) (g : Reads w y)
include h

/-- A value without a NaN is encoded as the pattern that it reads. -/
theorem f32Bits_of_not_nan (hx : x < 2 ^ 32) (hn : nanPat x = false) : f32Bits v = BitVec.ofNat 64 x := by
  rw [f32Bits_reads h hx, hn, if_neg (by decide)]

theorem f32Bits_abs : f32Bits (withSignVal false v) = canon (nanPat x) (x % 2 ^ 31) := by
  have hmod : x % 2 ^ 31 % 2 ^ 31 = x % 2 ^ 31 := Nat.mod_mod _ _
  have hsign : false = sign (x % 2 ^ 31) := (decide_eq_false (by omega)).symm
  rw [f32Bits_reads (reads_withSignVal h hmod hsign) (by omega), nanPat, hmod]
  rfl

theorem f32Bits_neg (hx : x < 2 ^ 32) : f32Bits (negVal v) = canon (nanPat x) ((x + 2 ^ 31) % 2 ^ 32) := by
  have hmod : (x + 2 ^ 31) % 2 ^ 32 % 2 ^ 31 = x % 2 ^ 31 := by omega
  have hsign : sign ((x + 2 ^ 31) % 2 ^ 32) = !sign x := by
    rw [sign, sign, ← decide_not]
    exact decide_eq_decide.mpr (by omega)
  rw [f32Bits_reads (reads_negVal h hmod hsign) (by omega), nanPat, hmod]
  rfl

include g

theorem f32Bits_sgnj (hy : y < 2 ^ 32) : f32Bits (sgnjVal v w) = canon (nanPat x || nanPat y) (x % 2 ^ 31 + y / 2 ^ 31 * 2 ^ 31) := by
  rw [sgnjVal, isNanVal_reads h, isNanVal_reads g]
  cases hn : nanPat x || nanPat y
  · obtain ⟨hnx, hny⟩ := Bool.or_eq_false_iff.mp hn
    have hmod : (x % 2 ^ 31 + y / 2 ^ 31 * 2 ^ 31) % 2 ^ 31 = x % 2 ^ 31 := by omega
    have hsign : sign y = sign (x % 2 ^ 31 + y / 2 ^ 31 * 2 ^ 31) := decide_eq_decide.mpr (by omega)
    rw [if_neg (by decide), signVal_reads g hny, f32Bits_reads (reads_withSignVal h hmod hsign) (by omega), nanPat, hmod,
      show decide (infMag < x % 2 ^ 31) = false from hnx]
    rfl
  · rfl

variable (hx : x < 2 ^ 32) (hy : y < 2 ^ 32)
include hx hy

theorem f32Bits_min : f32Bits (minVal v w) = canon (nanPat x || nanPat y) (if key y < key x then y else x) := by
  cases hn : nanPat x || nanPat y
  · obtain ⟨hnx, hny⟩ := Bool.or_eq_false_iff.mp hn
    exact f32Bits_of_not_nan (reads_minVal h g hx hy hnx hny) (by split <;> assumption) (by split <;> assumption)
  · rw [minVal, isNanVal_reads h, isNanVal_reads g, hn]
    rfl

theorem f32Bits_max : f32Bits (maxVal v w) = canon (nanPat x || nanPat y) (if key x < key y then y else x) := by
  cases hn : nanPat x || nanPat y
  · obtain ⟨hnx, hny⟩ := Bool.or_eq_false_iff.mp hn
    exact f32Bits_of_not_nan (reads_maxVal h g hx hy hnx hny) (by split <;> assumption) (by split <;> assumption)
  · rw [maxVal, isNanVal_reads h, isNanVal_reads g, hn]
    rfl

end

/-- The class, sign, exponent and leading zeros of a pattern, in one case per class (R160). -/
theorem fclassWord_eq (x : Nat) : fclassWord x
    = if x / 2 ^ 23 % 256 = 0 then (if x % 2 ^ 23 = 0 then 8 * (x / 2 ^ 31 % 2) else 1 + 8 * (x / 2 ^ 31 % 2)
          + 65536 * (22 - (x % 2 ^ 23).log2))
      else if x / 2 ^ 23 % 256 < 255 then 2 + 8 * (x / 2 ^ 31 % 2) + 256 * (x / 2 ^ 23 % 256)
      else if x % 2 ^ 23 = 0 then 3 + 8 * (x / 2 ^ 31 % 2) else 4 + 8 * (x / 2 ^ 31 % 2) := by
  have hlt := Nat.mod_lt (x / 2 ^ 23) (by decide : 0 < 256)
  unfold fclassWord
  generalize x / 2 ^ 23 % 256 = e at hlt ⊢
  generalize x % 2 ^ 23 = f
  by_cases h0 : e = 0
  · by_cases hf : f = 0 <;> simp [h0, hf]
  · by_cases h255 : e = 255
    · by_cases hf : f = 0 <;> simp [h255, hf]
    · simp [h0, h255, show e < 255 by omega]

/-- Settles O13: the operands' values read the flushed patterns, and each form's result is encoded as a pattern of theirs. -/
theorem selectionsAndComparisonsReadPatterns : Obligations.SelectionsAndComparisonsReadPatterns := by
  have hr := reads_fpArg
  have hl := fun (ftz : Bool) (w : Word) => lowPat_lt ftz w.toNat
  refine ⟨fun ftz d a b => ?_, fun ftz d a b => ?_, fun d a => ?_, fun d a => ?_, fun d a b => ?_, fun ftz d a b => ?_,
    fun ftz d a b => ?_, fun ftz d a b => ?_, fun d a => ?_⟩
  · exact writes_aluOp (exec_fmin d a b ftz) fun _ _ => f32Bits_min (hr ftz _) (hr ftz _) (hl ftz _) (hl ftz _)
  · exact writes_aluOp (exec_fmax d a b ftz) fun _ _ => f32Bits_max (hr ftz _) (hr ftz _) (hl ftz _) (hl ftz _)
  · exact writes_aluOp (exec_fabs d a) fun _ _ => f32Bits_abs (hr false _)
  · exact writes_aluOp (exec_fneg d a) fun _ _ => f32Bits_neg (hr false _) (hl false _)
  · exact writes_aluOp (exec_fsgnj d a b) fun _ _ => f32Bits_sgnj (hr false _) (hr false _) (hl false _)
  · refine writes_aluOp (exec_feq d a b ftz) fun _ _ => ?_
    rw [eqVal_reads (hr ftz _) (hr ftz _) (hl ftz _) (hl ftz _)]
    rfl
  · refine writes_aluOp (exec_flt d a b ftz) fun _ _ => ?_
    rw [ltVal_eq (hr ftz _) (hr ftz _) (hl ftz _) (hl ftz _)]
    rfl
  · refine writes_aluOp (exec_fle d a b ftz) fun _ _ => ?_
    rw [leVal_reads (hr ftz _) (hr ftz _) (hl ftz _) (hl ftz _)]
    rfl
  · exact writes_aluOp (exec_fclass d a) fun _ _ => congrArg _ (fclassWord_eq _)

end Sys2Proof.FloatPatterns
end

section
/-!
PROOFS. Events of a core (R121, R122, R143, R214, R216, R252, R258-R262, R518): each event's meaning under the conditions that let
it act.
-/

namespace Sys2Proof.CoreEvents

open Sys2Proof.Machine

/-! ## Results, lines and translations -/

theorem scalarResultReady_due {s : State} {site ctx : Nat} (h : (s.ctx site ctx).due ≠ []) :
    ∃ i, i < (s.ctx site ctx).due.length ∧ exec (.scalarResultReady site ctx) s = .next (s.setCtx site ctx { s.ctx site ctx with
      due := (s.ctx site ctx).due.eraseIdx i, sb := (s.ctx site ctx).sb &&& ~~~((s.ctx site ctx).due[i]?.getD 0) }) := by
  refine ⟨(Config.freeBits 8 s.tick).toNat % (s.ctx site ctx).due.length, Nat.mod_lt _ (List.length_pos_iff.mpr h), ?_⟩
  rw [exec_scalarResultReady, execScalarResultReady, List.isEmpty_eq_false_iff.mpr h]
  rfl

/-- A table of translations finds the translation just put into it, whichever entry it lost. -/
theorem find?_addXlat (size draw : Nat) (x : Xlat) (l : List Xlat) :
    (addXlat size draw x l).find? (fun y => y.vint == x.vint && y.page == x.page) = some x := by
  let rest := l.filter fun y => !(y.vint == x.vint && y.page == x.page)
  have hrest : ∀ y ∈ rest, ¬(y.vint == x.vint && y.page == x.page) = true := fun y hy => by
    exact Bool.not_eq_true _ ▸ (Bool.not_eq_true' _).mp (List.mem_filter.mp hy).2
  have hkept : ∀ (k : List Xlat), (∀ y ∈ k, y ∈ rest) →
      (k ++ [x]).find? (fun y => y.vint == x.vint && y.page == x.page) = some x := fun k hk => by
    rw [List.find?_append, List.find?_eq_none.mpr fun y hy => hrest y (hk y hy)]
    simp
  simp only [addXlat]
  split
  · exact hkept rest fun _ hy => hy
  · exact hkept _ fun _ hy => List.mem_of_mem_eraseIdx hy

/-- The agent's translation is one of the page asked for. -/
theorem agentLook_names {s : State} {p : Part} {band : Nat} {v : BitVec 32} {page : Nat} {x : Xlat}
    (h : s.agentLook p band v page = some x) : x.vint = v ∧ x.page = page := by
  unfold State.agentLook at h
  split at h
  · rename_i y hfind
    obtain rfl := Option.some.inj h
    simpa using List.find?_some hfind
  · split at h
    · obtain rfl := Option.some.inj h
      exact ⟨rfl, rfl⟩
    · cases h

/-- A core caches the translation put into its table. -/
theorem cached_addXlat (c : Core) (size draw : Nat) {x : Xlat} {v : BitVec 32} {page : Nat} (hv : x.vint = v) (hp : x.page = page) :
    { c with xlat := addXlat size draw x c.xlat }.cached v page = some ⟨x.ppa, x.rd, x.wr, x.ex⟩ := by
  subst hv hp
  exact congrArg (Option.map _) (find?_addXlat size draw x c.xlat)

/-- A translation changes the agent's table and the core's, and nothing that a task sees. -/
theorem translationMiss_caches {s : State} {site page : Nat} {p : Part} {v : BitVec 32} {x : Xlat} {u : State}
    (hp : s.partAt site = some p) (hv : (s.core site).vintages = [v])
    (hu : u = if (s.band (bandOf site)).agent.any fun y => y.vint == v && y.page == page then s else s.readWalk p v page)
    (hx : u.agentLook p (bandOf site) v page = some x) :
    answers (exec (.translationMiss site page) s) fun t =>
      (t.core site).cached v page = some ⟨x.ppa, x.rd, x.wr, x.ex⟩ ∧ t.mem = u.mem ∧ ∀ n, t.ctx site n = u.ctx site n := by
  obtain ⟨hvint, hpage⟩ := agentLook_names hx
  let u1 := u.setBand (bandOf site) { u.band (bandOf site) with agent := addXlat 4096 u.tick x (u.band (bandOf site)).agent }
  let fill := fun (c : Core) => { c with xlat := addXlat 64 u.tick x c.xlat }
  refine ⟨u1.updCore site fill, ?_, ?_, rfl, fun n => ?_⟩
  · simp only [exec_translationMiss, execTranslationMiss, hp, hv, List.foldl, ← hu, hx]
    rfl
  · rw [State.updCore, State.core_setCore_same]
    exact cached_addXlat _ 64 u.tick hvint hpage
  · rw [State.ctx, State.updCore, State.core_setCore_same]
    rfl

theorem writeQueueDrain_sends {s : State} {site ctx : Nat} {e : WqEntry} {p : Part}
    (he : List.find? (fun (e : WqEntry) => e.ctx == ctx && !e.sent) (s.core site).wq = some e) (hp : s.partAt site = some p)
    (hsend : s.coreCanSend site (p.slotEp e.line) = true) :
    exec (.writeQueueDrain site ctx) s
      = .next ((s.setCore site { s.core site with
          wq := (s.core site).wq.map fun x => if x = e then { x with sent := true } else x }).sendFromCore
        site (p.slotEp e.line) ctx (e.ids.headD 0) 0 e.vint (.store (.rim e.line) e.data e.mask)) := by
  simp only [exec_writeQueueDrain, execWriteQueueDrain, he, hp, hsend, Bool.not_true, Bool.false_eq_true, if_false]

/-! ## Suspension points and conversion -/

/-- A yield that traps gives back the entry kept for it. -/
def giveBack (site ctx : Nat) (q : SuspKind) (t : State) : State :=
  match q with
  | .yields _ => t.unreserve site ctx
  | _ => t

section
variable {s : State} {site ctx : Nat} {q : SuspKind} (hold : (s.ctx site ctx).hold = .suspending q)
  (hends : ∀ a b d e f, q ≠ .ending a b d e f) (hocc : (s.ctx site ctx).occ = .running) (hquiet : s.quiet site ctx = true)
include hold hends hocc hquiet

/-- A suspension point of a task that goes on: its posted fault first, then an observed abort, else the record is written. -/
theorem suspensionPoint_going : exec (.suspensionPoint site ctx) s
    = match (s.ctx site ctx).oldestPosted fun _ => true with
      | some f => .next (giveBack site ctx q ((s.setCtx site ctx { s.ctx site ctx with
          hold := .none, posted := (s.ctx site ctx).posted.erase f }).trapAt site ctx f.cause f.faddr f.fstep))
      | none =>
        if (s.ctx site ctx).abortMask ≠ 0 then
          .next (giveBack site ctx q ((s.setCtx site ctx ({ s.ctx site ctx with hold := .none } : Ctx).abortRaised).trapAt
            site ctx causeCopyAbort 0 0))
        else .next ((((((s.deliveryPoint site ctx).endStreams site ctx).releaseTiles site ctx).detachCopies site ctx).wakeImages
          site).writeBack site ctx q) := by
  have hgo : ¬((s.ctx site ctx).occ ≠ .running ∨ (!s.quiet site ctx) = true) := by simp [hocc, hquiet]
  rw [exec_suspensionPoint, execSuspensionPoint]
  cases q with
  | ending a b d e f => exact absurd rfl (hends a b d e f)
  | suspend pc | yields pc | exit st | convert =>
    simp only [hold, if_neg hgo, Bool.false_eq_true, if_false, bne_iff_ne, Bool.not_false, Bool.true_and] <;> rfl

end

theorem suspensionPoint_ending {s s0 : State} {site ctx : Nat} {a : Bool} {b : BitVec 5} {d e : Addr} {f : BitVec 32}
    (hold : (s.ctx site ctx).hold = .suspending (.ending a b d e f)) (hs0 : s0 = s.discardTiles site ctx)
    (hold0 : (s0.ctx site ctx).hold = .suspending (.ending a b d e f)) (hocc : (s0.ctx site ctx).occ = .running)
    (hquiet : s0.quiet site ctx = true) :
    exec (.suspensionPoint site ctx) s
      = .next ((((((s0.deliveryPoint site ctx).endStreams site ctx).releaseTiles site ctx).detachCopies site ctx).wakeImages
          site).writeBack site ctx (.ending a b d e f)) := by
  have hgo : ¬((s0.ctx site ctx).occ ≠ .running ∨ (!s0.quiet site ctx) = true) := by simp [hocc, hquiet]
  rw [exec_suspensionPoint, execSuspensionPoint]
  simp only [hold, ← hs0, hold0, if_neg hgo, if_true, Bool.not_true, Bool.false_and, Bool.false_eq_true, if_false]

section
variable {s : State} {site ctx : Nat} {p : Part} {w : Await} {slot : Nat} (hp : s.partAt site = some p)
  (hstall : (s.ctx site ctx).stall = some w) (hslot : p.freeSlot (s.lcn site) = some slot) (hocc : (s.ctx site ctx).occ = .running)
  (hissues : (s.ctx site ctx).issues = true) (hgroup : (s.ctx site ctx).inGroup = false) (htask : (s.ctx site ctx).task ≠ 0)
  (hquiet : s.quiet site ctx = true)
include hp hstall hslot hocc hissues hgroup htask hquiet

/-- A stalled task's posted fault first, then an observed abort, else its context is saved and its record written. -/
theorem stallConversion_stalled : exec (.stallConversion site ctx) s
    = match (s.ctx site ctx).oldestPosted fun _ => true with
      | some f => .next ((s.setCtx site ctx { s.ctx site ctx with posted := (s.ctx site ctx).posted.erase f }).trapAt
          site ctx f.cause f.faddr f.fstep)
      | none =>
        if (s.ctx site ctx).abortMask ≠ 0 then
          .next ((s.setCtx site ctx (s.ctx site ctx).abortRaised).trapAt site ctx causeCopyAbort 0 0)
        else .next (((((s.deliveryPoint site ctx).updCtx site ctx Ctx.drainScalar).saveImage site ctx slot .continuation).updCore
          site fun y => { y with tiles := y.tiles.map fun t => { t with
            waiters := t.waiters.filter (· != ctx) } }).writeBack site ctx .convert) := by
  have hgo : ¬((s.ctx site ctx).occ ≠ .running ∨ (!(s.ctx site ctx).issues) = true ∨ (s.ctx site ctx).inGroup = true
      ∨ (s.ctx site ctx).task = 0 ∨ (!s.quiet site ctx) = true) := by
    rw [not_or, not_or, not_or, not_or]
    exact ⟨not_not.mpr hocc, by simp [hissues], by simp [hgroup], htask, by simp [hquiet]⟩
  rw [exec_stallConversion, execStallConversion]
  simp only [hp, hstall, hslot, if_neg hgo] <;> rfl

end

/-! ## Pre-emption and images -/

theorem imageRestore_restores {s : State} {site slot : Nat} {p : Part} {i : Image} {n : Nat} {la : Launch}
    (hp : s.partAt site = some p) (hl : s.lcnOf site ≠ none)
    (hi : List.find? (fun (i : Image) => i.slot == slot) (p.imagesOf (s.lcn site)) = some i) (hn : (s.core site).idleCtx = some n)
    (hla : p.launch? i.c.vintage = some la)
    (hgo : i.kind = .preempted ∧ la.places ∧ (s.core site).budget la i.c.region.toNat none ∧ !(s.core site).fenced
      ∧ !(s.core site).drained ∧ !(s.core site).stopped) :
    exec (.imageRestore site slot) s = .next (s.restoreImage site n i) := by
  obtain ⟨l, hsome⟩ := Option.ne_none_iff_exists'.mp hl
  have hlcn : s.lcn site = l := by rw [State.lcn, hsome]; rfl
  rw [hlcn] at hi
  simp only [exec_imageRestore, execImageRestore, hp, hsome, hi, hn, hla, if_pos hgo]

theorem preemptionRequest_reserves {s : State} {part dist : Nat} {p : Part} {e : PoolEntry} {es : List PoolEntry} {y l n r : Nat}
    (hp : s.part? part = some p) (hfree : (p.pool dist).preempt = none) (hes : (p.pool dist).entries = e :: es)
    (hkept : s.keptFor (p.pool dist) e = false) (hbest : bestVictim (s.victims p dist e) = some (y, l, n, r)) :
    exec (.preemptionRequest part dist) s = .next ((s.setPart part
      (p.setPool dist { ((p.pool dist).reserve e.seq y n) with preempt := some (y, n) })).due (.preemption y n)) := by
  simp only [exec_preemptionRequest, execPreemptionRequest, hp, hfree, hes, hkept, hbest, Bool.false_eq_true, if_false]

/-- Settles O44: the equation of each event under its conditions. -/
theorem coreEventsFollowTheirRules : Obligations.CoreEventsFollowTheirRules := by
  intro s site ctx
  refine ⟨scalarResultReady_due, fun _ => rfl, fun page p v x hp hv hx => translationMiss_caches hp hv rfl hx,
    fun e p => writeQueueDrain_sends, fun q hold hends hocc hquiet => ?_, fun a b d e f hold hold0 hocc hquiet =>
      suspensionPoint_ending hold rfl hold0 hocc hquiet,
    fun p w slot hp hstall hslot hocc hissues hgroup htask hquiet => ?_,
    fun p slot i n la hp hl hi hn hla hkind hplaces hbudget hfenced hdrained hstopped =>
      imageRestore_restores hp hl hi hn hla ⟨hkind, hplaces, hbudget, by simp [hfenced], by simp [hdrained], by simp [hstopped]⟩,
    fun part dist p e es y l n r => preemptionRequest_reserves,
    fun p l slot e hp hl hpre hocc hld hst hhints hhold hvq hrows htiles hposted hslot he => ?_⟩
  · have hgoing := suspensionPoint_going hold hends hocc hquiet
    refine ⟨fun f hf => ?_, fun hf habort => ?_, fun hf habort => ?_⟩
    · rw [hgoing, hf]
      rfl
    · rw [hgoing, hf]
      exact if_pos habort
    · rw [hgoing, hf]
      exact if_neg (not_not.mpr habort)
  · have hgoing := stallConversion_stalled hp hstall hslot hocc hissues hgroup htask hquiet
    refine ⟨fun f hf => ?_, fun hf habort => ?_, fun hf habort => ?_⟩
    · rw [hgoing, hf]
    · rw [hgoing, hf]
      exact if_pos habort
    · rw [hgoing, hf]
      exact if_neg (not_not.mpr habort)
  · have hgo : ¬((s.ctx site ctx).ld ≠ 0 ∨ (s.ctx site ctx).st ≠ 0 ∨ (s.ctx site ctx).hints.isSome ∨ (s.ctx site ctx).hold ≠ .none
        ∨ (s.core site).vq.any (fun e => e.ctx == ctx) ∨ (s.core site).rowsOut ctx ∨ !(s.core site).canStopTiles ctx) := by
      simp [hld, hst, hhints, hhold, hvq, hrows, htiles]
    have hrun : ¬(s.ctx site ctx).occ ≠ .running := not_not.mpr hocc
    refine ⟨fun hel => ?_, fun hel => ?_⟩
    · simp only [exec_preemption, execPreemption, hp, hl, hpre, ne_eq, not_true, if_false, if_neg hrun, if_neg hgo, hposted, hslot, he]
      exact if_pos hel
    · simp only [exec_preemption, execPreemption, hp, hl, hpre, ne_eq, not_true, if_false, if_neg hrun, if_neg hgo, hposted, hslot, he]
      exact if_neg (by simpa using hel)

end Sys2Proof.CoreEvents
end
